-- ==== Sys2Proof/Word.lean ====
section
/-! DEFINITION. The word types of the model and the two container synonyms (sparse memory and sparse tables). -/
namespace Sys2Proof

/-- A byte. -/
abbrev Byte := BitVec 8
/-- 16-bit word (source identifiers, counts of records). -/
abbrev W16 := BitVec 16
/-- 32-bit word (sheaf registers, most control-space registers). -/
abbrev W32 := BitVec 32
/-- 64-bit word (instruction words, counters, addresses, time-base readings). -/
abbrev W64 := BitVec 64
/-- 128-bit word (AES blocks, 128-bit loads). -/
abbrev W128 := BitVec 128
/-- 256-bit word (keys, digests, granary words). -/
abbrev W256 := BitVec 256
/-- 512-bit word (a descriptor, a flit or a burst as one number, byte 0 lowest: R8). -/
abbrev W512 := BitVec 512

/-- A sparse table: index and value, indexes strictly rising, no entry equal to the table's default. -/
abbrev Tab (α : Type) := List (Nat × α)
/-- Sparse memory: address and byte, addresses strictly rising, no zero byte listed (R302, R322: an unwritten byte reads zero). -/
abbrev Mem := Tab Byte

end Sys2Proof
end

