-- ==== Sys2Proof/Syntax.lean ====
section
/-! DEFINITION. The commands of the block: one constructor per row of spec/opcode_table.json, in the table's order, with the
operands that the row's rule names. An operand `q c` names physical core Qn.Cc, `sl` a sheaf slot, `st` a stook slot, `h` the granary half
2n + h, `l` a link in the order of Table 1-6, `dir` 0 forward and 1 reverse, `m ch` a stack and channel, `qu` a queue number, `p` a fabric
port (8 the management port), `w ext` the instruction word that the instruction cache delivered to the sheaf and the word after it
(bits 11:0 of `w`, FMT and OP, are those of the row: a word's other bits are the operand). Readings of the physical world
(temperatures, voltages, error patterns of stored bits) are operands. -/
namespace Sys2Proof

/-- What the networks offer to a transmitter of a substrate link (R261): a bulk packet between two assemblies with the launch that issued it, a control
message of 64 bytes, or a BOUNCE of 128, a synchronisation operation of a source on a flag of a quarter's store, or an acknowledgment of a group of the
other direction. -/
inductive Offer where
  | packet (src dest launch : Nat) (flits : List (BitVec 512))
  | message (msg : List (BitVec 8))
  | flagOp (src q flag : Nat) (op : BitVec 128)
  | ack (g : Nat)
  deriving DecidableEq, Repr

/-- The commands of opcode_table.json. -/
inductive Instr where
  /-- REGISTER_WRITE (R11). A control-space write to a register that has no row of its own stores, sets, clears or ignores bits according to its access type. -/
  | registerWrite (off width : Nat) (v : BitVec 64)
  /-- OS_CORE_ACCESS (R17). An OS core load or store reaches LPDDR, the granary, tilth, hub SRAM, control space or the guest window through the physical address map. -/
  | osCoreAccess (core : Nat) (write : Bool) (addr width : Nat) (v : BitVec 512) (err : BitVec 78)
  /-- MB_DOORBELL (R344). A doorbell write offers request slots to a queue; it is checked, the descriptors are copied into the accepted-command store, and an acknowledgment entry is written. Bits 63:0 of `v` are the value; 64 and 65 say which copy of the first descriptor becomes uncorrectable (R364). -/
  | mbDoorbell (mb : Nat) (v : BitVec 66)
  /-- MB_ACK_HEAD_WRITE (R340). The submitter advances the count of consumed acknowledgment entries; an out-of-range value is ignored and logged. -/
  | mbAckHeadWrite (mb : Nat) (v : BitVec 32)
  /-- MB_CPL_HEAD_WRITE (R340). The submitter advances the count of consumed admin completion records; an out-of-range value is ignored and logged. -/
  | mbCplHeadWrite (mb : Nat) (v : BitVec 32)
  /-- TIN_MINV_STAMP_READ (R420). A read returns a domain's minimum-voltage record and then clears it. -/
  | tinMinvStampRead (q d : Nat)
  /-- AISSUE (R178). The instruction checks an array command descriptor and places it in the array queue, or waits while the queue is full. -/
  | aissue (q c sl : Nat) (w ext : BitVec 64)
  /-- ARRAY_QUEUE_ROOM (R49). An issue that waited on a full array queue enters it once a command leaves the queue. -/
  | arrayQueueRoom (q c : Nat)
  /-- AWAIT (R179). The instruction returns the first word of a status record once the record's DONE bit is set. -/
  | await (q c sl : Nat) (w ext : BitVec 64)
  /-- AQUERY (R180). The instruction returns the array queue depth, the mapped-out flag and ks. -/
  | aquery (q c sl : Nat) (w ext : BitVec 64)
  /-- ARRAY_COMMAND_START (R57). A queued array command reaches the head of the queue and starts filling, after the continuation check. -/
  | arrayCommandStart (q c : Nat)
  /-- ARRAY_TILE_END (R43). The last product of a tile is added; the accumulator banks swap and the completed bank begins to drain. -/
  | arrayTileEnd (q c : Nat)
  /-- ARRAY_COMMAND_DONE (R56). An array command ends; it writes its status record and then sets DONE. -/
  | arrayCommandDone (q c : Nat)
  /-- RING_SLOT_FORWARD (R61). A completed ring slot whose VISITS exceeds 1 is sent to the successor core with VISITS lowered by 1. -/
  | ringSlotForward (q c i : Nat)
  /-- RING_PANEL_ACCEPT (R62). An inbound panel enters a free slot of the queued command whose TAG matches it, once such a slot exists. -/
  | ringPanelAccept (q c : Nat)
  /-- RING_TIMEOUT (R63). A ring-fed command that has waited 100 µs for a slot or for a forward to be accepted ends with RING_TIMEOUT, and its slots are flushed. -/
  | ringTimeout (q c : Nat) (outbound : Bool)
  /-- ARRAY_FAULT (R69). A furrow that completes no handshake for 10 µs while operands are ready raises an array fault, and the core is reset. -/
  | arrayFault (q c furrow : Nat)
  /-- SELF_TEST_START (R70). The array self-test starts when its interval has expired and the array queue is empty. -/
  | selfTestStart (q c : Nat)
  /-- SELF_TEST_RESULT (R71). The self-test completes, and its result returns the core to service, maps out up to 8 rows, or fences the core. -/
  | selfTestResult (q c : Nat) (rows : List Nat) (other : Bool)
  /-- STOOK_START (R106). A waiting stook at the head of the core's queue starts once all its resources are free, and its sheaves begin. -/
  | stookStart (q c : Nat)
  /-- STOOK_END (R110). A stook ends once every sheaf has exited and all its array commands, bulk operations and samples are complete; its resources are then freed. -/
  | stookEnd (q c st : Nat)
  /-- FAULT_RESOLVE (R148). Pelseso takes a fault record and either replays the sheaf or kills the stook, according to the cause. -/
  | faultResolve (q c sl : Nat)
  /-- STOOK_WATCHDOG (R146). STOOK_LIMIT expires, and every sheaf of the stook that has not ended faults with WATCHDOG. -/
  | stookWatchdog (q c st : Nat)
  /-- LOCK_TIMEOUT (R137). A lane that has waited LOCK_TIMEOUT for a lock faults with LOCK_TIMEOUT. -/
  | lockTimeout (q c sl : Nat)
  /-- LOCK_REPOLL (R136). A sheaf waiting on a lock that gets no wake event retries the acquire 512 steps after its failed attempt. -/
  | lockRepoll (q c sl : Nat)
  /-- LOAD_DATA_RETURN (R145). The data of a global or scratch load arrives in the destination register: bits 71:0 of `err` are the
  wrong bits of the stored word and 77:72 the wrong copies of its state bits; bits 92:78 name the register (85:78) and lane (90:86) whose cell then
  fails its parity check, and how many reads of it fail (92:91), none when zero (R143); 131:93 are the wrong bits of an entry of the slot state. -/
  | loadDataReturn (q c sl ld : Nat) (err : BitVec 132)
  /-- ADD (R165). The instruction adds its operands. -/
  | add (q c sl : Nat) (w ext : BitVec 64)
  /-- SUB (R165). The instruction subtracts its operands. -/
  | sub (q c sl : Nat) (w ext : BitVec 64)
  /-- MUL (R165). The instruction multiplies its operands and keeps the low half of an integer product. -/
  | mul (q c sl : Nat) (w ext : BitVec 64)
  /-- MULHI (R165). The instruction returns the high half of an integer product. -/
  | mulhi (q c sl : Nat) (w ext : BitVec 64)
  /-- MAD (R165). The instruction forms SA × SB + SC; a floating result is fused with one rounding. -/
  | mad (q c sl : Nat) (w ext : BitVec 64)
  /-- MIN (R165). The instruction returns the smaller of its operands. -/
  | min (q c sl : Nat) (w ext : BitVec 64)
  /-- MAX (R165). The instruction returns the larger of its operands. -/
  | max (q c sl : Nat) (w ext : BitVec 64)
  /-- ABS (R165). The instruction returns the absolute value of its operand. -/
  | abs (q c sl : Nat) (w ext : BitVec 64)
  /-- NEG (R165). The instruction negates its operand. -/
  | neg (q c sl : Nat) (w ext : BitVec 64)
  /-- DIV (R165). The instruction divides its operands. -/
  | div (q c sl : Nat) (w ext : BitVec 64)
  /-- REM (R165). The instruction returns the remainder, whose sign follows the dividend. -/
  | rem (q c sl : Nat) (w ext : BitVec 64)
  /-- SQRT (R165). The instruction returns the correctly rounded square root. -/
  | sqrt (q c sl : Nat) (w ext : BitVec 64)
  /-- RCP (R165). The instruction returns an approximate reciprocal. -/
  | rcp (q c sl : Nat) (w ext : BitVec 64)
  /-- RSQRT (R165). The instruction returns an approximate reciprocal square root. -/
  | rsqrt (q c sl : Nat) (w ext : BitVec 64)
  /-- EXP2 (R165). The instruction returns an approximate base-2 exponential. -/
  | exp2 (q c sl : Nat) (w ext : BitVec 64)
  /-- LOG2 (R165). The instruction returns an approximate base-2 logarithm. -/
  | log2 (q c sl : Nat) (w ext : BitVec 64)
  /-- SIN (R165). The instruction returns an approximate sine. -/
  | sin (q c sl : Nat) (w ext : BitVec 64)
  /-- COS (R165). The instruction returns an approximate cosine. -/
  | cos (q c sl : Nat) (w ext : BitVec 64)
  /-- AND (R165). The instruction returns the bitwise and of its operands. -/
  | and (q c sl : Nat) (w ext : BitVec 64)
  /-- OR (R165). The instruction returns the bitwise or of its operands. -/
  | or (q c sl : Nat) (w ext : BitVec 64)
  /-- XOR (R165). The instruction returns the bitwise exclusive-or of its operands. -/
  | xor (q c sl : Nat) (w ext : BitVec 64)
  /-- NOT (R165). The instruction returns the bitwise complement of its operand. -/
  | not (q c sl : Nat) (w ext : BitVec 64)
  /-- SHL (R165). The instruction shifts left by the count modulo the width. -/
  | shl (q c sl : Nat) (w ext : BitVec 64)
  /-- SHR (R165). The instruction shifts right, arithmetically for signed types and logically otherwise. -/
  | shr (q c sl : Nat) (w ext : BitVec 64)
  /-- ROTL (R165). The instruction rotates left by the count modulo the width. -/
  | rotl (q c sl : Nat) (w ext : BitVec 64)
  /-- POPC (R165). The instruction counts the set bits of its operand. -/
  | popc (q c sl : Nat) (w ext : BitVec 64)
  /-- CLZ (R165). The instruction counts the leading zeros of its operand. -/
  | clz (q c sl : Nat) (w ext : BitVec 64)
  /-- SEL (R165). The instruction selects SA or SB in each lane according to a predicate. -/
  | sel (q c sl : Nat) (w ext : BitVec 64)
  /-- SETP (R158). The instruction compares per lane and writes the result to the executing lanes' predicate bits. -/
  | setp (q c sl : Nat) (w ext : BitVec 64)
  /-- CVT (R166). The instruction converts between types under the rounding mode, stochastic rounding included, that MOD selects. -/
  | cvt (q c sl : Nat) (w ext : BitVec 64)
  /-- MOV (R165). The instruction copies its operand's bits. -/
  | mov (q c sl : Nat) (w ext : BitVec 64)
  /-- SHFL (R165). Each lane receives SA from the lane that SB names. -/
  | shfl (q c sl : Nat) (w ext : BitVec 64)
  /-- REDU (R165). The instruction reduces a value over the executing lanes into a u register. -/
  | redu (q c sl : Nat) (w ext : BitVec 64)
  /-- VOTE (R165). The instruction writes ANY, ALL or BALLOT of a predicate over the executing lanes to a u register. -/
  | vote (q c sl : Nat) (w ext : BitVec 64)
  /-- LD (R168). The instruction loads SIZE bytes per executing lane from scratch or global memory. -/
  | ld (q c sl : Nat) (w ext : BitVec 64)
  /-- ST (R168). The instruction stores SIZE bytes per executing lane to scratch or global memory. -/
  | st (q c sl : Nat) (w ext : BitVec 64)
  /-- PFS (R171). The bulk operation copies LEN bytes from global memory into the stook's scratch. -/
  | pfs (q c sl : Nat) (w ext : BitVec 64)
  /-- PWB (R171). The bulk operation copies LEN bytes from the stook's scratch to global memory. -/
  | pwb (q c sl : Nat) (w ext : BitVec 64)
  /-- PFR (R173). The bulk operation prefetches one weight panel into a ring slot of the ring-fed command whose TAG it names. -/
  | pfr (q c sl : Nat) (w ext : BitVec 64)
  /-- PFR_BIND (R173). A waiting PFR binds once the ring-fed command with its TAG is queued, claims a slot, copies the panel and writes the header. -/
  | pfrBind (q c i : Nat)
  /-- BULK_OP_START (R250). The bulk engine begins the next bulk operation in issue order once the previous one has issued its last request. -/
  | bulkOpStart (q c : Nat)
  /-- BULK_OP_COMPLETE (R172). A bulk operation writes its last byte and stops counting as an outstanding memory instruction. -/
  | bulkOpComplete (q c i : Nat)
  /-- BRA (R174). The instruction branches the lanes whose predicate holds and reconverges at RECONV. -/
  | bra (q c sl : Nat) (w ext : BitVec 64)
  /-- JMP (R174). The instruction moves every active lane to TARGET. -/
  | jmp (q c sl : Nat) (w ext : BitVec 64)
  /-- CALL (R174). The instruction writes the link pair u62:u63 and jumps to TARGET. -/
  | call (q c sl : Nat) (w ext : BitVec 64)
  /-- JMPR (R174). The instruction jumps to the address held in a u register pair. -/
  | jmpr (q c sl : Nat) (w ext : BitVec 64)
  /-- RET (R174). The instruction jumps to the address in u62:u63. -/
  | ret (q c sl : Nat) (w ext : BitVec 64)
  /-- EXIT (R175). The instruction ends every executing lane. -/
  | exit (q c sl : Nat) (w ext : BitVec 64)
  /-- ATOM_ADD (R181). The instruction performs an atomic add, coalesced across lanes that name one word. -/
  | atomAdd (q c sl : Nat) (w ext : BitVec 64)
  /-- ATOM_MIN (R181). The instruction performs an atomic minimum. -/
  | atomMin (q c sl : Nat) (w ext : BitVec 64)
  /-- ATOM_MAX (R181). The instruction performs an atomic maximum. -/
  | atomMax (q c sl : Nat) (w ext : BitVec 64)
  /-- ATOM_AND (R181). The instruction performs an atomic and. -/
  | atomAnd (q c sl : Nat) (w ext : BitVec 64)
  /-- ATOM_OR (R181). The instruction performs an atomic or. -/
  | atomOr (q c sl : Nat) (w ext : BitVec 64)
  /-- ATOM_XOR (R181). The instruction performs an atomic exclusive-or. -/
  | atomXor (q c sl : Nat) (w ext : BitVec 64)
  /-- ATOM_XCHG (R181). The instruction exchanges the word, serving the lanes one at a time in ascending order. -/
  | atomXchg (q c sl : Nat) (w ext : BitVec 64)
  /-- ATOM_CAS (R181). The instruction compares the word's bits with SA and writes SB on a match. -/
  | atomCas (q c sl : Nat) (w ext : BitVec 64)
  /-- LOCK_ACQ (R134). The instruction tries to acquire lock words per lane, and splits the sheaf when only some lanes acquire. -/
  | lockAcq (q c sl : Nat) (w ext : BitVec 64)
  /-- LOCK_REL (R138). The instruction releases a lock held by the lane, after a release fence, and wakes waiters. -/
  | lockRel (q c sl : Nat) (w ext : BitVec 64)
  /-- BAR (R140). The sheaf arrives at a stook barrier; the last arrival completes it and releases every sheaf. -/
  | bar (q c sl : Nat) (w ext : BitVec 64)
  /-- FLAG_SET (R184). The instruction writes a synchronisation flag; the home store applies it and wakes waits whose thresholds are met. -/
  | flagSet (q c sl : Nat) (w ext : BitVec 64)
  /-- FLAG_ADD (R184). The instruction adds to a synchronisation flag with wrap, and waits whose thresholds are met are woken. -/
  | flagAdd (q c sl : Nat) (w ext : BitVec 64)
  /-- FLAG_WAIT (R280). The instruction registers a wait for a flag to reach a threshold, which completes at once when the threshold is already met. -/
  | flagWait (q c sl : Nat) (w ext : BitVec 64)
  /-- NOP (R185). The instruction does nothing for one step. -/
  | nop (q c sl : Nat) (w ext : BitVec 64)
  /-- FENCE (R124). The instruction applies a STOOK, CORE or MODULE fence of release, acquire or acquire-release kind. -/
  | fence (q c sl : Nat) (w ext : BitVec 64)
  /-- INVAL (R125). The instruction removes tilth cache lines that overlap a byte range. -/
  | inval (q c sl : Nat) (w ext : BitVec 64)
  /-- RND_U32 (R186). The instruction writes 32 random bits per lane from a context or launch stream. -/
  | rndU32 (q c sl : Nat) (w ext : BitVec 64)
  /-- RND_F32 (R186). The instruction writes a random value in [0, 1) per lane from a context or launch stream. -/
  | rndF32 (q c sl : Nat) (w ext : BitVec 64)
  /-- SAMPLE (R187). The instruction checks a sample descriptor and passes it to the sampler queue. -/
  | sample (q c sl : Nat) (w ext : BitVec 64)
  /-- ROLE (R188). The instruction returns the core's role code and role epoch. -/
  | role (q c sl : Nat) (w ext : BitVec 64)
  /-- STAMP (R188). The instruction returns the 64-bit time base. -/
  | stamp (q c sl : Nat) (w ext : BitVec 64)
  /-- SAMPLE_SERVICE (R206). The sampler takes the next descriptor, reads the row, chooses an index, writes the result record and delivers the result word. -/
  | sampleService (q c : Nat)
  /-- ROW_TIMEOUT (R208). A sampler row read that has not completed within 100 µs ends the sample with ROW_TIMEOUT. -/
  | rowTimeout (q c : Nat)
  /-- ROUNDING_KEY_FETCH (R195). The seedbox requests a new rounding key before its counter reaches 2^48 blocks, or at a core reset or wake. -/
  | roundingKeyFetch (q c : Nat)
  /-- KEY_DELIVERY (R195). The security engine answers a key request, and the seedbox installs the key. -/
  | keyDelivery (q c : Nat) (launch : Option Nat)
  /-- KEY_REQUEST_TIMEOUT (R196). A key request unanswered within 20 µs fails; the core or the launch is then refused and an alarm is raised. -/
  | keyRequestTimeout (q c : Nat) (launch : Option Nat)
  /-- ROUNDING_KEY_RETRY (R196). Pelseso retries a core's failed rounding key every 1 ms. -/
  | roundingKeyRetry (q c : Nat)
  /-- GRANARY_READ (R215). A read reaches its home half and hits, merges, or misses and allocates a fill. -/
  | granaryRead (h i : Nat) (e0 e1 : BitVec 354)
  /-- GRANARY_STORE (R224). A store reaches its home half and is written, or installs or fetches its line, and is acknowledged. -/
  | granaryStore (h i : Nat)
  /-- FILL_RETURN (R225). A fill's data returns from LPDDR; a victim is chosen and the line is installed. -/
  | fillReturn (h i : Nat)
  /-- FILL_RESUME (R226). A waiting fill proceeds once a way of its set becomes eligible. -/
  | fillResume (h i : Nat)
  /-- REDUCTION_ADMIT (R234). The reduction unit admits a waiting atomic operation to a bank once the bank's admitted work allows it. -/
  | reductionAdmit (h i : Nat)
  /-- REDUCTION_COMPLETE (R234). An admitted reduction completes, returns its value and lowers the line's reduction count. -/
  | reductionComplete (h i : Nat)
  /-- MERGE_ENTRY_EXPIRE (R237). A merge buffer entry leaves the buffer 32 steps after its latest delivery. -/
  | mergeEntryExpire (h i : Nat)
  /-- GRANARY_CARVE (R220). The command sets P, LIMIT and GRN_THRASH_CFG of a half and starts the carve walk. -/
  | granaryCarve (qu : Nat)
  /-- CARVE_WALK_SET (R220). The carve walk reaches a set, moves its pinned lines, writes back and drops its other lines, and spills its shadows. -/
  | carveWalkSet (h : Nat)
  /-- PLOT_CREATE (R218). The command creates a plot in a half's plot region that reads as zero. -/
  | plotCreate (qu : Nat)
  /-- PLOT_DELETE (R218). The command deletes an unmapped plot and discards its contents. -/
  | plotDelete (qu : Nat)
  /-- GRANARY_PIN (R228). The command checks a pin request and passes it to the pin engines of the halves it covers. -/
  | granaryPin (qu : Nat)
  /-- PIN_ENGINE_REQUEST (R228). A half's pin engine takes the next pin, unpin or release, counts against LIMIT, reserves or fails, and marks and fills lines. -/
  | pinEngineRequest (h : Nat)
  /-- PIN_COMPLETE (R228). Every line of a pin is resident and marked, and the pin command completes. -/
  | pinComplete (pin : Nat)
  /-- GRANARY_UNPIN (R229). The command clears a pin's marks and releases its reservations. -/
  | granaryUnpin (qu : Nat)
  /-- THRASH_WINDOW_END (R230). A half's thrash window ends; the hit rate is compared and a thrash event may be raised. -/
  | thrashWindowEnd (h : Nat)
  /-- THRASH_EVENT (R231). Pelseso receives a thrash event and releases the eligible pin of lowest priority, or logs the event. -/
  | thrashEvent (h : Nat)
  /-- TILTH_SPLIT_CHANGE (R243). A drained core changes its scratchpad and cache split, invalidates its cache and clears its scratch. -/
  | tilthSplitChange (q c units : Nat)
  /-- FLIT_RECEIVE (R259). A substrate-link receiver takes a flit whole and checks its CRC. -/
  | flitReceive (l dir g : Nat) (offers : List Offer) (wire : BitVec 528)
  /-- REPLAY_REQUEST (R260). A transmitter receives a replay request and resends from the failed flit. -/
  | replayRequest (l dir g seq : Nat)
  /-- LINK_ACK (R260). A transmitter receives an acknowledgment link-control flit and frees its replay buffer. -/
  | linkAck (l dir g seq : Nat)
  /-- MARGIN_MEASURE (R262). Every 10 ms a receiver measures the margin of every lane and acts on the lane conditions. -/
  | marginMeasure (l dir g : Nat) (margins : List Nat)
  /-- GROUP_STOP (R264). A retiring group stops after its flits are acknowledged or replayed, and its control pairs move to other groups. -/
  | groupStop (l dir g : Nat)
  /-- LINK_ABANDON (R265). 10 µs after link-down, every unacknowledged flit is abandoned, bulk requests are reported as faults, and control messages bounce. -/
  | linkAbandon (l : Nat)
  /-- ROUTE_CHANGE (R269). Routes move to the next path once each pair's packets on the old path are delivered or abandoned. -/
  | routeChange (a b : Nat)
  /-- CONTROL_MESSAGE (R273). A control message reaches the head of an inbox, is checked against role and epoch, and either runs or bounces. -/
  | controlMessage (dest : Nat) (msg : List (BitVec 8))
  /-- BOUNCE (R273). A bounced message returns to its sender's return queue, and the sender handles or reports it. -/
  | bounce (sender : Nat)
  /-- ROLE_SET (R274). The message sets a unit's role and epoch when it reaches the head of the inbox. -/
  | roleSet (sender dest : Nat) (role : BitVec 8)
  /-- INBOX_WAIT_TIMEOUT (R271). A message that has waited 1 ms for an inbox place returns as a bounce with reason BLOCKED. -/
  | inboxWaitTimeout (i : Nat)
  /-- MULTICAST (R275). A multicast engine accepts a message into a retry slot and sends copies to the targets with free inboxes. -/
  | multicast (q : Nat) (msg : List (BitVec 8))
  /-- MCAST_RETRY (R275). A remaining target's inbox frees an entry, and the engine sends its copy. -/
  | mcastRetry (q slot c : Nat)
  /-- MCAST_BLOCK_TIMEOUT (R276). 1 ms after acceptance, targets not yet delivered are recorded as blocked. -/
  | mcastBlockTimeout (q slot : Nat)
  /-- LAUNCH_FLAGS_FREED (R278). A launch waiting for flags starts, in wait order, once enough flags are freed. -/
  | launchFlagsFreed
  /-- VBUS_UNCORRECTABLE (R282). An uncorrectable vertical-bus beat poisons or withholds its data and fences the core, the way or the quarter.
  `at_` is the bus's index, with the half and number of the request that the beat belongs to. -/
  | vbusUncorrectable (q bus : Nat) (at_ : Nat × Option (Nat × Nat))
  /-- VBUS_CE_RATE (R284). A vertical bus that corrects more than 1,000 errors within 1 s raises an alarm. -/
  | vbusCeRate (q bus i n : Nat)
  /-- GUEST_VERSION_EXCHANGE (R286). After training, the module and the guest die exchange protocol versions and use the lower. -/
  | guestVersionExchange (v : Nat)
  /-- GUEST_FLIT (R287). A guest-port flit is received; one that fails its CRC or is out of sequence is discarded. -/
  | guestFlit (flit : List (BitVec 8))
  /-- GUEST_REPLAY_TIMER (R287). ACK unchanged for 1 µs with flits outstanding makes the transmitter replay from ACK + 1. -/
  | guestReplayTimer
  /-- GUEST_CRC_RETRAIN (R286). More than 16 CRC failures within 1 s make Pelseso retrain the guest port. -/
  | guestCrcRetrain (i : Nat)
  /-- GUEST_REQUEST (R289). The hedgerow checks a guest request against the rules and translates it, or answers ERROR. -/
  | guestRequest (flit : List (BitVec 8))
  /-- GUEST_RESPONSE (R290). The guest die answers a request from the module. -/
  | guestResponse (flit : List (BitVec 8))
  /-- GUEST_RESPONSE_TIMEOUT (R290). A request to the guest unanswered after 100 µs delivers poison or is acknowledged, and it is counted. -/
  | guestResponseTimeout (tag : Nat)
  /-- GUEST_OVERCURRENT (R534). A guest draw above 15 A for 10 µs closes LG and removes the guest's supply. -/
  | guestOvercurrent
  /-- LPDDR_REQUEST (R307). A burst request enters the stack controller pool from a master's port. -/
  | lpddrRequest (m : Nat) (write : Bool) (master y slot : Nat) (data : BitVec 512) (poison : Bool)
  /-- CHANNEL_SLOT (R309). Before each burst slot the channel scheduler chooses a refresh or a request and issues it.
  `slot` is the channel, with the buffer levels from which the urgency wires are sampled. -/
  | channelSlot (m : Nat) (slot : Nat × List (Nat × Bool × Nat × Nat))
  /-- LPDDR_READ_RETURN (R296). Read data returns; CRC and the symbol code are checked, and the burst is corrected or poisoned. -/
  | lpddrReadReturn (m id : Nat) (err : BitVec 576)
  /-- CRC_RETRY (R297). A CRC failure on a write or a read makes the controller re-send or re-read the burst.
  `burst` is the request, with the wrong levels on the pins of its transfer. -/
  | crcRetry (m : Nat) (burst : Nat × BitVec 576)
  /-- CHANNEL_RETRAIN (R297). Repeated CRC failures or a timeout start a channel retrain, during which requests wait. -/
  | channelRetrain (m ch : Nat)
  /-- CHANNEL_RETRAIN_DONE (R299). A retrain ends; the channel returns, or it fails and raises an alarm. -/
  | channelRetrainDone (m ch : Nat) (ok : Bool)
  /-- LPDDR_REQUEST_TIMEOUT (R298). A request not completed within 100 µs is delivered poisoned or discarded, and the channel retrains. -/
  | lpddrRequestTimeout (m id : Nat)
  /-- CHANNEL_TIMING_ADJUST (R303). Every 16 ms each channel adjusts its read and write timing. -/
  | channelTimingAdjust (m ch : Nat)
  /-- REFRESH_DUE (R310). A bank's refresh interval expires, and its refresh is issued, postponed or pulled in. -/
  | refreshDue (m ch bank : Nat)
  /-- REFRESH_RATE_POLL (R310). Every 1 ms the controller reads each die's refresh-rate register. -/
  | refreshRatePoll (m die : Nat) (rate : Option Nat)
  /-- REFRESH_RATE_TIMEOUT (R310). A refresh-rate read unanswered within 10 µs sets four times the base refresh rate and raises an alarm. -/
  | refreshRateTimeout (m die : Nat)
  /-- URGENCY_WIRE_TIMEOUT (R314). An urgency wire asserted for 1 ms raises an alarm and is then ignored. -/
  | urgencyWireTimeout (q master : Nat)
  /-- STACK_TRAINING (R300). At a cold start the controller reads the stack's identity and trains its command bus and channels.
  `gen` is the identity, if one is read, with the activation thresholds of the dies. -/
  | stackTraining (m : Nat) (gen : Option (Nat × List (Nat × Nat))) (cmdOk : Bool) (eyes107 eyes96 : List (Nat × Nat × Nat))
  /-- STACK_ZERO_FILL_DONE (R302). The zero fill of a stack completes, and MEM_STATE becomes up or degraded. -/
  | stackZeroFillDone (m : Nat)
  /-- WALKER_READ (R328). A gleaner walker reads its next written, unpoisoned word and corrects or poisons it. -/
  | walkerRead (kind unit : Nat) (err : BitVec 576)
  /-- REPAIR_REWRITE (R329). A walker takes an entry from its repair queue and rewrites the corrected word. -/
  | repairRewrite (kind unit : Nat) (err : BitVec 576)
  /-- CHECKER_SELF_TEST (R332). A checker self-test drives its patterns, and a failing unit is fenced. -/
  | checkerSelfTest (kind unit : Nat) (pass : Bool)
  /-- FUSE_LOAD (R334). The fuse map and the security fuses are read in three copies and agreed, or the unit is fenced or the boot stops. -/
  | fuseLoad (unit : Nat) (a b d : List (BitVec 8))
  /-- HELLO (R347). The command negotiates a version, writes the information block and attaches the mailbox. -/
  | hello (qu : Nat)
  /-- GOODBYE (R348). The command sets the mailbox to detaching, and it becomes detached once its record is posted. -/
  | goodbye (qu : Nat)
  /-- GROUP_SET (R353). The command creates or changes a queue group and wakes cores that its wake budget requires. -/
  | groupSet (qu : Nat)
  /-- GROUP_SET_DELETE (R353). GROUP_SET with VALID = 0 deletes an empty group. -/
  | groupSetDelete (qu : Nat)
  /-- QUEUE_CREATE (R354). The command creates a work queue with its completion ring. -/
  | queueCreate (qu : Nat)
  /-- QUEUE_RESUME (R355). QUEUE_STATE with ACTION 0 resumes a paused queue. -/
  | queueResume (qu : Nat)
  /-- QUEUE_PAUSE (R355). QUEUE_STATE with ACTION 1 pauses a queue. -/
  | queuePause (qu : Nat)
  /-- QUEUE_DELETE (R355). QUEUE_STATE with ACTION 2 deletes a queue once its accepted commands have posted. -/
  | queueDelete (qu : Nat)
  /-- MAP (R356). The command enters page mappings with a traffic class into a group's address space. -/
  | map (qu : Nat)
  /-- UNMAP (R356). The command removes mappings and their translations from every core. -/
  | unmap (qu : Nat)
  /-- CONTEXT_CREATE (R358). The command creates a sequence context with its stream key and defaults. -/
  | contextCreate (qu : Nat)
  /-- CONTEXT_DESTROY (R358). The command destroys a context after earlier commands that name it have posted. -/
  | contextDestroy (qu : Nat)
  /-- CONTEXT_RESEED (R358). The command sets a new stream key and resets the counter to 0. -/
  | contextReseed (qu : Nat)
  /-- CONTEXT_QUERY (R358). The command writes a context's committed state to memory. -/
  | contextQuery (qu : Nat)
  /-- HOMING_SET (R21). The command sets a homing region to fine or quarter-local mode. -/
  | homingSet (qu : Nat)
  /-- MEM_QOS (R311). The command sets master shares and outstanding limits for a quarter's stacks. -/
  | memQos (qu : Nat)
  /-- GLEANER_SET (R331). The command writes GLN_CFG. -/
  | gleanerSet (qu : Nat)
  /-- SELFTEST_SET (R70). The command sets the array self-test interval. -/
  | selftestSet (qu : Nat)
  /-- CORE_RETEST (R72). The command retests a fenced core and returns it to service or leaves it fenced. -/
  | coreRetest (qu : Nat) (rows : List Nat) (other : Bool)
  /-- HEDGEROW_RULE (R288). The command writes one hedgerow rule. -/
  | hedgerowRule (qu : Nat)
  /-- GUEST_RETRAIN (R290). The command retrains LG and reopens it. -/
  | guestRetrain (qu : Nat)
  /-- KEY_SLOT_LOAD (R492). KEY_SLOT with ACTION 0 decapsulates a blob and loads a tenant XTS key into every controller. -/
  | keySlotLoad (qu : Nat)
  /-- KEY_SLOT_CLEAR (R492). KEY_SLOT with ACTION 1 zeroes an unused tenant key slot. -/
  | keySlotClear (qu : Nat)
  /-- ATTEST (R489). The command writes a signed attestation report; `spoil` epoch fuses read partly blown before one reads blown, and flashFail
  tells that the flash write fails three times. -/
  | attest (qu spoil : Nat) (flashFail : Bool)
  /-- LAUNCH (R359). The command runs a kernel's stooks on the placement, after writing the view area. -/
  | launch (qu : Nat)
  /-- COPY (R361). The command copies memory within the group's space, and its writes are staged. -/
  | copy (qu : Nat)
  /-- MARK (R352). The command does nothing, and with FENCE it acts as a queue barrier. -/
  | mark (qu : Nat)
  /-- COMMAND_TIMEOUT (R351). A command exceeds its timeout; its stooks are killed and it completes with TIMEOUT. -/
  | commandTimeout (qu seq : Nat)
  /-- COMMAND_READ_TIMEOUT (R351). A memory read for a command that does not complete in 1 ms completes the command with INPUT_LOST. -/
  | commandReadTimeout (qu seq : Nat)
  /-- RUN_START (R366). A work command's run takes a stage once one is free and is dispatched. -/
  | runStart (qu seq : Nat)
  /-- RUN_ENDED (R364). Every stook of a run has ended and every store is acknowledged, and the ledger entry becomes ENDED. -/
  | runEnded (qu seq : Nat)
  /-- COMMAND_DECIDE (R373). An ended command whose predecessors are decided is committed or abandoned, its record written and POSTED advanced. -/
  | commandDecide (qu : Nat)
  /-- REDISPATCH (R379). An abandoned command is re-dispatched with a new stage and launch identifier once enough cores are in service. -/
  | redispatch (qu seq : Nat)
  /-- PORT_RATE_ALTERNATE (R386). A port without alignment lock after 500 ms switches lane rate. -/
  | portRateAlternate (p : Nat)
  /-- PORT_LOCK (R386). A port reaches PCS alignment lock on all lanes and comes up. -/
  | portLock (p : Nat)
  /-- PORT_LOCK_ALARM (R386). A port not locked within 10 s raises an alarm. -/
  | portLockAlarm (p : Nat)
  /-- PORT_DOWN (R387). Loss of lock for 1 ms, or excess uncorrected FEC, takes a port down, and its drill flows move. -/
  | portDown (p uncorr : Nat)
  /-- FRAME_RECEIVE (R390). A port receives a frame, checks its FCS and classifies it to RoCE, drill, time or a host ring. -/
  | frameReceive (p : Nat × Nat) (frame : List (BitVec 8))
  /-- PFC_PAUSE_RECEIVE (R389). A PFC pause frame from the peer pauses a priority. -/
  | pfcPauseReceive (p prio : Nat) (pause : Bool)
  /-- PFC_PAUSE_TIMEOUT (R389). A priority paused for 100 ms has pause ignored and raises an alarm. -/
  | pfcPauseTimeout (p prio : Nat)
  /-- FAB_HOSTQ_PTR_WRITE (R391). An OS core moves a host ring's HEAD, and an invalid move is ignored and logged. -/
  | fabHostqPtrWrite (p r : Nat) (v : BitVec 64)
  /-- HOST_TX_SEND (R391). The engine sends a frame posted on a transmit ring and advances TAIL. -/
  | hostTxSend (p r : Nat)
  /-- CONNECT (R392). A drill CONNECT is matched against the listen table, and a pending connection is answered with ACCEPT. -/
  | connect (peer : BitVec 128) (v4 : Bool) (msg : List (BitVec 8))
  /-- CLOSE (R400). A CLOSE ends a drill connection. -/
  | close (frame : List (BitVec 8))
  /-- DRILL_WRITE (R396). A drill WRITE is applied in flow order to group space or to the mailbox block. -/
  | drillWrite (frame : List (BitVec 8))
  /-- DRILL_READ (R396). A drill READ reads committed data and is answered with READ_RESP. -/
  | drillRead (frame : List (BitVec 8))
  /-- DRILL_ACK (R398). An ACK advances the flow's acknowledged sequence. -/
  | drillAck (frame : List (BitVec 8))
  /-- DRILL_NAK (R397). A NAK reports a message that was not applied. -/
  | drillNak (frame : List (BitVec 8))
  /-- DRILL_SACK (R398). A SACK reports the messages held beyond ACK_SEQ. -/
  | drillSack (frame : List (BitVec 8))
  /-- DRILL_RETRANSMIT (R398). The retransmit interval expires, unacknowledged messages are resent, and the connection closes after 12 resends. -/
  | drillRetransmit (conn flow : Nat)
  /-- DRILL_PENDING_TIMEOUT (R497). A pending connection with no authenticated frame within 100 ms is discarded. -/
  | drillPendingTimeout (conn : Nat)
  /-- LISTEN_ENTRY_WRITE (R395). An OS-core write to a drill listen entry is applied, discarded or refused. -/
  | listenEntryWrite (off : Nat) (v : BitVec 64)
  /-- QP_ENTRY_WRITE (R395). An OS-core write to a queue-pair entry is applied, discarded or refused. -/
  | qpEntryWrite (off : Nat) (v : BitVec 64)
  /-- ROCE_RDMA_WRITE (R403). An RDMA WRITE is checked against the RKEY and window and applied. -/
  | roceRdmaWrite (qp psn : Nat) (rkey : BitVec 32) (va : BitVec 64) (data : List (BitVec 8))
  /-- ROCE_RDMA_READ (R403). An RDMA READ is checked and answered. -/
  | roceRdmaRead (qp psn : Nat) (rkey : BitVec 32) (va : BitVec 64) (len : Nat)
  /-- ROCE_SEND (R402). A RoCE SEND is delivered to host receive ring 0, tagged with its QPN. -/
  | roceSend (p qp psn : Nat) (data : List (BitVec 8))
  /-- ROCE_CNP (R402). A received CNP halves the send rate. -/
  | roceCnp (qp : Nat)
  /-- ROCE_RATE_RECOVER (R402). After 55 µs without a CNP the send rate recovers by one eighth. -/
  | roceRateRecover (qp : Nat)
  /-- ROCE_ACK_TIMEOUT (R402). The local ACK or RNR timer expires; the module retries, and exhaustion puts the QP in error. -/
  | roceAckTimeout (qp : Nat)
  /-- PTP_MESSAGE (R408). A PTP event message is timestamped and steers the time-base rate. -/
  | ptpMessage (p : Nat) (ptp : BitVec 64) (rate : Int)
  /-- PTP_HOLDOVER (R409). A PTP master silent for 10 s sets HOLDOVER. -/
  | ptpHoldover
  /-- PPS_EDGE (R409). An accepted PPS edge steers the rate or aligns the second's phase. -/
  | ppsEdge
  /-- PPS_LOST (R409). No accepted edge for 2 s marks PPS lost and raises an alarm. -/
  | ppsLost
  /-- MGMT_RATE_ALTERNATE (R404). A management port without block lock switches between 25GBASE-R and 10GBASE-R. -/
  | mgmtRateAlternate
  /-- DHCP_ATTEMPT (R405). The DHCP retry timer sends another attempt. -/
  | dhcpAttempt
  /-- DHCP_OFFER (R405). A DHCP offer sets the address and the recovery and collector endpoints. -/
  | dhcpOffer (addr : BitVec 32) (opt43 : List (BitVec 8))
  /-- RECOVERY_FETCH (R406). The boot ROM fetches a replacement image by TFTP, verifies it and writes it to flash. -/
  | recoveryFetch
  /-- TFTP_BLOCK_TIMEOUT (R406). A TFTP block unanswered in 1 s is retried, and the fetch restarts after 10 s once it has failed. -/
  | tftpBlockTimeout
  /-- CONSOLE_INPUT (R407). Console input from the collector reaches OS core 0. -/
  | consoleInput (src : BitVec 32) (port : Nat) (bytes : List (BitVec 8))
  /-- INPUT_VOLTAGE_SAMPLE (R412). Every 10 µs the hub power manager takes the median input voltage and acts on its conditions. -/
  | inputVoltageSample (reports : List (Nat × Nat)) (current : Nat)
  /-- INPUT_RESTORED (R413). Input back within 40 V to 58 V for 100 ms clears the condition and starts precharge. -/
  | inputRestored
  /-- POWER_GOOD (R413). Every present converter holds its bus, and power-good reaches the hub and starts the boot. -/
  | powerGood (buses : List Nat)
  /-- CONVERTER_FAIL (R415). A stage-one converter fails, is switched off, and its bus is capped or its quarter taken out of service. -/
  | converterFail (sc : Nat)
  /-- DOMAIN_CAP_ADJUST (R418). The domain controller lowers the cap every 100 ns while over the limit and raises it every 1 µs while well under it. -/
  | domainCapAdjust (q d ma : Nat)
  /-- POWER_MANAGER_TICK (R423). Every 10 µs the hub manager moves r toward its target and lowers the module cap or raises ballast. -/
  | powerManagerTick (power demand : Nat)
  /-- OFFSET_UPDATE (R427). Every 10 ms Pelseso adjusts the sustained-power offset and applies it to every core domain. -/
  | offsetUpdate (avg : Nat)
  /-- BRAKE_INPUT (R426). A filtered change of PWR_BRAKE_N applies or removes the 2.00 kW brake. -/
  | brakeInput (asserted : Bool)
  /-- BRAKE_HELD_ALARM (R426). A brake asserted for 60 s raises an alarm. -/
  | brakeHeldAlarm
  /-- FALLOW_ENTRY (R429). A drained core enters F2 or F3 once the power manager permits the drop. -/
  | fallowEntry (q c fs : Nat)
  /-- WAKE_REQUEST (R430). A wake from F2 or F3 is requested and enters the quarter's wake queue. -/
  | wakeRequest (q c : Nat)
  /-- WAKE_GRANT (R430). A queued wake is granted once its segment's headroom covers its peak. -/
  | wakeGrant (q ma : Nat)
  /-- WAKE_FORCED (R431). A wake that has waited its budget is granted at once, and the cluster's other cores are capped for 2 µs. -/
  | wakeForced (q c cap : Nat)
  /-- WAKE_COMPLETE (R429). A waking core reaches VSET, completes its reload steps if it came from F3, and enters service. -/
  | wakeComplete (q c : Nat) (rows : List Nat) (other : Bool)
  /-- TINE_FAIL (R433). A tine meets a failure condition and is isolated, and its domain may go dark. -/
  | tineFail (q t : Nat)
  /-- HOUSEKEEPING_ROUND (R436). Every 1 ms the scan samples every channel and delivers the results. -/
  | housekeepingRound
  /-- ROUND_RESULTS (R442). Pelseso takes a round's results, filters readings, estimates regions, sets levels and adjusts thermal limits. -/
  | roundResults (q : Nat) (temps : List (Nat × Int)) (minv : List (Nat × BitVec 64)) (volts amps tines : List Int)
  /-- ROUND_MISSING (R439). A quarter's results absent 200 µs after a round count as missing, and the quarter may become blind or faulted. -/
  | roundMissing (q : Nat)
  /-- PACE_INTERVAL (R447). Every 10 µs a core's pace count yields tp, which may govern the core or raise its level. -/
  | paceInterval (q c count mv : Nat)
  /-- CRITICAL_LIMIT_STEP (R449). At CRITICAL the thermal limit is lowered 10 mV every 100 µs. -/
  | criticalLimitStep (q c : Nat)
  /-- TRIP_RECHECK (R450). 100 ms after a quarter trip, a die still at 125 °C has its rails and stacks switched off. -/
  | tripRecheck (q : Nat)
  /-- REFERENCE_CHECK (R454). Every 10 µs the hub checks CD01 and enters or leaves PLL holdover. -/
  | referenceCheck (dev : Int) (missed : Nat)
  /-- LOOP_UNLOCK (R455). A base-die loop that loses lock for 1 µs raises a quarter fault. -/
  | loopUnlock (q cd : Nat)
  /-- TIME_BASE_SYNC (R458). At each whole millisecond the hub sends the time base and INC, and each copy slews toward them. -/
  | timeBaseSync (q : Nat)
  /-- CORE_RESET (R460). A core stops at once, its inbox bounces, its runs are abandoned, and it runs its reset steps. -/
  | coreReset (q c : Nat)
  /-- CLUSTER_RESET (R460). All four cores of a cluster and its router reset together. -/
  | clusterReset (q k : Nat)
  /-- CORE_HEADLAND (R461). A planned reset or role change drains the core before it proceeds. -/
  | coreHeadland (q c : Nat)
  /-- QUARTER_FAULT (R462). A quarter fault sends the quarter into headland. -/
  | quarterFault (q : Nat) (stay : Bool)
  /-- HEADLAND_END (R463). 200 µs after entry, transfers still in flight are abandoned and MCAST_DONE is sent for held multicasts. -/
  | headlandEnd (q : Nat)
  /-- BASE_DIE_RESET (R465). The base die resets once headland has ended, the applies are done, the stacks are in self-refresh and the draw is low. -/
  | baseDieReset (q rise : Nat)
  /-- QUARTER_RESET_STEP (R466). A step of the quarter reset timeline completes, or the quarter is fenced when it overruns. -/
  | quarterResetStep (q : Nat) (ok : Bool)
  /-- RETRY_LATER_REISSUE (R464). A request returned retry-later is reissued after 5 µs. -/
  | retryLaterReissue (i : Nat)
  /-- MODULE_RESET (R468). Pelseso drains the module, writes back the granary and resets every die except the stacks. -/
  | moduleReset
  /-- MODULE_DRAIN_TIMEOUT (R468). A drain unfinished in 10 s makes Pelseso reset without it. -/
  | moduleDrainTimeout
  /-- MOD_RESET_INPUT (R469). A filtered change of MOD_RESET_N starts a drained reset, holds the boot, or releases it. -/
  | modResetInput (asserted : Bool)
  /-- MOD_RESET_HELD (R469). MOD_RESET_N held for 10 s abandons the drain and resets at once. -/
  | modResetHeld
  /-- HARROW_WAVE (R471). The harrow raises the demand, grants a wave's wakes, calibrates and waits for the bus to settle. -/
  | harrowWave (q wv : Nat) (fails : List (Nat × Nat)) (settled : Bool)
  /-- HUB_PLL_LOCK (R473). The hub PLL locks after power-good and the time base starts. -/
  | hubPllLock (ok : Bool)
  /-- FIRMWARE_VERIFY (R481). The boot ROM checks the image header, signature and body, and starts Pelseso or the recovery fetch. -/
  | firmwareVerify
  /-- OS_CORE_RELEASE (R474). Once the queue engine and tally are in service, the OS cores leave reset and the admin queues open. -/
  | osCoreRelease
  /-- FW_RECOVER_INPUT (R483). FW_RECOVER_N asserted at the start of the boot runs the recovery fetch. -/
  | fwRecoverInput (asserted : Bool)
  /-- FUSE_BLOW (R484). After start, Pelseso blows rollback-floor and revocation fuses and reads them back. -/
  | fuseBlow (partly : List Nat)
  /-- BOOT_KEY_GENERATE (R491). Pelseso generates the ML-KEM-1024 boot key pair at start. -/
  | bootKeyGenerate
  /-- ENTROPY_TEST_FAIL (R479). A health test of the entropy source fails, requests fail until a start-up test passes, and an alarm is raised. -/
  | entropyTestFail
  /-- LOG_RECORD (R503). A unit's log record enters the staging queue, or a record is dropped when the queue is full. -/
  | logRecord (sev src code : Nat) (payload : List (BitVec 8))
  /-- LOG_WRITE (R502). Pelseso writes a staged record into the open block of its severity, freeing a block when none is free. -/
  | logWrite
  /-- ALARM_RAISE (R505). An alarm opens a table entry or updates the open entry of its pair. -/
  | alarmRaise (code src : Nat) (detail : List (BitVec 8))
  /-- ALARM_RESEND (R506). At each whole second, entries whose COUNT changed are queued for sending again. -/
  | alarmResend
  /-- ALARM_CLOSE (R506). An entry with no raise for 10 s closes and is logged and sent a last time. -/
  | alarmClose (i : Nat)
  /-- MGMT_TRANSMIT (R508). The management scheduler sends the next frame: alarms within their share first, then frames in rotation. -/
  | mgmtTransmit
  /-- TELEMETRY_SEND (R507). Pelseso sends a telemetry datagram of alarms, snapshot, console or log. -/
  | telemetrySend (kind : Nat)
  /-- TRACE_RECORD (R510). A sampled trace event reaches its collector and is written or dropped. -/
  | traceRecord (coll typ src : Nat) (data : BitVec 128)
  /-- COUNTER_SNAPSHOT (R512). At each whole second every counter bank is captured and the mirror switches to the new buffer. -/
  | counterSnapshot
  /-- WDR_TRACE_CFG_WRITE (R510). A write to WDR_TRACE_CFG sets the trace types and sampling interval and clears TRACE_STOPPED. -/
  | wdrTraceCfgWrite (v : BitVec 32)
  /-- DEV_READ (R500). A development-port read is served within the windrow ranges or refused and counted. -/
  | devRead (off width : Nat)
  /-- ID_SET_OFFSET (R529). A one-byte SMBus write sets the identity store's read offset. -/
  | idSetOffset (bytes : List (BitVec 8))
  /-- ID_READ (R529). An SMBus read returns identity bytes from the current offset, with wrap. -/
  | idRead (n : Nat)
  /-- ID_SCL_TIMEOUT (R526). SCL held low for 35 ms makes the store release the bus and reset its interface. -/
  | idSclTimeout
  /-- LINK_TRAINING (R267). At a module reset or cold boot, training of each substrate link and of LG completes, and the link comes up from a map with no spares in use or is declared down. -/
  | linkTraining (l : Nat) (fwd rev : BitVec 16)
  /-- ENTROPY_START_UP_TEST (R479). A fresh start-up test of the entropy source over 1,024 samples passes, and key requests are served again. -/
  | entropyStartUpTest
  /-- DROOP_SENSOR_READING (R420). Every 4 ns each droop sensor reports its rail voltage; the domain controller steers its tines, and a reading below the held minimum replaces the TIN_MINV_STAMP record. -/
  | droopSensorReading (q d sensor mv : Nat)
  /-- AUXILIARY_SUPPLY_CHANGE (R518). The input crosses 30 V or 60 V, and the auxiliary supply starts or stops, which powers or unpowers the sideband circuits, the identity store and the carrier sequencer. -/
  | auxiliarySupplyChange (mv : Nat)
  /-- ROCE_ACK_RECEIVE (R402). An ACK, NAK or RNR NAK from the peer for a SEND that the module issued as requester stops its retry timer or starts an RNR retry. -/
  | roceAckReceive (qp kind psn : Nat)
  /-- TFTP_BLOCK_RECEIVE (R406). A TFTP data block of the recovery image arrives on the management port, is acknowledged, and the next block is requested or the fetch completes. -/
  | tftpBlockReceive (block : Nat) (data : List (BitVec 8)) (wrong : List (Nat × BitVec 8))
  deriving DecidableEq, Repr

end Sys2Proof
end

