-- ==== Sys2Proof/Decode.lean ====
section
/-! DEFINITION. The command that a word spells by the opcode table's bits: the table gives no row any bits, so there is none. -/
namespace Sys2Proof

/-- The command that a word of `nbits` bits spells. No row of spec/opcode_table.json gives bits (every row's list of fields is
empty), so no word spells a command (log 1). -/
def decodeTableWord (_nbits _w : Nat) : Option Instr := none

end Sys2Proof
end

