-- ==== Sys2Proof/Config.lean ====
section
/-! DEFINITION. The values that the spec leaves open and that the machine goes on with: each is a constant with no body, so that
nothing can be proved of its value (log 2). -/
namespace Sys2Proof.Config

/-- FREE VALUE (log 2). The n-th 256-bit output of the entropy source (18 R479). -/
opaque entropy : Nat → W256

/-- FREE VALUE (log 2). The approximate reciprocal of a binary32 operand (05 R165). -/
opaque approxRcp : W32 → W32
/-- FREE VALUE (log 2). The approximate reciprocal square root of a binary32 operand (05 R165). -/
opaque approxRsqrt : W32 → W32
/-- FREE VALUE (log 2). The approximate base-2 exponential (05 R165). -/
opaque approxExp2 : W32 → W32
/-- FREE VALUE (log 2). The approximate base-2 logarithm (05 R165). -/
opaque approxLog2 : W32 → W32
/-- FREE VALUE (log 2). The approximate sine (05 R165). -/
opaque approxSin : W32 → W32
/-- FREE VALUE (log 2). The approximate cosine (05 R165). -/
opaque approxCos : W32 → W32
/-- FREE VALUE (log 2). The softmax weight of a score within the sampler's error (06). -/
opaque approxExp : W32 → W32

/-- FREE VALUE (log 2). ML-KEM-1024 key generation from the n-th entropy output: the encapsulation key (18 R491). -/
opaque mlkemEk : W256 → List Byte
/-- FREE VALUE (log 2). ML-KEM-1024 decapsulation with the key generated from an entropy output (18 R492). -/
opaque mlkemDecaps : W256 → List Byte → W256
/-- FREE VALUE (log 2). Whether an XMSS signature verifies: public key, message, signature (18 R481). -/
opaque xmssVerify : List Byte → List Byte → List Byte → Bool
/-- FREE VALUE (log 2). The XMSS^MT signature of a leaf over a message by the device key of a seed (18 R486). -/
opaque xmssSign : W256 → Nat → List Byte → List Byte
/-- FREE VALUE (log 2). The device's XMSS^MT public key, a function of the seed (18 R485). -/
opaque xmssPublic : W256 → List Byte

/-- FREE VALUE (log 2). The data bits of a burst that a failed channel or a timed-out request delivers poisoned (10 R298, R299). -/
opaque poisonBurst : Nat → W512
/-- FREE VALUE (log 2). The value bits that the array drains with a poison mark, by output address (03 R83). -/
opaque poisonValue : Nat → W64

/-- FREE VALUE (log 2). STEPS of a status record written for a command that a flush or RING_TIMEOUT ended (02 R56). -/
opaque freeSteps : Nat → W32

/-- FREE VALUE (log 2). Bytes of an array command's output area that the spec leaves undefined: until DONE, after RING_TIMEOUT, ACC_LOST or
FLUSHED, and when an input was overwritten (02 R50, R56). -/
opaque undefOut : Nat → Nat → Byte

/-- FREE VALUE (log 2). Poison marks, CODE, POISON_ROWS, FIRST_ROW and COL_MASK of a command whose input a sheaf overwrote, by draw and index
(02 R50). -/
opaque undefMark : Nat → Nat → W128

/-- FREE VALUE (log 2). The boot-console bytes that the software of OS core 0 has written, by draw (14 R407). -/
opaque consoleOut : Nat → List Byte

/-- FREE VALUE (log 2). The array step rate in M steps/s, referred to 70 °C, that calibration measures on a core at point i, 0.60 V + i × 10 mV
(02, 16 R447). -/
opaque paceStep : Nat → Nat → Nat
/-- FREE VALUE (log 2). The pace-ring count in 10 µs, referred to 70 °C, that calibration measures on a core at point i (16 R447). -/
opaque paceRing : Nat → Nat → Nat

/-- FREE VALUE (log 2). The bytes in which the security fuses other than the device seed are hashed for FUSE_DIGEST (18 Table 18-4). -/
opaque fuseBytes : List Nat → List Byte

/-- FREE VALUE (log 2). The change of the time-base rate, in units of 2^-32 ns per ns, to which a PPS edge steers, by draw (14 R409): the spec
gives the bound and not the control law. -/
opaque ppsRate : Nat → Int

/-- FREE VALUE (log 2). SERIAL of the identity store, byte by byte (20 Table 20-10): the spec leaves it to manufacture. -/
opaque serialByte : Nat → Byte
/-- FREE VALUE (log 2). MFG_DATE of the identity store, byte by byte (20 Table 20-10). -/
opaque dateByte : Nat → Byte
/-- FREE VALUE (log 2). The bytes of an 8-byte word of a WRITE to the guest die that a narrower store does not give, by draw (09 Table 9-10). -/
opaque guestFill : Nat → Nat
/-- Base interval of a bank's refresh, in ticks of the time base: JEDEC's, which the spec does not state (log 6). -/
opaque refreshBase : BitVec 32
/-- FREE VALUE (log 2). TYPE, less 1, of the control messages that dispatch work, signal a fault, raise a thrash event, ask a pin engine or report staging
(09 Table 9-1, Table 9-5). -/
opaque signalType : Nat → Fin 239
/-- FREE VALUE (log 2). The payload bytes of those messages, by kind and place (09 Table 9-5). -/
opaque signalByte : Nat → Nat → Byte

end Sys2Proof.Config
end

