-- ==== Sys2Proof/Machine/State.lean ====
section
/-! DEFINITION. The state of the module as plain data: every register, store, queue, counter, mode and pin that the spec gives it.
Every field's docstring reads: what it holds | file and rule of spec/ | value at reset. Control-space registers that are views of
other fields (FUS_PART, GRN_WAYS, MB_STATE …) are computed where they are read (Machine/Regs.lean). -/
namespace Sys2Proof.Machine

/-! ## Records and small enumerations -/

/-- Reasons for a fault of the model: none of the block's commands ends a run, so the one reason stands for a state that the
model cannot be in (raised by nobody; safe). -/
inductive Fault where
  /-- Raised by no meaning; safe. -/
  | unreachable
  deriving DecidableEq, Repr

/-- Reasons for a refusal. -/
inductive Refusal where
  /-- Raised only by an arm of exec whose command has no meaning yet; safe. -/
  | notModelled (mnemonic : String)
  deriving DecidableEq, Repr

/-- The three variants of Table 0-2. -/
inductive Part where
  | a4 | b4 | g4
  deriving DecidableEq, Repr

/-- A log record (Table 19-2): severity, source, code, stamp and payload bytes. -/
structure LogRec where
  sev : Nat
  src : Nat
  code : Nat
  stamp : W64
  payload : List Byte
  deriving DecidableEq, Repr

/-- An alarm table entry (Table 19-5) with the bookkeeping of R506. -/
structure Alarm where
  /-- CODE -/
  code : Nat
  /-- SOURCE -/
  src : Nat
  /-- CLOSED is false while the entry is open -/
  closed : Bool
  /-- COUNT, saturating -/
  count : W32
  /-- FIRST_STAMP -/
  first : W64
  /-- LAST_STAMP -/
  last : W64
  /-- DETAIL, 32 bytes -/
  detail : List Byte
  /-- COUNT at the last send -/
  sentCount : W32
  /-- SEQ of the last send -/
  seq : W32
  /-- whether the latest state has been logged -/
  logged : Bool
  deriving DecidableEq, Repr

/-- An alarm record queued for sending (R506, R508). -/
structure AlarmSend where
  entry : Nat
  code : Nat
  src : Nat
  closed : Bool
  count : W32
  seq : W32
  first : W64
  last : W64
  detail : List Byte
  deriving DecidableEq, Repr

/-- A block of the log ring or the trace ring (R502, R509, R511). -/
structure Block where
  /-- block sequence number; 0 for a free block -/
  seq : W64
  sev : Nat
  /-- bytes used -/
  used : Nat
  /-- stamp of the first record -/
  firstStamp : W64
  /-- stored bytes, in order -/
  bytes : List Byte
  /-- records held, per severity for the loss count of R502 -/
  records : Nat
  deriving DecidableEq, Repr

/-- A trace collector (R509, R510). -/
structure Collector where
  /-- records held, oldest first: records dropped just before it, and its 32 bytes -/
  recs : List (Nat × List Byte)
  /-- records dropped since the last held one -/
  lost : Nat
  /-- stamp up to which its writing to the ring has been accounted -/
  at_ : W64
  deriving DecidableEq, Repr

/-- Windrow: log, alarms, traces, mirror (file 19). -/
structure Windrow where
  /-- log staging queue, up to 4,096 records | 19 R503 | empty -/
  staging : List LogRec
  /-- the 128 log blocks and 32 trace blocks by directory index | 19 R502, R511 | all free -/
  blocks : Tab Block
  /-- open block of each severity | 19 R502 | none -/
  openBlk : Tab Nat
  /-- module-wide block sequence counter | 19 R511 | 0 -/
  blkSeq : W64
  /-- records dropped per severity since the previous loss record | 19 Table 19-3 (0x8F00) | 0 -/
  lossSince : Tab Nat
  /-- alarm table, up to 4,096 entries | 19 R505, Table 19-5 | empty -/
  alarms : Tab Alarm
  /-- log records of severity 3 and above not yet sent as telemetry | 19 R507 | empty -/
  stream : List (List Byte)
  /-- queued alarm sends, at most 16,384 held | 19 R508 | empty -/
  sends : List AlarmSend
  /-- SEQ: module-wide count of alarm sends, 32 bits | 19 Table 19-5 | 0 -/
  alarmSeq : W32
  /-- trace collectors 0-3 of the base dies and 4 of the hub | 19 R509 | empty -/
  coll : Tab Collector
  /-- events counted per source and type for sampling | 19 R509 | 0 -/
  traceCount : Tab Nat
  /-- open trace block and order of the trace ring | 19 R509 | none -/
  traceOpen : Option Nat
  /-- WDR_TRACE_CFG, 32 bits | 19 R509 | 0x0000_0000 -/
  traceCfg : W32
  /-- WDR_STATUS.TRACE_STOPPED | 19 R510 | 0 -/
  traceStopped : Bool
  /-- WDR_WIN_SEL_k, k = 0 to 3, 32 bits each | 19 R511 | 0x0000_0000 -/
  winSel : Tab W32
  /-- the counter values of the last capture | 19 R512 | empty (reads zero) -/
  mirror : Tab W64
  /-- the idle buffer of the mirror | 19 R512 | empty -/
  idle : Tab W64
  /-- WDR_SNAP_STAMP, 64 bits | 19 R512 | 0x0 -/
  snapStamp : W64
  /-- stamp of the last whole second at which changed entries were queued again | 19 R506 | 0 -/
  resendAt : W64
  /-- DGRAM_SEQ of each telemetry KIND, 32 bits | 19 R507 | 0 -/
  dgramSeq : Tab W32
  deriving DecidableEq, Repr

/-! ## Fuses, clocks, resets, boot -/

/-- A fused quadratic curve against temperature in °C (R440). -/
structure Curve where
  c0 : Int
  c1 : Int
  c2 : Int
  deriving DecidableEq, Repr

/-- Fuses of the module (files 00, 11, 18). -/
structure Fuses where
  /-- variant that the fuses and the fitted die give | 00 R1, R6 | DESIGN CHOICE KY-ISO-4A (log 4) -/
  part : Part
  /-- fused-off physical cores, index 64 n + c | 00 R3 | DESIGN CHOICE (log 4) -/
  offCores : List Nat
  /-- fuse load complete (FUS_PART, FUS_SEC, FUS_EPOCH and the GRN registers read zero before) | 00 R6, 07, 18 R478 | false -/
  loaded : Bool
  /-- LIFECYCLE, Table 18-2 | 18 R477 | DESIGN CHOICE 1 SHIPPED (log 4) -/
  lifecycle : Nat
  /-- ROOT_PRESENT and digests of the vendor root slots | 18 R476 | DESIGN CHOICE none present (log 4) -/
  roots : Tab W256
  /-- ROOT_REVOKED, one bit per slot | 18 R476 | DESIGN CHOICE 0 (log 4) -/
  revoked : BitVec 4
  /-- SVN_FLOOR: blown rollback-floor fuses | 18 R476 | DESIGN CHOICE 0 (log 4) -/
  svnFloor : Nat
  /-- device seed, 256 bits | 18 R476, R485 | DESIGN CHOICE 0 (log 4) -/
  seed : W256
  /-- DEBUG_OFF | 18 R476, 19 R500 | DESIGN CHOICE blown (log 4) -/
  debugOff : Bool
  /-- HDG_DENY | 18 R476, 09 R288 | DESIGN CHOICE blown (log 4) -/
  hdgDeny : Bool
  /-- PARTITION | 18 R476, R498 | DESIGN CHOICE blown (log 4) -/
  partition : Bool
  /-- USED: epoch fuses blown or spoiled | 18 R486 | DESIGN CHOICE 0 (log 4) -/
  epochUsed : Nat
  /-- SPOILED epoch fuses | 18 R486 | DESIGN CHOICE 0 (log 4) -/
  epochSpoiled : Nat
  /-- fused MAC base address, 48 bits | 14 R388 | DESIGN CHOICE 0 (log 4) -/
  macBase : BitVec 48
  /-- thermal resistance k of a half in 0.01 °C/W, 4 to 12 | 16 R444 | DESIGN CHOICE 8 (log 4) -/
  thermK : Tab Nat
  /-- middle-die leakage at 70 °C of a half, mA | 16 R444 | DESIGN CHOICE 6000 (log 4) -/
  i70 : Tab Nat
  /-- offset (1/16 °C) and slope (2^-16) of a temperature sensor, by channel | 16 R440 | DESIGN CHOICE 0 and 1 (log 4) -/
  tempCal : Tab (Int × Nat)
  /-- energy of one access of a half's middle-die array, pJ | 16 R444 | DESIGN CHOICE 100 (log 4) -/
  accessPj : Tab Nat
  /-- curve of the housekeeping oscillator of a scanner, parts per million | 16 R440 | DESIGN CHOICE 0 (log 4) -/
  oscCurve : Tab Curve
  /-- curve of the voltage reference of a scanner, parts per million | 16 R440 | DESIGN CHOICE 0 (log 4) -/
  refCurve : Tab Curve
  /-- calibration curves unusable: THM_STATUS.CURVE_DEFAULT | 16 R441 | false -/
  curveDefault : Bool
  deriving DecidableEq, Repr

/-- Clocks and the time base (file 17). -/
structure Clocks where
  /-- time base, hub copy, 64-bit count of ns | 17 R457 | 0 -/
  tb : W64
  /-- fraction of the time base in 2^-32 ns | 17 R457 | 0 -/
  frac : W32
  /-- INC in 2^-32 ns | 17 R457 | nominal 2^32 (1 ns) -/
  inc : Nat
  /-- hub PLL locked, time base counting | 17 R473 | false -/
  pllLocked : Bool
  /-- base-die copies of the time base, each held as the hub's value less the copy's, in ns | 17 R458 | 0 -/
  copies : Tab Int
  /-- CLK_STATE.LOCKED of the hub's domains, bits CD01-CD18 | 17 CLK_STATE | 0 -/
  locked : BitVec 18
  /-- loops of the base dies that are not locked: 4 q for CD11 of quarter q, to 4 q + 3 for CD14 | 17 R455, CLK_STATE | every loop -/
  unlocked : List Nat
  /-- stamp of the last comparison with the housekeeping oscillator | 17 R454 | 0 -/
  refAt : W64
  /-- CLK_STATE.HOLDOVER and the time it began | 17 R454 | none -/
  holdover : Option W64
  /-- CD01 good since, for the relock of R454 | 17 R454 | none -/
  goodSince : Option W64
  deriving DecidableEq, Repr

/-- One quarter's reset state (file 17). -/
structure Quarter where
  /-- QTR_STATE.STATE: 0 service, 1 headland, 2 reset, 3 bring-up, 4 fenced | 17 QTR_STATE | 3 -/
  st : Nat
  /-- QTR_STATE.STAMP: time base at the last headland entry (bits 43:0 shown) | 17 R463 | 0 -/
  stamp : W64
  /-- headland has ended (the 200 µs passed) | 17 R463, R465 | false -/
  headlandEnded : Bool
  /-- fence at the end of the reset (R415, R439, R450 or a failed step) | 17 R462 | false -/
  stay : Bool
  /-- stamps of quarter faults in the last hour (FAULTS_HOUR counts them) | 17 R462 | empty -/
  faults : List W64
  /-- next step of Table 17-3 | 17 R466 | 0 -/
  step : Nat
  /-- stacks of the quarter in self-refresh | 10 R304 | false -/
  selfRefresh : Bool
  /-- harrow wave reached in this reset or bring-up | 17 R470 | 0 -/
  wave : Nat
  /-- granary rails and stacks switched off by a trip | 16 R450 | false -/
  railsOff : Bool
  /-- hold until every region reads below 85 °C for 10 s (trip) | 16 R450 | none -/
  tripHold : Option W64
  /-- stamps of trips in the last hour | 16 R450 | empty -/
  trips : List W64
  /-- stamp of the last base-die reset, from which Table 17-3 counts | 17 R465, R466 | 0 -/
  resetAt : W64
  /-- the demand of the next harrow wave has been raised | 17 R471 | false -/
  raised : Bool
  deriving DecidableEq, Repr

/-- Resets and boot (files 17, 18). -/
structure Boot where
  /-- boot step: 0 before power-good, 1 power-good, 2 PLL locked, 3 fuses loaded, 4 hub SRAM checked, 5 image verified (Pelseso runs),
  6 OS cores released (in service), 7 stopped, 8 recovery fetch | 17 R473 | 1, power-good (DESIGN CHOICE log 4) -/
  step : Nat
  /-- status code reason of a stopped boot or module (Table 20-9), 0 none | 20 R528 | 0 -/
  stopCode : Nat
  /-- stamp of the start of the boot (time base) | 17 R473 | 0 -/
  since : W64
  /-- RST_CAUSE.KIND | 17 RST_CAUSE | 1 -/
  kind : Nat
  /-- RST_CAUSE.COUNT, saturating 16 bits | 17 RST_CAUSE | 0 -/
  count : Nat
  /-- RST_CAUSE.RECOVERED | 17 RST_CAUSE, 18 R482 | false -/
  recovered : Bool
  /-- drained module reset in progress since | 17 R468 | none -/
  draining : Option W64
  /-- MOD_RESET_N as filtered, with the stamp of its assertion | 17 R469 | none (deasserted) -/
  modReset : Option W64
  /-- FW_RECOVER_N as filtered (true when asserted) | 18 R483, 20 R526 | false -/
  fwRecover : Bool
  /-- the request was seen asserted in the sampling window of this boot | 18 R483, 20 R526, R527 | false -/
  fwSampled : Bool
  /-- core resets of the last 10 ms, per cluster 16 n + k | 17 Table 17-2 | empty -/
  coreResets : Tab (List W64)
  /-- the module is lost (hub trip, power fail): nothing more is posted | 01 R35, 13 R383 | false -/
  lost : Bool
  deriving DecidableEq, Repr

/-! ## Memories -/

/-- A store with written and poisoned bits (file 11): bytes by address, W and PSN by word number. -/
structure Store where
  /-- bytes | 11 R321, R322 | empty (reads zero) -/
  bytes : Mem
  /-- W = 1 word numbers, ascending | 11 R321 | none -/
  wr : List Nat
  /-- PSN = 1 word numbers, ascending | 11 R321 | none -/
  psn : List Nat
  deriving DecidableEq, Repr

/-- Everything outside the granary ways that holds bytes. -/
structure Memories where
  /-- LPDDR contents by physical address: the bits stored, which are ciphertext where the burst's slot is not 0 | 10 R302, 01 R17, 18 R493 | zero -/
  lpddr : Mem
  /-- sideband bits 31:0 of a burst (address / 64): CHECK, POISON, KEY_SLOT and META, stored with the data | 10 R294, R302, 18 R493 | zero (R302) -/
  lpSide : Tab W32
  /-- plot bytes by physical address, 32-byte words | 07 R217, R219 | zero -/
  plots : Store
  /-- tilth of all cores: address (64 n + c) * 0x20_0000 + offset, 8-byte words | 01 R17, 07 R241 | zero -/
  tilth : Store
  /-- hub SRAM by offset, 8-byte words | 01 R17, 12 R342 | zero -/
  hub : Store
  deriving DecidableEq, Repr

/-- Corrected locations of a walker's store (R326, R335). -/
structure Hist where
  /-- passes completed by the walker | 11 R328 | 0 -/
  pass : Nat
  /-- word: pass of the last recorded correction, and consecutive passes with one | 11 R326 | none -/
  locs : Tab (Nat × Nat)
  deriving DecidableEq, Repr

/-! ## The core -/

/-- Kind of a reconvergence stack entry (R116, R135). -/
inductive EntryKind where
  | branch | reconv | lock
  deriving DecidableEq, Repr

/-- A reconvergence stack entry. -/
structure StackEntry where
  kind : EntryKind
  /-- reconvergence address -/
  recon : W64
  /-- lanes of the entry -/
  mask : W32
  /-- branch target, or the address of the acquire -/
  target : W64
  deriving DecidableEq, Repr

/-- A fault record (Table 4-9). -/
structure FaultRec where
  cause : Nat
  detail : Nat
  sheaf : Nat
  stook : Nat
  launch : W32
  pc : W64
  active : W32
  lanes : W32
  addr : W64
  instr : W64
  stamp : W64
  source : Nat
  depth : Nat
  gen : W16
  /-- emission order among the records that its core holds, for equal stamps | 01 R32 -/
  seq : Nat
  deriving DecidableEq, Repr

/-- One lane's part of an outstanding load: lane, address, destination data once it has arrived. -/
structure LaneLoad where
  lane : Nat
  addr : Nat
  /-- data and the POISON_READ detail (0 for unpoisoned), when arrived -/
  data : Option (W128 × Nat)
  deriving DecidableEq, Repr

/-- An outstanding load or returning atomic of a sheaf. -/
structure Load where
  /-- destination specifier -/
  dst : Nat
  /-- size code of Table 5-2 -/
  size : Nat
  sign : Bool
  /-- global (true) or scratch -/
  glob : Bool
  /-- instruction word and address, for the fault record of R145 -/
  instr : W64
  pc : W64
  active : W32
  /-- lanes that executed it -/
  exec : W32
  lanes : List LaneLoad
  /-- virtual address of each lane, kept for the record -/
  vaddr : Tab W64
  /-- class of each sector (Table 7-5 code), by sector number -/
  cls : Tab Nat
  /-- an atomic: its value returns under R234 and never faults with POISON_READ -/
  atomic : Bool
  deriving DecidableEq, Repr

/-- A lock wait (R136, R137). -/
structure LockWait where
  /-- waiting lanes -/
  mask : W32
  /-- space: global (true) or scratch -/
  glob : Bool
  /-- address named by each lane (physical address, or scratch offset relative to the stook) -/
  addrs : Tab Nat
  /-- stamp of the failed attempt -/
  failed : W64
  /-- a release has woken the sheaf -/
  woken : Bool
  deriving DecidableEq, Repr

/-- One sheaf slot of a core (R103). -/
structure Sheaf where
  /-- resident | 04 R102 | false -/
  live : Bool
  /-- stook slot | 04 R102 | 0 -/
  stook : Nat
  /-- sheaf index within the stook | 04 R109 | 0 -/
  index : Nat
  /-- program counter, 64 bits | 04 R103 | DESIGN CHOICE 0 (log 5) -/
  pc : W64
  /-- active mask | 04 R103 | DESIGN CHOICE 0 (log 5) -/
  active : W32
  /-- lanes that have executed EXIT | 04 R110, R117 | 0 -/
  exited : W32
  /-- reconvergence stack, top first, at most 32 entries | 04 R116, R118 | empty -/
  stack : List StackEntry
  /-- uniform registers u0-u63, 32 bits | 04 R103, R109 | DESIGN CHOICE 0 (log 5) -/
  u : Tab W32
  /-- predicate registers p0-p7, 32 bits | 04 R103, R109 | DESIGN CHOICE 0 (log 5) -/
  p : Tab W32
  /-- v registers, index 32 r + lane, 32 bits each | 04 R104, R109 | DESIGN CHOICE 0 (log 5) -/
  v : Tab W32
  /-- v registers whose cells fail parity, index 32 r + lane: number of reads still failing | 04 R143 | none -/
  regBad : Tab Nat
  /-- start count of the slot modulo 65,536 | 04 Table 4-7 GEN | DESIGN CHOICE 0 (log 5) -/
  gen : W16
  /-- outstanding loads by identifier | 04 R112 | empty -/
  loads : Tab Load
  /-- other outstanding memory instructions (stores, bulk operations), counted toward 32: requests still due by instruction | 04 R112, 05 R172 | empty -/
  memOut : Tab Nat
  /-- global stores not yet acknowledged | 04 R124 | 0 -/
  stOut : Nat
  /-- lanes of the outstanding stores and of the atomics that return nothing: lane, physical address and bytes, by instruction | 04 R122 | empty -/
  memLanes : Tab (List (Nat × Nat × Nat))
  /-- scratch accesses outstanding: PFS and PWB of R251 | 08 R251 | 0 -/
  bulkOut : Nat
  /-- barrier the sheaf waits at | 04 R140 | none -/
  barWait : Option Nat
  /-- lock wait | 04 R136 | none -/
  lockWait : Option LockWait
  /-- stamp at which each lane began to wait for its lock | 04 R137 | none -/
  lockSince : Tab W64
  /-- AWAIT destinations waiting: destination and tilth offset of the status record | 05 R179 | empty -/
  awaits : List (Nat × Nat)
  /-- SAMPLE without a result: its destination | 05 R187 | none -/
  sample : Option Nat
  /-- FLAG.WAIT without a result: its destination | 09 R280 | none -/
  flagWait : Option Nat
  /-- issue waiting on a full array queue | 02 R49 | false -/
  arrWait : Bool
  /-- parked by a fault | 04 R142 | false -/
  parked : Bool
  /-- WATCHDOG pending: faults at its next instruction | 04 R146 | false -/
  dog : Bool
  deriving DecidableEq, Repr

/-- A stook resident on a core, or waiting for it (R102, R106). -/
structure Stook where
  /-- launch identifier | 12 R359 | - -/
  launch : W32
  /-- stook index within the launch | 04 R109 | - -/
  index : Nat
  /-- sheaf slots it took, in ascending sheaf index | 04 R108 | - -/
  slots : List Nat
  /-- absolute scratchpad offset of its scratch | 04 R119 | - -/
  base : Nat
  /-- scratch size m in bytes | 04 R106 | - -/
  size : Nat
  /-- register blocks taken | 04 R104 | - -/
  blocks : Nat
  /-- stamp of the start | 04 R146 | - -/
  start : W64
  /-- arrivals at barrier b: sheaf slots | 04 R140 | none -/
  bars : Tab (List Nat)
  /-- a kill has begun and its status (Table 12-7 code, DETAIL); status 0 for a kill without status | 04 R149, R150 | none -/
  killed : Option (Nat × Nat)
  deriving DecidableEq, Repr

/-- The array command descriptor, decoded (Table 2-4). -/
structure Desc where
  mode : Nat
  semiring : Nat
  afmt : Nat
  bfmt : Nat
  outfmt : Nat
  round : Nat
  rclass : Bool
  accInit : Nat
  drain : Bool
  aring : Bool
  fwd : Bool
  dir : Bool
  twoLevel : Bool
  hops : Nat
  tag : Nat
  m : Nat
  n : Nat
  k : Nat
  aAddr : Nat
  aStride : Nat
  aScale : Nat
  bAddr : Nat
  bStride : Nat
  bScale : Nat
  cAddr : Nat
  cStride : Nat
  segScale : W32
  statusAddr : Nat
  poisonAddr : Nat
  deriving DecidableEq, Repr

/-- Contents of one accumulator bank of one cell (R41, R84): a binary32 value, or an integer significand with exponent, or EMPTY or NaN. -/
inductive AccVal where
  | fl (bits : W32)
  | int (s g : Int)
  | empty
  | nan
  deriving DecidableEq, Repr

/-- One accumulator bank with its poison bit. -/
structure Acc where
  val : AccVal
  poison : Bool
  deriving DecidableEq, Repr

/-- A queued array command and its owner. -/
structure ArrCmd where
  desc : Desc
  /-- stook slot and sheaf slot that issued it -/
  stook : Nat
  sheaf : Nat
  launch : W32
  /-- a sheaf has written an input byte since the issue: the results are undefined | 02 R50 -/
  tainted : Bool
  deriving DecidableEq, Repr

/-- A panel in flight between ring ports, or taken from a ring slot: header fields, payload bytes and poisoned 8-byte word indexes. -/
structure Panel where
  tag : Nat
  visits : Nat
  panel : Nat
  poison : Bool
  bytes : List Byte
  psn : List Nat
  /-- core and buffer slot it was forwarded from -/
  src : Nat
  srcSlot : Nat
  deriving DecidableEq, Repr

/-- The running array command. -/
structure ArrRun where
  cmd : ArrCmd
  /-- fill f of R57 that this command paid -/
  fill : Nat
  /-- tiles completed -/
  tile : Nat
  /-- accumulators by output row: those that the tiles begin from, and with DRAIN = 0 those completed; empty for the identity -/
  bank : List (List Acc)
  /-- ring panels taken for the present tile, and the next PANEL index -/
  panels : List Panel
  panel : Nat
  /-- output bytes converted so far: tilth offset and bytes; they are visible once DONE is set (R50, R51) -/
  outs : List (Nat × List Byte)
  /-- poison-map words of the tiles drained so far (R68) -/
  maps : List (Nat × List Byte)
  /-- poisoned output bytes: tilth offset and length -/
  psnOuts : List (Nat × Nat)
  /-- ended by the check of R46: ACC_LOST -/
  lost : Bool
  /-- poisoned output rows -/
  prows : List Nat
  /-- COL_MASK -/
  cols : W128
  /-- waiting for the next ring slot since -/
  ringSince : Option W64
  /-- ran with mapped-out rows -/
  mapped : Bool
  deriving DecidableEq, Repr

/-- Pending accumulators (R45, R46). -/
structure Pending where
  cmd : ArrCmd
  bank : List (List Acc)
  deriving DecidableEq, Repr

/-- A claimed slot of a ring buffer (R59 to R62). -/
structure RingSlot where
  /-- slot number within the buffer; scratchpad offset and payload bytes; FWD and DIR of its command -/
  slot : Nat
  off : Nat
  len : Nat
  fwd : Bool
  dir : Bool
  tag : Nat
  visits : Nat
  panel : Nat
  poison : Bool
  /-- header written -/
  complete : Bool
  consumed : Bool
  /-- forwarding finished, or not needed -/
  forwarded : Bool
  /-- waiting for a forward to be accepted since -/
  fwdSince : Option W64
  deriving DecidableEq, Repr

/-- The array of one core (file 02). -/
structure Array2 where
  /-- command queue, head first, at most 8 | 02 R49 | empty -/
  queue : List ArrCmd
  /-- issues waiting for room, oldest first | 02 R49 | empty -/
  waiting : List ArrCmd
  /-- running command | 02 R57 | none -/
  run : Option ArrRun
  /-- mode of the previous command while its last tile may still drain with no gap | 02 R52 | none -/
  prevMode : Option Nat
  /-- pending accumulators | 02 R45, R46 | none -/
  pend : Option Pending
  /-- claimed ring slots, in claim order | 02 R60 | empty -/
  ring : List RingSlot
  /-- panel waiting in the inbound ring port | 02 R62 | none -/
  inbound : Option Panel
  /-- mapped-out furrow rows, 128 f + r | 02 R71, R73 | none -/
  rowMap : List Nat
  /-- self-test running | 02 R70 | false -/
  testing : Bool
  /-- stamp of the last passing test | 02 R74 | 0 -/
  lastPass : W64
  /-- stamp of the end of the last self-test, from which the interval counts | 02 R70 | 0 -/
  lastTest : W64
  deriving DecidableEq, Repr

/-- A bulk operation (R171 to R173, R250). -/
structure BulkOp where
  /-- identifier of the operation on its core -/
  id : Nat
  /-- 0 PFS, 1 PWB, 2 PFR -/
  kind : Nat
  /-- absolute scratchpad offset (PFS, PWB), or slot base for a bound PFR -/
  scr : Nat
  /-- physical address of each 64-byte line, in order -/
  lines : List Nat
  stook : Nat
  sheaf : Nat
  /-- TAG and panel index of a PFR -/
  tag : Nat
  panel : Nat
  /-- ring slot a bound PFR claimed -/
  slot : Nat
  /-- the engine has begun it -/
  begun : Bool
  /-- lines whose data has moved -/
  done : Nat
  /-- some copied word is poisoned -/
  poison : Bool
  /-- a PFR's program counter, active mask and instruction word, for the fault record of R142 -/
  pc : W64
  active : W32
  instr : W64
  /-- a PFR whose fault is being resolved: it does not bind -/
  held : Bool
  deriving DecidableEq, Repr

/-- A sample queued or running (R203). -/
structure SampleJob where
  sheaf : Nat
  stook : Nat
  dst : Nat
  /-- the 32 descriptor bytes -/
  desc : List Byte
  /-- physical address of each score's row start by 64 KiB page of the row, for SPACE = 1 -/
  pages : List Nat
  /-- the head sample has begun its row read (SPACE = 1) at this stamp -/
  since : Option W64
  deriving DecidableEq, Repr

/-- A random stream (R191): key, and bit counter. -/
structure Stream where
  key : W256
  ctr : W64
  deriving DecidableEq, Repr

/-- The seedbox of one core (file 06). -/
structure Seedbox where
  /-- rounding key, 256 bits | 06 R191, R195 | none delivered (no stream runs before a delivered key) -/
  roundKey : Option W256
  /-- next rounding key fetched before 2^48 blocks | 06 R195 | none -/
  nextKey : Option W256
  /-- bits of the rounding stream delivered under the present key and before (block index * 128 + bit) | 06 R191 | 0 -/
  roundBits : Nat
  /-- block index at which the present key began | 06 R195 | 0 -/
  keyBase : Nat
  /-- rounding key request outstanding since | 06 R196 | none -/
  roundReq : Option W64
  /-- rounding key failed: core out of service, retried every 1 ms | 06 R196 | none -/
  roundFail : Option W64
  /-- launch streams by launch identifier | 06 R195 | none -/
  launch : Tab Stream
  /-- launch key requests outstanding since | 06 R196 | none -/
  launchReq : Tab W64
  /-- launches whose key failed on this core | 06 R196 | none -/
  launchFail : List Nat
  deriving DecidableEq, Repr

/-- A tilth cache line (R242): physical line address / 64, with the class of the sector. -/
structure TLine where
  set : Nat
  way : Nat
  line : Nat
  bytes : List Byte
  deriving DecidableEq, Repr

/-- The pace and thermal state of one core (file 16). -/
structure CoreTherm where
  /-- LIMIT in 10 mV units, 60 to 90 | 16 R449, THM_CORE | 90 -/
  limit : Nat
  /-- PACE: tp governs | 16 R448 | false -/
  pace : Bool
  /-- tp in 1/16 °C while it governs | 16 R448 | 0 -/
  tp : Int
  /-- consecutive intervals with tp above the round estimate by more than 8 °C, at or above 115 °C, at or above 125 °C | 16 R448 | 0 -/
  runs : Nat × Nat × Nat
  /-- pace table: ring rate (per 10 µs, at 70 °C) by index 0 to 30 | 16, 02 calibration | DESIGN CHOICE empty (log 5) -/
  ring : Tab Nat
  /-- pace table: array step rate in M steps/s at 70 °C by index 0 to 30 | 16, 02 calibration | DESIGN CHOICE empty (log 5) -/
  step : Tab Nat
  /-- rounds since the last 10 mV rise of LIMIT | 16 Table 16-4 | 0 -/
  rise : Nat
  /-- stamp of the last 10 mV step of LIMIT at CRITICAL | 16 Table 16-4 | 0 -/
  limitAt : W64
  /-- held in F3 by a trip since its sensor reads below 85 °C | 16 R450 | none -/
  tripHold : Option W64
  /-- tripped and not yet returned | 16 R450 | false -/
  tripped : Bool
  /-- stamps of trips in the last hour | 16 R450 | empty -/
  trips : List W64
  deriving DecidableEq, Repr

/-- One physical core (files 02, 04, 05, 06, 08, 15). -/
structure Core where
  /-- in service | 02 R72, 17 R472 | false -/
  inService : Bool
  /-- fenced: failed self-test, dark, key failure or trip | 02 R72 | false -/
  fenced : Bool
  /-- in headland for a planned reset or role change | 17 R461 | false -/
  headland : Bool
  /-- the 64 sheaf slots | 04 R102 | empty -/
  sheaves : Tab Sheaf
  /-- the resident stooks by stook slot 0-31 | 04 R102 | none -/
  stooks : Tab Stook
  /-- stooks delivered and waiting, in delivery order: launch and stook index | 04 R107 | empty -/
  waiting : List (Nat × Nat)
  /-- fault records by sheaf slot | 04 R147 | none held (zero) -/
  faults : Tab FaultRec
  /-- schedulers 0-3: last sheaf slot issued from and run length | 04 R108, R113 | DESIGN CHOICE none, 0 (log 5) -/
  sched : Tab (Nat × Nat)
  /-- issues of the core so far, and the count at which each slot's sheaf last issued or started, from which R113 measures waiting |
  04 R113 | 0, DESIGN CHOICE 0 (log 3) -/
  issues : Nat
  issued : Tab Nat
  /-- the array | 02 | idle -/
  arr : Array2
  /-- tilth cache size C in units of 64 KiB | 07 R241 | 7 (448 KiB, the launch default) -/
  cunits : Nat
  /-- tilth cache lines | 07 R242 | empty -/
  tcache : List TLine
  /-- per-set round-robin pointers | 07 R242 | DESIGN CHOICE 0 (log 5) -/
  trr : Tab Nat
  /-- lines that the 32 KiB instruction cache holds, newest first: physical address / 64 | 05 R177, 07 R241 | empty -/
  icache : List Nat
  /-- bulk operations in issue order, and PFRs waiting to bind | 08 R250, 05 R173 | empty -/
  bulk : List BulkOp
  pfr : List BulkOp
  /-- sampler queue, head first, at most 64 | 06 R203 | empty -/
  samples : List SampleJob
  /-- the seedbox | 06 | no key -/
  seed : Seedbox
  /-- next load identifier | model's own bookkeeping | 0 -/
  nextLoad : Nat
  /-- FALLOW: 0 F0, 1 F1, 2 F2, 3 F3 | 15 R428 | 3 -/
  fallow : Nat
  /-- a wake is under way since | 15 R429, Table 15-6 | none -/
  waking : Option W64
  /-- pace and thermal state | 16 | limit 0.90 V -/
  therm : CoreTherm
  /-- repair queue of the tilth walker: word addresses, at most 64 | 11 R324 | empty -/
  repair : List Nat
  /-- tilth walker: next word address | 11 R331 | 0 -/
  walker : Nat
  /-- uncorrectable scratch words in the last hour: stamps | 11 R326 | empty -/
  ueHour : List W64
  /-- corrected tilth locations | 11 R326, R335 | none -/
  hist : Hist
  /-- stands in its quarter's ring, not bypassed | 02 R58, 08 R252 | not a member -/
  ringMember : Bool
  deriving DecidableEq, Repr

/-! ## The granary -/

/-- Who asked for an access, and where its answer goes. -/
inductive Requester where
  /-- a lane of an outstanding load: core 64 n + c, sheaf slot, load identifier -/
  | load (core sheaf id : Nat)
  /-- a sheaf store or an atomic that returns nothing: core, sheaf slot, instruction identifier -/
  | store (core sheaf id : Nat)
  /-- line `i` of a bulk operation: core, identifier, line -/
  | bulk (core id i : Nat)
  | os (core : Nat)
  /-- a line of a pin that its engine fills -/
  | pin (n : Nat)
  | guest (tag : Nat)
  | drill (conn flow : Nat) (seq : W64)
  | roce (qp psn : Nat)
  deriving DecidableEq, Repr

/-- Operation of a granary request. -/
inductive GOp where
  | read
  /-- byte offsets within the sector and their new values; poisoned data -/
  | write (bytes : Mem) (psn : Bool)
  /-- an atomic on one word: SYNC OP, TYPE code, the operands by lane (SA, SB), the lanes wanting the old value -/
  | atomic (op ty off : Nat) (lanes : List (Nat × W64 × W64))
  deriving DecidableEq, Repr

/-- A request waiting at its home half (R215, R223, R224, R232). -/
structure GReq where
  /-- physical address of the sector (a multiple of 64) -/
  pa : Nat
  op : GOp
  req : Requester
  /-- class code of Table 7-5 -/
  cls : Nat
  /-- master code of Table 10-5 -/
  master : Nat
  /-- key slot that the access carries (R494) -/
  slot : Nat
  /-- stage of the run, if the access is staged (R367) -/
  stage : Option Nat
  /-- returned retry-later since: a request to a quarter in headland or reset (R464) -/
  retry : Option W64
  /-- its access is counted already: another word of its sector, or an access that waits again (R248) -/
  counted : Bool := false
  deriving DecidableEq, Repr

/-- A line in a cache way (R212, R224, R225), or a shadow line of a stage (R368, R370). -/
structure Line where
  set : Nat
  way : Nat
  /-- line number a (R214) -/
  num : Nat
  present : BitVec 4
  dirty : BitVec 4
  /-- age, 0 to 3 (R225); of a shadow line, the insertion age of its stores' class, 4 for NOALLOC (log 21) -/
  age : Nat
  pinned : Bool
  /-- stage of a shadow line -/
  shadow : Option Nat
  /-- reduction count -/
  red : Nat
  /-- key slot -/
  slot : Nat
  /-- bytes at offsets 0 to 255 -/
  bytes : Mem
  /-- poisoned 32-byte words, 0 to 7 -/
  psn : List Nat
  deriving DecidableEq, Repr

/-- A fill buffer entry (R223, R226). -/
structure Fill where
  num : Nat
  cls : Nat
  master : Nat
  slot : Nat
  /-- accesses waiting for the fill, in order -/
  waiters : List GReq
  /-- sectors still to come from LPDDR -/
  want : List Nat
  /-- sectors that have come under the fill's slot: data and poison -/
  got : Tab (W512 × Bool)
  /-- the fill installs its line; a NOALLOC read of one sector installs none (Table 7-5), and takes no entry of the 512 -/
  install : Bool
  /-- data has returned and the set had no eligible way (R226) -/
  waiting : Bool
  /-- mark the line pinned on arrival (R228) -/
  pin : Bool
  deriving DecidableEq, Repr

/-- An admitted reduction (R232, R234). -/
structure Red where
  req : GReq
  bank : Nat
  /-- word operations it takes in its bank -/
  ops : Nat
  deriving DecidableEq, Repr

/-- A merge buffer entry (R237). -/
structure Merge where
  sector : Nat
  readers : Nat
  deriving DecidableEq, Repr

/-- A request to a pin engine (R228, R229, R231). -/
structure PinReq where
  /-- 0 pin, 1 unpin, 2 thrash-event release, 3 way-fence release, 4 an established pin whose region changed its mode -/
  kind : Nat
  pin : Nat
  base : Nat
  size : Nat
  deriving DecidableEq, Repr

/-- A carve walk (R220). -/
structure Carve where
  /-- next set -/
  set : Nat
  oldP : Nat
  /-- queue and sequence number of the command -/
  qu : Nat
  seq : Nat
  deriving DecidableEq, Repr

/-- One granary half (file 07). -/
structure Half where
  /-- P, plot ways (GRN_WAYS.PLOT) | 07 R213 | 0 -/
  plotWays : Nat
  /-- LIMIT of GRN_PIN_LIMIT | 07 R227 | 14 (10 on 4B) -/
  limit : Nat
  /-- plots by index: region offset, size, key slot of the first mapping group | 07 R218, 18 R494 | none -/
  plots : Tab (Nat × Nat × Option Nat)
  /-- lines held, cached and shadow | 07 R212 | none -/
  lines : List Line
  /-- reserved pin counts per set, beyond lines already marked | 07 R228 | 0 -/
  reserved : Tab Nat
  /-- requests waiting at the half, in arrival order | 07 R223 | empty -/
  reqs : List GReq
  /-- fill buffer, at most 512 entries | 07 R223 | empty -/
  fills : List Fill
  /-- merge buffer, at most 256 sectors, oldest first | 07 R237 | empty -/
  merge : List Merge
  /-- fenced ways (GRN_WAYS.FENCED counts them) | 09 R283 | none -/
  fenced : List Nat
  /-- GRN_THRASH_CFG, 32 bits | 07 R230 | 0x1003_E880 -/
  thrashCfg : W32
  /-- GRN_STATUS.THRASH | 07 R230 | 0 -/
  thrash : Bool
  /-- GRN_ACC_ORD and GRN_HIT_ORD at the start of the window | 07 R230 | 0 -/
  winAcc : W64
  winHit : W64
  /-- stamp of the start of the window | 07 R230 | 0 -/
  winAt : W64
  /-- accesses and hits of the last qualifying window, for R231 | 07 R231 | 0 -/
  evA : W64
  evH : W64
  /-- a thrash event sent and not yet received by Pelseso | 07 R231 | false -/
  event : Bool
  /-- windows for which Pelseso still ignores the half's events | 07 R231 | 0 -/
  ignore : Nat
  /-- carve walk in progress (GRN_STATUS.CARVING) | 07 R220 | none -/
  carve : Option Carve
  /-- pin engine queue, head first | 07 R228 | empty -/
  pinq : List PinReq
  /-- pin that the engine serves until every line of it is marked | 07 R228, GRN_STATUS.PIN_BUSY | none -/
  serving : Option PinReq
  /-- admitted reductions, in admission order | 07 R234 | empty -/
  reds : List Red
  /-- repair queue: word addresses (physical address / 32), at most 64 | 11 R324 | empty -/
  repair : List Nat
  /-- walker: next location, 128 set + 8 way + word in line | 11 R328 | 0 -/
  walker : Nat
  /-- locations of this pass that the walker skipped, their lines' reduction counts not being zero | 11 R329 | none -/
  skips : List Nat
  /-- accesses of the arrays of middle-die ways 0 to 9 in the round in progress, and in the round that ended last | 16 R444 | 0 -/
  used : Nat × Nat
  /-- words corrected in ways 0 to 9 in the second in progress | 16 R446 | 0 -/
  ceSec : Nat
  /-- uncorrectable words of each way in the last hour: stamps | 11 R326 | empty -/
  ueHour : Tab (List W64)
  /-- corrected locations | 11 R326, R335 | none -/
  hist : Hist
  deriving DecidableEq, Repr

/-- A pin (R228). -/
structure Pin where
  priority : Nat
  base : Nat
  size : Nat
  /-- creation order -/
  order : Nat
  /-- halves that have accepted the request so far -/
  accepted : List Nat
  /-- command to complete when every line is resident and marked -/
  cmd : Option (Nat × Nat)
  deriving DecidableEq, Repr

/-! ## Memory stacks -/

/-- Whom a burst request answers: the master behind LPDDR_REQUEST, or the fill of a line of a half, whether it installs the line or not. -/
inductive MSrc where
  | port
  | fill (h num : Nat) (install : Bool)
  deriving DecidableEq, Repr

/-- A request in a stack controller's pool (R307). -/
structure MReq where
  id : Nat
  write : Bool
  master : Nat
  /-- stack-local burst address -/
  y : Nat
  /-- a write's data as it is stored, encrypted under its slot, and its sideband bits 31:0 -/
  data : W512
  side : W32
  src : MSrc
  /-- stamp of entry -/
  since : W64
  /-- issued to the DRAM, waiting for its return -/
  issued : Bool
  /-- failed attempts in succession -/
  tries : Nat
  deriving DecidableEq, Repr

/-- One channel (R297, R299, R309, R310, R313). -/
structure Chan where
  /-- stamps of CRC failures in the last second -/
  crc : List W64
  /-- a retrain is due; a retrain is under way -/
  retrainDue : Bool
  retraining : Bool
  /-- slots used in the present window of 64 and by each master -/
  winUsed : Nat
  winBy : Tab Nat
  /-- serving a write batch -/
  batch : Bool
  /-- open row of each bank -/
  rows : Tab Nat
  /-- postponed (positive) or pulled-in (negative) refreshes of each bank -/
  refresh : Tab Int
  /-- stamp at which a refresh of each bank last fell due -/
  dueAt : Tab W64
  /-- activations counted per bank -/
  acts : Tab Nat
  /-- adjusting its timing since -/
  adjust : Option W64
  /-- arbiter pointer of R30 over the master codes -/
  ptr : Nat
  deriving DecidableEq, Repr

/-- One memory stack and its controller (file 10). -/
structure Stack where
  /-- GEN read at training | 10 R300 | 0 -/
  gen : Nat
  /-- RATE: 0 none, 1 9.6 Gb/s, 2 10.7 Gb/s | 10 MEM_STATE | 0 -/
  rate : Nat
  /-- STATE: 0 training, 1 up, 2 degraded, 3 failed, 4 absent, 5 self-refresh | 10 MEM_STATE | 0 -/
  st : Nat
  /-- MEM_CH_FAIL, 64 bits | 10 R299 | 0x0 -/
  failed : W64
  /-- MEM_QOS_SHARE, 64 bits | 10 R311 | 0x0000_0400_4408_2110 -/
  share : W64
  /-- MEM_QOS_LIMIT, 64 bits | 10 R311 | 0x0220_0220_1010_4080 -/
  limit : W64
  /-- request pool, in order of entry, at most 4,096 | 10 R307 | empty -/
  pool : List MReq
  /-- requests waiting at their masters' ports | 10 R312 | empty -/
  port : List MReq
  /-- next request identifier | model's own bookkeeping | 0 -/
  nextId : Nat
  /-- reads delivered to their masters, newest first: identifier, data, poison | model's observation | empty -/
  answers : List (Nat × W512 × Bool)
  /-- the 64 channels | 10 R297, R309 | idle -/
  chans : Tab Chan
  /-- refresh rate multiple of each die, and whether it fell back | 10 R310 | DESIGN CHOICE 1 (log 6) -/
  dieRate : Tab Nat
  dieFallback : List Nat
  /-- activation threshold that each die reports for refresh management | 10 R310 | DESIGN CHOICE 0 (none reported, log 6) -/
  rfmLimit : Tab Nat
  /-- repair queue of the walker: burst numbers (physical address / 64) | 11 R324 | empty -/
  repair : List Nat
  /-- walker: next burst number | 11 R331 | 0 -/
  walker : Nat
  /-- uncorrectable bursts per channel in the last hour: stamps | 11 R326 | empty -/
  ueHour : Tab (List W64)
  /-- corrected bursts | 11 R326, R335 | none -/
  hist : Hist
  deriving DecidableEq, Repr

/-! ## Links, control network, flags, guest port -/

/-- What a flit carries, as its layout inside the module says it (R261): part of a bulk packet between two assemblies that a launch issued, part of a
control message between two units (0 whole, 1 and 2 the halves of a BOUNCE), up to four synchronisation operations (source, store's quarter, flag), or the acknowledgment of a group of the
other direction up to a sequence number. -/
inductive Cargo where
  | bulk (src dest launch : Nat) (last : Bool)
  | control (src dest part : Nat)
  | sync (ops : List (Nat × Nat × Nat))
  | ack (g seq : Nat)
  deriving DecidableEq, Repr
/-- A flit: its 64 bytes, KIND, and cargo. -/
structure Flit where
  data : W512
  kind : Nat
  cargo : Cargo
  deriving DecidableEq, Repr

/-- One lane group of one direction of a link (R258 to R264). -/
structure Group where
  /-- 0 active, 1 retiring, 2 retired -/
  st : Nat
  /-- spare 0 and 1: 0 good and unused, 1 in use, 2 failed -/
  spares : Nat × Nat
  /-- data lane that each spare in use replaces -/
  replaced : Tab Nat
  /-- consecutive measurements below 12/64 UI, by lane 0-35 -/
  low : Tab Nat
  /-- last margin by lane, in 1/64 UI -/
  margin : Tab Nat
  /-- stamps of CRC failures in the last second -/
  crc : List W64
  /-- the lane that retired the group (R266) -/
  lane : Nat
  /-- transmitter: flits not yet sent, in order of arrival -/
  queue : List Flit
  /-- sequence of the next flit, and unacknowledged flits by sequence, at most 512 -/
  txNext : Nat
  unacked : List (Nat × Flit)
  /-- the last 15 flits sent, newest first: whether each was control or synchronisation -/
  small : List Bool
  /-- a bulk packet, and a control message of two flits, of which some flits are still to be sent -/
  midPacket : Bool
  midMessage : Bool
  /-- the acknowledgment that has come back and not been taken -/
  ackIn : Option Nat
  /-- receiver: sequence of the next flit, and whether it discards until a replay -/
  rxNext : Nat
  discarding : Bool
  /-- good flits since the last acknowledgment, and the first half of a message of two flits -/
  good : Nat
  part : Option W512
  /-- flits queued to be sent again by a replay: next sequence -/
  replayAt : Option Nat
  deriving DecidableEq, Repr

/-- A substrate link, or LG (index 8). -/
structure Link where
  /-- STATE: 0 training, 1 up, 2 down, 3 absent | 09 LNK_STATE | 0 -/
  st : Nat
  /-- groups: index 16 dir + g | 09 R258 | DESIGN CHOICE all active, spares good (log 6) -/
  groups : Tab Group
  /-- stamp of the link-down | 09 R265 | none -/
  downSince : Option W64
  /-- abandonment of R265 done | 09 R265 | false -/
  abandoned : Bool
  /-- rotation of bulk packets over the groups, by direction | 09 R261, R30 | 0 -/
  turn : Tab Nat
  /-- control and synchronisation flits whose group is retiring, with their direction, in order | 09 R264 | empty -/
  wait : List (Nat × Flit)
  /-- direction, group and lane that took the link down | 09 R266 | 0 -/
  why : Nat × Nat × Nat
  deriving DecidableEq, Repr

/-- A control message (Table 9-5): its 64 bytes. -/
abbrev CtlMsg := List Byte

/-- A control endpoint (R271, R272). -/
structure Endpoint where
  /-- role code | 09 R272 | IDLE for a core, SERVICE otherwise -/
  role : Nat
  /-- role epoch, 32 bits | 09 R272 | 0 -/
  epoch : W32
  /-- inbox, head first, at most 8: message, and multicast slot it is a copy of (quarter, slot) | 09 R271 | empty -/
  inbox : List (CtlMsg × Option (Nat × Nat))
  /-- messages outstanding | 09 R271 | 0 -/
  out : Nat
  /-- return queue: BOUNCE messages of 128 bytes | 09 R271, R273 | empty -/
  ret : List (List Byte)
  /-- messages that ran, newest first: TYPE and TAG (effects of other TYPEs are those of their own chapters) | 09 R273 | empty -/
  ran : List (Nat × Nat)
  /-- MCAST_DONE messages received | 09 R277 | empty -/
  done : List CtlMsg
  deriving DecidableEq, Repr

/-- A multicast retry slot (R275 to R277). -/
structure Mcast where
  msg : CtlMsg
  src : Nat
  tag : W32
  targets : W64
  /-- copies that entered an inbox -/
  entered : W64
  delivered : W64
  blocked : W64
  bounced : W64
  since : W64
  deriving DecidableEq, Repr

/-- The control network (file 09). -/
structure Control where
  /-- endpoints by source identifier | 09 R271 | default -/
  eps : Tab Endpoint
  /-- messages waiting for an inbox place: destination, message, since | 09 R271 | empty -/
  net : List (Nat × CtlMsg × W64)
  /-- messages of a pair of assemblies whose route has a link down: destination and message, in send order | 09 R269 | empty -/
  held : List (Nat × CtlMsg)
  /-- multicast retry slots: index 8 q + slot | 09 R275 | free -/
  mcast : Tab Mcast
  /-- module-wide role epoch counter | 09 R272 | 0 -/
  epochCtr : W32
  deriving DecidableEq, Repr

/-- A registered flag wait (R280). -/
structure FlagWait where
  core : Nat
  sheaf : Nat
  flag : Nat
  threshold : W32
  deriving DecidableEq, Repr

/-- The flag store of one base die (R278). -/
structure FlagStore where
  /-- flag values, 4,096 of 32 bits | 09 R278 | 0 -/
  vals : Tab W32
  /-- flags given to launches, in ascending pieces: first flag, count, launch | 09 R278 | none -/
  owned : List (Nat × Nat × Nat)
  /-- registered waits | 09 R280 | empty -/
  waits : List FlagWait
  deriving DecidableEq, Repr

/-- A hedgerow rule (Table 9-11). -/
structure Rule where
  valid : Bool
  read : Bool
  write : Bool
  atomic : Bool
  keySlot : Nat
  gbase : Nat
  mbase : Nat
  size : Nat
  deriving DecidableEq, Repr

/-- A request of the module to the guest die (R290). -/
structure GuestOut where
  tag : Nat
  write : Bool
  core : Nat
  since : W64
  deriving DecidableEq, Repr

/-- A guest request that the granaries serve (R289): OP, TAG, physical address, length, key slot, answers still due, and data: the old values
of an ATOMIC_ADD by byte offset. -/
structure GuestIn where
  id : Nat
  op : Nat
  tag : Nat
  pa : Nat
  len : Nat
  slot : Nat
  due : Nat
  data : Mem
  poison : Bool
  deriving DecidableEq, Repr

/-- The guest port and the hedgerow (file 09). -/
structure Guest where
  /-- negotiated protocol version | 09 R286 | 0 (none) -/
  version : Nat
  /-- modules in service, bit i for module i | 09 R286 | 0 -/
  modules : Nat
  /-- SEQ of the next flit sent; unacknowledged flits (SEQ, 256 bytes) | 09 R287 | 0, empty -/
  txSeq : W32
  unacked : List (W32 × List Byte)
  /-- bodies of flits that wait while 1,024 are unacknowledged | 09 R287 | empty -/
  txWait : List (List Byte)
  /-- flits received in order whose OP has not been acted on yet | 09 R287 | empty -/
  rx : List (List Byte)
  /-- last ACK received and its stamp | 09 R287 | DESIGN CHOICE 0xFFFF_FFFF (log 6) -/
  ackRx : W32
  ackAt : W64
  /-- next SEQ expected | 09 R287 | 0 (DESIGN CHOICE first SEQ, log 6) -/
  rxSeq : W32
  /-- CRC failures in the last second per module | 09 R286 | empty -/
  crc : Tab (List W64)
  /-- retraining since | 09 R286 | none -/
  retrain : Option W64
  /-- the 64 rules by index | 09 R288 | all fields zero -/
  rules : Tab Rule
  /-- guest requests outstanding, at most 256 | 09 R289 | empty -/
  inReqs : List GuestIn
  /-- next identifier of one | model's own bookkeeping | 0 -/
  nextIn : Nat
  /-- requests to the guest die outstanding, at most 256 | 09 R290 | empty -/
  outReqs : List GuestOut
  /-- stamps of MALFORMED, DENIED and TIMEOUT events of the last 1 ms | 09 R290 | empty -/
  events : List W64
  /-- closed by the hedgerow | 09 R290 | false -/
  closed : Bool
  /-- supply removed | 20 R534 | false -/
  unpowered : Bool
  /-- flits sent to the guest, newest first | model's observation of the wire | empty -/
  sent : List (List Byte)
  /-- TAG of the module's next request | DESIGN CHOICE 0 (log 6) -/
  nextTag : Nat
  deriving DecidableEq, Repr

/-! ## Pelseso, queues, tally -/

/-- A mailbox pair (file 12). -/
structure Mailbox where
  /-- request area, 4 KiB by offset | 12 R337, R338 | zero -/
  req : Mem
  /-- admin completion ring, 2 KiB by offset | 12 R337 | zero -/
  cpl : Mem
  /-- acknowledgment ring, 2 KiB by offset | 12 R337 | zero -/
  ack : Mem
  /-- ACK_TAIL, mod 256 | 12 MB_STATE | 0 -/
  ackTail : BitVec 8
  /-- CPL_TAIL, mod 128 | 12 MB_STATE | 0 -/
  cplTail : BitVec 7
  /-- MB_ACK_HEAD.HEAD | 12 R340 | 0 -/
  ackHead : BitVec 8
  /-- MB_CPL_HEAD.HEAD | 12 R340 | 0 -/
  cplHead : BitVec 7
  /-- VER_MAJOR, VER_MINOR | 12 R347 | 0, 0 -/
  verMajor : Nat
  verMinor : Nat
  /-- STATE: 0 detached, 1 attached, 2 detaching | 12 R347, R348 | 0 -/
  st : Nat
  /-- MB_DB_DROPPED, 64 bits | 12 R346 | 0x0 -/
  dropped : W64
  /-- MB_CLIENT | 12 R347 | 0 -/
  client : W32
  deriving DecidableEq, Repr

/-- A queue (R341, R354, R355). -/
structure Queue where
  group : Nat
  depthLog2 : Nat
  mbMask : W32
  cqAddr : Nat
  /-- next sequence number -/
  nextSeq : W64
  /-- POSTED -/
  posted : W64
  /-- engine's copy of CONSUMED -/
  consumed : W64
  /-- 0 active, 1 paused, 2 being deleted, 3 paused by R382 -/
  st : Nat
  /-- the QUEUE_STATE command that waits for the delete -/
  delCmd : Option (Nat × Nat)
  /-- arbiter pointer of R30, R33 over the 33 inputs -/
  ptr : Nat
  deriving DecidableEq, Repr

/-- Ledger states (Table 13-1); `wait` marks an admin command whose hardware wait continues (R350). -/
inductive Ledger where
  | accepted | running | ended | decided | wait
  deriving DecidableEq, Repr

/-- An accepted command: store entry, and ledger entry (R344, R364). -/
structure Cmd where
  queue : Nat
  seq : Nat
  /-- the 64 descriptor bytes as the queue engine copied them -/
  desc : List Byte
  /-- which of the two descriptor copies have gone uncorrectable -/
  bad : Bool × Bool
  verMajor : Nat
  verMinor : Nat
  mailbox : Nat
  /-- order of acceptance, module-wide -/
  order : Nat
  st : Ledger
  /-- checks passed and started: stamp of the first start -/
  first : Option W64
  /-- start of the present run, for the timeout -/
  start : Option W64
  runs : Nat
  abandons : Nat
  /-- status and DETAIL when the command has ended early -/
  status : Nat
  detail : Nat
  /-- waiting for flags (R278) or for cores (R379): still holds no stage -/
  waitFlags : Bool
  /-- launch identifier of the present run -/
  launch : W32
  /-- a memory read for the command has not completed since (R351) -/
  readAt : Option W64
  /-- its memory request was returned retry-later since (R464) -/
  retry : Option W64
  /-- quarters of the last run's placement -/
  quarters : Nat
  deriving DecidableEq, Repr

/-- A queue group (R353). -/
structure GroupS where
  /-- key slot; 0 for plaintext (given as 0xFF) -/
  keySlot : Nat
  qmask : Nat
  wakeUs : Nat
  deriving DecidableEq, Repr

/-- A mapping (R356). -/
structure Mapping where
  group : Nat
  va : Nat
  pa : Nat
  size : Nat
  /-- 0 64 KiB, 1 2 MiB -/
  page : Nat
  read : Bool
  write : Bool
  exec : Bool
  /-- class code -/
  cls : Nat
  deriving DecidableEq, Repr

/-- A sequence context (R358). -/
structure Context where
  group : Nat
  key : W256
  /-- committed bit counter -/
  counter : W64
  kvRoot : W64
  kvLen : W32
  temp : W32
  topK : W32
  topP : W32
  /-- last committed token, its probability and COUNTER -/
  token : Option (W32 × W32 × W64)
  deriving DecidableEq, Repr

/-- A staged token of a context in a run (R205, R376). -/
structure Staged where
  token : W32
  prob : W32
  counter : W64
  deriving DecidableEq, Repr

/-- One context column of a run (R198, R360). -/
structure Column where
  /-- context number -/
  ctx : Nat
  /-- core 64 n + c and column -/
  core : Nat
  col : Nat
  /-- staged counter -/
  counter : W64
  tokens : Option Staged
  /-- samples that staged a token, counted -/
  staged : Nat
  marked : Bool
  streamEnd : Bool
  deriving DecidableEq, Repr

/-- A run of a work command (R359, R366, R379). -/
structure Run where
  queue : Nat
  seq : Nat
  group : Nat
  /-- 0x40 LAUNCH, 0x41 COPY, 0x42 MARK -/
  opcode : Nat
  stage : Option Nat
  /-- cores of the placement, 64 n + c, in ascending logical order -/
  cores : List Nat
  qmask : Nat
  entry : W64
  arg : W64
  viewAddr : W64
  stooks : Nat
  regs : Nat
  sheaves : Nat
  scratch : Nat
  cunits : Nat
  trapMask : Nat
  poisonPolicy : Bool
  lockUs : Nat
  limitUs : Nat
  /-- ring positions given -/
  ring : Bool
  cols : List Column
  /-- flags: their store's quarter, and their pieces, first flag and count -/
  flags : Nat × List (Nat × Nat)
  /-- threads marked under POISON_POLICY = 1 whose column holds no context -/
  poisonedThreads : Nat
  /-- lowest killing status with its stamp and source: (stamp, source, status, detail) -/
  kill : Option (W64 × Nat × Nat × Nat)
  /-- stooks not yet ended -/
  left : Nat
  /-- cores on which its first sheaf has started (R126) -/
  begun : List Nat
  /-- the committed copy must be read for a copy: bytes copied carried poison -/
  copyPoison : Bool
  deriving DecidableEq, Repr

/-- A shadow sector spilled to the quarter's spill area, or a hub SRAM shadow sector (R370). -/
structure Spill where
  stage : Nat
  /-- physical address of the sector -/
  pa : Nat
  bytes : List Byte
  psn : List Nat
  deriving DecidableEq, Repr

/-- Queue engine, Pelseso's tables and the tally (files 12, 13). -/
structure Pelseso where
  /-- the 32 mailbox pairs | 12 R337 | detached, zero -/
  mbs : Tab Mailbox
  /-- queues by number; the admin queues 0-31 always exist | 12 R341 | admin queues, SEQ 0 (DESIGN CHOICE log 7) -/
  queues : Tab Queue
  /-- queue descriptor cache: queue numbers, most recently used first, at most 16,384 | 12 R343 | empty -/
  cache : List Nat
  /-- the accepted-command store and the ledger, in order of acceptance, at most 131,072 | 12 R342, 13 R364 | empty -/
  cmds : List Cmd
  /-- order of acceptance counter | model's own bookkeeping | 0 -/
  order : Nat
  /-- groups by number | 12 R353 | none -/
  groups : Tab GroupS
  /-- mappings; together at most 4,194,304 page entries | 12 R356 | none -/
  maps : List Mapping
  /-- contexts by number | 12 R358 | none -/
  ctxs : Tab Context
  /-- homing regions in quarter-local mode | 01 R21 | none (fine) -/
  local_ : List Nat
  /-- pins by number | 07 R228 | none -/
  pins : Tab Pin
  /-- pin creation counter | model's own bookkeeping | 0 -/
  pinOrder : Nat
  /-- runs by launch identifier | 13 R366 | none -/
  runs : Tab Run
  /-- module-wide launch identifier counter, 32 bits | 12 R359 | 0 (DESIGN CHOICE log 7) -/
  launchCtr : W32
  /-- stage numbers in use | 13 R366 | none -/
  stages : List Nat
  /-- spilled sectors by quarter (4: the hub stage store) | 13 R370 | none -/
  spills : Tab (List Spill)
  /-- launches waiting for flags, in wait order: queue and sequence number | 09 R278 | empty -/
  flagQueue : List (Nat × Nat)
  /-- array self-test interval in seconds | 02 R70 | 60 -/
  testInterval : Nat
  /-- GLN_CFG, 32 bits | 11 R331 | 0x1800_1801 -/
  glnCfg : W32
  /-- FW_VERSION of the running image | 12 Table 12-5, 18 R480 | 0 -/
  fwVersion : W32
  /-- requests returned retry-later, waiting for reissue, and those without a stamp that wait for their pair's route | 17 R464, 09 R269 | empty -/
  retries : List GReq
  deriving DecidableEq, Repr

/-! ## Fabric and management ports -/

/-- A port (R385 to R389, R404): FP0-FP7 are 0-7, the management port is 8. -/
structure Port where
  /-- STATE: 0 training, 1 up, 2 absent | 14 FAB_PORT_STATE | 0 -/
  st : Nat
  /-- RATE: 0 none, 1 low, 2 high | 14 FAB_PORT_STATE | 0 -/
  rate : Nat
  /-- rate being tried: 2 or 1 | 14 R386, R404 | 2 -/
  trying : Nat
  /-- trying this rate since, and training since | 14 R386 | 0 -/
  trySince : W64
  trainSince : W64
  /-- the 10 s alarm has been raised in this training | 14 R386 | false -/
  alarmed : Bool
  /-- priorities paused by the peer, with the stamp | 14 R389 | none -/
  paused : Tab W64
  /-- priorities whose pause is ignored; and the stamp of the peer's release | 14 R389 | none -/
  ignored : List Nat
  released : Tab W64
  /-- the port asks its peer to pause priority ROCE_PRIO | 14 R389 | false -/
  pausing : Bool
  /-- host rings: CFG register, HEAD, TAIL by ring 0-15 | 14 R391 | 0 -/
  ringCfg : Tab W64
  ringHead : Tab W16
  ringTail : Tab W16
  /-- frames sent by the host rings, newest first | model's observation of the wire (14 R391) | empty -/
  sent : List (List Byte)
  deriving DecidableEq, Repr

/-- One drill flow (R396, R398). -/
structure Flow where
  /-- next FLOW_SEQ to apply -/
  rxNext : W64
  /-- messages held beyond it (version 2): FLOW_SEQ, TYPE, ADDR, payload, length asked -/
  held : List (W64 × Nat × W64 × List Byte × Nat)
  /-- a message applied whose effect is awaited: acknowledgments outstanding -/
  await : Nat
  /-- next FLOW_SEQ to send, and unacknowledged messages: FLOW_SEQ, TYPE (+ 0x100 for POISON), payload, shown by SACK -/
  txNext : W64
  unacked : List (W64 × Nat × List Byte × Bool)
  /-- retransmit interval in µs, consecutive resends, and last progress -/
  interval : Nat
  resends : Nat
  since : W64
  deriving DecidableEq, Repr

/-- A drill connection (R392 to R401, R496, R497). -/
structure Conn where
  peer : W128
  v4 : Bool
  mailbox : Nat
  group : Option Nat
  version : Nat
  flows : Nat
  peerConn : W32
  /-- highest CTR accepted, or none; next CTR sent -/
  ctrIn : Option W64
  ctrOut : W64
  /-- peer-to-module and module-to-peer keys -/
  keyIn : W256
  keyOut : W256
  /-- pending since ACCEPT, or live -/
  pending : Option W64
  flowTab : Tab Flow
  deriving DecidableEq, Repr

/-- A frame that an engine has sent, for observation: kind, connection or QP, and its bytes. -/
structure OutMsg where
  kind : Nat
  conn : Nat
  bytes : List Byte
  deriving DecidableEq, Repr

/-- An RDMA request that waits its turn or is in progress (R403): first PSN, read, key, address, payload, length. -/
structure Rdma where
  psn : BitVec 24
  read : Bool
  rkey : W32
  va : W64
  data : List Byte
  len : Nat
  deriving DecidableEq, Repr

/-- A queue pair (R402, R403). -/
structure Qp where
  /-- STATE: 0 reset, 1 ready, 2 error -/
  st : Nat
  /-- next PSN expected and next PSN sent -/
  recvPsn : BitVec 24
  sendPsn : BitVec 24
  /-- send rate in units of 1/2^16 of the full rate -/
  rate : Nat
  /-- stamp of the last CNP received or recovery -/
  cnpAt : W64
  /-- stamp of the last CNP sent | 14 R402, Table 14-6 | none -/
  cnpSent : Option W64
  /-- retries used, RNR retries used, timer since -/
  retries : Nat
  rnr : Nat
  timer : Option W64
  rnrTimer : Option W64
  /-- requests received, the first of them in progress while acknowledgments of the granary are awaited | 14 R403, R396 | empty, 0 -/
  held : List Rdma
  await : Nat
  /-- SENDs not yet acknowledged: PSN and payload | 14 R402 | empty -/
  sends : List (BitVec 24 × List Byte)
  deriving DecidableEq, Repr

/-- Fabric engines (file 14). -/
structure Fabric where
  /-- FAB_CFG, 32 bits | 14 FAB_CFG | 0xB7E0_0031 -/
  cfg : W32
  /-- FAB_TIME_CFG, 32 bits | 14 | 0x0000_0000 -/
  timeCfg : W32
  /-- FAB_TIME_STATE.STATE and PPS_OK | 14 R408, R409 | 0, 0 -/
  timeSt : Nat
  ppsOk : Bool
  /-- FAB_PTP_OFFSET, 64 bits | 14 R408 | 0x0 -/
  ptpOffset : W64
  /-- last PTP message, last accepted PPS edge, ignored PPS edges | 14 R409 | none, none, 0 -/
  ptpLast : Option W64
  ppsLast : Option W64
  ppsIgnored : Nat
  /-- the ports | 14 R385 | training -/
  ports : Tab Port
  /-- drill listen table, 64 x 32 bytes by offset | 14 R392, Table 14-4 | zero -/
  listen : Mem
  /-- queue-pair table, 1,024 x 64 bytes by offset | 14 R403, Table 14-7 | zero -/
  qpTab : Mem
  /-- drill connections by connection number | 14 R392 | none -/
  conns : Tab Conn
  /-- next connection number | model's own bookkeeping | 0 -/
  nextConn : Nat
  /-- queue pairs by index | 14 R402 | reset -/
  qps : Tab Qp
  /-- frames sent by the engines, newest first | model's observation of the wire | empty -/
  out : List OutMsg
  deriving DecidableEq, Repr

/-- The management port's services (files 14, 19). -/
structure Mgmt where
  /-- DHCP attempts of the present sequence; next attempt due | 14 R405 | 0 -/
  attempts : Nat
  dhcpAt : W64
  /-- address; recovery endpoint; collector endpoint (address, UDP port) | 14 R405 | none -/
  addr : Option W32
  recovery : Option (W32 × Nat)
  collector : Option (W32 × Nat)
  /-- TFTP fetch: next block, tries of that block, request stamp | 14 R406 | none -/
  fetch : Option (Nat × Nat × W64)
  /-- bytes fetched so far | 14 R406 | empty -/
  fetched : List Byte
  /-- failed fetches of this boot, and restart due | 14 R406, 18 R483 | 0, none -/
  fails : Nat
  restartAt : Option W64
  /-- console input delivered to OS core 0 | 14 R407 | empty -/
  consoleIn : List Byte
  /-- alarm-frame bytes and total bytes of the present ms, and its number | 19 R508 | 0 -/
  shareUsed : Nat
  shareMs : Nat
  /-- arbiter pointer of R30 over alarm, module and OS-core frames | 19 R508 | 0 -/
  ptr : Nat
  /-- module frames and OS-core frames queued (lengths) | 14 R404 | empty -/
  modQ : List (List Byte)
  osQ : List (List Byte)
  /-- frames sent, newest first | model's observation of the wire | empty -/
  sent : List (List Byte)
  deriving DecidableEq, Repr

/-! ## Power and temperature -/

/-- A minimum-voltage record (R420). -/
structure MinV where
  mv : Nat
  sensor : Nat
  stamp : W64
  deriving DecidableEq, Repr

/-- One voltage domain (R416 to R422, R433): index 67 q + d. -/
structure Domain where
  /-- failed tines of the domain (tine numbers) | 15 PWR_DOM_STATE.FAILED | none -/
  failed : List Nat
  /-- DARK | 15 R434 | false (true for a fused-off core) -/
  dark : Bool
  /-- VSET in mV | 15 R421 | 0 -/
  vset : Nat
  /-- domain cap CAP, 1 to 64 | 15 R418 | 64 -/
  cap : Nat
  /-- stamps of the last lowering and raising step | 15 R418 | 0 -/
  capAt : W64
  /-- TIN_MINV_STAMP record | 15 R420 | none (reads 0) -/
  minv : Option MinV
  /-- Pelseso's own copy from the rounds | 15 R420 | none -/
  roundMin : Option MinV
  deriving DecidableEq, Repr

/-- A queued or running wake (R430, R431). -/
structure Wake where
  core : Nat
  since : W64
  deriving DecidableEq, Repr

/-- Power (file 15). -/
structure Power where
  /-- last input voltage (mV), current (mA), power (W): PWR_INPUT | 15 R412, PWR_INPUT | 0 -/
  mv : Nat
  ma : Nat
  w : Nat
  /-- last report of each converter: mV and stamp | 15 R412 | none -/
  reports : Tab (Nat × W64)
  /-- stamps since which the input lies in each band: low 1, fail 2, high 3, over 4, normal 0 | 15 R412 | none -/
  band : Nat
  bandSince : W64
  /-- PWR_STATUS.INPUT: 0 normal, 1 low, 2 high | 15 R412 | 0 -/
  input : Nat
  /-- input switch open, or stopped below 36 V | 15 R412 | false -/
  stopped : Bool
  /-- precharge started | 15 R413 | false -/
  precharge : Bool
  /-- auxiliary supply running | 20 R518 | DESIGN CHOICE true (log 8) -/
  aux : Bool
  /-- SC_FAILED, 24 bits | 15 R415 | 0 -/
  scFailed : List Nat
  /-- buses shut off or lost | 15 R415 | none -/
  busOff : List Nat
  /-- quarter cap of each quarter in A | 15 R415, R418 | 625 -/
  quarterLimit : Tab Nat
  /-- quarter cap of each quarter, 1 to 64, and the stamp of its last change | 15 R418 | 64 -/
  quarterCap : Tab (Nat × W64)
  /-- module cap, 1 to 64 | 15 R418, R423 | 64 -/
  moduleCap : Nat
  /-- segment caps of forced wakes by cluster 16 q + k: cap, and stamps of the start and the end of the wake window | 15 R430, R431 | none (64) -/
  segCap : Tab (Nat × W64 × W64)
  /-- r in W | 15 R423 | 0 (DESIGN CHOICE log 8) -/
  r : Nat
  /-- BALLAST and PACED of PWR_STATUS | 15 R423, R424 | false -/
  ballast : Bool
  paced : Bool
  /-- demand last estimated, and demand added by the harrow | 15 R423, 17 R471 | 0 -/
  demand : Nat
  harrowDemand : Nat
  /-- account B in units of 10 µJ (BUCKET is a hundredth of it) | 15 R426 | 0 -/
  bucket : Nat
  /-- input and ballast energy not yet counted as a whole mJ, in units of 10 µJ | 15 R435 | 0 -/
  energyAcc : Nat
  ballastAcc : Nat
  /-- input power above 3.80 kW since | 15 R426 | none -/
  overSince : Option W64
  /-- sustained limit in force (Plim 3.70 kW) | 15 R426 | false -/
  sustained : Bool
  /-- PWR_BRAKE_N as filtered: asserted since | 15 R426 | none -/
  brake : Option W64
  /-- the 60 s brake alarm has been raised | 15 R426 | false -/
  brakeAlarmed : Bool
  /-- sustained-power offset, in steps of 10 mV downward, 0 to 30 | 15 R427 | 0 -/
  offset : Nat
  /-- stamps: last offset change, last limit or cap action | 15 R427 | none -/
  offsetAt : Option W64
  actedAt : Option W64
  /-- domains: index 67 q + d | 15 R416 | default -/
  domains : Tab Domain
  /-- wake queue of each quarter, oldest first | 15 R430 | empty -/
  wakes : Tab (List Wake)
  /-- priority pointer of each quarter's wake arbiter | 01 R30, 15 R430 | 0 -/
  wakePtr : Tab Nat
  deriving DecidableEq, Repr

/-- A temperature channel (R437). -/
structure TChan where
  /-- last accepted reading in 1/16 °C -/
  last : Option Int
  /-- suspect reading -/
  suspect : Option Int
  /-- consecutive rounds with no accepted reading -/
  miss : Nat
  failed : Bool
  deriving DecidableEq, Repr

/-- A region's level state (R442, R443). -/
structure Region where
  level : Nat
  /-- consecutive rounds at or above each threshold (WARN, THROTTLE, CRITICAL, TRIP) -/
  above : Nat × Nat × Nat × Nat
  /-- consecutive rounds more than 3 °C below the present level's threshold -/
  below : Nat
  /-- last governing estimate, in 1/16 °C -/
  est : Option Int
  /-- consecutive rises above 2 °C, and rounds of hold still due -/
  rises : Nat
  hold : Nat
  deriving DecidableEq, Repr

/-- The middle die of a half (R444 to R446). -/
structure Mid where
  ts : Option Int
  tm : Option Int
  tl : Option Int
  disagree : Bool
  /-- rounds of agreement still due before a disagreement raises a new alarm (R445); 0 for none -/
  agree : Nat
  ceWitness : Bool
  /-- corrected words of each of the last 3,610 seconds, newest first -/
  ceSecs : List Nat
  deriving DecidableEq, Repr

/-- Temperature (file 16). -/
structure Thermal where
  /-- channels by 1000 q + index: 0-63 cores, 64-103 middle die, 104-135 base die, 136-143 PHY and uncore, 144-783 tines, 784-787 stacks;
  hub 4000-4023, coolant inlet 4024 and outlet 4025 | 16 Table 16-1 | no reading -/
  chans : Tab TChan
  /-- regions: cores 64 q + c; middle die 300 + h; base die 310 + h; stacks 320 + m; hub 330 | 16 R442 | NORMAL -/
  regions : Tab Region
  /-- middle dies by half | 16 R444 | no estimate -/
  mids : Tab Mid
  /-- consecutive missing and complete rounds of each quarter | 16 R439 | 0 -/
  missed : Tab Nat
  complete : Tab Nat
  /-- quarters that are blind | 16 R439 | none -/
  blind : List Nat
  /-- coolant run lengths and flags COOLANT_HIGH, FLOW_LOW | 16 R451 | 0 -/
  coolRuns : Nat × Nat
  coolClr : Nat × Nat
  coolantHigh : Bool
  flowLow : Bool
  /-- OS-core clock: 0 2.8 GHz, 1 1.4 GHz, 2 0.7 GHz; rounds at NORMAL | 16 Table 16-4 | 0 -/
  osClk : Nat
  osNormal : Nat
  /-- stamp of the end of the last round | 16 R436 | 0 -/
  roundAt : W64
  /-- quarters (and 4 hub) whose results of the present round arrived | 16 R436 | none -/
  arrived : List Nat
  /-- correction in force of each scanner's oscillator (parts per million) and voltage reference (parts per million); 0 to 3 quarters, 4 hub | 16 R440 | 0 -/
  oscCorr : Tab Int
  refCorr : Tab Int
  deriving DecidableEq, Repr

/-! ## Security, identity, OS cores, the whole -/

/-- Security engine and flash (file 18). -/
structure Security where
  /-- entropy source passing its health tests | 18 R479 | false until the start-up test passes -/
  entropyOk : Bool
  /-- entropy source failed a health test and has passed none since | 06 R196 | false -/
  entropyFailed : Bool
  /-- flash: firmware image (head and body) | 18 R480 | DESIGN CHOICE empty (log 9) -/
  image : List Byte
  /-- flash: signing index f | 18 R486 | DESIGN CHOICE 0 (log 9) -/
  flashIndex : W64
  /-- flash: device certificate | 18 R485 | DESIGN CHOICE empty (log 9) -/
  cert : List Byte
  /-- flash: FAB_CFG.MODE kept | 14 FAB_CFG | 1 -/
  fabMode : Nat
  /-- header of the running image | 18 R480 | empty -/
  header : List Byte
  /-- a signing epoch taken in this boot: next leaf | 18 R486 | none -/
  nextLeaf : Option W64
  /-- f read at the first signature of the boot; FLASH_BEHIND | 18 R487 | 0, false -/
  firstF : W64
  flashBehind : Bool
  /-- boot key pair: encapsulation key bytes, key handle (free value index) | 18 R491 | none -/
  ek : List Byte
  dk : Nat
  /-- tenant key slots 1-63: 512-bit XTS keys | 18 R490 | none -/
  slots : Tab W512
  /-- image fuses not read blown, to retry at the next boot | 18 R484 | none -/
  fuseRetry : List Nat
  /-- the fuses of this boot's image have been blown | 18 R484 | false -/
  fusesBlown : Bool
  deriving DecidableEq, Repr

/-- Identity store on the auxiliary supply (R529). -/
structure Identity where
  /-- contents, 256 bytes | 20 R529, Table 20-10 | DESIGN CHOICE built from the fuses (log 9) -/
  bytes : List Byte
  /-- read offset | 20 R529 | DESIGN CHOICE 0 (log 9) -/
  offset : Nat
  /-- bytes returned by the last read | 20 R529 | empty -/
  last : List Byte
  deriving DecidableEq, Repr

/-- Result of the last access of one OS core. -/
structure OsCore where
  /-- data returned by the last load -/
  data : W512
  /-- access fault raised by the last access (R19) -/
  fault : Bool
  /-- the data of the last load was poisoned (R289, R290, R327) -/
  poison : Bool
  /-- parts of the last load that still await their answers: sector address (2^48 + TAG for the guest die), byte offset in it, width, place in data -/
  await : List (Nat × Nat × Nat × Nat)
  deriving DecidableEq, Repr

/-- The module. -/
structure State where
  /-- fuses | 00, 11, 18 | see Fuses -/
  fuse : Fuses
  /-- clocks and time base | 17 | see Clocks -/
  clk : Clocks
  /-- resets and boot | 17 | see Boot -/
  boot : Boot
  /-- quarters 0-3 | 17 | bring-up -/
  quarters : Tab Quarter
  /-- memories | 01, 10, 11 | zero -/
  mem : Memories
  /-- physical cores, index 64 n + c | 01, 02 | default -/
  cores : Tab Core
  /-- granary halves, index 2 n + h | 07 | default -/
  halves : Tab Half
  /-- memory stacks M0-M7 | 10 | default -/
  stackTab : Tab Stack
  /-- links in the order of Table 1-6 | 09 | training -/
  links : Tab Link
  /-- route in force of each pair of assemblies 5 a + b: 0 first, 1 second, 2 third, 3 no path | 09 R268 | 0 -/
  routes : Tab Nat
  /-- corrected vertical-bus errors of the last second, as stamp and number: bus 1000 q + 100 kind + i | 09 R284 | none -/
  vbus : Tab (List (W64 × Nat))
  /-- control network | 09 | empty -/
  ctl : Control
  /-- flag stores of the base dies | 09 R278 | zero -/
  flags : Tab FlagStore
  /-- guest port | 09 | closed -/
  guest : Guest
  /-- Pelseso, queue engine, tally | 12, 13 | empty -/
  pel : Pelseso
  /-- fabric | 14 | see Fabric -/
  fab : Fabric
  /-- management port services | 14, 19 | see Mgmt -/
  mgmt : Mgmt
  /-- power | 15 | see Power -/
  pwr : Power
  /-- temperature | 16 | see Thermal -/
  thm : Thermal
  /-- security | 18 | see Security -/
  sec : Security
  /-- windrow | 19 | empty -/
  wdr : Windrow
  /-- identity store | 20 | see Identity -/
  idst : Identity
  /-- urgency wires as sampled, index 8 quarter + master: asserted since | 10 R314 | none -/
  urgent : Tab W64
  /-- wires ignored after 1 ms, each with the stamp of its deassertion | 10 R314 | none -/
  urgIgnored : Tab (Option W64)
  /-- every 64-bit counter of the manual by control-space offset | 07 R248 and the counter banks | 0x0 -/
  counters : Tab W64
  /-- OS cores 0-15 | 01 R19 | no fault -/
  os : Tab OsCore
  /-- last value returned by a TIN_MINV_STAMP, development-port or control-space read command, and error status | 15 R420, 19 R500 | 0 -/
  readData : W64
  readErr : Bool
  /-- the model's own counter of free values drawn (log 2): no statement rests on it | - | 0 -/
  free : Nat
  /-- commands waiting, first in first out | the block's command interface | empty -/
  pending : List Instr
  deriving DecidableEq, Repr

/-! ## Reset -/

/-- A fuse set of a shipped KY-ISO-4A whose highest two cores of each half are fused off (log 4). -/
def Fuses.reset : Fuses where
  part := .a4
  offCores := [30, 31, 62, 63, 94, 95, 126, 127, 158, 159, 190, 191, 222, 223, 254, 255]
  loaded := false
  lifecycle := 1
  roots := []
  revoked := 0
  svnFloor := 0
  seed := 0
  debugOff := true
  hdgDeny := true
  partition := true
  epochUsed := 0
  epochSpoiled := 0
  macBase := 0
  thermK := []
  i70 := []
  accessPj := []
  tempCal := []
  oscCurve := []
  refCurve := []
  curveDefault := false

/-- The module right after power-good at a cold start, before the first boot step: every register at the reset value its
table gives (a value the spec does not give is named in the assumption log). -/
def State.reset : State where
  fuse := Fuses.reset
  clk := { tb := 0, frac := 0, inc := 0x1_0000_0000, pllLocked := false, copies := [], locked := 0, unlocked := [0, 1, 2, 3, 4, 5, 6, 7, 8, 9, 10, 11, 12, 13, 14, 15], refAt := 0, holdover := none, goodSince := none }
  boot := { step := 1, stopCode := 0, since := 0, kind := 1, count := 0, recovered := false, draining := none, modReset := none,
            fwRecover := false, fwSampled := false, coreResets := [], lost := false }
  quarters := []
  mem := { lpddr := [], lpSide := [], plots := ⟨[], [], []⟩, tilth := ⟨[], [], []⟩, hub := ⟨[], [], []⟩ }
  cores := []
  halves := []
  stackTab := []
  links := []
  routes := []
  vbus := []
  ctl := { eps := [], net := [], held := [], mcast := [], epochCtr := 0 }
  flags := []
  guest := { version := 0, modules := 0, txSeq := 0, unacked := [], txWait := [], rx := [], ackRx := 0xFFFF_FFFF, ackAt := 0, rxSeq := 0, crc := [],
             retrain := none, rules := [], inReqs := [], nextIn := 0, outReqs := [], events := [], closed := false, unpowered := false,
             sent := [], nextTag := 0 }
  pel := { mbs := [], queues := [], cache := [], cmds := [], order := 0, groups := [], maps := [], ctxs := [], local_ := [], pins := [],
           pinOrder := 0, runs := [], launchCtr := 0, stages := [], spills := [], flagQueue := [], testInterval := 60,
           glnCfg := 0x1800_1801, fwVersion := 0, retries := [] }
  fab := { cfg := 0xB7E0_0031, timeCfg := 0, timeSt := 0, ppsOk := false, ptpOffset := 0, ptpLast := none, ppsLast := none,
           ppsIgnored := 0, ports := [], listen := [], qpTab := [], conns := [], nextConn := 0, qps := [], out := [] }
  mgmt := { attempts := 0, dhcpAt := 0, addr := none, recovery := none, collector := none, fetch := none, fetched := [], fails := 0,
            restartAt := none, consoleIn := [], shareUsed := 0, shareMs := 0, ptr := 0, modQ := [], osQ := [], sent := [] }
  pwr := { mv := 0, ma := 0, w := 0, reports := [], band := 0, bandSince := 0, input := 0, stopped := false, precharge := false,
           aux := true, scFailed := [], busOff := [], quarterLimit := [], quarterCap := [], moduleCap := 64, segCap := [], r := 0,
           ballast := false, paced := false, demand := 0, harrowDemand := 0, bucket := 0, energyAcc := 0, ballastAcc := 0, overSince := none, sustained := false,
           brake := none, brakeAlarmed := false, offset := 0, offsetAt := none, actedAt := none, domains := [], wakes := [], wakePtr := [] }
  thm := { chans := [], regions := [], mids := [], missed := [], complete := [], blind := [], coolRuns := (0, 0), coolClr := (0, 0),
           coolantHigh := false, flowLow := false, osClk := 0, osNormal := 0, roundAt := 0, arrived := [], oscCorr := [], refCorr := [] }
  sec := { entropyOk := false, entropyFailed := false, image := [], flashIndex := 0, cert := [], fabMode := 1, header := [], nextLeaf := none, firstF := 0,
           flashBehind := false, ek := [], dk := 0, slots := [], fuseRetry := [], fusesBlown := false }
  wdr := { staging := [], blocks := [], openBlk := [], blkSeq := 0, lossSince := [], alarms := [], stream := [], sends := [], alarmSeq := 0, coll := [],
           traceCount := [], traceOpen := none, traceCfg := 0, traceStopped := false, winSel := [], mirror := [], idle := [],
           snapStamp := 0, resendAt := 0, dgramSeq := [] }
  idst := { bytes := [], offset := 0, last := [] }
  urgent := []
  urgIgnored := []
  counters := []
  os := []
  readData := 0
  readErr := false
  free := 0
  pending := []

end Sys2Proof.Machine
end

