-- ==== Sys2Proof/Machine/Ops.lean ====
section
/-! DEFINITION. The operations that every family shares: sparse tables and memories, bytes and words, defaults of the tables,
accessors, time, counters, log records and alarms, source identifiers and the quantities that depend on the variant. -/
namespace Sys2Proof.Machine

/-! ## Sparse tables -/

/-- The entry of an index, if the table lists one. -/
def tfind {α : Type} : Tab α → Nat → Option α
  | [], _ => none
  | (k, v) :: t, i => if i = k then some v else tfind t i

/-- The entry of an index, or the table's default. -/
def tget {α : Type} (d : α) (t : Tab α) (i : Nat) : α := (tfind t i).getD d

/-- Remove an index. -/
def tdel {α : Type} (t : Tab α) (i : Nat) : Tab α := t.filter (fun e => e.1 != i)

/-- Insert or replace an entry, keeping the indexes rising. -/
def tput {α : Type} : Tab α → Nat → α → Tab α
  | [], i, x => [(i, x)]
  | (k, v) :: t, i, x => if i = k then (i, x) :: t else if i < k then (i, x) :: (k, v) :: t else (k, v) :: tput t i x

/-- Set an entry: the default is not listed. -/
def tset {α : Type} [DecidableEq α] (d : α) (t : Tab α) (i : Nat) (x : α) : Tab α := if x = d then tdel t i else tput t i x

/-- Change an entry. -/
def tmod {α : Type} [DecidableEq α] (d : α) (t : Tab α) (i : Nat) (f : α → α) : Tab α := tset d t i (f (tget d t i))

/-- Insert a number into an ascending list without repeats. -/
def ladd : List Nat → Nat → List Nat
  | [], i => [i]
  | k :: t, i => if i = k then k :: t else if i < k then i :: k :: t else k :: ladd t i

/-- Remove a number from a list. -/
def ldel (l : List Nat) (i : Nat) : List Nat := l.filter (· ≠ i)

/-- Change the entry of a list at an index. -/
def lmod {α : Type} : List α → Nat → (α → α) → List α
  | [], _, _ => []
  | x :: t, 0, f => f x :: t
  | x :: t, i + 1, f => x :: lmod t i f

/-- The indexes from `a` up, `n` of them. -/
def idxFrom (a : Nat) : Nat → List Nat
  | 0 => []
  | n + 1 => a :: idxFrom (a + 1) n

/-! ## Bytes, words and sparse memory (R8: little-endian) -/

/-- The byte at an address: an unlisted address reads zero. -/
def mget (m : Mem) (a : Nat) : Byte := tget 0 m a
/-- Write one byte: a zero byte is not listed. -/
def mset (m : Mem) (a : Nat) (b : Byte) : Mem := tset 0 m a b
/-- Read `n` bytes from an address. -/
def mread (m : Mem) (a : Nat) : Nat → List Byte
  | 0 => []
  | n + 1 => mget m a :: mread m (a + 1) n
/-- Write bytes from an address up. -/
def mwrite (m : Mem) (a : Nat) : List Byte → Mem
  | [] => m
  | b :: t => mwrite (mset m a b) (a + 1) t
/-- Whether the indexes of a table rise strictly. -/
def tRising {α : Type} : Tab α → Bool
  | [] => true
  | [_] => true
  | (i, _) :: (j, y) :: t => decide (i < j) && tRising ((j, y) :: t)
/-- The canonical form of a memory: addresses strictly rising, no zero byte listed. -/
def Memory.wf (m : Mem) : Bool := tRising m && m.all (fun e => e.2 != 0)

/-- The number that little-endian bytes spell. -/
def leNat : List Byte → Nat
  | [] => 0
  | b :: t => b.toNat + 256 * leNat t
/-- The `n` low bytes of a number, lowest first. -/
def natLE : Nat → Nat → List Byte
  | 0, _ => []
  | n + 1, v => BitVec.ofNat 8 v :: natLE n (v / 256)
/-- Bytes of a bit vector, lowest first. -/
def bvLE {w : Nat} (n : Nat) (v : BitVec w) : List Byte := natLE n v.toNat
/-- A list of bytes cut or filled with zeros to a length. -/
def padTo (n : Nat) (l : List Byte) : List Byte := l.take n ++ List.replicate (n - l.length) 0
/-- `n` bytes of a list from an offset, zero beyond its end. -/
def slice (l : List Byte) (off n : Nat) : List Byte := padTo n (l.drop off)
/-- Little-endian field of `n` bytes at an offset of a list. -/
def fld (l : List Byte) (off n : Nat) : Nat := leNat (slice l off n)
/-- Bits hi..lo of a number. -/
def bits (v hi lo : Nat) : Nat := (v >>> lo) % 2 ^ (hi + 1 - lo)
/-- Bit i of a number. -/
def bit (v i : Nat) : Bool := v.testBit i
/-- 1 for true. -/
def b2n (b : Bool) : Nat := if b then 1 else 0
/-- Two's-complement reading of the low w bits of a number. -/
def signed (w v : Nat) : Int := if v % 2 ^ w < 2 ^ (w - 1) then (v % 2 ^ w : Nat) else (v % 2 ^ w : Nat) - (2 ^ w : Nat)
/-- The low w bits of an integer. -/
def wrapInt (w : Nat) (x : Int) : Nat := (x % (2 ^ w : Nat)).toNat
/-- Split a list into pieces of n elements (n > 0), at most `fuel` of them. -/
def chunks {α : Type} (n : Nat) : Nat → List α → List (List α)
  | 0, _ => []
  | f + 1, l => if l.isEmpty then [] else l.take n :: chunks n f (l.drop n)
/-- Set bits of a number below `n`, ascending. -/
def setBits (n v : Nat) : List Nat := (List.range n).filter (fun i => v.testBit i)
/-- Replace the bytes of a list from an offset. -/
def splice (l : List Byte) (off : Nat) (b : List Byte) : List Byte := l.take off ++ b ++ l.drop (off + b.length)
/-- Ceiling of a quotient. -/
def cdiv (a b : Nat) : Nat := (a + b - 1) / b

/-! ## Stores with written and poisoned words (file 11) -/

/-- The word numbers that n bytes at an address touch, for words of w bytes. -/
def wordsOf (w a n : Nat) : List Nat := if n = 0 then [] else idxFrom (a / w) ((a + n - 1) / w + 1 - a / w)

/-- Read n bytes: an unwritten word reads zero and a poisoned word marks the data poisoned (R321, R322). -/
def stRead (w : Nat) (st : Store) (a n : Nat) : List Byte × Bool :=
  (mread st.bytes a n, (wordsOf w a n).any (fun i => st.psn.contains i))

/-- Write bytes: the words written become written, and poisoned exactly as the write says; a partial write of a poisoned word
leaves it poisoned. -/
def stWrite (w : Nat) (st : Store) (a : Nat) (b : List Byte) (psn : Bool) : Store :=
  let ws := wordsOf w a b.length
  let full (i : Nat) : Bool := decide (a ≤ i * w) && decide ((i + 1) * w ≤ a + b.length)
  { bytes := mwrite st.bytes a b
    wr := ws.foldl ladd st.wr
    psn := if psn then ws.foldl ladd st.psn else st.psn.filter (fun i => !(ws.contains i && full i)) }

/-- Drop every word of a range of bytes: W = 0 and reads zero (R322, R330). -/
def stClear (w : Nat) (st : Store) (a n : Nat) : Store :=
  { bytes := st.bytes.filter (fun e => !(decide (a ≤ e.1) && decide (e.1 < a + n)))
    wr := st.wr.filter (fun i => !(decide (a ≤ i * w) && decide (i * w < a + n)))
    psn := st.psn.filter (fun i => !(decide (a ≤ i * w) && decide (i * w < a + n))) }

/-! ## Defaults of the tables: what a unit holds that no command has changed since reset -/

/-- A sheaf slot holding no sheaf. -/
def Sheaf.dflt : Sheaf where
  live := false
  stook := 0
  index := 0
  pc := 0
  active := 0
  exited := 0
  stack := []
  u := []
  p := []
  v := []
  regBad := []
  gen := 0
  loads := []
  memOut := []
  stOut := 0
  memLanes := []
  bulkOut := 0
  barWait := none
  lockWait := none
  lockSince := []
  awaits := []
  sample := none
  flagWait := none
  arrWait := false
  parked := false
  dog := false

/-- An idle array. -/
def Array2.dflt : Array2 where
  queue := []
  waiting := []
  run := none
  prevMode := none
  pend := none
  ring := []
  inbound := none
  rowMap := []
  testing := false
  lastPass := 0
  lastTest := 0

/-- A seedbox with no key. -/
def Seedbox.dflt : Seedbox where
  roundKey := none
  nextKey := none
  roundBits := 0
  keyBase := 0
  roundReq := none
  roundFail := none
  launch := []
  launchReq := []
  launchFail := []

/-- The thermal state of a core at reset: LIMIT 0.90 V. -/
def CoreTherm.dflt : CoreTherm where
  limit := 90
  pace := false
  tp := 0
  runs := (0, 0, 0)
  ring := []
  step := []
  rise := 0
  limitAt := 0
  tripHold := none
  tripped := false
  trips := []

/-- A core in F3 with an empty pipeline, 448 KiB of cache. -/
def Core.dflt : Core where
  inService := false
  fenced := false
  headland := false
  sheaves := []
  stooks := []
  waiting := []
  faults := []
  sched := []
  issues := 0
  issued := []
  arr := Array2.dflt
  cunits := 7
  tcache := []
  trr := []
  icache := []
  bulk := []
  pfr := []
  samples := []
  seed := Seedbox.dflt
  nextLoad := 0
  fallow := 3
  waking := none
  therm := CoreTherm.dflt
  repair := []
  walker := 0
  ueHour := []
  hist := { pass := 0, locs := [] }
  ringMember := false

/-- A granary half with no plots and no lines. -/
def Half.dflt (limit : Nat) : Half where
  plotWays := 0
  limit := limit
  plots := []
  lines := []
  reserved := []
  reqs := []
  fills := []
  merge := []
  fenced := []
  thrashCfg := 0x1003_E880
  thrash := false
  winAcc := 0
  winHit := 0
  winAt := 0
  evA := 0
  evH := 0
  event := false
  ignore := 0
  carve := none
  pinq := []
  serving := none
  reds := []
  repair := []
  walker := 0
  skips := []
  used := (0, 0)
  ceSec := 0
  ueHour := []
  hist := { pass := 0, locs := [] }

/-- An idle channel. -/
def Chan.dflt : Chan where
  crc := []
  retrainDue := false
  retraining := false
  winUsed := 0
  winBy := []
  batch := false
  rows := []
  refresh := []
  dueAt := []
  acts := []
  adjust := none
  ptr := 0

/-- A stack that has not been trained. -/
def Stack.dflt : Stack where
  gen := 0
  rate := 0
  st := 0
  failed := 0
  share := 0x0000_0400_4408_2110
  limit := 0x0220_0220_1010_4080
  pool := []
  port := []
  nextId := 0
  answers := []
  chans := []
  dieRate := []
  dieFallback := []
  rfmLimit := []
  repair := []
  walker := 0
  ueHour := []
  hist := { pass := 0, locs := [] }

/-- A lane group that carries traffic on its own lanes. -/
def Group.dflt : Group where
  st := 0
  spares := (0, 0)
  replaced := []
  low := []
  margin := []
  crc := []
  lane := 0
  queue := []
  txNext := 0
  unacked := []
  small := []
  midPacket := false
  midMessage := false
  ackIn := none
  rxNext := 0
  discarding := false
  good := 0
  part := none
  replayAt := none

/-- A link in training. -/
def Link.dflt : Link where
  st := 0
  groups := []
  downSince := none
  abandoned := false
  turn := []
  wait := []
  why := (0, 0, 0)

/-- A control endpoint of a given role. -/
def Endpoint.dflt (role : Nat) : Endpoint where
  role := role
  epoch := 0
  inbox := []
  out := 0
  ret := []
  ran := []
  done := []

/-- A hedgerow rule whose fields are zero. -/
def Rule.dflt : Rule := { valid := false, read := false, write := false, atomic := false, keySlot := 0, gbase := 0, mbase := 0, size := 0 }
/-- A flag store with no flag given. -/
def FlagStore.dflt : FlagStore := { vals := [], owned := [], waits := [] }

/-- A detached mailbox. -/
def Mailbox.dflt : Mailbox where
  req := []
  cpl := []
  ack := []
  ackTail := 0
  cplTail := 0
  ackHead := 0
  cplHead := 0
  verMajor := 0
  verMinor := 0
  st := 0
  dropped := 0
  client := 0

/-- Admin queue q, which belongs to mailbox q and always exists (R341). -/
def Queue.admin (q : Nat) : Queue where
  group := 0
  depthLog2 := 7
  mbMask := BitVec.ofNat 32 (2 ^ q)
  cqAddr := 0
  nextSeq := 0
  posted := 0
  consumed := 0
  st := 0
  delCmd := none
  ptr := 0

/-- A port in training. -/
def Port.dflt : Port where
  st := 0
  rate := 0
  trying := 2
  trySince := 0
  trainSince := 0
  alarmed := false
  paused := []
  ignored := []
  released := []
  pausing := false
  ringCfg := []
  ringHead := []
  ringTail := []
  sent := []

/-- A queue pair in reset. -/
def Qp.dflt : Qp where
  st := 0
  recvPsn := 0
  sendPsn := 0
  rate := 65536
  cnpAt := 0
  cnpSent := none
  retries := 0
  rnr := 0
  timer := none
  rnrTimer := none
  held := []
  await := 0
  sends := []

/-- A flow on which nothing has been sent. -/
def Flow.dflt : Flow where
  rxNext := 0
  held := []
  await := 0
  txNext := 0
  unacked := []
  interval := 0
  resends := 0
  since := 0

/-- A voltage domain whose tines are off. -/
def Domain.dflt (dark : Bool) : Domain where
  failed := []
  dark := dark
  vset := 0
  cap := 64
  capAt := 0
  minv := none
  roundMin := none

/-- A curve that corrects nothing. -/
def Curve.dflt : Curve := { c0 := 0, c1 := 0, c2 := 0 }
/-- A channel with no reading. -/
def TChan.dflt : TChan := { last := none, suspect := none, miss := 0, failed := false }
/-- A region at NORMAL with no estimate. -/
def Region.dflt : Region := { level := 0, above := (0, 0, 0, 0), below := 0, est := none, rises := 0, hold := 0 }
/-- A middle die with no estimate. -/
def Mid.dflt : Mid := { ts := none, tm := none, tl := none, disagree := false, agree := 0, ceWitness := false, ceSecs := [] }

/-- A quarter in bring-up before its first step. -/
def Quarter.dflt : Quarter where
  st := 3
  stamp := 0
  headlandEnded := false
  stay := false
  faults := []
  step := 0
  selfRefresh := false
  wave := 0
  railsOff := false
  tripHold := none
  trips := []
  resetAt := 0
  raised := false

/-- An OS core that has made no access. -/
def OsCore.dflt : OsCore := { data := 0, fault := false, poison := false, await := [] }

/-! ## Accessors -/

/-- Core n (64 q + c). -/
def State.core (s : State) (n : Nat) : Core := tget Core.dflt s.cores n
/-- Replace a core. -/
def State.setCore (s : State) (n : Nat) (c : Core) : State := { s with cores := tset Core.dflt s.cores n c }
/-- A core that is fenced, or treated as fenced since its rounding key failed (R72, R196). -/
def Core.away (c : Core) : Bool := c.fenced || c.seed.roundFail.isSome
/-- Sheaf slot of a core. -/
def Core.sheaf (c : Core) (sl : Nat) : Sheaf := tget Sheaf.dflt c.sheaves sl
/-- Replace a sheaf slot. -/
def Core.setSheaf (c : Core) (sl : Nat) (x : Sheaf) : Core := { c with sheaves := tset Sheaf.dflt c.sheaves sl x }
/-- Sheaf slot of core n. -/
def State.sheaf (s : State) (n sl : Nat) : Sheaf := (s.core n).sheaf sl
/-- Replace a sheaf slot of core n. -/
def State.setSheaf (s : State) (n sl : Nat) (x : Sheaf) : State := s.setCore n ((s.core n).setSheaf sl x)

/-- LIMIT of a half at reset: two ways of every set stay unpinned (07 R227). -/
def State.limit0 (s : State) : Nat := if s.fuse.part = .b4 then 10 else 14
/-- Half h. -/
def State.half (s : State) (h : Nat) : Half := tget (Half.dflt s.limit0) s.halves h
/-- Replace a half. -/
def State.setHalf (s : State) (h : Nat) (x : Half) : State := { s with halves := tset (Half.dflt s.limit0) s.halves h x }
/-- Stack m. -/
def State.stack (s : State) (m : Nat) : Stack := tget Stack.dflt s.stackTab m
/-- Replace a stack. -/
def State.setStack (s : State) (m : Nat) (x : Stack) : State := { s with stackTab := tset Stack.dflt s.stackTab m x }
/-- Channel of a stack. -/
def Stack.chan (k : Stack) (ch : Nat) : Chan := tget Chan.dflt k.chans ch
/-- Replace a channel. -/
def Stack.setChan (k : Stack) (ch : Nat) (x : Chan) : Stack := { k with chans := tset Chan.dflt k.chans ch x }
/-- Quarter q. -/
def State.quarter (s : State) (q : Nat) : Quarter := tget Quarter.dflt s.quarters q
/-- Replace a quarter. -/
def State.setQuarter (s : State) (q : Nat) (x : Quarter) : State := { s with quarters := tset Quarter.dflt s.quarters q x }
/-- Link l. -/
def State.link (s : State) (l : Nat) : Link := tget Link.dflt s.links l
/-- Replace a link. -/
def State.setLink (s : State) (l : Nat) (x : Link) : State := { s with links := tset Link.dflt s.links l x }
/-- Lane group g of direction dir of a link. -/
def Link.group (k : Link) (dir g : Nat) : Group := tget Group.dflt k.groups (16 * dir + g)
/-- Replace a lane group. -/
def Link.setGroup (k : Link) (dir g : Nat) (x : Group) : Link := { k with groups := tset Group.dflt k.groups (16 * dir + g) x }
/-- Mailbox b. -/
def State.mb (s : State) (b : Nat) : Mailbox := tget Mailbox.dflt s.pel.mbs b
/-- Replace a mailbox. -/
def State.setMb (s : State) (b : Nat) (x : Mailbox) : State := { s with pel := { s.pel with mbs := tset Mailbox.dflt s.pel.mbs b x } }
/-- Queue by number: an admin queue always exists. -/
def State.queue? (s : State) (q : Nat) : Option Queue :=
  match tfind s.pel.queues q with
  | some k => some k
  | none => if q < 32 then some (Queue.admin q) else none
/-- Create or replace a queue. -/
def State.setQueue (s : State) (q : Nat) (x : Queue) : State := { s with pel := { s.pel with queues := tput s.pel.queues q x } }
/-- Port p. -/
def State.port (s : State) (p : Nat) : Port := tget Port.dflt s.fab.ports p
/-- Replace a port. -/
def State.setPort (s : State) (p : Nat) (x : Port) : State := { s with fab := { s.fab with ports := tset Port.dflt s.fab.ports p x } }
/-- Voltage domain d of quarter q: that of a fused-off core is dark (R434). -/
def State.domain (s : State) (q d : Nat) : Domain :=
  tget (Domain.dflt (decide (d < 64) && s.fuse.offCores.contains (64 * q + d))) s.pwr.domains (67 * q + d)
/-- Replace a domain. -/
def State.setDomain (s : State) (q d : Nat) (x : Domain) : State :=
  let t := tset (Domain.dflt (decide (d < 64) && s.fuse.offCores.contains (64 * q + d))) s.pwr.domains (67 * q + d) x
  { s with pwr := { s.pwr with domains := t } }
/-- Flag store of a base die. -/
def State.flagStore (s : State) (q : Nat) : FlagStore := tget FlagStore.dflt s.flags q
/-- Replace a flag store. -/
def State.setFlagStore (s : State) (q : Nat) (x : FlagStore) : State := { s with flags := tset FlagStore.dflt s.flags q x }
/-- OS core i. -/
def State.osCore (s : State) (i : Nat) : OsCore := tget OsCore.dflt s.os i
/-- Replace an OS core's last result. -/
def State.setOs (s : State) (i : Nat) (x : OsCore) : State := { s with os := tset OsCore.dflt s.os i x }

/-- A command's outcome when it has been carried out: no command of this block ends a run. -/
abbrev Out := Host.Outcome State Fault Refusal
/-- The effect of a command whose rule's condition holds; where it does not hold, the event did not occur (log 1). -/
def evt (b : Bool) (s t : State) : Out := .next (if b then t else s)

/-! ## Time (R457: stamps count ns) -/

/-- The time base. -/
def now (s : State) : W64 := s.clk.tb
/-- Nanoseconds since a stamp. -/
def since (s : State) (t : W64) : Nat := (s.clk.tb - t).toNat
/-- A stamp that is at least `ns` old. -/
def aged (s : State) (t : W64) (ns : Nat) : Bool := decide (ns ≤ since s t)
/-- A condition held since a stamp for at least `ns`. -/
def heldFor (s : State) (t : Option W64) (ns : Nat) : Bool := match t with | some x => aged s x ns | none => false
/-- The stamps of a list within the last `ns`. -/
def recent (s : State) (l : List W64) (ns : Nat) : List W64 := l.filter (fun t => decide (since s t < ns))
/-- One microsecond, one millisecond, one second, one hour. -/
def us : Nat := 1000
/-- One millisecond in ns. -/
def ms : Nat := 1000000
/-- One second in ns. -/
def sec1 : Nat := 1000000000
/-- One hour in ns. -/
def hour : Nat := 3600 * 1000000000
/-- The clock advances by INC (R457) while the hub PLL is locked. -/
def tick (s : State) : State :=
  let f := s.clk.frac.toNat + s.clk.inc
  { s with clk := { s.clk with tb := s.clk.tb + BitVec.ofNat 64 (f / 2 ^ 32), frac := BitVec.ofNat 32 f } }

/-! ## Counters (R248: 64-bit, wrapping) -/

/-- The counter at a control-space offset. -/
def counter (s : State) (off : Nat) : W64 := tget 0 s.counters off
/-- Add to a counter. -/
def bump (off n : Nat) (s : State) : State :=
  { s with counters := tset 0 s.counters off (tget 0 s.counters off + BitVec.ofNat 64 n) }
/-- Add to several counters. -/
def bumps (l : List (Nat × Nat)) (s : State) : State := l.foldl (fun a e => bump e.1 e.2 a) s

/-! ## Source identifiers (Tables 0-6, 1-6) -/

/-- Physical core 64 q + c. -/
def srcCore (n : Nat) : Nat := 0x1000 + 0x1000 * (n / 64) + n % 64
/-- Cluster k of quarter q. -/
def srcCluster (q k : Nat) : Nat := 0x1000 + 0x1000 * q + 0x40 + k
/-- Half 2 q + e. -/
def srcHalf (h : Nat) : Nat := 0x1000 + 0x1000 * (h / 2) + 0x80 + h % 2
/-- Tine. -/
def srcTine (q t : Nat) : Nat := 0x1000 + 0x1000 * q + 0x400 + t
/-- Quarter as a whole. -/
def srcQuarter (q : Nat) : Nat := 0x30 + q
/-- Stack as a whole. -/
def srcStack (m : Nat) : Nat := 0x50 + m
/-- Channel. -/
def srcChan (m ch : Nat) : Nat := 0x6000 + 0x40 * m + ch
/-- Link. -/
def srcLink (l : Nat) : Nat := 0x40 + l
/-- Optical lane. -/
def srcLane (l : Nat) : Nat := 0x20 + l
/-- Management port. -/
def srcMgmt : Nat := 3

/-! ## The variant (R1 to R5) -/

/-- Whether the variant is KY-ISO-4B. -/
def is4B (s : State) : Bool := decide (s.fuse.part = .b4)
/-- Whether a guest die is fitted. -/
def is4G (s : State) : Bool := decide (s.fuse.part = .g4)
/-- A physical core that exists and is not fused off (R3, R5). -/
def coreFitted (s : State) (n : Nat) : Bool := decide (n < 256) && !s.fuse.offCores.contains n
/-- Enabled cores of each half that a variant has (R3). -/
def coresPerHalf (p : Part) : Nat := match p with | .b4 => 28 | _ => 30
/-- Fusing leaves that number in each half of each quarter (R3). -/
def Fuses.even (f : Fuses) : Bool :=
  (List.range 8).all (fun h => ((idxFrom (32 * h) 32).filter (fun n => !f.offCores.contains n)).length == coresPerHalf f.part)
/-- Enabled cores in logical order (Table 0-3). -/
def coreList (s : State) : List Nat := (List.range 256).filter (fun n => !s.fuse.offCores.contains n)
/-- Physical core of a logical core. -/
def physCore (s : State) (l : Nat) : Option Nat := (coreList s)[l]?
/-- Logical core of a physical core. -/
def logCore (s : State) (n : Nat) : Nat := ((coreList s).filter (fun k => decide (k < n))).length
/-- Populated stacks in ascending order (R1, R2). -/
def stackList (s : State) : List Nat := if is4B s then [0, 1, 2, 4, 5, 6] else [0, 1, 2, 3, 4, 5, 6, 7]
/-- A populated stack. -/
def stackFitted (s : State) (m : Nat) : Bool := (stackList s).contains m
/-- The quarter beside a stack (R2). -/
def stackQuarter (m : Nat) : Nat := m / 2
/-- Enabled ways of every set (R4). -/
def waysFitted (s : State) : Nat := if is4B s then 12 else 16
/-- A fabric port that is fitted: two optical lanes a port. -/
def portFitted (s : State) (p : Nat) : Bool := decide (p < (if is4B s then 4 else 8))

/-! ## Clocked arbiters (R30) -/

/-- The first of a list that no other precedes. -/
def firstBy {α : Type} (f : α → α → Bool) : List α → Option α
  | [] => none
  | r :: t => some (t.foldl (fun b x => if f x b then x else b) r)
/-- How far an input lies behind the priority pointer of an arbiter of n inputs. -/
def behindPtr (n ptr i : Nat) : Nat := (i + n - ptr % n) % n
/-- The pointer after a grant: one past the granted input. -/
def pastGrant (n i : Nat) : Nat := (i + 1) % n

/-! ## Log records and alarms (R501 to R506) -/

/-- Lowest severity of a list of records, or 6. -/
def minSev (l : List LogRec) : Nat := l.foldl (fun a r => if r.sev < a then r.sev else a) 6
/-- Drop the first record of a severity. -/
def dropFirstSev (sv : Nat) : List LogRec → List LogRec
  | [] => []
  | r :: t => if r.sev = sv then t else r :: dropFirstSev sv t
/-- Count records of a severity dropped: WDR_LOG_DROP_s and the loss record's count. -/
def countDrop (sv n : Nat) (s : State) : State :=
  let t := bump (0x00F0_0108 + 8 * sv) n s
  { t with wdr := { t.wdr with lossSince := tset 0 t.wdr.lossSince sv (tget 0 t.wdr.lossSince sv + n) } }

/-- A record joins those that wait: behind them, but before those at the end of equal stamp and greater source (R32). -/
def joinRec (r : LogRec) : List LogRec → List LogRec
  | [] => [r]
  | x :: t => if x.stamp = r.stamp ∧ r.src < x.src then r :: x :: t else x :: joinRec r t
/-- A unit's log record reaches the staging queue of 4,096 (R503): at a full queue the arriving record is dropped when its severity is
below that of every queued record, else the oldest queued record of the lowest severity is. -/
def logRec (sev src code : Nat) (payload : List Byte) (s : State) : State :=
  let r : LogRec := { sev := sev, src := src, code := code, stamp := now s, payload := payload }
  if s.wdr.staging.length < 4096 then { s with wdr := { s.wdr with staging := joinRec r s.wdr.staging } }
  else
    let lo := minSev s.wdr.staging
    if sev < lo then countDrop sev 1 s
    else countDrop lo 1 { s with wdr := { s.wdr with staging := joinRec r (dropFirstSev lo s.wdr.staging) } }

/-- Stray access (0x8300): address, width, write flag. -/
def logStray (src addr width : Nat) (write : Bool) (s : State) : State :=
  logRec 3 src 0x8300 (natLE 8 addr ++ natLE 1 width ++ [if write then 1 else 0] ++ List.replicate 6 0) s
/-- Ignored register, ring or table write (0x8500): address and value. -/
def logIgnored (addr v : Nat) (s : State) : State := logRec 3 0 0x8500 (natLE 8 addr ++ natLE 8 v) s

/-- An alarm record (Table 19-5) as bytes. -/
def alarmBytes (i : Nat) (a : Alarm) (seq : W32) : List Byte :=
  natLE 2 a.code ++ natLE 2 a.src ++ natLE 2 (i % 4096 + (if a.closed then 0x8000 else 0)) ++ natLE 2 0 ++
  bvLE 4 a.count ++ bvLE 4 seq ++ bvLE 8 a.first ++ bvLE 8 a.last ++ padTo 32 a.detail

/-- The alarm queue holds only the most recent 16,384 sends while it cannot be served (R508). -/
def alarmUnserved (s : State) : Bool := decide ((s.port 8).st ≠ 1) || s.mgmt.collector.isNone

/-- Queue entry i for sending, with its log record (R505, R506): SEQ counts every alarm send. -/
def queueSend (i : Nat) (s : State) : State :=
  match s.wdr.alarms.find? (fun e => e.1 == i) with
  | none => s
  | some (_, a) =>
    let seq := s.wdr.alarmSeq + 1
    let snd : AlarmSend := { entry := i, code := a.code, src := a.src, closed := a.closed, count := a.count, seq := seq, first := a.first,
                             last := a.last, detail := a.detail }
    let q := s.wdr.sends ++ [snd]
    let excess := if alarmUnserved s then q.length - 16384 else 0
    let al := tput s.wdr.alarms i { a with sentCount := a.count, seq := seq, logged := true }
    let t := { s with wdr := { s.wdr with alarmSeq := seq, sends := q.drop excess, alarms := al } }
    logRec 5 a.src 0x8800 (alarmBytes i a seq) (if excess = 0 then t else bump 0x00F0_0158 excess t)

/-- Close entry i, log it and queue it a last time (R506). -/
def closeAlarm (i : Nat) (s : State) : State :=
  match tfind s.wdr.alarms i with
  | none => s
  | some a => queueSend i { s with wdr := { s.wdr with alarms := tput s.wdr.alarms i { a with closed := true } } }

/-- The open entries, with their index. -/
def openAlarms (s : State) : List (Nat × Alarm) := s.wdr.alarms.filter (fun e => !e.2.closed)

/-- The entry of a list with the earliest LAST_STAMP (lowest index first). -/
def earliestAlarm : List (Nat × Alarm) → Option Nat
  | [] => none
  | e :: t => some (t.foldl (fun b x => if x.2.last < b.2.last then x else b) e).1

/-- The lowest index below n that is not open. -/
def freeAlarm (s : State) : Option Nat :=
  if s.wdr.alarms.length < 4096 ∨ (s.wdr.alarms.any (fun e => e.2.closed)) then
    (List.range 4096).find? (fun i => match tfind s.wdr.alarms i with | some a => a.closed | none => true)
  else none

/-- Open a new alarm in an entry. -/
def openAlarm (i code src : Nat) (detail : List Byte) (s : State) : State :=
  let a : Alarm := { code := code, src := src, closed := false, count := 1, first := now s, last := now s, detail := padTo 32 detail,
                     sentCount := 0, seq := 0, logged := false }
  queueSend i { s with wdr := { s.wdr with alarms := tput s.wdr.alarms i a } }

/-- Raise an alarm (R505, R506). -/
def raiseAlarm (code src : Nat) (detail : List Byte) (s0 : State) : State :=
  let s := bump 0x00F0_0148 1 s0
  match (openAlarms s).find? (fun e => e.2.code == code && e.2.src == src) with
  | some (i, a) =>
    let b := { a with count := if a.count = 0xFFFF_FFFF then a.count else a.count + 1, last := now s, detail := padTo 32 detail,
                      logged := false }
    { s with wdr := { s.wdr with alarms := tput s.wdr.alarms i b } }
  | none =>
    match freeAlarm s with
    | some i => openAlarm i code src detail s
    | none =>
      let logged := (openAlarms s).filter (fun e => e.2.logged)
      match earliestAlarm (if logged.isEmpty then openAlarms s else logged) with
      | some i => openAlarm i code src detail (closeAlarm i s)
      | none => s

/-- DETAIL of 64-bit words (R504). -/
def words64 (l : List Nat) : List Byte := (l.map (natLE 8)).flatten

/-- A storage error record is built in Machine/Integrity.lean; a level, spare or state change log goes through `raiseAlarm`. -/
def alarmW (code src : Nat) (l : List Nat) (s : State) : State := raiseAlarm code src (words64 l) s

/-! ## Free values (log 2) -/

/-- Draw the next output of the entropy source. -/
def drawEntropy (s : State) : W256 × State := (Config.entropy s.free, { s with free := s.free + 1 })
/-- Draw 512 bits. -/
def drawEntropy2 (s : State) : W512 × State :=
  (BitVec.ofNat 512 ((Config.entropy s.free).toNat + 2 ^ 256 * (Config.entropy (s.free + 1)).toNat), { s with free := s.free + 2 })

end Sys2Proof.Machine
end

