-- ==== Sys2Proof/Machine/Fp.lean ====
section
/-! DEFINITION. Exact binary numbers, the floating formats of Table 3-1, and the one rounding of R95, R96 and R166. -/
namespace Sys2Proof.Machine

/-- A number formed exactly: NaN, a signed infinity, or (−1)^neg · m · 2^e, where 2^e is the last place of the value's significand
(it decides the count of cut-off bits of R95). -/
inductive Num where
  | nan
  | inf (neg : Bool)
  | fin (neg : Bool) (m : Nat) (e : Int)
  deriving DecidableEq, Repr

/-- A floating format: exponent bits, mantissa bits, bias, and its special codes: 0 IEEE infinities and NaNs, 1 a NaN only at all ones
(E4M3), 2 neither. -/
structure Fmt where
  eb : Nat
  mb : Nat
  bias : Int
  kind : Nat
  deriving DecidableEq, Repr

/-- FP32. -/
def f32 : Fmt := ⟨8, 23, 127, 0⟩
/-- FP16. -/
def f16 : Fmt := ⟨5, 10, 15, 0⟩
/-- BF16. -/
def bf16 : Fmt := ⟨8, 7, 127, 0⟩
/-- E4M3. -/
def e4m3 : Fmt := ⟨4, 3, 7, 1⟩
/-- E5M2. -/
def e5m2 : Fmt := ⟨5, 2, 15, 0⟩
/-- E2M3. -/
def e2m3 : Fmt := ⟨2, 3, 1, 2⟩
/-- E3M2. -/
def e3m2 : Fmt := ⟨3, 2, 3, 2⟩
/-- E2M1. -/
def e2m1 : Fmt := ⟨2, 1, 1, 2⟩

/-- Rounding modes: those of R166, and R96 with the cap on the random bits and the cut-off bits that the exact value's significand has below
those that the number's form shows (R95). -/
inductive Rnd where
  | rne | rtz | rup | rdn
  | sto (cap extra : Nat)
  deriving DecidableEq, Repr

/-- MOD bits 1:0 of R166. -/
def rndOf (m : Nat) : Rnd := match m % 4 with | 0 => .rne | 1 => .rtz | 2 => .rup | _ => .rdn

/-- The value of a code (R75). -/
def fdec (f : Fmt) (v : Nat) : Num :=
  let man := bits v (f.mb - 1) 0
  let ex := bits v (f.mb + f.eb - 1) f.mb
  let neg := bit v (f.mb + f.eb)
  if f.kind = 0 ∧ ex = 2 ^ f.eb - 1 then (if man = 0 then .inf neg else .nan)
  else if f.kind = 1 ∧ ex = 2 ^ f.eb - 1 ∧ man = 2 ^ f.mb - 1 then .nan
  else if ex = 0 then .fin neg man (1 - f.bias - f.mb)
  else .fin neg (man + 2 ^ f.mb) (ex - f.bias - f.mb)

/-- A signalling NaN: a NaN code whose first mantissa bit is clear (IEEE 754, R166). -/
def isSnan (f : Fmt) (v : Nat) : Bool := decide (fdec f v = .nan) && f.kind == 0 && !bit v (f.mb - 1)

/-- The default NaN of a format (R166, Table 3-3). -/
def nanCode (f : Fmt) : Nat :=
  if f.kind = 1 then 2 ^ (f.eb + f.mb) - 1 else (2 ^ f.eb - 1) * 2 ^ f.mb + 2 ^ (f.mb - 1)
/-- The sign bit. -/
def signBit (f : Fmt) (neg : Bool) : Nat := if neg then 2 ^ (f.eb + f.mb) else 0
/-- The code of the largest finite magnitude. -/
def maxCode (f : Fmt) : Nat :=
  if f.kind = 0 then (2 ^ f.eb - 1) * 2 ^ f.mb - 1 else if f.kind = 1 then 2 ^ (f.eb + f.mb) - 2 else 2 ^ (f.eb + f.mb) - 1
/-- The code of an infinity, or the saturation value where the format has none (Table 3-3). -/
def infCode (f : Fmt) (neg : Bool) : Nat := signBit f neg + (if f.kind = 0 then (2 ^ f.eb - 1) * 2 ^ f.mb else maxCode f)

/-- The exponent of the last place of format f at the exponent of m · 2^e (m ≠ 0). -/
def lastPlace (f : Fmt) (m : Nat) (e : Int) : Int := max (e + Nat.log2 m) (1 - f.bias) - f.mb

/-- m · 2^e in units of 2^q, rounded; `r` are the random bits of R96. -/
def roundMag (mode : Rnd) (neg : Bool) (m : Nat) (e q : Int) (r : Nat) : Nat :=
  if q ≤ e then m <<< (e - q).toNat
  else
    let c := (q - e).toNat
    let hi := m >>> c
    let lo := m % 2 ^ c
    if lo = 0 then hi
    else match mode with
      | .rne => if 2 * lo > 2 ^ c ∨ (2 * lo = 2 ^ c ∧ hi % 2 = 1) then hi + 1 else hi
      | .rtz => hi
      | .rup => if neg then hi else hi + 1
      | .rdn => if neg then hi + 1 else hi
      | .sto cap extra =>
        let n := min (c + extra) cap
        let t := if c ≤ n then lo <<< (n - c) else (lo + 2 ^ (c - n - 1)) >>> (c - n)
        if r % 2 ^ n + t ≥ 2 ^ n then hi + 1 else hi

/-- Round a number to a format: its code, and whether a finite value overflowed. -/
def fenc (f : Fmt) (mode : Rnd) (x : Num) (r : Nat) : Nat × Bool :=
  match x with
  | .nan => (nanCode f, false)
  | .inf neg => (infCode f neg, false)
  | .fin neg m e =>
    if m = 0 then (signBit f neg, false)
    else
      let q := lastPlace f m e
      let sg := roundMag mode neg m e q r
      let code : Int :=
        if sg < 2 ^ f.mb then sg
        else if sg < 2 ^ (f.mb + 1) then (q + f.mb + f.bias) * (2 ^ f.mb : Nat) + (sg - 2 ^ f.mb : Nat)
        else (q + f.mb + f.bias + 1) * (2 ^ f.mb : Nat)
      if code ≤ maxCode f then (signBit f neg + code.toNat, false)
      else
        let toMax : Bool := match mode with | .rtz => true | .rup => neg | .rdn => !neg | _ => false
        (if toMax then signBit f neg + maxCode f else infCode f neg, true)

/-- Bits that R96 draws for a value: n = min(c, cap), none for one that the format represents exactly; a value beyond the largest finite one
is not so represented (R91). -/
def drawCount (f : Fmt) (x : Num) (cap extra : Nat) : Nat :=
  match x with
  | .fin _ m e =>
    let c := (lastPlace f m e - e).toNat
    if m = 0 then 0 else if m % 2 ^ c = 0 ∧ !(fenc f .rtz x 0).2 then 0 else min (c + extra) cap
  | _ => 0

/-- Nearest-even rounding to binary32, as a code. -/
def to32 (x : Num) : Nat := (fenc f32 .rne x 0).1
/-- The value after one nearest-even rounding to binary32 (R81). -/
def rnd32 (x : Num) : Num := fdec f32 (to32 x)

/-- Sign of a number. -/
def nneg : Num → Bool | .nan => false | .inf s => s | .fin s _ _ => s
/-- Whether a number is zero. -/
def nzero : Num → Bool | .fin _ m _ => m == 0 | _ => false
/-- Negation. -/
def fneg : Num → Num | .nan => .nan | .inf s => .inf (!s) | .fin s m e => .fin (!s) m e
/-- Magnitude. -/
def fabs : Num → Num | .nan => .nan | .inf _ => .inf false | .fin _ m e => .fin false m e
/-- Signed significand at exponent `e0` not above the number's own. -/
def sigAt (s : Bool) (m : Nat) (e e0 : Int) : Int := (if s then -1 else 1) * ((m <<< (e - e0).toNat : Nat) : Int)

/-- Exact sum; an exact zero sum of opposite signs takes the sign `dn` gives (− when rounding toward −∞, else +; R83). -/
def fadd (dn : Bool) (a b : Num) : Num :=
  match a, b with
  | .nan, _ => .nan
  | _, .nan => .nan
  | .inf s, .inf t => if s = t then .inf s else .nan
  | .inf s, _ => .inf s
  | _, .inf t => .inf t
  | .fin s m e, .fin t n g =>
    let e0 := min e g
    let z := sigAt s m e e0 + sigAt t n g e0
    if z = 0 then (if m = 0 ∧ n = 0 ∧ s = t then .fin s 0 e0 else .fin dn 0 e0)
    else .fin (decide (z < 0)) z.natAbs e0
/-- Exact product. -/
def fmul (a b : Num) : Num :=
  match a, b with
  | .nan, _ => .nan
  | _, .nan => .nan
  | .inf s, .inf t => .inf (s != t)
  | .inf s, .fin t n _ => if n = 0 then .nan else .inf (s != t)
  | .fin s m _, .inf t => if m = 0 then .nan else .inf (s != t)
  | .fin s m e, .fin t n g => .fin (s != t) (m * n) (e + g)
/-- Quotient with a sticky last bit far below every format's last place; the flag is divide by zero. -/
def fdiv (a b : Num) : Num × Bool :=
  match a, b with
  | .nan, _ => (.nan, false)
  | _, .nan => (.nan, false)
  | .inf s, .inf _ => (if s then .nan else .nan, false)
  | .inf s, .fin t _ _ => (.inf (s != t), false)
  | .fin s _ _, .inf t => (.fin (s != t) 0 0, false)
  | .fin s m e, .fin t n g =>
    if n = 0 then (if m = 0 then (.nan, false) else (.inf (s != t), true))
    else if m = 0 then (.fin (s != t) 0 0, false)
    else
      let sh := 120 + Nat.log2 n
      let x := m <<< sh
      (.fin (s != t) (2 * (x / n) + (if x % n = 0 then 0 else 1)) (e - g - (sh : Int) - 1), false)
/-- Integer square root, bit by bit from bit i. -/
def isqrt (m : Nat) : Nat → Nat → Nat
  | 0, r => if (r + 1) * (r + 1) ≤ m then r + 1 else r
  | i + 1, r => isqrt m i (if (r + 2 ^ (i + 1)) * (r + 2 ^ (i + 1)) ≤ m then r + 2 ^ (i + 1) else r)
/-- Square root of a positive finite number with a sticky last bit. -/
def fsqrt (m : Nat) (e : Int) : Num :=
  let k : Int := if e % 2 = 0 then 128 else 129
  let x := m <<< k.toNat
  let r := isqrt x (Nat.log2 x / 2 + 1) 0
  .fin false (2 * r + (if r * r = x then 0 else 1)) ((e - k) / 2 - 1)

/-- a < b as values (−0 = +0; false with a NaN). -/
def flt (a b : Num) : Bool :=
  match a, b with
  | .nan, _ => false
  | _, .nan => false
  | .inf s, .inf t => s && !t
  | .inf s, _ => s
  | _, .inf t => !t
  | .fin s m e, .fin t n g => decide (sigAt s m e (min e g) < sigAt t n g (min e g))
/-- a = b as values. -/
def feq (a b : Num) : Bool := decide (a ≠ .nan) && decide (b ≠ .nan) && !flt a b && !flt b a
/-- a is below b, with −0 below +0. -/
def fbelow (a b : Num) : Bool := flt a b || (feq a b && nzero a && nneg a && !nneg b)

/-- Round to an integer. -/
def fint (mode : Rnd) (x : Num) (r : Nat) : Option Int :=
  match x with
  | .fin s m e => some ((if s then -1 else 1) * ((if m = 0 then 0 else roundMag mode s m e 0 r : Nat) : Int))
  | _ => none
/-- Saturate to [lo, hi]. -/
def clampI (lo hi x : Int) : Int := if x < lo then lo else if hi < x then hi else x
/-- An integer as a number. -/
def numOfInt (x : Int) : Num := .fin (decide (x < 0)) x.natAbs 0

/-! ## Elementary functions to high precision, in fixed point with 200 fraction bits -/

/-- Fraction bits of the fixed-point work. -/
def fpB : Nat := 200
/-- sum of x^k / k! terms: `t` the present term, k the next divisor. -/
def expSeries (x : Nat) : Nat → Nat → Nat → Nat
  | 0, t, _ => t
  | n + 1, t, k => t + expSeries x n (t * x / 2 ^ fpB / k) (k + 1)
/-- ln 2 in fixed point, from its series Σ 1 / (k 2^k). -/
def ln2Series : Nat → Nat → Nat
  | 0, _ => 0
  | n + 1, k => 2 ^ fpB / (k * 2 ^ k) + ln2Series n (k + 1)
/-- ln 2. -/
def ln2 : Nat := ln2Series 210 1
/-- arctan(1/q) in fixed point: alternating series. -/
def atanInv (q2 : Nat) : Nat → Nat → Nat → Int
  | 0, _, _ => 0
  | n + 1, t, k => (t / k : Nat) - atanInv q2 n (t / q2) (k + 2)
/-- π in fixed point (Machin). -/
def piF : Nat := (16 * atanInv 25 100 (2 ^ fpB / 5) 1 - 4 * atanInv 57121 60 (2 ^ fpB / 239) 1).toNat
/-- Alternating series of sin (k from 2) or cos (k from 1) at x with first term t. -/
def trigSeries (x2 : Nat) : Nat → Nat → Nat → Int
  | 0, t, _ => t
  | n + 1, t, k => (t : Int) - trigSeries x2 n (t * x2 / 2 ^ fpB / (k * (k + 1))) (k + 2)
/-- Bits of log2 of y in [1, 2) by repeated squaring. -/
def log2Bits : Nat → Nat → Nat → Nat
  | 0, _, acc => acc
  | n + 1, y, acc =>
    let z := y * y / 2 ^ fpB
    if z ≥ 2 ^ (fpB + 1) then log2Bits n (z / 2) (2 * acc + 1) else log2Bits n z (2 * acc)
/-- Fixed-point reading of a finite number (truncated). -/
def toFix (m : Nat) (e : Int) : Nat :=
  let k := e + fpB
  if k < 0 then m >>> (-k).toNat else m <<< k.toNat
/-- 2^x for a finite x. -/
def hpExp2 (s : Bool) (m : Nat) (e : Int) : Num :=
  if m = 0 then .fin false 1 0
  else if e + Nat.log2 m > 8 then (if s then .fin false 1 (-1000) else .fin false 1 1000)
  else
    let x : Int := (if s then -1 else 1) * (toFix m e : Int)
    let k := x / (2 ^ fpB : Nat)
    let fr := (x % (2 ^ fpB : Nat)).toNat
    if fr = 0 then .fin false 1 k else .fin false (expSeries (fr * ln2 / 2 ^ fpB) 60 (2 ^ fpB) 1) (k - (fpB : Int))
/-- log2 of a positive finite number. -/
def hpLog2 (m : Nat) (e : Int) : Num :=
  let l := Nat.log2 m
  let k := e + (l : Int)
  let y := m <<< (fpB - l)
  let z : Int := k * (2 ^ 120 : Nat) + (log2Bits 120 y 0 : Nat)
  .fin (decide (z < 0)) z.natAbs (-120)
/-- sin or cos of a finite x, |x| ≤ 1,024 π. -/
def hpTrig (cosine : Bool) (s : Bool) (m : Nat) (e : Int) : Num :=
  let x := toFix m e % (2 * piF)
  let (neg, y) := if x ≥ piF then (true, x - piF) else (false, x)
  let z : Int := if cosine then trigSeries (y * y / 2 ^ fpB) 60 (2 ^ fpB) 1 else trigSeries (y * y / 2 ^ fpB) 60 y 2
  let w := if (if cosine then neg else neg != s) then -z else z
  .fin (decide (w < 0)) w.natAbs (-(fpB : Int))
/-- |x| ≤ 1,024 π. -/
def trigInRange (m : Nat) (e : Int) : Bool := decide (e + Nat.log2 m < 14) && decide (toFix m e ≤ 1024 * piF)

/-- Whether binary32 code v lies within `n` · 2^q of the number x. -/
def within (v : Nat) (x : Num) (n : Nat) (q : Int) : Bool :=
  match fadd false (fdec f32 v) (fneg x) with
  | .fin _ m e => !flt (.fin false n q) (.fin false m e)
  | _ => false
/-- A free value within `n` units in the last place of x (R165, log 2); x correctly rounded when the free value is outside the bound. -/
def approxUlp (free : Nat) (mode : Rnd) (x : Num) (n : Nat) : Nat × Bool :=
  match x with
  | .fin _ m e =>
    let c := fenc f32 mode x 0
    if m = 0 ∨ c.2 then c
    else if within free x n (lastPlace f32 m e) then (free % 2 ^ 32, false) else c
  | _ => fenc f32 mode x 0
/-- A free value within 2^-21 of x. -/
def approxAbs (free : Nat) (mode : Rnd) (x : Num) : Nat :=
  if within free x 1 (-21) then free % 2 ^ 32 else (fenc f32 mode x 0).1

/-- The pairwise tree T of R130 over values in lane order: one nearest-even rounding a node. -/
def treeLevel : List Num → List Num
  | a :: b :: t => rnd32 (fadd false a b) :: treeLevel t
  | l => l
/-- T with fuel: every level at least halves the list. -/
def treeSum : Nat → List Num → Num
  | 0, l => l.headD (.fin false 0 0)
  | n + 1, l => match l with | [] => .fin false 0 0 | [x] => x | _ => treeSum n (treeLevel l)

end Sys2Proof.Machine
end

