-- ==== Sys2Proof/Machine/ArrayMath.lean ====
section
/-! DEFINITION. Arithmetic of the matrix array: operand values, the products and sums of every semiring, the trees of dot-product mode,
and the drain and load conversions (03 R75 to R100). -/
namespace Sys2Proof.Machine

/-! ## Formats (Tables 2-5, 3-1, 3-3) -/

/-- The floating format of A_FMT or B_FMT; MXINT8 (5) has none of its own. -/
def inFmt (f : Nat) : Fmt :=
  match f with
  | 0 => e4m3 | 1 => e5m2 | 2 => e2m3 | 3 => e3m2 | 4 => e2m1 | 6 => e4m3 | 7 => e5m2 | 8 => bf16 | _ => f16
/-- Element bits of an input format. -/
def inBits (f : Nat) : Nat := match f with | 2 => 6 | 3 => 6 | 4 => 4 | 8 => 16 | 9 => 16 | _ => 8
/-- MX formats carry block scales. -/
def isMx (f : Nat) : Bool := decide (f ≤ 5)
/-- The floating format of OUT_FMT 0 to 5. -/
def outFmt (o : Nat) : Fmt := match o with | 0 => f32 | 1 => bf16 | 2 => f16 | 4 => e5m2 | _ => e4m3
/-- Element bytes of OUT_FMT. -/
def outSize (o : Nat) : Nat := match o with | 0 => 4 | 1 => 2 | 2 => 2 | 6 => 4 | 7 => 8 | _ => 1
/-- Bytes of one output row, scales included. -/
def rowBytes (n o : Nat) : Nat := n * outSize o + (if o = 5 then cdiv n 32 else 0)

/-- Multiply by a power of two. -/
def scale2 (x : Num) (k : Int) : Num := match x with | .fin s m e => .fin s m (e + k) | y => y
/-- Operand value of an element code, with its block scale (R75, R77); MXINT8 keeps its integer code as significand. -/
def operandOf (f code : Nat) (sc : Option Nat) : Num :=
  let v : Num := if f = 5 then .fin (decide (signed 8 code < 0)) (signed 8 code).natAbs (-6) else fdec (inFmt f) code
  match sc with
  | none => v
  | some e => if e = 255 then .nan else scale2 v ((e : Int) - 127)

/-! ## Integer accumulation (R84 to R88) -/

/-- Largest significand. -/
def max47 : Int := 2 ^ 47 - 1
/-- Shift right, nearest-even. -/
def shrRne (x : Int) (k : Nat) : Int := (if x < 0 then -1 else 1) * (roundMag .rne false x.natAbs 0 k 0 : Nat)
/-- Signed significand of a finite number. -/
def sigOf : Num → Int × Int | .fin s m e => ((if s then -1 else 1) * (m : Int), e) | _ => (0, 0)
/-- Renormalise past 2^47 − 1 (R87). -/
def norm47 : Nat → Int → Int → AccVal
  | 0, s, g => .int s g
  | n + 1, s, g => if max47 < (s.natAbs : Int) then norm47 n (shrRne s 1) (g + 1) else .int s g
/-- ⊗ of two MXINT8 operands (R86). -/
def intTerm (sr : Nat) (a b : Num) : Int × Int :=
  let x := sigOf a
  let y := sigOf b
  let g := max x.2 y.2
  let xa := shrRne x.1 (g - x.2).toNat
  let yb := shrRne y.1 (g - y.2).toNat
  match sr with
  | 1 => (xa + yb, g)
  | 2 => (xa + yb, g)
  | 3 => (((xa - yb).natAbs : Int), g)
  | 4 => ((xa - yb) * (xa - yb), 2 * g)
  | _ => (x.1 * y.1, x.2 + y.2)
/-- Count term of codes 5 and 6: exact comparison, 0 with a NaN. -/
def countTerm (sr : Nat) (a b : Num) : Int := if (if sr = 5 then flt b a else feq a b) then 1 else 0
/-- Whether ⊕ is + (or count), min, or max. -/
def isSum (sr : Nat) : Bool := sr == 0 || sr == 3 || sr == 4
/-- Compare two significands with exponents. -/
def ltSG (s g t h : Int) : Bool := decide (s * 2 ^ (g - min g h).toNat < t * 2 ^ (h - min g h).toNat)
/-- ⊕ of a term into an integer accumulator (R85, R87, R88). Under min and max a tie keeps the accumulator's own significand and exponent
(DESIGN CHOICE, log 11: the spec names no winner of two equal values). -/
def intAcc (sr : Nat) (acc : AccVal) (t h : Int) : AccVal :=
  match acc with
  | .int s g =>
    if sr = 5 ∨ sr = 6 then .int (min (s + t) max47) 0
    else if isSum sr then
      if s = 0 then .int t h
      else
        let k := max g h
        norm47 2 (shrRne s (k - g).toNat + shrRne t (k - h).toNat) k
    else if (if sr = 1 then ltSG t h s g else ltSG s g t h) then .int t h else .int s g
  | .empty => .int t h
  | x => x
/-- One product into an integer accumulator: a NaN of an MXINT8 block sets the NaN state (R77, R88). -/
def intFold (sr : Nat) (mxint : Bool) (acc : AccVal) (a b : Num) : AccVal :=
  if mxint && (decide (a = .nan) || decide (b = .nan)) then .nan
  else if sr = 5 ∨ sr = 6 then intAcc sr acc (countTerm sr a b) 0
  else intAcc sr acc (intTerm sr a b).1 (intTerm sr a b).2

/-! ## Floating accumulation (R81 to R83) -/

/-- ⊗ of two floating operands, exact. -/
def fTerm (sr : Nat) (a b : Num) : Num :=
  match sr with
  | 1 => fadd false a b
  | 2 => fadd false a b
  | 3 => fabs (fadd false a (fneg b))
  | 4 => fmul (fadd false a (fneg b)) (fadd false a (fneg b))
  | _ => fmul a b
/-- min or max of two numbers: a NaN wins, −0 is below +0 (log 11). -/
def fPick (sr : Nat) (a b : Num) : Num :=
  if a = .nan ∨ b = .nan then .nan
  else if sr = 1 then (if fbelow b a then b else a) else (if fbelow a b then b else a)
/-- Value of a floating accumulator. -/
def accNum : AccVal → Num | .fl b => fdec f32 b.toNat | _ => .nan
/-- A floating accumulator holding the nearest-even rounding of a number. -/
def accFl (x : Num) : AccVal := .fl (BitVec.ofNat 32 (to32 x))
/-- Products of one slot into a floating accumulator: one rounding (R81, R82). -/
def fFold (sr : Nat) (acc : AccVal) (ts : List Num) : AccVal :=
  accFl (if isSum sr then ts.foldl (fadd false) (accNum acc) else ts.foldl (fPick sr) (accNum acc))

/-! ## Accumulators -/

/-- Integer accumulators serve MXINT8 and the counts (R84). -/
def intKind (afmt sr : Nat) : Bool := afmt == 5 || sr == 5 || sr == 6
/-- The identity of a semiring (Table 3-2). -/
def identity (int : Bool) (sr : Nat) : AccVal :=
  if isSum sr || sr == 5 || sr == 6 then (if int then .int 0 0 else .fl 0)
  else if int then .empty
  else if sr = 1 then .fl 0x7F80_0000 else .fl 0xFF80_0000
/-- One product slot of tall or square mode. -/
def slotFold (afmt sr : Nat) (acc : AccVal) (ps : List (Num × Num)) : AccVal :=
  if intKind afmt sr then ps.foldl (fun a p => intFold sr (afmt == 5) a p.1 p.2) acc
  else fFold sr acc (ps.map (fun p => fTerm sr p.1 p.2))
/-- A leaf of a dot-product tree (R100). -/
def treeLeaf (afmt sr : Nat) (a b : Num) : AccVal :=
  if intKind afmt sr then intFold sr (afmt == 5) (identity true sr) a b else accFl (fTerm sr a b)
/-- ⊕ of two accumulators: a tree node, the cross-furrow stage, or a slice's sum into the output accumulator. A side that is EMPTY takes no
part; under + a left side with S = 0 takes the right one as it is, and any other pair aligns as R87 says (log 11). -/
def accCombine (sr : Nat) (x y : AccVal) : AccVal :=
  match x, y with
  | .fl a, .fl b => fFold sr (.fl a) [fdec f32 b.toNat]
  | .nan, _ => .nan
  | _, .nan => .nan
  | .empty, z => z
  | z, .empty => z
  | z, .int t h => intAcc sr z t h
  | z, _ => z
/-- One level of a tree over adjacent pairs. -/
def treeStep (sr : Nat) : List AccVal → List AccVal
  | a :: b :: t => accCombine sr a b :: treeStep sr t
  | l => l
/-- The tree over a furrow's 128 leaves. -/
def treeAcc (sr : Nat) (l : List AccVal) : Nat → List AccVal
  | 0 => l
  | n + 1 => treeAcc sr (treeStep sr l) n
/-- What a row that holds no element puts into its tree: the identity, which for an integer is the leaf that no alignment sees (log 11). -/
def idleLeaf (afmt sr : Nat) : AccVal := if intKind afmt sr then .empty else identity false sr
/-- The leaves of `n` rows from row `r` up: the slice's elements take the rows that are not mapped out in order, and every other row holds
the identity (R64, R71). -/
def seatLeaves (afmt sr : Nat) (rowMap : List Nat) (id : AccVal) : Nat → Nat → List (Num × Num) → List AccVal
  | 0, _, _ => []
  | n + 1, r, ps =>
    if rowMap.contains r then id :: seatLeaves afmt sr rowMap id n (r + 1) ps
    else match ps with
      | [] => id :: seatLeaves afmt sr rowMap id n (r + 1) []
      | p :: t => treeLeaf afmt sr p.1 p.2 :: seatLeaves afmt sr rowMap id n (r + 1) t
/-- The sum of one slice in a column: four furrow trees and (F0 ⊕ F1) ⊕ (F2 ⊕ F3) (R100). -/
def sliceSum (afmt sr : Nat) (rowMap : List Nat) (ps : List (Num × Num)) : AccVal :=
  let id := idleLeaf afmt sr
  let leaves := seatLeaves afmt sr rowMap id 512 0 ps
  let fur (f : Nat) : AccVal := (treeAcc sr ((leaves.drop (128 * f)).take 128) 7).headD id
  accCombine sr (accCombine sr (fur 0) (fur 1)) (accCombine sr (fur 2) (fur 3))
/-- One cell's reduction over its operand pairs: `step` elements a slot in tall and square mode, slices of ks in dot-product mode. -/
def reduce (afmt sr step : Nat) (dot : Option (List Nat)) (acc : AccVal) (ps : List (Num × Num)) : AccVal :=
  match dot with
  | none => (chunks step ps.length ps).foldl (fun a c => slotFold afmt sr a c) acc
  | some rm => (chunks (512 - rm.length) ps.length ps).foldl (fun a c => accCombine sr a (sliceSum afmt sr rm c)) acc
/-- Elements a cell takes in one slot: p = 2 for MXFP6 and MXFP4 A with B of 8 bits or fewer (R38). -/
def slotElems (afmt bfmt : Nat) : Nat := if (afmt = 2 ∨ afmt = 3 ∨ afmt = 4) ∧ inBits bfmt ≤ 8 then 2 else 1
/-- Twice p (R38). -/
def rate2 (afmt bfmt : Nat) : Nat :=
  if slotElems afmt bfmt = 2 then 4 else if inBits afmt ≤ 8 ∧ inBits bfmt ≤ 8 then 2 else 1

/-! ## Drain (R90 to R96) -/

/-- The exact value of step 2 of R90. -/
def drainNum (a : AccVal) (seg : Option W32) : Num :=
  let v : Num := match a with | .fl b => fdec f32 b.toNat | .int s g => .fin (decide (s < 0)) s.natAbs g | _ => .nan
  match seg with | some k => fmul v (fdec f32 k.toNat) | none => v
/-- Rounding mode of ROUND and RCLASS. -/
def drainRnd (round : Nat) (rclass : Bool) : Rnd := if round = 1 then .rtz else if round = 2 then .sto (if rclass then 24 else 4) 0 else .rne
/-- A mode for a value whose significand has `k` more cut-off bits than its form shows (R95, Table 3-4). -/
def Rnd.widen (k : Nat) : Rnd → Rnd | .sto cap extra => .sto cap (extra + k) | r => r
/-- Cut-off bits of a product with SEG_SCALE below those its form shows: its significand has 48 bits (Table 3-4). -/
def segWiden (seg : Option W32) (a : AccVal) (x : Num) : Nat :=
  match seg, a, x with | some _, .fl _, .fin _ m _ => 48 - (Nat.log2 m + 1) | _, _, _ => 0
/-- Largest magnitude of an integer output. -/
def intMax (o : Nat) : Nat := if o = 6 then 2 ^ 31 - 1 else 2 ^ 47 - 1
/-- Random bits that a mode draws for a value rounded at a format, or at units of 1 to the integer output `o`. -/
def drainDraw (mode : Rnd) (f : Option Fmt) (o : Nat) (x : Num) : Nat :=
  match mode with
  | .sto cap extra =>
    match f with
    | some fm => drawCount fm x cap extra
    | none => match x with
      | .fin s m e =>
        if m % 2 ^ (-e).toNat = 0 ∧ m <<< e.toNat >>> (-e).toNat ≤ intMax o + b2n s then 0 else min ((-e).toNat + extra) cap
      | _ => 0
  | _ => 0
/-- Integer output code of 32 or 48 bits (INT48 sign-extended to 64). -/
def outInt (o : Nat) (x : Int) : Nat :=
  if o = 6 then wrapInt 32 (clampI (-(2 ^ 31)) (2 ^ 31 - 1) x) else wrapInt 64 (clampI (-(2 ^ 47)) (2 ^ 47 - 1) x)
/-- What an element is rounded as: its format (none for an integer) and exact value; or the code that needs no rounding. -/
def drainForm (sr o : Nat) (seg : Option W32) (a : AccVal) : Nat ⊕ (Option Fmt × Num) :=
  match a with
  | .fl b => if o = 0 ∧ seg = none then .inl b.toNat else .inr (some (outFmt o), drainNum a seg)
  | .nan => .inl (if o = 0 then 0x7FC0_0000 else outInt o (-(2 ^ 48)))
  | .empty => .inl (if o = 0 then (if sr = 1 then 0x7F80_0000 else 0xFF80_0000) else outInt o (if sr = 1 then 2 ^ 48 else -(2 ^ 48)))
  | .int _ _ =>
    let v := drainNum a seg
    if o = 0 then .inr (some f32, v) else .inr (none, if sr = 5 ∨ sr = 6 then v else scale2 v 12)
/-- Bits that an element draws. -/
def elemDraw (mode : Rnd) (sr o : Nat) (seg : Option W32) (a : AccVal) : Nat :=
  match drainForm sr o seg a with | .inl _ => 0 | .inr (f, x) => drainDraw (mode.widen (segWiden seg a x)) f o x
/-- The output code of an element from its random bits. -/
def elemCode (mode : Rnd) (sr o : Nat) (seg : Option W32) (a : AccVal) (r : Nat) : Nat :=
  match drainForm sr o seg a with
  | .inl c => c
  | .inr (some f, x) => (fenc f (mode.widen (segWiden seg a x)) x r).1
  | .inr (none, x) => match fint mode x r with | some z => outInt o z | none => outInt o (-(2 ^ 48))

/-- Largest magnitude of a list. -/
def amaxOf (l : List Num) : Num := l.foldl (fun a x => if flt a (fabs x) then fabs x else a) (.fin false 0 0)
/-- The scale exponent X of R92, clamped. -/
def mxScale (amax : Num) : Int :=
  match amax with
  | .fin _ m e =>
    let l := e + (Nat.log2 m : Int)
    let x := if flt (.fin false 448 (l - 8)) amax then l - 7 else l - 8
    clampI (-127) 127 x
  | _ => 0
/-- The exponent of a number's leading bit. -/
def topBit : Num → Int | .fin _ m e => e + Nat.log2 m | _ => 0
/-- A block of R92 in its three cases: special, all zero, or scaled by 2^X with the exponent of its largest magnitude. -/
inductive MxBlock where
  | special | zero | scaled (x top : Int)
  deriving DecidableEq, Repr
/-- Which case a block is. -/
def mxCase (l : List Num) : MxBlock :=
  if l.any (fun x => match x with | .fin _ _ _ => false | _ => true) then .special
  else if nzero (amaxOf l) then .zero
  else .scaled (mxScale (amaxOf l)) (topBit (amaxOf l))
/-- The mode for an element of a block: one below the block's largest exponent has as many more cut-off bits (R95). -/
def mxMode (mode : Rnd) (top : Int) (x : Num) : Rnd := mode.widen (top - topBit x).toNat
/-- Bits an element of a block draws. -/
def mxDraw (mode : Rnd) (b : MxBlock) (x : Num) : Nat :=
  match b with | .scaled k top => drainDraw (mxMode mode top x) (some e4m3) 0 (scale2 x (-k)) | _ => 0
/-- Code of an element of a block. -/
def mxCode (mode : Rnd) (b : MxBlock) (x : Num) (r : Nat) : Nat :=
  match b with
  | .special => 0x7F
  | .zero => signBit e4m3 (nneg x)
  | .scaled k top => (fenc e4m3 (mxMode mode top x) (scale2 x (-k)) r).1
/-- Scale byte of a block. -/
def mxByte : MxBlock → Nat | .special => 0xFF | .zero => 0 | .scaled k _ => (k + 127).toNat

/-! ## Load under ACC_INIT = 2 (R94) -/

/-- An output element as accumulator contents; `sc` is its block's scale for MXFP8. Of the 8 bytes of an INT48 element the low 48 bits are the
integer, whatever stands above them (DESIGN CHOICE, log 10: the spec does not say how 8 bytes that are no sign-extended 48-bit value load). -/
def loadElem (afmt sr o code sc : Nat) : AccVal :=
  if intKind afmt sr then
    if o = 6 then .int (signed 32 code) (if sr = 5 ∨ sr = 6 then 0 else -12)
    else if o = 7 then .int (signed 48 code) (if sr = 5 ∨ sr = 6 then 0 else -12)
    else match fdec f32 code with
      | .nan => .nan
      | .inf s => if (sr = 1 ∧ s = false) ∨ ((sr = 2 ∨ sr = 7) ∧ s = true) then .empty else .nan
      | .fin s m e =>
        if sr = 5 ∨ sr = 6 then .int (clampI 0 max47 ((fint .rtz (.fin s m e) 0).getD 0)) 0
        else .int ((if s then -1 else 1) * (m : Int)) e
  else if o = 5 then accFl (if sc = 255 then .nan else scale2 (fdec e4m3 code) ((sc : Int) - 127))
  else accFl (fdec (outFmt o) code)

end Sys2Proof.Machine
end

