-- ==== Sys2Proof/Machine/Routes.lean ====
section
/-! DEFINITION. Assemblies, the links that join them and the paths of their traffic (09 R258, R268, R269): quarters 0 to 3, and the hub as 4. -/
namespace Sys2Proof.Machine

/-- Assembly of a unit of Table 1-6: its quarter, or the hub. -/
def asmOf (id : Nat) : Nat :=
  if 0x1000 ≤ id ∧ id < 0x5000 then id / 0x1000 - 1
  else if 0x30 ≤ id ∧ id < 0x34 then id - 0x30
  else if 0x6000 ≤ id ∧ id < 0x6200 then (id - 0x6000) / 0x80
  else 4
/-- Link of two neighbouring assemblies. -/
def linkOf (a b : Nat) : Option Nat :=
  match min a b, max a b with
  | 0, 1 => some 0 | 1, 3 => some 1 | 2, 3 => some 2 | 0, 2 => some 3 | 0, 4 => some 4 | 1, 4 => some 5 | 2, 4 => some 6 | 3, 4 => some 7
  | _, _ => none
/-- The two ends of a substrate link, the first-named one first. -/
def linkEnds (l : Nat) : Nat × Nat :=
  match l with | 0 => (0, 1) | 1 => (1, 3) | 2 => (3, 2) | 3 => (2, 0) | _ => (l - 4, 4)
/-- The assembly that a direction of a link leads to: forward runs from the first-named end to the second (R258). -/
def farEnd (l dir : Nat) : Nat := if dir = 0 then (linkEnds l).2 else (linkEnds l).1
/-- Links that end in a quarter: two of the ring, and the hub's. -/
def quarterLinks (q : Nat) : List Nat := (match q with | 0 => [0, 3] | 1 => [0, 1] | 2 => [2, 3] | _ => [1, 2]) ++ [4 + q]
/-- Neighbours of a quarter on the ring, ascending. -/
def neighbours (q : Nat) : List Nat := match q with | 0 => [1, 2] | 1 => [0, 3] | 2 => [0, 3] | _ => [1, 2]
/-- Links of a sequence of assemblies. -/
def pathLinks : List Nat → List Nat
  | a :: b :: t => (linkOf a b).toList ++ pathLinks (b :: t)
  | _ => []
/-- The ring from one neighbour to the other the long way. -/
def longWay (a b : Nat) : List Nat :=
  match (neighbours a).filter (fun x => x != b), (neighbours b).filter (fun x => x != a) with
  | x :: _, y :: _ => [a, x, y, b]
  | _, _ => []
/-- The paths of Table 9-4 of a pair in their order, as assemblies. -/
def pathSeqs (a b : Nat) : List (List Nat) :=
  if a = 4 ∨ b = 4 then
    let q := min a b
    [[q, 4]] ++ (neighbours q).map (fun n => [q, n, 4])
  else if (linkOf a b).isSome then [[a, b], [a, 4, b], longWay a b]
  else
    let x := min a b
    let y := max a b
    let mids := if x = 0 then [1, 2] else [0, 3]
    [[x, 4, y]] ++ mids.map (fun n => [x, n, y])
/-- The paths of Table 9-4 of a pair, as links. -/
def paths (a b : Nat) : List (List Nat) := (pathSeqs a b).map pathLinks
/-- A path carries traffic: its links are all up, and no quarter on the way is in headland, in reset or fenced (R268, Table 17-3). -/
def pathOpen (s : State) (p : List Nat) : Bool :=
  (pathLinks p).all (fun l => (s.link l).st == 1) &&
  ((p.drop 1).dropLast).all (fun x => x == 4 || (s.quarter x).st == 0 || (s.quarter x).st == 3)
/-- The route that Table 9-4 gives a pair now: 3 for none. -/
def bestRoute (s : State) (a b : Nat) : Nat := ((pathSeqs a b).findIdx? (pathOpen s)).getD 3
/-- The links of the route in force of a pair; none within an assembly. -/
def routeLinks (s : State) (a b : Nat) : List Nat := if a = b then [] else (paths a b).getD (tget 0 s.routes (5 * a + b)) []
/-- New packets of a pair wait: a link of its route in force is down, and the route has not changed yet (R265, R269). -/
def pairWaits (s : State) (a b : Nat) : Bool := (routeLinks s a b).any (fun l => (s.link l).st == 2)
/-- The assemblies of the route in force from one to another, in order; none when no path is open. -/
def routeSeq (s : State) (a b : Nat) : List Nat :=
  let p := if a = b then [] else (pathSeqs a b).getD (tget 0 s.routes (5 * a + b)) []
  if p.head? = some a then p else p.reverse
/-- Link and direction of each hop of a sequence of assemblies. -/
def hopsOf : List Nat → List (Nat × Nat)
  | a :: b :: t => ((linkOf a b).toList.map (fun l => (l, if farEnd l 0 = b then 0 else 1))) ++ hopsOf (b :: t)
  | _ => []
/-- A direction of a link lies on the route in force from one assembly to another. -/
def onRoute (s : State) (l dir a b : Nat) : Bool := (hopsOf (routeSeq s a b)).contains (l, dir)
/-- The first hop of that route. -/
def firstHop (s : State) (a b : Nat) : Option (Nat × Nat) := (hopsOf (routeSeq s a b)).head?

end Sys2Proof.Machine
end

