-- ==== Sys2Proof/WellFormed.lean ====
section
/-! DEFINITION. Which commands name units that exist: the ranges of Tables 0-3, 1-6 and of the chapters' own tables. -/
namespace Sys2Proof

/-- Physical core Qn.Cc. -/
def wfCore (q c : Nat) : Bool := decide (q < 4) && decide (c < 64)
/-- Sheaf slot of a core: 64 slots (04 R103). -/
def wfSheaf (q c sl : Nat) : Bool := wfCore q c && decide (sl < 64)
/-- Granary half. -/
def wfHalf (h : Nat) : Bool := decide (h < 8)
/-- Channel of a stack. -/
def wfChan (m ch : Nat) : Bool := decide (m < 8) && decide (ch < 64)
/-- Lane group of a link direction (09 R258): 16 groups on each of two directions of nine links. -/
def wfGroup (l dir g : Nat) : Bool := decide (l < 9) && decide (dir < 2) && decide (g < 16)
/-- Queue number: 20 bits. -/
def wfQueue (qu : Nat) : Bool := decide (qu < 0x10_0000)
/-- An access width of 1, 2, 4 or 8 bytes. -/
def wfWidth (w : Nat) : Bool := w == 1 || w == 2 || w == 4 || w == 8
/-- An OS core's access width of 1 to 64 bytes, a power of two: 16 to 64 for vector accesses and the cleaning of cache lines (log 31). -/
def wfOsWidth (w : Nat) : Bool := wfWidth w || w == 16 || w == 32 || w == 64
/-- Voltage domain of a quarter: 64 cores and three of the granary and uncore (15 R416). -/
def wfDomain (q d : Nat) : Bool := decide (q < 4) && decide (d < 67)

/-- A gleaner walker: 0 granary half, 1 tilth of a core, 2 stack controller (11). -/
def wfWalker (kind unit : Nat) : Bool := match kind with | 0 => decide (unit < 8) | 1 => decide (unit < 256) | 2 => decide (unit < 8) | _ => false
/-- A checker of Table 11-5: 0 granary word code, 1 tag copies, 2 voters (half, 8 + core, or 264 the hub), 3 tilth code, 4 register parity,
5 LPDDR, 6 hub SRAM. -/
def wfChecker (kind unit : Nat) : Bool :=
  match kind with
  | 0 => decide (unit < 8) | 1 => decide (unit < 8) | 2 => decide (unit ≤ 264) | 3 => decide (unit < 256) | 4 => decide (unit < 256)
  | 5 => decide (unit < 8) | 6 => true | _ => false

/-- A vertical bus of Table 9-8: 0 the port bus of core i, 1 the bus of way i % 16 of half i / 16, 2 the tag bus of half i, 3 control and clock. -/
def wfVbus (q bus i : Nat) : Bool :=
  decide (q < 4) && (match bus with | 0 => decide (i < 64) | 1 => decide (i < 32) && decide (10 ≤ i % 16) | 2 => decide (i < 2) | 3 => i == 0 | _ => false)

/-- A command names units that exist, and messages of their size. -/
def wfInstr : Instr → Bool
  | .registerWrite _ width _ => wfWidth width
  | .osCoreAccess core _ _ width _ _ => wfOsWidth width && decide (core < 16)
  | .mbDoorbell mb _ => decide (mb < 32)
  | .mbAckHeadWrite mb _ => decide (mb < 32)
  | .mbCplHeadWrite mb _ => decide (mb < 32)
  | .tinMinvStampRead q d => wfDomain q d
  | .aissue q c sl _ _ => wfSheaf q c sl
  | .arrayQueueRoom q c => wfCore q c
  | .await q c sl _ _ => wfSheaf q c sl
  | .aquery q c sl _ _ => wfSheaf q c sl
  | .arrayCommandStart q c => wfCore q c
  | .arrayTileEnd q c => wfCore q c
  | .arrayCommandDone q c => wfCore q c
  | .ringSlotForward q c _ => wfCore q c
  | .ringPanelAccept q c => wfCore q c
  | .ringTimeout q c _ => wfCore q c
  | .arrayFault q c furrow => wfCore q c && decide (furrow < 4)
  | .selfTestStart q c => wfCore q c
  | .selfTestResult q c _ _ => wfCore q c
  | .stookStart q c => wfCore q c
  | .stookEnd q c st => wfCore q c && decide (st < 32)
  | .faultResolve q c sl => wfSheaf q c sl
  | .stookWatchdog q c st => wfCore q c && decide (st < 32)
  | .lockTimeout q c sl => wfSheaf q c sl
  | .lockRepoll q c sl => wfSheaf q c sl
  | .loadDataReturn q c sl _ _ => wfSheaf q c sl
  | .add q c sl _ _ => wfSheaf q c sl
  | .sub q c sl _ _ => wfSheaf q c sl
  | .mul q c sl _ _ => wfSheaf q c sl
  | .mulhi q c sl _ _ => wfSheaf q c sl
  | .mad q c sl _ _ => wfSheaf q c sl
  | .min q c sl _ _ => wfSheaf q c sl
  | .max q c sl _ _ => wfSheaf q c sl
  | .abs q c sl _ _ => wfSheaf q c sl
  | .neg q c sl _ _ => wfSheaf q c sl
  | .div q c sl _ _ => wfSheaf q c sl
  | .rem q c sl _ _ => wfSheaf q c sl
  | .sqrt q c sl _ _ => wfSheaf q c sl
  | .rcp q c sl _ _ => wfSheaf q c sl
  | .rsqrt q c sl _ _ => wfSheaf q c sl
  | .exp2 q c sl _ _ => wfSheaf q c sl
  | .log2 q c sl _ _ => wfSheaf q c sl
  | .sin q c sl _ _ => wfSheaf q c sl
  | .cos q c sl _ _ => wfSheaf q c sl
  | .and q c sl _ _ => wfSheaf q c sl
  | .or q c sl _ _ => wfSheaf q c sl
  | .xor q c sl _ _ => wfSheaf q c sl
  | .not q c sl _ _ => wfSheaf q c sl
  | .shl q c sl _ _ => wfSheaf q c sl
  | .shr q c sl _ _ => wfSheaf q c sl
  | .rotl q c sl _ _ => wfSheaf q c sl
  | .popc q c sl _ _ => wfSheaf q c sl
  | .clz q c sl _ _ => wfSheaf q c sl
  | .sel q c sl _ _ => wfSheaf q c sl
  | .setp q c sl _ _ => wfSheaf q c sl
  | .cvt q c sl _ _ => wfSheaf q c sl
  | .mov q c sl _ _ => wfSheaf q c sl
  | .shfl q c sl _ _ => wfSheaf q c sl
  | .redu q c sl _ _ => wfSheaf q c sl
  | .vote q c sl _ _ => wfSheaf q c sl
  | .ld q c sl _ _ => wfSheaf q c sl
  | .st q c sl _ _ => wfSheaf q c sl
  | .pfs q c sl _ _ => wfSheaf q c sl
  | .pwb q c sl _ _ => wfSheaf q c sl
  | .pfr q c sl _ _ => wfSheaf q c sl
  | .pfrBind q c _ => wfCore q c
  | .bulkOpStart q c => wfCore q c
  | .bulkOpComplete q c _ => wfCore q c
  | .bra q c sl _ _ => wfSheaf q c sl
  | .jmp q c sl _ _ => wfSheaf q c sl
  | .call q c sl _ _ => wfSheaf q c sl
  | .jmpr q c sl _ _ => wfSheaf q c sl
  | .ret q c sl _ _ => wfSheaf q c sl
  | .exit q c sl _ _ => wfSheaf q c sl
  | .atomAdd q c sl _ _ => wfSheaf q c sl
  | .atomMin q c sl _ _ => wfSheaf q c sl
  | .atomMax q c sl _ _ => wfSheaf q c sl
  | .atomAnd q c sl _ _ => wfSheaf q c sl
  | .atomOr q c sl _ _ => wfSheaf q c sl
  | .atomXor q c sl _ _ => wfSheaf q c sl
  | .atomXchg q c sl _ _ => wfSheaf q c sl
  | .atomCas q c sl _ _ => wfSheaf q c sl
  | .lockAcq q c sl _ _ => wfSheaf q c sl
  | .lockRel q c sl _ _ => wfSheaf q c sl
  | .bar q c sl _ _ => wfSheaf q c sl
  | .flagSet q c sl _ _ => wfSheaf q c sl
  | .flagAdd q c sl _ _ => wfSheaf q c sl
  | .flagWait q c sl _ _ => wfSheaf q c sl
  | .nop q c sl _ _ => wfSheaf q c sl
  | .fence q c sl _ _ => wfSheaf q c sl
  | .inval q c sl _ _ => wfSheaf q c sl
  | .rndU32 q c sl _ _ => wfSheaf q c sl
  | .rndF32 q c sl _ _ => wfSheaf q c sl
  | .sample q c sl _ _ => wfSheaf q c sl
  | .role q c sl _ _ => wfSheaf q c sl
  | .stamp q c sl _ _ => wfSheaf q c sl
  | .sampleService q c => wfCore q c
  | .rowTimeout q c => wfCore q c
  | .roundingKeyFetch q c => wfCore q c
  | .keyDelivery q c _ => wfCore q c
  | .keyRequestTimeout q c _ => wfCore q c
  | .roundingKeyRetry q c => wfCore q c
  | .granaryRead h _ _ _ => wfHalf h
  | .granaryStore h _ => wfHalf h
  | .fillReturn h _ => wfHalf h
  | .fillResume h _ => wfHalf h
  | .reductionAdmit h _ => wfHalf h
  | .reductionComplete h _ => wfHalf h
  | .mergeEntryExpire h _ => wfHalf h
  | .granaryCarve qu => wfQueue qu
  | .carveWalkSet h => wfHalf h
  | .plotCreate qu => wfQueue qu
  | .plotDelete qu => wfQueue qu
  | .granaryPin qu => wfQueue qu
  | .pinEngineRequest h => wfHalf h
  | .pinComplete _ => true
  | .granaryUnpin qu => wfQueue qu
  | .thrashWindowEnd h => wfHalf h
  | .thrashEvent h => wfHalf h
  | .tilthSplitChange q c units => wfCore q c && decide (1 ≤ units) && decide (units ≤ 31)
  | .flitReceive l dir g _ _ => wfGroup l dir g
  | .replayRequest l dir g _ => wfGroup l dir g
  | .linkAck l dir g _ => wfGroup l dir g
  | .marginMeasure l dir g _ => wfGroup l dir g
  | .groupStop l dir g => wfGroup l dir g
  | .linkAbandon l => decide (l < 9)
  | .routeChange a b => decide (a < 5) && decide (b < 5)
  | .controlMessage _ msg => (msg.length == 0 || msg.length == 64)
  | .bounce _ => true
  | .roleSet _ _ _ => true
  | .inboxWaitTimeout _ => true
  | .multicast q msg => decide (q < 4) && (msg.length == 0 || msg.length == 64)
  | .mcastRetry q _ c => wfCore q c
  | .mcastBlockTimeout q _ => decide (q < 4)
  | .launchFlagsFreed => true
  | .vbusUncorrectable q bus x => wfVbus q bus x.1
  | .vbusCeRate q bus i _ => wfVbus q bus i
  | .guestVersionExchange _ => true
  | .guestFlit flit => decide (flit.length = 256)
  | .guestReplayTimer => true
  | .guestCrcRetrain _ => true
  | .guestRequest flit => decide (flit.length = 256)
  | .guestResponse flit => decide (flit.length = 256)
  | .guestResponseTimeout _ => true
  | .guestOvercurrent => true
  | .lpddrRequest m _ _ y slot _ _ => decide (m < 8) && decide (y < 0x14_0000_0000) && decide (slot < 64)
  | .channelSlot m x => wfChan m x.1
  | .lpddrReadReturn m _ _ => decide (m < 8)
  | .crcRetry m _ => decide (m < 8)
  | .channelRetrain m ch => wfChan m ch
  | .channelRetrainDone m ch _ => wfChan m ch
  | .lpddrRequestTimeout m _ => decide (m < 8)
  | .channelTimingAdjust m ch => wfChan m ch
  | .refreshDue m ch bank => wfChan m ch && decide (bank < 16)
  | .refreshRatePoll m die _ => decide (m < 8) && decide (die < 16)
  | .refreshRateTimeout m die => decide (m < 8) && decide (die < 16)
  | .urgencyWireTimeout q _ => decide (q < 4)
  | .stackTraining m _ _ _ _ => decide (m < 8)
  | .stackZeroFillDone m => decide (m < 8)
  | .walkerRead kind unit _ => wfWalker kind unit
  | .repairRewrite kind unit _ => wfWalker kind unit
  | .checkerSelfTest kind unit _ => wfChecker kind unit
  | .fuseLoad unit _ _ _ => decide (unit ≤ 265)
  | .hello qu => wfQueue qu
  | .goodbye qu => wfQueue qu
  | .groupSet qu => wfQueue qu
  | .groupSetDelete qu => wfQueue qu
  | .queueCreate qu => wfQueue qu
  | .queueResume qu => wfQueue qu
  | .queuePause qu => wfQueue qu
  | .queueDelete qu => wfQueue qu
  | .map qu => wfQueue qu
  | .unmap qu => wfQueue qu
  | .contextCreate qu => wfQueue qu
  | .contextDestroy qu => wfQueue qu
  | .contextReseed qu => wfQueue qu
  | .contextQuery qu => wfQueue qu
  | .homingSet qu => wfQueue qu
  | .memQos qu => wfQueue qu
  | .gleanerSet qu => wfQueue qu
  | .selftestSet qu => wfQueue qu
  | .coreRetest qu _ _ => wfQueue qu
  | .hedgerowRule qu => wfQueue qu
  | .guestRetrain qu => wfQueue qu
  | .keySlotLoad qu => wfQueue qu
  | .keySlotClear qu => wfQueue qu
  | .attest qu spoil _ => wfQueue qu && decide (spoil ≤ 16384)
  | .launch qu => wfQueue qu
  | .copy qu => wfQueue qu
  | .mark qu => wfQueue qu
  | .commandTimeout qu _ => wfQueue qu
  | .commandReadTimeout qu _ => wfQueue qu
  | .runStart qu _ => wfQueue qu
  | .runEnded qu _ => wfQueue qu
  | .commandDecide qu => wfQueue qu
  | .redispatch qu _ => wfQueue qu
  | .portRateAlternate p => decide (p < 9)
  | .portLock p => decide (p < 9)
  | .portLockAlarm p => decide (p < 9)
  | .portDown p _ => decide (p < 9)
  | .frameReceive p _ => decide (p.1 < 9) && decide (p.2 ≤ 1024)
  | .pfcPauseReceive p prio _ => decide (prio < 8) && decide (p < 9)
  | .pfcPauseTimeout p prio => decide (prio < 8) && decide (p < 9)
  | .fabHostqPtrWrite p r _ => decide (p < 9) && decide (r < 16)
  | .hostTxSend p r => decide (p < 9) && decide (r < 16)
  | .connect _ _ _ => true
  | .close _ => true
  | .drillWrite _ => true
  | .drillRead _ => true
  | .drillAck _ => true
  | .drillNak _ => true
  | .drillSack _ => true
  | .drillRetransmit _ _ => true
  | .drillPendingTimeout _ => true
  | .listenEntryWrite _ _ => true
  | .qpEntryWrite _ _ => true
  | .roceRdmaWrite _ _ _ _ _ => true
  | .roceRdmaRead _ _ _ _ _ => true
  | .roceSend p _ _ _ => decide (p < 9)
  | .roceCnp _ => true
  | .roceRateRecover _ => true
  | .roceAckTimeout _ => true
  | .ptpMessage p _ _ => decide (p < 9)
  | .ptpHoldover => true
  | .ppsEdge => true
  | .ppsLost => true
  | .mgmtRateAlternate => true
  | .dhcpAttempt => true
  | .dhcpOffer _ _ => true
  | .recoveryFetch => true
  | .tftpBlockTimeout => true
  | .consoleInput _ _ _ => true
  | .inputVoltageSample _ _ => true
  | .inputRestored => true
  | .powerGood _ => true
  | .converterFail sc => decide (sc < 24)
  | .domainCapAdjust q d _ => wfDomain q d || (decide (q < 4) && d == 67)
  | .powerManagerTick _ _ => true
  | .offsetUpdate _ => true
  | .brakeInput _ => true
  | .brakeHeldAlarm => true
  | .fallowEntry q c fs => wfCore q c && decide (fs < 4)
  | .wakeRequest q c => wfCore q c
  | .wakeGrant q _ => decide (q < 4)
  | .wakeForced q c cap => wfCore q c && decide (1 ≤ cap) && decide (cap ≤ 64)
  | .wakeComplete q c _ _ => wfCore q c
  | .tineFail q t => decide (q < 4) && decide (t < 640)
  | .housekeepingRound => true
  | .roundResults q _ _ _ _ _ => decide (q < 5)
  | .roundMissing q => decide (q < 4)
  | .paceInterval q c _ _ => wfCore q c
  | .criticalLimitStep q c => wfCore q c
  | .tripRecheck q => decide (q < 4)
  | .referenceCheck _ _ => true
  | .loopUnlock q _ => decide (q < 4)
  | .timeBaseSync q => decide (q < 4)
  | .coreReset q c => wfCore q c
  | .clusterReset q k => decide (q < 4) && decide (k < 16)
  | .coreHeadland q c => wfCore q c
  | .quarterFault q _ => decide (q < 4)
  | .headlandEnd q => decide (q < 4)
  | .baseDieReset q _ => decide (q < 4)
  | .quarterResetStep q _ => decide (q < 4)
  | .retryLaterReissue _ => true
  | .moduleReset => true
  | .moduleDrainTimeout => true
  | .modResetInput _ => true
  | .modResetHeld => true
  | .harrowWave q _ _ _ => decide (q < 4)
  | .hubPllLock _ => true
  | .firmwareVerify => true
  | .osCoreRelease => true
  | .fwRecoverInput _ => true
  | .fuseBlow _ => true
  | .bootKeyGenerate => true
  | .entropyTestFail => true
  | .logRecord sev _ _ _ => decide (sev < 6)
  | .logWrite => true
  | .alarmRaise _ _ _ => true
  | .alarmResend => true
  | .alarmClose _ => true
  | .mgmtTransmit => true
  | .telemetrySend kind => decide (1 ≤ kind) && decide (kind ≤ 4)
  | .traceRecord coll _ _ _ => decide (coll < 5)
  | .counterSnapshot => true
  | .wdrTraceCfgWrite _ => true
  | .devRead _ width => wfWidth width
  | .idSetOffset _ => true
  | .idRead _ => true
  | .idSclTimeout => true
  | .linkTraining l _ _ => decide (l < 9)
  | .entropyStartUpTest => true
  | .droopSensorReading q d _ _ => wfDomain q d
  | .auxiliarySupplyChange _ => true
  | .roceAckReceive _ _ _ => true
  | .tftpBlockReceive _ _ _ => true

end Sys2Proof
end

