-- ==== Sys2Proof/Machine/Control.lean ====
section
/-! DEFINITION. The control network: messages, roles, bounces and multicast (09 R270 to R277, R291). A message that reaches the head of
an inbox starts at once (log 1); the effect of a type that another chapter defines belongs to that chapter's own command. -/
namespace Sys2Proof.Machine

/-! ## Units and messages (Tables 1-6, 9-5, 9-6) -/

/-- The physical core of a source identifier. -/
def coreOfSrc (id : Nat) : Option Nat :=
  if 0x1000 ≤ id ∧ id < 0x5000 ∧ id % 0x1000 < 64 then some (64 * (id / 0x1000 - 1) + id % 64) else none
/-- A unit of Table 1-6 that the module has. -/
def unitExists (s : State) (id : Nat) : Bool :=
  decide (id ≤ 4) || (decide (0x10 ≤ id) && decide (id < 0x30)) || (decide (0x40 ≤ id) && decide (id < 0x48)) ||
  (decide (id = 0x48) && is4G s) || (decide (id = 0x5000) && is4G s) ||
  (decide (0x1000 ≤ id) && decide (id < 0x5000) &&
    (decide (id % 0x1000 < 0x50) || decide (id % 0x1000 = 0x80) || decide (id % 0x1000 = 0x81) ||
     (decide (0x400 ≤ id % 0x1000) && decide (id % 0x1000 < 0x680)))) ||
  (decide (0x6000 ≤ id) && decide (id < 0x6200) && stackFitted s ((id - 0x6000) / 64))
/-- The role of a unit that no message has changed: IDLE for a core (FENCED when it is fused off), SERVICE for any other (R272). -/
def role0 (s : State) (id : Nat) : Nat :=
  match coreOfSrc id with | some n => if s.fuse.offCores.contains n then 3 else 0 | none => 0x10
/-- Endpoint of a unit. -/
def State.ep (s : State) (id : Nat) : Endpoint := tget (Endpoint.dflt (role0 s id)) s.ctl.eps id
/-- Replace an endpoint. -/
def State.setEp (s : State) (id : Nat) (x : Endpoint) : State :=
  { s with ctl := { s.ctl with eps := tset (Endpoint.dflt (role0 s id)) s.ctl.eps id x } }
/-- TYPE, ROLE, DEST, EPOCH, SRC, MCAST, TAG and TARGETS of a message. -/
def msgType (m : CtlMsg) : Nat := fld m 0 1
/-- ROLE. -/
def msgRole (m : CtlMsg) : Nat := fld m 1 1
/-- DEST. -/
def msgDest (m : CtlMsg) : Nat := fld m 2 2
/-- EPOCH. -/
def msgEpoch (m : CtlMsg) : Nat := fld m 4 4
/-- SRC. -/
def msgSrc (m : CtlMsg) : Nat := fld m 8 2
/-- MCAST. -/
def msgMcast (m : CtlMsg) : Bool := bit (fld m 0x0B 1) 0
/-- TAG. -/
def msgTag (m : CtlMsg) : Nat := fld m 0x0C 4
/-- TARGETS. -/
def msgTargets (m : CtlMsg) : Nat := fld m 0x38 8
/-- A TYPE that a unit's chapter defines, or ROLE_SET: MCAST_DONE and BOUNCE are the hardware's own, and 0x00 and 0xF3 to 0xFF are reserved (log 14). -/
def sendable (m : CtlMsg) : Bool := decide (1 ≤ msgType m) && decide (msgType m ≤ 0xF0)
/-- Messages a sender may have outstanding (R271). -/
def outLimit (src : Nat) : Nat := if src = 0 then 1024 else 16
/-- Offset of the module's control-network counters. -/
def ctlBlk : Nat := 0x0068_0000

/-! ## Bounces (R273) -/

/-- The 128 bytes of a BOUNCE; for LINK, BLOCKED and 0x05 no unit checked the message. -/
def bounceMsg (s : State) (unit reason : Nat) (m : CtlMsg) : List Byte :=
  let chk := reason != 3 && reason != 5 && reason != 6
  let e := s.ep unit
  natLE 1 0xF2 ++ natLE 1 0xFF ++ natLE 2 (msgSrc m) ++ natLE 4 0 ++ natLE 2 unit ++ natLE 1 reason ++ natLE 1 0 ++ natLE 4 (msgTag m) ++
  natLE 1 (if chk then e.role else 0xFF) ++ natLE 1 (msgType m) ++ natLE 2 0 ++ natLE 4 (if chk then e.epoch.toNat else 0) ++
  bvLE 8 (now s) ++ List.replicate 32 0 ++ padTo 64 m
/-- A sender has one outstanding message fewer. -/
def lowerOut (src : Nat) (s : State) : State := let e := s.ep src; s.setEp src { e with out := e.out - 1 }
/-- Counter of a reason. -/
def bounceCtr (reason : Nat) : Nat := ctlBlk + (if reason = 6 then 8 else if reason = 3 then 0x10 else 0)
/-- Return a message to its sender's return queue. -/
def bounceTo (unit reason : Nat) (m : CtlMsg) (s : State) : State :=
  let b := bounceMsg s unit reason m
  let s1 := bump (bounceCtr reason) 1 (lowerOut (msgSrc m) s)
  let e := s1.ep (msgSrc m)
  s1.setEp (msgSrc m) { e with ret := e.ret ++ [b] }

/-! ## Multicast retry slots (R275 to R277) -/

/-- Set a bit of a mask. -/
def setBit64 (v : W64) (i : Nat) : W64 := v ||| BitVec.ofNat 64 (2 ^ i)
/-- The MCAST_DONE message of a slot: only Pelseso sends ROLE 0xFF (R274), so it carries the role and the epoch that its destination has. -/
def mcastDoneMsg (s : State) (q : Nat) (x : Mcast) : CtlMsg :=
  natLE 1 0xF1 ++ natLE 1 (s.ep x.src).role ++ natLE 2 x.src ++ bvLE 4 (s.ep x.src).epoch ++ natLE 2 (srcQuarter q) ++ natLE 2 0 ++ bvLE 4 x.tag ++
  bvLE 8 x.delivered ++ bvLE 8 x.blocked ++ bvLE 8 x.bounced ++ List.replicate 24 0
/-- A message reaches a unit: it enters the inbox behind those that came before it, or waits for a place; to a unit that does not exist it bounces. -/
def reach (id : Nat) (m : CtlMsg) (s : State) : State :=
  if !unitExists s id then bounceTo id 5 m s
  else
    let e := s.ep id
    if e.inbox.length < 8 && !s.ctl.net.any (fun x => x.1 == id) then s.setEp id { e with inbox := e.inbox ++ [(m, none)] }
    else { s with ctl := { s.ctl with net := s.ctl.net ++ [(id, m, now s)] } }
/-- The assemblies between which a message travels. -/
def msgPair (id : Nat) (m : CtlMsg) : Nat × Nat := (asmOf (msgSrc m), asmOf id)
/-- A message is sent: it is outstanding, and reaches its destination, or waits behind its pair's others while a link of their route is down
(R269, R271). -/
def arrive (id : Nat) (m : CtlMsg) (s : State) : State :=
  let x := s.ep (msgSrc m)
  let s1 := s.setEp (msgSrc m) { x with out := x.out + 1 }
  let p := msgPair id m
  if pairWaits s p.1 p.2 || s.ctl.held.any (fun y => msgPair y.1 y.2 == p) then { s1 with ctl := { s1.ctl with held := s1.ctl.held ++ [(id, m)] } }
  else reach id m s1
/-- The messages between two assemblies that wait for a route go on, in send order (R269). -/
def releaseMsgs (a b : Nat) (s : State) : State :=
  let mine (y : Nat × CtlMsg) : Bool := msgPair y.1 y.2 == (a, b) || msgPair y.1 y.2 == (b, a)
  (s.ctl.held.filter mine).foldl (fun t y => reach y.1 y.2 t) { s with ctl := { s.ctl with held := s.ctl.held.filter (fun y => !mine y) } }
/-- Send MCAST_DONE once every target is delivered, blocked or bounced, and free the slot (R277). -/
def mcastCheck (q sl : Nat) (s : State) : State :=
  match tfind s.ctl.mcast (8 * q + sl) with
  | none => s
  | some x =>
    if x.delivered ||| x.blocked ||| x.bounced = x.targets then
      let s1 := bump (ctlBlk + 0x18) 1 (lowerOut x.src s)
      let s2 := if x.blocked = 0 ∧ x.bounced = 0 then s1 else bump (ctlBlk + 0x20) 1 s1
      arrive x.src (mcastDoneMsg s2 q x) { s2 with ctl := { s2.ctl with mcast := tdel s2.ctl.mcast (8 * q + sl) } }
    else s
/-- Change a slot, then check whether it is done. -/
def mcastMod (q sl : Nat) (f : Mcast → Mcast) (s : State) : State :=
  match tfind s.ctl.mcast (8 * q + sl) with
  | none => s
  | some x => mcastCheck q sl { s with ctl := { s.ctl with mcast := tput s.ctl.mcast (8 * q + sl) (f x) } }
/-- Record a copy at core c as delivered. -/
def mcastDelivered (q sl c : Nat) (s : State) : State := mcastMod q sl (fun x => { x with delivered := setBit64 x.delivered c }) s
/-- Record a copy at core c as bounced. -/
def mcastBounced (q sl c : Nat) (s : State) : State := mcastMod q sl (fun x => { x with bounced := setBit64 x.bounced c }) s
/-- Send a slot's copy to core c, when its inbox has a free entry and the copy has neither entered nor been given up. -/
def mcastSend (q sl c : Nat) (s : State) : State :=
  match tfind s.ctl.mcast (8 * q + sl) with
  | none => s
  | some x =>
    let id := srcCore (64 * q + c)
    let e := s.ep id
    if x.targets.getLsbD c && !x.entered.getLsbD c && !x.blocked.getLsbD c && decide (e.inbox.length < 8) then
      let s1 := s.setEp id { e with inbox := e.inbox ++ [(x.msg, some (q, sl))] }
      { s1 with ctl := { s1.ctl with mcast := tput s1.ctl.mcast (8 * q + sl) { x with entered := setBit64 x.entered c } } }
    else s

/-! ## The inbox (R271 to R274) -/

/-- Messages waiting in the network for an inbox place enter, the oldest first, as long as there is one (at most n of them). -/
def netDrain (id : Nat) : Nat → State → State
  | 0, s => s
  | n + 1, s =>
    match s.ctl.net.find? (fun x => x.1 == id) with
    | none => s
    | some x =>
      let e := s.ep id
      if e.inbox.length < 8 then
        let s1 := s.setEp id { e with inbox := e.inbox ++ [(x.2.1, none)] }
        netDrain id n { s1 with ctl := { s1.ctl with net := s1.ctl.net.erase x } }
      else s
/-- The reason for which a unit refuses a message (R273, R274), if it does. -/
def refuseReason (e : Endpoint) (m : CtlMsg) : Option Nat :=
  if msgRole m = 0xFF then (if msgSrc m = 0 then none else some 4)
  else if msgRole m ≠ e.role then some 1
  else if msgEpoch m ≠ e.epoch.toNat then some 2
  else none
/-- A core that was in headland for a role change takes work again (R461). -/
def endHeadland (id : Nat) (s : State) : State :=
  match coreOfSrc id with | some n => s.setCore n { s.core n with headland := false } | none => s
/-- A message runs: ROLE_SET, which has ROLE 0xFF, takes effect, MCAST_DONE reaches its sender's own record, and any other is recorded. -/
def runMsg (id : Nat) (m : CtlMsg) (s : State) : State :=
  let e := s.ep id
  let e1 := { e with ran := (msgType m, msgTag m) :: e.ran }
  if msgRole m == 0xFF && msgType m == 0xF0 then
    endHeadland id (s.setEp id { e1 with role := fld m 0x10 1, epoch := BitVec.ofNat 32 (fld m 0x14 4) })
  else s.setEp id { e1 with done := if msgType m = 0xF1 then e.done ++ [m] else e.done }
/-- Take the message at the head of an inbox: it is checked, and runs or bounces. -/
def takeHead (id : Nat) (s : State) : State :=
  let e := s.ep id
  match e.inbox with
  | [] => s
  | (m, copy) :: t =>
    let s1 := netDrain id 1 (s.setEp id { e with inbox := t })
    match refuseReason e m, copy with
    | none, none => lowerOut (msgSrc m) (runMsg id m s1)
    | none, some (q, sl) => mcastDelivered q sl ((coreOfSrc id).getD 0 % 64) (runMsg id m s1)
    | some r, none => bounceTo id r m s1
    | some _, some (q, sl) => mcastBounced q sl ((coreOfSrc id).getD 0 % 64) s1
/-- Return every message of an inbox with a reason, and record its multicast copies as bounced (R460). -/
def bounceAll (id reason : Nat) : List (CtlMsg × Option (Nat × Nat)) → State → State
  | [], s => s
  | (m, none) :: t, s => bounceAll id reason t (bounceTo id reason m s)
  | (_, some (q, sl)) :: t, s => bounceAll id reason t (mcastBounced q sl ((coreOfSrc id).getD 0 % 64) s)
/-- A unit resets: it takes epoch 0 and its first role, its inbox bounces, and the messages that wait for a place enter (R271, R272, R460). -/
def resetEndpoint (id : Nat) (s : State) : State :=
  let e := s.ep id
  netDrain id 8 (bounceAll id 2 e.inbox (s.setEp id { e with role := role0 s id, epoch := 0, inbox := [] }))
/-- A unit sends a message of its own chapter, with the role and the epoch that its destination has, and the head of the inbox starts (Table 9-1). Its
TYPE and payload are free values (log 14). A sender at its limit sends nothing. -/
def signal (src dest kind : Nat) (s : State) : State :=
  let e := s.ep dest
  let m : CtlMsg := natLE 1 (1 + (Config.signalType kind).val) ++ natLE 1 e.role ++ natLE 2 dest ++ bvLE 4 e.epoch ++ natLE 2 src ++ natLE 2 0 ++ natLE 4 0 ++
    (List.range 48).map (Config.signalByte kind)
  if (s.ep src).out < outLimit src then takeHead dest (arrive dest m s) else s

/-! ## Commands -/

/-- BOUNCE (R273): the sender takes the oldest bounce of its return queue; a hardware sender reports it to Pelseso, which records it. -/
def execBounce (sender : Nat) (s : State) : Out :=
  let e := s.ep sender
  match e.ret with
  | [] => .next s
  | b :: t =>
    let s1 := s.setEp sender { e with ret := t }
    .next (if sender = 0 ∨ (0x10 ≤ sender ∧ sender < 0x20) then s1
           else logRec 2 sender 0x8400 (b.take 32 ++ b.drop 64) s1)

/-- The ROLE_SET message of a sender: the new epoch comes from the module-wide counter, which skips 0 (R272, R274). -/
def roleSetMsg (sender dest : Nat) (role : Byte) (epoch : W32) : CtlMsg :=
  natLE 1 0xF0 ++ natLE 1 0xFF ++ natLE 2 dest ++ natLE 4 0 ++ natLE 2 sender ++ natLE 2 0 ++ natLE 4 0 ++
  [role] ++ natLE 3 0 ++ bvLE 4 epoch ++ List.replicate 40 0
/-- The epoch after a value, skipping 0. -/
def nextEpoch (e : W32) : W32 := if e + 1 = 0 then 1 else e + 1
/-- ROLE_SET (R272, R274): the message sets role and epoch when it reaches the head of the inbox. -/
def execRoleSet (sender dest : Nat) (role : BitVec 8) (s : State) : Out :=
  let ep := nextEpoch s.ctl.epochCtr
  let s1 := if sender = 0 then { s with ctl := { s.ctl with epochCtr := ep } } else s
  evt (decide ((s.ep sender).out < outLimit sender)) s (takeHead dest (arrive dest (roleSetMsg sender dest role ep) s1))

/-- A message as its sender sends it: a ROLE_SET of Pelseso takes its epoch from the module-wide counter (R272). -/
def stamped (m : CtlMsg) (s : State) : CtlMsg × State :=
  if msgType m = 0xF0 ∧ msgSrc m = 0 then
    let ep := nextEpoch s.ctl.epochCtr
    (m.take 0x14 ++ bvLE 4 ep ++ m.drop 0x18, { s with ctl := { s.ctl with epochCtr := ep } })
  else (m, s)
/-- A message may be sent: its TYPE is one that a sender uses, and its sender is below its limit. -/
def mayReach (msg : CtlMsg) (s : State) : Bool :=
  decide (msg.length = 64) && sendable msg && decide ((s.ep (msgSrc msg)).out < outLimit (msgSrc msg))
/-- CONTROL_MESSAGE (R270 to R273): a message arrives at the unit that its DEST names, and the one at the head of the inbox is checked; an empty `msg`
is the head alone (log 14). A sender at its limit sends nothing; a message with MCAST goes to an engine instead (MULTICAST). -/
def execControlMessage (dest : Nat) (msg : List Byte) (s : State) : Out :=
  let x := stamped msg s
  evt (msg.isEmpty || (mayReach msg s && msgDest msg == dest && !msgMcast msg)) s
    (takeHead dest (if msg.isEmpty then s else arrive dest x.1 x.2))

/-- INBOX_WAIT_TIMEOUT (R271): a message that has waited 1 ms for an inbox place returns with reason BLOCKED. -/
def execInboxWaitTimeout (i : Nat) (s : State) : Out :=
  match s.ctl.net[i]? with
  | none => .next s
  | some x => evt (aged s x.2.2 ms) s (bounceTo x.1 6 x.2.1 { s with ctl := { s.ctl with net := s.ctl.net.erase x } })

/-- Lowest free retry slot of a quarter. -/
def freeSlot (s : State) (q : Nat) : Option Nat := (List.range 8).find? (fun sl => (tfind s.ctl.mcast (8 * q + sl)).isNone)
/-- MULTICAST (R275): the engine accepts the message into a free retry slot and sends its copies; in headland it accepts none (R463). -/
def execMulticast (q : Nat) (msg : List Byte) (s : State) : Out :=
  match freeSlot s q with
  | none => .next s
  | some sl =>
    let y := stamped msg s
    let x : Mcast := { msg := y.1, src := msgSrc msg, tag := BitVec.ofNat 32 (msgTag msg), targets := BitVec.ofNat 64 (msgTargets msg)
                       entered := 0, delivered := 0, blocked := 0, bounced := 0, since := now s }
    let e := s.ep (msgSrc msg)
    let s1 := y.2.setEp (msgSrc msg) { e with out := e.out + 1 }
    let s2 := { s1 with ctl := { s1.ctl with mcast := tput s1.ctl.mcast (8 * q + sl) x } }
    evt (decide (q < 4) && mayReach msg s && msgMcast msg && msgDest msg % 4 == q && !pairWaits s (asmOf (msgSrc msg)) q && (s.quarter q).st != 1) s
      (mcastCheck q sl ((List.range 64).foldl (fun a c => mcastSend q sl c a) s2))

/-- MCAST_RETRY (R275): a remaining target's inbox has a free entry, and the engine sends its copy. -/
def execMcastRetry (q slot c : Nat) (s : State) : Out :=
  evt (decide (q < 4) && decide (slot < 8) && decide (c < 64)) s (mcastSend q slot c s)

/-- MCAST_BLOCK_TIMEOUT (R276): 1 ms after acceptance, targets whose copy has not entered an inbox are recorded as blocked. -/
def execMcastBlockTimeout (q slot : Nat) (s : State) : Out :=
  match tfind s.ctl.mcast (8 * q + slot) with
  | none => .next s
  | some x => evt (decide (q < 4) && decide (slot < 8) && aged s x.since ms) s
      (mcastMod q slot (fun y => { y with blocked := y.targets &&& ~~~y.entered }) s)

end Sys2Proof.Machine
end

