-- ==== Sys2Proof/Machine/Crypto.lean ====
section
/-! DEFINITION. The ciphers and hashes that the spec names: AES-256 with the CTR block, GCM and XTS modes, and Keccak with SHAKE256,
cSHAKE256 and KMAC256 (FIPS 197, SP 800-38D, SP 800-38E, FIPS 202, SP 800-185). Blocks are lists of byte numbers. -/
namespace Sys2Proof.Machine

/-- The S-box of FIPS 197, byte i at bits 8i. -/
def aesSbox : Nat := 0x16bb54b00f2d99416842e6bf0d89a18cdf2855cee9871e9b948ed9691198f8e19e1dc186b95735610ef6034866b53e708a8bbd4b1f74dde8c6b4a61c2e2578ba08ae7a65eaf4566ca94ed58d6d37c8e779e4959162acd3c25c2406490a3a32e0db0b5ede14b8ee4688902a22dc4f816073195d643d7ea7c41744975fec130ccdd2f3ff1021dab6bcf5389d928f40a351a89f3c507f02f94585334d43fbaaefd0cf584c4a39becb6a5bb1fc20ed00d153842fe329b3d63b52a05a6e1b1a2c830975b227ebe28012079a059618c323c7041531d871f1e5a534ccf73f362693fdb7c072a49cafa2d4adf04759fa7dc982ca76abd7fe2b670130c56f6bf27b777c63
/-- The inverse S-box. -/
def aesInvSbox : Nat := 0x7d0c2155631469e126d677ba7e042b17619953833cbbebc8b0f52aae4d3be0a0ef9cc9939f7ae52d0d4ab519a97f51605fec8027591012b131c7078833a8dd1ff45acd78fec0db9a2079d2c64b3e56fc1bbe18aa0e62b76f89c5291d711af1476edf751ce837f9e28535ade72274ac9673e6b4f0cecff297eadc674f4111913a6b8a130103bdafc1020f3fca8f1e2cd00645b3b80558e4f70ad3bc8c00abd890849d8da75746155edab9edfd5048706c92b6655dcc5ca4d41698688664f6f87225d18b6d49a25b76b224d92866a12e084ec3fa420b954cee3d23c2a632947b54cbe9dec444438e3487ff2f9b8239e37cfbd7f3819ea340bf38a53630d56a0952
/-- Byte i of a packed table. -/
def nbyte (t i : Nat) : Nat := (t >>> (8 * i)) % 256
/-- Multiplication by x in the AES field. -/
def xtime (a : Nat) : Nat := if a < 128 then 2 * a else (2 * a) ^^^ 0x11B
/-- Product in the AES field, for the small constants of MixColumns. -/
def aesMul : Nat → Nat → Nat → Nat
  | 0, _, _ => 0
  | n + 1, a, b => (if b % 2 = 1 then a else 0) ^^^ aesMul n (xtime a) (b / 2)
/-- Exclusive-or of two byte lists. -/
def xorB (a b : List Nat) : List Nat := List.zipWith (fun x y => x ^^^ y) a b
/-- Key schedule of AES-256: words of four bytes, newest first; `i` the index of the next word. -/
def aesExpand : Nat → Nat → Nat → List (List Nat) → List (List Nat)
  | 0, _, _, ws => ws
  | n + 1, i, rc, ws =>
    let prev := ws.headD []
    let old := ws.getD 7 []
    let sub := prev.map (nbyte aesSbox)
    if i % 8 = 0 then
      let rot := sub.drop 1 ++ sub.take 1
      aesExpand n (i + 1) (xtime rc) (xorB old (xorB rot [rc, 0, 0, 0]) :: ws)
    else if i % 8 = 4 then aesExpand n (i + 1) rc (xorB old sub :: ws)
    else aesExpand n (i + 1) rc (xorB old prev :: ws)
/-- The 15 round keys of a 32-byte key, in order. -/
def aesKeys (key : List Nat) : List (List Nat) :=
  let w0 := (chunks 4 8 key).reverse
  (chunks 4 15 (aesExpand 52 8 1 w0).reverse).map List.flatten
/-- ShiftRows: byte 4c + r comes from column c + r. -/
def aesShift (b : List Nat) : List Nat := (List.range 16).map (fun i => b.getD ((i + 4 * (i % 4)) % 16) 0)
/-- Inverse ShiftRows. -/
def aesUnshift (b : List Nat) : List Nat := (List.range 16).map (fun i => b.getD ((i + 12 * (i % 4)) % 16) 0)
/-- MixColumns with the four coefficients of a row. -/
def aesMix (c0 c1 c2 c3 : Nat) (b : List Nat) : List Nat :=
  (List.range 16).map fun i =>
    let g (k : Nat) : Nat := b.getD (4 * (i / 4) + (i + k) % 4) 0
    aesMul 4 (g 0) c0 ^^^ aesMul 4 (g 1) c1 ^^^ aesMul 4 (g 2) c2 ^^^ aesMul 4 (g 3) c3
/-- The rounds after the first key addition. -/
def aesRounds : List (List Nat) → List Nat → List Nat
  | [], b => b
  | [k], b => xorB (aesShift (b.map (nbyte aesSbox))) k
  | k :: ks, b => aesRounds ks (xorB (aesMix 2 3 1 1 (aesShift (b.map (nbyte aesSbox)))) k)
/-- AES-256 encryption of one block under expanded keys. -/
def aesEnc (ks : List (List Nat)) (b : List Nat) : List Nat := aesRounds (ks.drop 1) (xorB b (ks.headD []))
/-- The inverse rounds, keys in reverse order, before the last key addition. -/
def aesInvRounds : List (List Nat) → List Nat → List Nat
  | [], b => b
  | [k], b => xorB ((aesUnshift b).map (nbyte aesInvSbox)) k
  | k :: ks, b => aesInvRounds ks (aesMix 14 11 13 9 (xorB ((aesUnshift b).map (nbyte aesInvSbox)) k))
/-- AES-256 decryption of one block. -/
def aesDec (ks : List (List Nat)) (b : List Nat) : List Nat :=
  let rk := ks.reverse
  aesInvRounds (rk.drop 1) (xorB b (rk.headD []))
/-- Bytes of a list as numbers. -/
def nats (l : List Byte) : List Nat := l.map BitVec.toNat
/-- Numbers as bytes. -/
def bytesOf (l : List Nat) : List Byte := l.map (BitVec.ofNat 8)
/-- The 32 bytes of a 256-bit key, byte 0 lowest. -/
def keyBytes (k : W256) : List Nat := nats (bvLE 32 k)
/-- The number that big-endian byte numbers spell. -/
def beNat (l : List Nat) : Nat := l.foldl (fun a b => 256 * a + b) 0
/-- n big-endian byte numbers. -/
def natBE (n v : Nat) : List Nat := (nats (natLE n v)).reverse

/-! ## GCM -/

/-- Product in the GCM field on 128-bit big-endian numbers (bit 127 is the coefficient of 1). -/
def gcmMul : Nat → Nat → Nat → Nat
  | 0, _, _ => 0
  | n + 1, x, v =>
    (if x.testBit n then v else 0) ^^^ gcmMul n x (if v % 2 = 1 then (v / 2) ^^^ (0xE1 <<< 120) else v / 2)
/-- GHASH over 16-byte blocks. -/
def ghash (h : Nat) : List (List Nat) → Nat → Nat
  | [], y => y
  | b :: t, y => ghash h t (gcmMul 128 (y ^^^ beNat (b ++ List.replicate (16 - b.length) 0)) h)
/-- CTR key stream from a 16-byte counter block whose last 32 bits count. -/
def ctrStream (ks : List (List Nat)) (pre : List Nat) : Nat → Nat → List Nat
  | 0, _ => []
  | n + 1, c => aesEnc ks (pre ++ natBE 4 c) ++ ctrStream ks pre n (c + 1)
/-- AES-256-GCM transform of data (the same for both directions) with a 12-byte nonce. -/
def gcmCrypt (key iv data : List Nat) : List Nat := xorB data (ctrStream (aesKeys key) iv (cdiv data.length 16) 2)
/-- AES-256-GCM tag over the additional data and the ciphertext. -/
def gcmTag (key iv aad ct : List Nat) : List Nat :=
  let ks := aesKeys key
  let h := beNat (aesEnc ks (List.replicate 16 0))
  let blocks := chunks 16 (aad.length + 1) aad ++ chunks 16 (ct.length + 1) ct ++ [natBE 8 (8 * aad.length) ++ natBE 8 (8 * ct.length)]
  xorB (natBE 16 (ghash h blocks 0)) (aesEnc ks (iv ++ [0, 0, 0, 1]))

/-! ## XTS -/

/-- Multiplication of the tweak by α. -/
def xtsNext (t : Nat) : Nat := if t.testBit 127 then ((2 * t) % 2 ^ 128) ^^^ 0x87 else 2 * t
/-- XTS over 16-byte blocks with a block function. -/
def xtsBlocks (f : List Nat → List Nat) : List (List Nat) → Nat → List Nat
  | [], _ => []
  | b :: t, w => let tw := nats (natLE 16 w); xorB (f (xorB b tw)) tw ++ xtsBlocks f t (xtsNext w)
/-- AES-256-XTS of one data unit under a 512-bit key (low half the data key). -/
def xts (enc : Bool) (key : W512) (unit : Nat) (data : List Nat) : List Nat :=
  let kb := nats (bvLE 64 key)
  let k1 := aesKeys (kb.take 32)
  let k2 := aesKeys (kb.drop 32)
  let t := leNat (bytesOf (aesEnc k2 (nats (natLE 16 unit))))
  xtsBlocks (if enc then aesEnc k1 else aesDec k1) (chunks 16 data.length data) t

/-! ## Keccak -/

/-- One step of the bit register that yields ι's constants (x⁸ + x⁶ + x⁵ + x⁴ + 1, FIPS 202 algorithm 5). -/
def iotaStep (r : Nat) : Nat := if r < 128 then 2 * r else (2 * r) ^^^ 0x171
/-- The word that ι adds in a round that begins with the register at r, and the register after it: output k of seven stands at bit 2ᵏ − 1. -/
def iotaWord (r : Nat) : Nat × Nat :=
  (List.range 7).foldl (fun u k => (if u.2 % 2 = 1 then u.1 ^^^ 2 ^ (2 ^ k - 1) else u.1, iotaStep u.2)) (0, r)
/-- Rotate a 64-bit lane left. -/
def rotl64 (x n : Nat) : Nat := ((x <<< n) % 2 ^ 64) ||| (x >>> (64 - n))
/-- Where ρ and π take the lanes off the origin: the walk (x, y) → (y, 2x + 3y) from (1, 0), whose step t turns by t(t + 1)/2. Each entry is the
lane that a place x + 5y receives, with the turn. -/
def laneWalk : Nat → Nat → Nat → Nat → List (Nat × Nat × Nat)
  | 0, _, _, _ => []
  | k + 1, t, x, y =>
    let z := (2 * x + 3 * y) % 5
    (y + 5 * z, x + 5 * y, t * (t + 1) / 2 % 64) :: laneWalk k (t + 1) y z
/-- Lane i of a state. -/
def lane (a : List Nat) (i : Nat) : Nat := a.getD i 0
/-- θ: each lane takes the parities of two columns. -/
def thetaStep (a : List Nat) : List Nat :=
  let par := (List.range 5).map (fun x => ([5, 10, 15, 20].map (fun o => lane a (x + o))).foldl Nat.xor (lane a x))
  (List.range 25).map (fun i => lane a i ^^^ lane par ((i + 4) % 5) ^^^ rotl64 (lane par ((i + 1) % 5)) 1)
/-- ρ and π. -/
def rhoPi (a : List Nat) : List Nat := (laneWalk 24 1 1 0).foldl (fun b w => b.set w.1 (rotl64 (lane a w.2.1) w.2.2)) a
/-- χ, row by row: a lane changes where the next is 0 and the one after is 1. -/
def chiStep (a : List Nat) : List Nat :=
  (List.range 25).map (fun i =>
    let row := i / 5 * 5
    let far := lane a (row + (i + 2) % 5)
    lane a i ^^^ far ^^^ (far &&& lane a (row + (i + 1) % 5)))
/-- n rounds, with ι's register. -/
def keccakRounds : Nat → Nat → List Nat → List Nat
  | 0, _, a => a
  | n + 1, r, a =>
    let w := iotaWord r
    let b := chiStep (rhoPi (thetaStep a))
    keccakRounds n w.2 (b.set 0 (lane b 0 ^^^ w.1))
/-- Keccak-f[1600]. -/
def keccakF (a : List Nat) : List Nat := keccakRounds 24 1 a
/-- Absorb blocks of 136 bytes. -/
def keccakAbsorb : List (List Nat) → List Nat → List Nat
  | [], a => a
  | b :: t, a => keccakAbsorb t (keccakF (xorB a ((chunks 8 17 b).map (fun l => leNat (bytesOf l)) ++ List.replicate 8 0)))
/-- Squeeze n blocks. -/
def keccakSqueeze : Nat → List Nat → List Nat
  | 0, _ => []
  | n + 1, a => ((a.take 17).map (fun l => nats (natLE 8 l))).flatten ++ keccakSqueeze n (keccakF a)
/-- Sponge of rate 136 bytes with a domain suffix byte, `out` bytes of output. -/
def keccakSponge (suffix : Nat) (msg : List Nat) (out : Nat) : List Nat :=
  let r := 136 - msg.length % 136
  let pad := if r = 1 then [suffix ^^^ 0x80] else suffix :: List.replicate (r - 2) 0 ++ [0x80]
  (keccakSqueeze (cdiv out 136) (keccakAbsorb (chunks 136 (msg.length / 136 + 1) (msg ++ pad)) (List.replicate 25 0))).take out
/-- SHAKE256. -/
def shake256 (msg : List Nat) (out : Nat) : List Nat := keccakSponge 0x1F msg out
/-- Bytes of a length, most significant first (SP 800-185). -/
def lenBytes (n : Nat) : List Nat := natBE (if n < 256 then 1 else if n < 65536 then 2 else 4) n
/-- left_encode. -/
def leftEnc (n : Nat) : List Nat := (lenBytes n).length :: lenBytes n
/-- right_encode. -/
def rightEnc (n : Nat) : List Nat := lenBytes n ++ [(lenBytes n).length]
/-- encode_string. -/
def encStr (s : List Nat) : List Nat := leftEnc (8 * s.length) ++ s
/-- bytepad to 136 bytes. -/
def bytePad (s : List Nat) : List Nat :=
  let x := leftEnc 136 ++ s
  x ++ List.replicate ((136 - x.length % 136) % 136) 0
/-- KMAC256 with a customisation string. -/
def kmac256 (key msg : List Nat) (out : Nat) (cust : List Nat) : List Nat :=
  keccakSponge 0x04 (bytePad (encStr [0x4B, 0x4D, 0x41, 0x43] ++ encStr cust) ++ bytePad (encStr key) ++ msg ++ rightEnc (8 * out)) out
/-- ASCII bytes of a string. -/
def ascii (s : String) : List Nat := s.toList.map Char.toNat
/-- A 256-bit value from 32 bytes, byte 0 lowest. -/
def w256 (l : List Nat) : W256 := BitVec.ofNat 256 (leNat (bytesOf l))

end Sys2Proof.Machine
end

