-- ==== Sys2Proof/Machine/Symbol.lean ====
section
/-! DEFINITION. The symbol code of a burst: its parity-check columns, its encoder and its syndrome (10 R294, R295). -/
namespace Sys2Proof.Machine

/-- Product in GF(16) under x^4 + x + 1. -/
def gf16Mul : Nat → Nat → Nat → Nat
  | 0, _, _ => 0
  | n + 1, a, b => (if b % 2 = 1 then a else 0) ^^^ gf16Mul n (if a < 8 then 2 * a else (2 * a) ^^^ 0x13) (b / 2)
/-- A product of two elements. -/
def gf16 (a b : Nat) : Nat := gf16Mul 4 a b
/-- The point P(a, b), components 0 to 3 in four-bit fields. -/
def quadPoint (a b : Nat) : Nat := 1 + 2 ^ 4 * (gf16 a a ^^^ gf16 a b ^^^ gf16 8 (gf16 b b)) + 2 ^ 8 * a + 2 ^ 12 * b
/-- Parity-check column of symbol j: 132 information symbols, then c0 to c3. -/
def symCol (j : Nat) : Nat :=
  if j < 132 then quadPoint ((j + 0x11) % 16) ((j + 0x11) / 16)
  else if j = 132 then quadPoint 0 0 else if j = 133 then 16 else if j = 134 then quadPoint 1 0 else quadPoint 0 1
/-- A column times an element, componentwise. -/
def symScale (e c : Nat) : Nat :=
  gf16 e (bits c 3 0) + 2 ^ 4 * gf16 e (bits c 7 4) + 2 ^ 8 * gf16 e (bits c 11 8) + 2 ^ 12 * gf16 e (bits c 15 12)
/-- Lowest bit of symbol j in a burst of 512 data bits and sideband bits 31:0. -/
def symAt (j : Nat) : Nat := if j < 128 then 4 * j else if j < 132 then 528 + 4 * (j - 128) else 512 + 4 * (j - 132)
/-- Symbol j of a word of 544 bits: data 511:0, sideband bits 31:0 in 543:512. -/
def symOf (w j : Nat) : Nat := (w >>> symAt j) % 16
/-- Sum of symbols times their columns. -/
def symSum (w : Nat) (l : List Nat) : Nat :=
  l.foldl (fun a j => let e := symOf w j; if e = 0 then a else a ^^^ symScale e (symCol j)) 0
/-- Syndrome of a received word. -/
def symSyn (w : Nat) : Nat := symSum w (List.range 136)
/-- CHECK for the information symbols of a word: the c0 to c3 that make the sum of every symbol times its column zero. The columns of c0 and c1 are
the first two unit vectors, and those of c2 and c3 are alone in holding a 1 in components 2 and 3. -/
def symCheck (w : Nat) : Nat :=
  let s := symSum w (List.range 132)
  let c2 := bits s 11 8
  let c3 := bits s 15 12
  let c1 := bits s 7 4 ^^^ c2 ^^^ gf16 8 c3
  let c0 := bits s 3 0 ^^^ c2 ^^^ c3
  c0 + 2 ^ 4 * c1 + 2 ^ 8 * c2 + 2 ^ 12 * c3
/-- Sideband bits 31:0 that a controller forms for stored data: CHECK, POISON and KEY_SLOT; META is zero in every burst that it writes (Table 10-2). -/
def sideOf (data : W512) (psn : Bool) (slot : Nat) : W32 :=
  let hi := 2 ^ 16 * b2n psn + 2 ^ 17 * (slot % 64)
  BitVec.ofNat 32 (hi + symCheck (data.toNat + 2 ^ 512 * hi))
/-- POISON of a sideband word. -/
def sidePsn (s : W32) : Bool := s.getLsbD 16
/-- KEY_SLOT of a sideband word. -/
def sideSlot (s : W32) : Nat := bits s.toNat 22 17

end Sys2Proof.Machine
end

