-- ==== Sys2Proof/Machine/Space.lean ====
section
/-! DEFINITION. The physical address map, LPDDR homing and mapping, lines and shadow lines of the granary, the coherent view of memory
that each party has, and address translation (files 01, 07, 10, 11, 13, 18). -/
namespace Sys2Proof.Machine

/-! ## The address map (R17 to R19) -/

/-- What a physical address reaches (Table 1-3). -/
inductive Place where
  | lpddr
  /-- plot region of half h, offset in the region -/
  | plot (h off : Nat)
  /-- tilth slot of core n, offset in the 4 MiB slot -/
  | tilth (n off : Nat)
  | hub (off : Nat)
  | ctrl (off : Nat)
  | guest (off : Nat)
  | none
  deriving DecidableEq, Repr

/-- Size of a homing region: 1 GiB of every populated stack (R21). -/
def regionSize (s : State) : Nat := match s.fuse.part with | .b4 => 6 * 2 ^ 30 | _ => 8 * 2 ^ 30
/-- Bytes of LPDDR: 80 regions. -/
def lpddrSize (s : State) : Nat := 80 * regionSize s

/-- Table 1-3 for a given size of the LPDDR window, with or without the guest window. -/
def placeIn (size : Nat) (guest : Bool) (pa : Nat) : Place :=
  if pa < size then .lpddr
  else if 0x0100_0000_0000 ≤ pa ∧ pa < 0x0104_0000_0000 then
    .plot ((pa - 0x0100_0000_0000) / 0x8000_0000) ((pa - 0x0100_0000_0000) % 0x8000_0000)
  else if 0x0110_0000_0000 ≤ pa ∧ pa < 0x0110_4000_0000 then
    .tilth ((pa - 0x0110_0000_0000) / 0x40_0000) ((pa - 0x0110_0000_0000) % 0x40_0000)
  else if 0x0120_0000_0000 ≤ pa ∧ pa < 0x0120_0400_0000 then .hub (pa - 0x0120_0000_0000)
  else if 0x0140_0000_0000 ≤ pa ∧ pa < 0x0140_1000_0000 then .ctrl (pa - 0x0140_0000_0000)
  else if guest ∧ 0x0180_0000_0000 ≤ pa ∧ pa < 0x0190_0000_0000 then .guest (pa - 0x0180_0000_0000)
  else .none
/-- Table 1-3 with R19: only 4G has the guest window. -/
def place (s : State) (pa : Nat) : Place :=
  match s.fuse.part with
  | .a4 => placeIn (lpddrSize s) false pa
  | .b4 => placeIn (lpddrSize s) false pa
  | .g4 => placeIn (lpddrSize s) true pa

/-- An address in hub SRAM. -/
def isHub (s : State) (pa : Nat) : Bool := match place s pa with | .hub _ => true | _ => false

/-- Control-space base. -/
def ctrlBase : Nat := 0x0140_0000_0000
/-- Hub SRAM base. -/
def hubBase : Nat := 0x0120_0000_0000

/-! ## LPDDR homing and mapping (R21 to R24, R305, R306) -/

/-- Stack and stack-local address of an LPDDR address. -/
def lpLoc (s : State) (x : Nat) : Nat × Nat :=
  let rs := regionSize s
  let k := x / rs
  let o := x % rs
  if s.pel.local_.contains k then
    -- quarter-local: shares of 1 GiB per populated stack, in the order Q0 to Q3 (R23)
    let share (q : Nat) : List Nat := (stackList s).filter (fun m => m / 2 == q)
    let b1 := (share 0).length * 2 ^ 30
    let b2 := b1 + (share 1).length * 2 ^ 30
    let b3 := b2 + (share 2).length * 2 ^ 30
    let (q, base) := if o < b1 then (0, 0) else if o < b2 then (1, b1) else if o < b3 then (2, b2) else (3, b3)
    let l := share q
    let o2 := o - base
    let u := o2 / 256
    (l.getD (u % l.length) 0, k * 2 ^ 30 + (u / l.length) * 256 + o2 % 256)
  else
    let l := stackList s
    let u := o / 256
    (l.getD (u % l.length) 0, k * 2 ^ 30 + (u / l.length) * 256 + o % 256)

/-- Channel of a stack-local address (R305). -/
def lpChan (y : Nat) : Nat := bits y 13 8 ^^^ bits y 19 14
/-- Channel-local address. -/
def lpLocal (y : Nat) : Nat := (y >>> 14) * 256 + y % 256
/-- Burst column, bank and row of a stack-local address. -/
def lpCol (y : Nat) : Nat := bits (lpLocal y) 10 6
/-- Bank. -/
def lpBank (y : Nat) : Nat := bits (lpLocal y) 14 11
/-- Row. -/
def lpRow (y : Nat) : Nat := lpLocal y >>> 15

/-- Physical address of a stack-local address. -/
def lpInv (s : State) (m y : Nat) : Nat :=
  let k := y / 2 ^ 30
  let u := y % 2 ^ 30 / 256
  let base := k * regionSize s
  if s.pel.local_.contains k then
    let share (q : Nat) : List Nat := (stackList s).filter (fun i => i / 2 == q)
    let before := ((List.range (m / 2)).map (fun q => (share q).length)).foldl (· + ·) 0 * 2 ^ 30
    let l := share (m / 2)
    base + before + (u * l.length + l.idxOf m) * 256 + y % 256
  else base + (u * (stackList s).length + (stackList s).idxOf m) * 256 + y % 256
/-- Home quarter of an LPDDR address (R24). -/
def homeQuarter (s : State) (x : Nat) : Nat := (lpLoc s x).1 / 2
/-- Exclusive-or of bits 0, 10, 20 and 30 of the line number (R214). -/
def halfBit (a : Nat) : Nat := (a + (a >>> 10) + (a >>> 20) + (a >>> 30)) % 2
/-- Home half of an address that the granary serves, 2n + h: R214 for LPDDR, the window for a plot. -/
def homeHalf (s : State) (pa : Nat) : Nat :=
  match place s pa with
  | .plot h _ => h
  | _ => 2 * homeQuarter s pa + halfBit (pa >>> 8)
/-- Set of an address (R214, R217). -/
def setOf (s : State) (pa : Nat) : Nat :=
  match place s pa with
  | .plot _ o => (o >>> 8) % 0x8_0000
  | _ => bits (pa >>> 8) 19 1 ^^^ bits (pa >>> 8) 31 20

/-- A failed channel, or a stack that is not up (R299). -/
def chanDead (s : State) (m ch : Nat) : Bool :=
  !stackFitted s m || (s.stack m).st == 3 || (s.stack m).failed.getLsbD ch
/-- Offset of a stack's register block. -/
def memBlk (m : Nat) : Nat := 0x0070_0000 + 0x1000 * m
/-- Offset of a half's register block. -/
def grnBlk (h : Nat) : Nat := 0x0050_0000 + 0x1000 * h
/-- Offset of a quarter's storage integrity block. -/
def eccBlk (q : Nat) : Nat := 0x0080_0000 + 0x1000 * q

/-! ## Bursts (R294, R299, R493) -/

/-- XTS key of a slot: a cleared slot holds zero (R492). -/
def slotKey (s : State) (slot : Nat) : W512 := tget 0 s.sec.slots slot
/-- The data of a burst as a slot's encryption stores it (R493). -/
def lpSeal (s : State) (pa slot : Nat) (b : List Byte) : W512 :=
  BitVec.ofNat 512 (leNat (if slot = 0 then padTo 64 b else bytesOf (xts true (slotKey s slot) (pa / 64) (nats (padTo 64 b)))))
/-- Stored data and sideband bits 31:0 as delivered: decrypted under the recorded slot, and the poison. -/
def lpOpen (s : State) (pa : Nat) (x : W512 × W32) : List Byte × Bool :=
  let sl := sideSlot x.2
  (if sl = 0 then bvLE 64 x.1 else bytesOf (xts false (slotKey s sl) (pa / 64) (nats (bvLE 64 x.1))), sidePsn x.2)
/-- The stored bits of a burst. -/
def lpStored (s : State) (pa : Nat) : W512 × W32 :=
  (BitVec.ofNat 512 (leNat (mread s.mem.lpddr (pa / 64 * 64) 64)), tget 0 s.mem.lpSide (pa / 64))
/-- Store bits in a burst. -/
def lpStore (pa : Nat) (x : W512 × W32) (s : State) : State :=
  { s with mem := { s.mem with lpddr := mwrite s.mem.lpddr (pa / 64 * 64) (bvLE 64 x.1), lpSide := tset 0 s.mem.lpSide (pa / 64) x.2 } }
/-- The last write to a burst that its controller or a master's port still holds: a read that enters after it has its data (R307). -/
def lpHeld (s : State) (m y : Nat) : Option MReq :=
  ((s.stack m).pool ++ (s.stack m).port).reverse.find? (fun r => r.write && r.y == y)
/-- The bits of a burst: those of the last write that waits, else the stored ones. -/
def lpBits (s : State) (pa : Nat) : W512 × W32 :=
  let l := lpLoc s (pa / 64 * 64)
  match lpHeld s l.1 l.2 with | some r => (r.data, r.side) | none => lpStored s pa
/-- The recorded slot of a burst. -/
def burstSlot (s : State) (pa : Nat) : Nat := sideSlot (lpBits s pa).2
/-- A burst's data as delivered, or the free value of a failed channel; and its poison. -/
def burstData (s : State) (pa : Nat) : List Byte × Bool :=
  let b := pa / 64 * 64
  let (m, y) := lpLoc s b
  if chanDead s m (lpChan y) then (bvLE 64 (Config.poisonBurst b), true) else lpOpen s b (lpBits s b)
/-- Count a burst read for a master. -/
def countRd (s : State) (pa master : Nat) : State := bump (memBlk (lpLoc s pa).1 + 0x100 + 0x10 * master) 1 s

/-! ## The controllers' pools and their masters' ports (R307, R312) -/

/-- Two requests of one master port: the cores of a home quarter have one in each half. -/
def onePort (s : State) (m : Nat) (a : MReq) (k : Nat) (b : MReq) : Bool :=
  a.master == b.master && (a.master != 0 || halfBit (lpInv s m a.y / 256) == halfBit (lpInv s k b.y / 256))
/-- Requests of a master's port outstanding in a home quarter. -/
def outstanding (s : State) (m : Nat) (r : MReq) : Nat :=
  ([2 * (m / 2), 2 * (m / 2) + 1].map (fun i => ((s.stack i).pool.filter (fun x => onePort s m r i x)).length)).foldl (· + ·) 0
/-- Limit of a master; that of CORE_LOCAL is split evenly between the halves (Table 10-5). -/
def masterLimit (k : Stack) (master : Nat) : Nat := let l := 8 * bits k.limit.toNat (8 * master + 7) (8 * master); if master = 0 then l / 2 else l
/-- A request may enter the controller: its master's limit allows, and nothing of its port or of its burst waits before it. -/
def mayEnter (s : State) (m : Nat) (r : MReq) : Bool :=
  decide (outstanding s m r < masterLimit (s.stack m) r.master) && !(s.stack m).port.any (fun x => onePort s m r m x || x.y == r.y)
/-- A request enters the pool, stamped with its entry, or waits at its master's port. -/
def lpEnter (m : Nat) (r : MReq) (s : State) : State :=
  let k := s.stack m
  if mayEnter s m r then s.setStack m { k with pool := k.pool ++ [{ r with since := now s }] } else s.setStack m { k with port := k.port ++ [r] }
/-- Requests at the ports of a stack enter as far as the limits allow, in order. -/
def portsOf (m : Nat) (s : State) : State := (s.stack m).port.foldl (fun a r => lpEnter m r a) (s.setStack m { s.stack m with port := [] })
/-- Requests at the ports of a home quarter's two stacks enter. -/
def portDrain (m : Nat) (s : State) : State := portsOf (2 * (m / 2) + 1) (portsOf (2 * (m / 2)) s)
/-- A new request of a stack, under the next identifier. -/
def lpIssue (m : Nat) (r : MReq) (s : State) : State :=
  let k := s.stack m
  lpEnter m { r with id := k.nextId, issued := false, tries := 0 } (s.setStack m { k with nextId := k.nextId + 1 })
/-- A sector of a fill comes with data under a slot: another slot's is not kept (R494). -/
def fillGot (sec slot : Nat) (d : W512 × Bool) (f : Fill) : Fill :=
  { f with want := f.want.filter (fun i => i != sec), got := if slot = f.slot then tput f.got sec d else f.got }
/-- A fill of a line that is under way takes the data that a write leaves in a sector which the line does not hold. -/
def fillPatch (pa slot : Nat) (b : List Byte) (psn : Bool) (hf : Half) : Half :=
  { hf with fills := hf.fills.map (fun f =>
      if f.num = pa / 256 ∧ f.install then fillGot (pa / 64 % 4) slot (BitVec.ofNat 512 (leNat (padTo 64 b)), psn) { f with got := tdel f.got (pa / 64 % 4) }
      else f) }
/-- Write a burst: encrypted under the request's slot, which the sideband records; the request enters its controller, and one to a failed channel is
discarded and counted (R299). -/
def burstWrite (s : State) (pa master slot : Nat) (b : List Byte) (psn : Bool) : State :=
  let a := pa / 64 * 64
  let (m, y) := lpLoc s a
  let h := homeHalf s a
  if chanDead s m (lpChan y) then bump (memBlk m + 0x1C8) 1 s
  else
    let d := lpSeal s a slot b
    lpIssue m { id := 0, write := true, master := master, y := y, data := d, side := sideOf d psn slot, src := .port, since := now s, issued := false, tries := 0 }
      (s.setHalf h (fillPatch a slot b psn (s.half h)))

/-! ## Lines of the granary -/

/-- The committed line of a number in a half. -/
def findLine (hf : Half) (num : Nat) : Option Line := hf.lines.find? (fun l => l.num == num && l.shadow == none)
/-- The shadow line of a stage. -/
def findShadow (hf : Half) (num st : Nat) : Option Line := hf.lines.find? (fun l => l.num == num && l.shadow == some st)
/-- A sector of a line: bytes and poison of its two words. -/
def lineSector (l : Line) (sec : Nat) : List Byte × Bool :=
  (mread l.bytes (64 * sec) 64, l.psn.contains (2 * sec) || l.psn.contains (2 * sec + 1))
/-- Write bytes at an offset of a line; poison of the words follows R323 (32-byte words). -/
def lineWrite (l : Line) (off : Nat) (b : List Byte) (psn : Bool) : Line :=
  let st := stWrite 32 { bytes := l.bytes, wr := [], psn := l.psn } off b psn
  { l with bytes := st.bytes, psn := st.psn }
/-- Set a bit of a four-bit mask. -/
def setBit4 (v : BitVec 4) (i : Nat) : BitVec 4 := v ||| BitVec.ofNat 4 (2 ^ i)
/-- Replace a line of a half, found by number and stage. -/
def putLine (hf : Half) (l : Line) : Half :=
  { hf with lines := hf.lines.map (fun x => if x.num = l.num ∧ x.shadow = l.shadow then l else x) }
/-- An access of the array of a way of a half: R444 counts those of the middle-die ways 0 to 9 in the round. -/
def useWay (h way : Nat) (s : State) : State :=
  let hf := s.half h
  if way < 10 then s.setHalf h { hf with used := (hf.used.1 + 1, hf.used.2) } else s
/-- Remove a line. -/
def dropLine (hf : Half) (l : Line) : Half :=
  { hf with lines := hf.lines.filter (fun x => !(x.num == l.num && x.shadow == l.shadow)) }

/-- Ways of a half that may hold cached lines: enabled, not plot ways, not fenced, and not being taken by a carve walk (R213, R225). -/
def cacheWays (s : State) (hf : Half) : List Nat :=
  let p := match hf.carve with | some c => max hf.plotWays c.oldP | none => hf.plotWays
  (List.range (waysFitted s)).filter (fun w => decide (p ≤ w) && !hf.fenced.contains w)
/-- The line in a way of a set. -/
def lineAt (hf : Half) (set way : Nat) : Option Line := hf.lines.find? (fun l => l.set == set && l.way == way)

/-- The address of a line number. -/
def lineAddr (num : Nat) : Nat := num * 256

/-- Write back the dirty sectors of a committed LPDDR line (R224, R323); the master is that of the access that evicts it. -/
def writeBackSecs (l : Line) (master : Nat) : List Nat → State → State
  | [], s => s
  | i :: t, s =>
    if l.dirty.getLsbD i then
      let d := lineSector l i
      writeBackSecs l master t
        (bump (grnBlk (homeHalf s (lineAddr l.num)) + 0x168) 1
          (burstWrite (useWay (homeHalf s (lineAddr l.num)) l.way s) (lineAddr l.num + 64 * i) master l.slot d.1 d.2))
    else writeBackSecs l master t s
/-- Write back a line. -/
def writeBack (l : Line) (master : Nat) (s : State) : State := writeBackSecs l master [0, 1, 2, 3] s

/-- Remove a sector from the merge buffer before it changes (R238). -/
def unmerge (hf : Half) (pa : Nat) : Half := { hf with merge := hf.merge.filter (fun m => m.sector != pa / 64) }

/-- The eligible ways of a set (R225). -/
def eligible (s : State) (hf : Half) (set : Nat) : List Nat :=
  (cacheWays s hf).filter fun w =>
    match lineAt hf set w with
    | none => true
    | some l => !l.pinned && l.shadow == none && l.red == 0
/-- Lowest eligible empty way. -/
def emptyWay (hf : Half) (set : Nat) (el : List Nat) : Option Nat := el.find? (fun w => (lineAt hf set w).isNone)
/-- The victim of R225 by ageing: the way that reaches age 3 first, lowest first; and the ages added. -/
def victimWay (hf : Half) (set : Nat) (el : List Nat) : Nat → Option (Nat × Nat)
  | 0 => none
  | n + 1 =>
    let age := n  -- ages tested from the highest down: 3, 2, 1, 0
    match el.find? (fun w => match lineAt hf set w with | some l => l.age == age | none => false) with
    | some w => some (w, 3 - age)
    | none => victimWay hf set el n
/-- Make room in a set: the way to use and the state after its victim was written back and dropped, the eligible ages raised. -/
def makeRoom (s : State) (h set master : Nat) : Option Nat × State :=
  let hf := s.half h
  let el := eligible s hf set
  match emptyWay hf set el with
  | some w => (some w, s)
  | none =>
    match victimWay hf set el 4 with
    | none => (none, s)
    | some (w, k) =>
      match lineAt hf set w with
      | none => (some w, s)
      | some v =>
        let s1 := writeBack v master s
        let up (l : Line) : Line := if l.set = set ∧ el.contains l.way then { l with age := min 3 (l.age + k) } else l
        let hv := dropLine hf v
        (some w, s1.setHalf h { hv with lines := hv.lines.map up, merge := hv.merge.filter (fun m => m.sector / 4 != v.num) })
/-- Put a line into the way of its set that makeRoom gives. -/
def installLine (s : State) (h way : Nat) (l : Line) : State :=
  let hf := s.half h
  s.setHalf h { hf with lines := { l with way := way } :: hf.lines }

/-- Plot ways, pinned lines and shadow lines of a set together (R227, R370). -/
def heldCount (hf : Half) (set : Nat) : Nat :=
  hf.plotWays + (hf.lines.filter (fun l => l.set == set && (l.pinned || l.shadow != none))).length + tget 0 hf.reserved set

/-! ## Counting (R240, R248) and the fill buffer (R223, R224) -/

/-- Count an access of a class, with its outcome. -/
def countAcc (h cls : Nat) (hit : Bool) (s : State) : State :=
  let s1 := bump (grnBlk h + 0x100 + 0x10 * cls) 1 s
  if hit then bump (grnBlk h + 0x108 + 0x10 * cls) 1 s1 else s1
/-- Count a hit on a line: a pinned one counts toward GRN_HIT_PIN only. -/
def countHit (h cls : Nat) (l : Line) (s : State) : State :=
  if l.pinned then bump (grnBlk h + 0x140) 1 s else countAcc h cls true s
/-- An access of the array place that an address of a half has: its plot's way, or the way of its line. -/
def useAt (pa : Nat) (s : State) : State :=
  match place s pa with
  | .plot h off => useWay h (off >>> 27) s
  | .lpddr => match findLine (s.half (homeHalf s pa)) (pa / 256) with | some l => useWay (homeHalf s pa) l.way s | none => s
  | _ => s
/-- A hit sets the age to 0, except a STREAM hit (R225). -/
def touch (h cls num : Nat) (s : State) : State :=
  let hf := s.half h
  match findLine hf num with
  | some l => if cls = 1 then s else s.setHalf h (putLine hf { l with age := 0 })
  | none => s
/-- The 32 bytes of Table 11-6. -/
def errBytes (s : State) (kind store src finder bits_ addr loc : Nat) : List Byte :=
  natLE 1 kind ++ natLE 1 store ++ natLE 2 src ++ natLE 1 finder ++ natLE 1 bits_ ++ natLE 2 0 ++ natLE 8 addr ++ natLE 8 loc ++ bvLE 8 (now s)
/-- Write an error record (log code 0x8200). -/
def errRec (kind store src finder bits_ addr loc : Nat) (s : State) : State :=
  logRec (if kind = 1 ∨ kind = 3 ∨ kind = 4 then 2 else 4) src 0x8200 (errBytes s kind store src finder bits_ addr loc) s
/-- LOC of an LPDDR burst. -/
def lpWhere (y : Nat) : Nat := lpChan y + 2 ^ 6 * lpBank y + 2 ^ 10 * lpRow y + 2 ^ 26 * lpCol y
/-- The record of poison that the controller makes: for a failed channel, or for a read that it does not complete (R299, R298, R327). -/
def poisonRec (m y : Nat) (s : State) : State := errRec 2 8 (srcChan m (lpChan y)) 0 0xFF (lpInv s m y) (lpWhere y) s
/-- Entries of the fill buffer in use, of 512. -/
def fillsUsed (hf : Half) : Nat := (hf.fills.filter (fun f => f.install)).length
/-- A sector of a line comes for the first fill that wants it, under a slot, or under the fill's own where the controller made it. -/
def fillTake (h num sec : Nat) (install : Bool) (slot : Option Nat) (d : W512 × Bool) (s : State) : State :=
  let hf := s.half h
  match hf.fills.findIdx? (fun f => f.num == num && f.install == install && f.want.contains sec) with
  | none => s
  | some i => s.setHalf h { hf with fills := lmod hf.fills i (fun f => fillGot sec (slot.getD f.slot) d f) }
/-- Read a sector for a fill: the request enters its controller; one to a failed channel brings poison at once (R299). -/
def fillRead (h num master : Nat) (install : Bool) (s : State) (sec : Nat) : State :=
  let (m, y) := lpLoc s (num * 256 + 64 * sec)
  if chanDead s m (lpChan y) then fillTake h num sec install none (Config.poisonBurst (num * 256 + 64 * sec), true) (poisonRec m y s)
  else lpIssue m { id := 0, write := false, master := master, y := y, data := 0, side := 0, src := .fill h num install, since := now s, issued := false
                   tries := 0 } s
/-- Sectors that an access of an address fetches: the whole of an absent line, its own sector first (R223), or the one absent sector of a present
line (R224) or of a NOALLOC read (Table 7-5). -/
def fillWant (hf : Half) (pa : Nat) (install : Bool) : List Nat :=
  let sec := pa / 64 % 4
  if install && (findLine hf (pa / 256)).isNone then sec :: [0, 1, 2, 3].filter (fun i => i != sec) else [sec]
/-- A new fill, with the accesses that wait for it. -/
def startFill (h pa cls master : Nat) (install pin : Bool) (waiters : List GReq) (s : State) : State :=
  let hf := s.half h
  let num := pa / 256
  let f : Fill := { num := num, cls := if cls = 2 then 1 else cls, master := master
                    slot := match findLine hf num with | some l => l.slot | none => burstSlot s pa
                    waiters := waiters, want := fillWant hf pa install, got := [], install := install, waiting := false, pin := pin }
  f.want.foldl (fillRead h num master install) (s.setHalf h { hf with fills := hf.fills ++ [f] })
/-- An access of one sector that a unit makes in one step, outside the request queues (log 21): it is counted, a hit touches its line, and a miss
starts the line's fill, which nothing waits for. -/
def noteSector (cls master pa : Nat) (s : State) : State :=
  let h := homeHalf s pa
  let hf := s.half h
  match place s pa with
  | .plot _ _ => bump (grnBlk h + 0x148) 1 s
  | .lpddr =>
    (match (findLine hf (pa / 256)).filter (fun l => l.present.getLsbD (pa / 64 % 4)) with
     | some l => touch h cls l.num (countHit h cls l s)
     | none =>
       if cls = 2 ∨ hf.fills.any (fun f => f.install && f.num == pa / 256) ∨ 512 ≤ fillsUsed hf then countAcc h cls false s
       else startFill h pa cls master true false [] (countAcc h cls false s))
  | _ => s
/-- The accesses of several sectors. -/
def noteSectors (cls master : Nat) (l : List Nat) (s : State) : State := l.foldl (fun a pa => useAt pa (noteSector cls master pa a)) s

/-! ## Plots (R217 to R219) -/

/-- The plot of a half that covers an offset: its index and slot. -/
def plotAt (hf : Half) (off : Nat) : Option (Nat × Option Nat) :=
  match hf.plots.find? (fun p => decide (p.2.1 ≤ off) && decide (off < p.2.1 + p.2.2.1)) with
  | some (i, _, _, k) => some (i, k)
  | none => none
/-- A way of the half that is fenced. -/
def plotFenced (hf : Half) (off : Nat) : Bool := hf.fenced.contains (off >>> 27)

/-! ## The view of one sector -/

/-- The spilled copy of a sector under a stage. -/
def spillOf (s : State) (q st pa : Nat) : Option Spill :=
  (tget [] s.pel.spills q).find? (fun x => x.stage == st && x.pa == pa / 64 * 64)
/-- The committed bytes and poison of a granary-served sector (LPDDR or plot). -/
def committedSector (s : State) (pa : Nat) : List Byte × Bool :=
  let a := pa / 64 * 64
  let hf := s.half (homeHalf s a)
  match place s a with
  | .plot _ off =>
    match plotAt hf off with
    | none => (List.replicate 64 0, false)
    | some _ => let d := stRead 32 s.mem.plots a 64; (d.1, d.2 || plotFenced hf off)
  | _ =>
    match findLine hf (a / 256) with
    | some l => if l.present.getLsbD (a / 64 % 4) then lineSector l (a / 64 % 4) else burstData s a
    | none => burstData s a
/-- The shadow of a sector under a stage, in the granary or spilled (R368, R370). -/
def shadowSector (s : State) (st pa : Nat) : Option (List Byte × Bool) :=
  let a := pa / 64 * 64
  let h := homeHalf s a
  match findShadow (s.half h) (a / 256) st with
  | some l => if l.present.getLsbD (a / 64 % 4) then some (lineSector l (a / 64 % 4))
              else (spillOf s (h / 2) st a).map (fun x => (x.bytes, !x.psn.isEmpty))
  | none => (spillOf s (h / 2) st a).map (fun x => (x.bytes, !x.psn.isEmpty))
/-- The access of a party to a sector in one step: its run's shadow is a hit. -/
def noteView (stage : Option Nat) (cls master pa : Nat) (s : State) : State :=
  if decide (place s pa = .lpddr) && (match stage with | some st => (shadowSector s st pa).isSome | none => false) then countAcc (homeHalf s pa) cls true s
  else noteSector cls master pa s
/-- The hub shadow of a sector. -/
def hubShadow (s : State) (st pa : Nat) : Option (List Byte × Bool) :=
  (spillOf s 4 st pa).map (fun x => (x.bytes, !x.psn.isEmpty))
/-- One sector as a party sees it: the run that owns a stage sees its shadow (R368). -/
def sectorView (s : State) (stage : Option Nat) (pa : Nat) : List Byte × Bool :=
  let a := pa / 64 * 64
  let sh := match stage with | some st => (match place s a with | .hub _ => hubShadow s st a | _ => shadowSector s st a) | none => none
  match sh with
  | some d => d
  | none =>
    match place s a with
    | .lpddr => committedSector s a
    | .plot _ _ => committedSector s a
    | .hub off => stRead 8 s.mem.hub off 64
    | .tilth n off => stRead 8 s.mem.tilth (n * 0x20_0000 + off) 64
    | _ => (List.replicate 64 0, false)
/-- Poisoned 32-byte words (0 and 1) of a line's sector. -/
def lineWords (l : Line) (sec : Nat) : List Nat := [0, 1].filter (fun i => l.psn.contains (2 * sec + i))
/-- Poisoned 32-byte words of the committed sector. -/
def committedWords (s : State) (pa : Nat) : List Nat :=
  let a := pa / 64 * 64
  let all (p : Bool) : List Nat := if p then [0, 1] else []
  match place s a with
  | .plot h off => if plotFenced (s.half h) off then [0, 1] else [0, 1].filter (fun i => s.mem.plots.psn.contains (a / 32 + i))
  | .lpddr =>
    match findLine (s.half (homeHalf s a)) (a / 256) with
    | some l => if l.present.getLsbD (a / 64 % 4) then lineWords l (a / 64 % 4) else all (burstData s a).2
    | none => all (burstData s a).2
  | _ => []
/-- Whether a word that k bytes of one sector touch is poisoned, as a party sees it. -/
def sectorPoison (s : State) (stage : Option Nat) (pa k : Nat) : Bool :=
  let a := pa / 64 * 64
  let ws := wordsOf 32 (pa % 64) k
  let spilled (x : Spill) : Bool := ws.any (fun i => x.psn.contains i)
  let q := homeHalf s a / 2
  match place s a with
  | .hub off =>
    (match stage.bind (fun st => spillOf s 4 st a) with
     | some x => spilled x
     | none => (stRead 8 s.mem.hub (off + pa % 64) k).2)
  | .tilth n off => (stRead 8 s.mem.tilth (n * 0x20_0000 + off + pa % 64) k).2
  | .lpddr | .plot _ _ =>
    let sh := stage.bind (fun st => (findShadow (s.half (homeHalf s a)) (a / 256) st).filter (fun l => l.present.getLsbD (a / 64 % 4)))
    (match sh, stage.bind (fun st => spillOf s q st a) with
     | some l, _ => ws.any (fun i => (lineWords l (a / 64 % 4)).contains i)
     | none, some x => spilled x
     | none, none => ws.any (fun i => (committedWords s a).contains i))
  | _ => false
/-- Bytes and poison of a range, sector by sector. -/
def viewRead (s : State) (stage : Option Nat) (pa : Nat) : Nat → Nat → List Byte × Bool
  | 0, _ => ([], false)
  | f + 1, n =>
    if n = 0 then ([], false)
    else
      let k := min n (64 - pa % 64)
      let d := sectorView s stage pa
      let r := viewRead s stage (pa + k) f (n - k)
      (((d.1.drop (pa % 64)).take k) ++ r.1, sectorPoison s stage pa k || r.2)
/-- Read n bytes. -/
def cohRead (s : State) (stage : Option Nat) (pa n : Nat) : List Byte × Bool := viewRead s stage pa (n / 64 + 2) n

/-! ## Writing a sector -/

/-- Write part of a committed sector in one step: into its line when present, else into its burst, plot or SRAM word. -/
def commitSector (s : State) (master slot pa : Nat) (b : List Byte) (psn : Bool) : State :=
  let a := pa / 64 * 64
  let o := pa % 256
  match place s pa with
  | .plot h off =>
    match plotAt (s.half h) off with
    | none => s
    | some _ =>
      if plotFenced (s.half h) off then s else
      let s1 := s.setHalf h (unmerge (s.half h) pa)
      { s1 with mem := { s1.mem with plots := stWrite 32 s1.mem.plots pa b psn } }
  | .hub off => { s with mem := { s.mem with hub := stWrite 8 s.mem.hub off b psn } }
  | .tilth n off => { s with mem := { s.mem with tilth := stWrite 8 s.mem.tilth (n * 0x20_0000 + off) b psn } }
  | .lpddr =>
    let h := homeHalf s a
    let hf := s.half h
    match findLine hf (a / 256) with
    | some l =>
      if l.present.getLsbD (a / 64 % 4) then
        s.setHalf h (unmerge (putLine hf { lineWrite l o b psn with dirty := setBit4 l.dirty (a / 64 % 4) }) pa)
      else
        let old := burstData s a
        burstWrite s a master slot (splice old.1 (pa % 64) b) (psn || (old.2 && b.length < 64))
    | none =>
      let old := burstData s a
      burstWrite s a master slot (splice old.1 (pa % 64) b) (psn || (old.2 && b.length < 64))
  | _ => s

/-- Spill a shadow sector to store q of the quarters (4: hub), replacing an earlier copy (R370). -/
def putSpill (s : State) (q : Nat) (x : Spill) : State :=
  let old := tget [] s.pel.spills q
  let fresh := !(old.any (fun y => y.stage == x.stage && y.pa == x.pa))
  let l := old.filter (fun y => !(y.stage == x.stage && y.pa == x.pa)) ++ [x]
  let t := { s with pel := { s.pel with spills := tset [] s.pel.spills q l } }
  if fresh && decide (q < 4) then bump (0x0090_0000 + 0x120) 1 t else t
/-- A spill entry after part of it is written. -/
def spillWrite (x : Spill) (o : Nat) (b : List Byte) (psn : Bool) : Spill :=
  { x with bytes := splice x.bytes o b, psn := (stWrite 32 { bytes := [], wr := [], psn := x.psn } o b psn).psn }

/-- Poisoned 32-byte words of a committed sector, hub SRAM included. -/
def sectorPsn (s : State) (a : Nat) : List Nat :=
  match place s a with
  | .hub _ => [0, 1].filter (fun i => sectorPoison s none (a + 32 * i) 32)
  | _ => committedWords s a
/-- Write part of a sector under a stage: the shadow begins as a copy of the committed sector, and is held in a cache way of its set
while LIMIT allows, else spilled (R368, R370). -/
def stageSector (s : State) (st master slot pa : Nat) (b : List Byte) (psn : Bool) : State :=
  let a := pa / 64 * 64
  let o := pa % 64
  let fresh : Spill := { stage := st, pa := a, bytes := (sectorView s none a).1, psn := sectorPsn s a }
  match place s a with
  | .hub _ => putSpill s 4 (spillWrite ((spillOf s 4 st a).getD fresh) o b psn)
  | .lpddr | .plot _ _ =>
    let h := homeHalf s a
    let hf := s.half h
    let sec := a / 64 % 4
    match spillOf s (h / 2) st a, findShadow hf (a / 256) st with
    | some x, _ => putSpill s (h / 2) (spillWrite x o b psn)
    | none, some l =>
      let l0 := if l.present.getLsbD sec then l
                else { lineWrite l (64 * sec) fresh.bytes false with
                       psn := l.psn ++ fresh.psn.map (fun i => 2 * sec + i), present := setBit4 l.present sec }
      s.setHalf h (putLine hf { lineWrite l0 (64 * sec + o) b psn with age := min 3 l.age })
    | none, none =>
      let set := setOf s a
      if hf.limit ≤ heldCount hf set then putSpill s (h / 2) (spillWrite fresh o b psn)
      else
        match makeRoom s h set master with
        | (some w, s1) =>
          let l : Line := { set := set, way := w, num := a / 256, present := setBit4 0 sec, dirty := 0, age := 0, pinned := false,
                            shadow := some st, red := 0, slot := slot, bytes := [], psn := fresh.psn.map (fun i => 2 * sec + i) }
          let l0 := { l with bytes := mwrite [] (64 * sec) fresh.bytes }
          installLine s1 h w (lineWrite l0 (64 * sec + o) b psn)
        | (none, s1) => putSpill s1 (h / 2) (spillWrite fresh o b psn)
  | _ => s

/-- Write part of one sector as a party does. -/
def sectorWrite (s : State) (stage : Option Nat) (master slot pa : Nat) (b : List Byte) (psn : Bool) : State :=
  match stage with
  | some st => stageSector s st master slot pa b psn
  | none => commitSector s master slot pa b psn
/-- Write a range sector by sector. -/
def viewWrite (stage : Option Nat) (master slot : Nat) (psn : Bool) : Nat → Nat → List Byte → State → State
  | 0, _, _, s => s
  | f + 1, pa, b, s =>
    if b.isEmpty then s
    else
      let k := 64 - pa % 64
      viewWrite stage master slot psn f (pa + (b.take k).length) (b.drop k) (sectorWrite s stage master slot pa (b.take k) psn)
/-- Write bytes in one step (Pelseso, the queue engine, the tally, OS cores' descriptors). -/
def cohWrite (s : State) (stage : Option Nat) (master slot pa : Nat) (b : List Byte) (psn : Bool) : State :=
  viewWrite stage master slot psn (b.length / 64 + 2) pa b s

/-! ## Translation (R356, R128) -/

/-- The mapping of a group that covers a virtual address. -/
def mapAt (s : State) (g va : Nat) : Option Mapping :=
  s.pel.maps.find? (fun m => m.group == g && decide (m.va ≤ va) && decide (va < m.va + m.size))
/-- Access kinds. -/
inductive Acc2 where
  | read | write | exec
  deriving DecidableEq, Repr
/-- The permission of a mapping for an access. -/
def permits (m : Mapping) : Acc2 → Bool
  | .read => m.read
  | .write => m.write
  | .exec => m.exec
/-- Physical address, or the DETAIL of the TRANSLATION fault (Table 4-8). -/
def translate (s : State) (g va : Nat) (k : Acc2) : Except Nat (Nat × Mapping) :=
  let wr := if k = .write then 4 else 0
  match mapAt s g va with
  | none => .error wr
  | some m => if permits m k then .ok (m.pa + (va - m.va), m) else .error (m.page + 2 + wr)
/-- Key slot of a group (R494). -/
def groupSlot (s : State) (g : Nat) : Nat := match tfind s.pel.groups g with | some x => x.keySlot | none => 0
/-- The pages of a range all translate (bases of 64 KiB steps). -/
def translateAll (s : State) (g : Nat) (k : Acc2) : Nat → Nat → Nat → Bool
  | 0, _, _ => true
  | f + 1, va, n =>
    if n = 0 then true
    else
      let step := min n (65536 - va % 65536)
      (match translate s g va k with | .ok _ => true | .error _ => false) && translateAll s g k f (va + step) (n - step)

/-! ## Where a quarter stands (R463, R464, R381) -/

/-- The quarter that serves a physical address, if a granary does. -/
def servingQuarter (s : State) (pa : Nat) : Option Nat :=
  match place s pa with
  | .lpddr => some (homeQuarter s pa)
  | .plot h _ => some (h / 2)
  | .tilth n _ => some (n / 64)
  | _ => none
/-- An address homed in a fenced quarter (R381). -/
def fencedAddr (s : State) (pa : Nat) : Bool :=
  match servingQuarter s pa with | some q => (s.quarter q).st == 4 | none => false
/-- An address homed in a quarter in headland or reset, whose requests return retry-later (R464). -/
def retryAddr (s : State) (pa : Nat) : Bool :=
  match servingQuarter s pa with | some q => (s.quarter q).st == 1 || (s.quarter q).st == 2 | none => false
/-- A burst that the granary does not hold and whose channel retrains (R297). -/
def burstStalls (s : State) (pa : Nat) : Bool :=
  match place s pa with
  | .lpddr =>
    (match findLine (s.half (homeHalf s pa)) (pa / 256) with | some l => !l.present.getLsbD (pa / 64 % 4) | none => true) &&
    (((s.stack (lpLoc s pa).1).chan (lpChan (lpLoc s pa).2)).retraining)
  | _ => false

end Sys2Proof.Machine
end

