-- ==== Sys2Proof/Machine/Operands.lean ====
section
/-! DEFINITION. The operands of sheaf instructions: fields of the instruction word, register specifiers, encoding checks, masks and
guards, and the frame in which every sheaf instruction issues: readiness, fault order, reconvergence (files 04 and 05). -/
namespace Sys2Proof.Machine

/-! ## Instruction words (Tables 5-1, 5-2) -/

/-- Bit mask of a field. -/
def fmask (lo width : Nat) : Nat := (2 ^ width - 1) <<< lo
/-- FMT and OP of a word are those of a row of Table 5-3. -/
def rowIs (fmt op w : Nat) : Bool := w % 4096 == op * 16 + fmt
/-- EXT. -/
def wExt (w : Nat) : Bool := bit w 12
/-- TYPE. -/
def wType (w : Nat) : Nat := bits w 22 18
/-- IMM60 of an extension word, sign-extended, as a 64-bit number. -/
def imm60 (e : Nat) : Nat := wrapInt 64 (signed 60 (e >>> 4))
/-- A signed field as an integer. -/
def sfield (w hi lo : Nat) : Int := signed (hi + 1 - lo) (bits w hi lo)
/-- A type of 64 bits (R156). -/
def wide (ty : Nat) : Bool := ty == 2 || ty == 3 || ty == 8
/-- Registers of an operand of a type. -/
def regsOf (ty : Nat) : Nat := if wide ty then 2 else 1

/-! ## Register specifiers (R155, R156) -/

/-- Class of a specifier: 1 v, 2 u, 4 p, 8 null, 0 reserved. -/
def regClass (sp : Nat) : Nat :=
  if sp < 0x100 then 1 else if sp < 0x140 then 2 else if sp < 0x148 then 4 else if sp = 0x1FF then 8 else 0
/-- Number of a register within its class. -/
def regNum (sp : Nat) : Nat := if sp < 0x100 then sp else if sp < 0x140 then sp - 0x100 else sp - 0x140

/-- A register operand: place of its specifier, classes it accepts, registers it takes, destination or source. -/
structure Opd where
  lo : Nat
  cls : Nat
  cnt : Nat
  dst : Bool
  deriving DecidableEq, Repr

/-- The encoding rules of one operation. -/
structure Form where
  /-- register fields of the layout -/
  regs : List Nat
  /-- operands that the operation uses -/
  opds : List Opd
  /-- bits of other fields that the operation uses -/
  used : Nat
  /-- allowed TYPE codes; none: TYPE is zero -/
  types : List Nat
  /-- further checks (MOD, SPACE, SIZE, SUB values) -/
  ok : Bool
  /-- EXT = 1 is allowed (R153) -/
  ext : Bool
  /-- GEN = 1 is allowed (R161) -/
  guard : Bool
  /-- SETP, REDU and VOTE: a uniform destination with v sources (R158) -/
  lanewise : Bool
  deriving DecidableEq, Repr

/-- Specifier of an operand. -/
def spec (w : Nat) (o : Opd) : Nat := bits w (o.lo + 8) o.lo

/-- No case of R189: reserved TYPE, bits, register classes and pairs, R153, R158, R161, R163. -/
def encOk (w e : Nat) (f : Form) : Bool :=
  let named := f.opds.map Opd.lo
  let regBits := f.regs.foldl (fun a lo => a ||| fmask lo 9) 0
  !bit w 23 &&
  (bit w 13 || bits w 17 14 == 0) && (f.guard || !bit w 13) &&
  (!wExt w || (f.ext && e % 16 == 15)) &&
  (if f.types.isEmpty then wType w == 0 else f.types.contains (wType w)) &&
  f.ok &&
  f.regs.all (fun lo => named.contains lo || bits w (lo + 8) lo == 0x1FF) &&
  (w / 2 ^ 24 * 2 ^ 24) &&& (2 ^ 64 - 1 - (regBits ||| f.used)) == 0 &&
  f.opds.all (fun o =>
    let sp := spec w o
    (regClass sp &&& o.cls) != 0 && (regClass sp == 8 || regNum sp % o.cnt == 0)) &&
  (f.lanewise ||
    !(f.opds.any (fun o => o.dst && (regClass (spec w o) == 2 || regClass (spec w o) == 4)) &&
      f.opds.any (fun o => !o.dst && regClass (spec w o) == 1)))

/-- A v register beyond v(a − 1) is named (R104, R156). -/
def beyond (w a : Nat) (f : Form) : Bool :=
  f.opds.any (fun o => regClass (spec w o) == 1 && decide (a < regNum (spec w o) + o.cnt))

/-- Every register specifier that an operand list touches. -/
def touched (w : Nat) (os : List Opd) : List Nat :=
  (os.map (fun o => if regClass (spec w o) = 8 then [] else idxFrom (spec w o) o.cnt)).flatten
/-- v registers that an operand list reads. -/
def vSources (w : Nat) (os : List Opd) : List Nat :=
  ((os.filter (fun o => !o.dst && regClass (spec w o) == 1)).map (fun o => idxFrom (spec w o) o.cnt)).flatten

/-! ## Reading and writing registers -/

/-- Lanes of a mask, ascending. -/
def lanesOf (m : W32) : List Nat := (List.range 32).filter (fun i => m.getLsbD i)
/-- A mask of lanes. -/
def maskOf (l : List Nat) : W32 := l.foldl (fun a i => a ||| BitVec.ofNat 32 (2 ^ i)) 0
/-- u register. -/
def Sheaf.ureg (f : Sheaf) (i : Nat) : W32 := tget 0 f.u i
/-- p register. -/
def Sheaf.preg (f : Sheaf) (i : Nat) : W32 := tget 0 f.p i
/-- v register of a lane. -/
def Sheaf.vreg (f : Sheaf) (r lane : Nat) : W32 := tget 0 f.v (32 * r + lane)
/-- One 32-bit register in one lane (R157, R158): null reads zero. -/
def rd32 (f : Sheaf) (sp lane : Nat) : Nat :=
  match regClass sp with
  | 1 => (f.vreg (regNum sp) lane).toNat
  | 2 => (f.ureg (regNum sp)).toNat
  | 4 => (f.preg (regNum sp)).toNat
  | _ => 0
/-- Registers from a specifier, low half first (R156). -/
def rdN (f : Sheaf) (sp : Nat) : Nat → Nat → Nat
  | 0, _ => 0
  | n + 1, lane => rd32 f sp lane + 2 ^ 32 * rdN f (if regClass sp = 8 then sp else sp + 1) n lane
/-- Write one 32-bit register: a v register in the lanes that have a value, a u register from the first value, a p register in the bits
of the executing lanes (R157); null discards. -/
def wr32 (f : Sheaf) (sp : Nat) (m : W32) (vals : List (Nat × Nat)) : Sheaf :=
  match regClass sp with
  | 1 =>
    let v := vals.foldl (fun t e => tset 0 t (32 * regNum sp + e.1) (BitVec.ofNat 32 e.2)) f.v
    { f with v := v, regBad := vals.foldl (fun t e => tdel t (32 * regNum sp + e.1)) f.regBad }
  | 2 => { f with u := tset 0 f.u (regNum sp) (BitVec.ofNat 32 ((vals.headD (0, 0)).2)) }
  | 4 =>
    let x := BitVec.ofNat 32 ((vals.headD (0, 0)).2)
    { f with p := tset 0 f.p (regNum sp) ((f.preg (regNum sp) &&& ~~~m) ||| (x &&& m)) }
  | _ => f
/-- Write n registers from a specifier: lane values as numbers, 32 bits a register. -/
def wrN (f : Sheaf) (sp : Nat) (m : W32) : Nat → List (Nat × Nat) → Sheaf
  | 0, _ => f
  | n + 1, vals =>
    if regClass sp = 8 then f
    else wrN (wr32 f sp m (vals.map (fun e => (e.1, e.2 % 2 ^ 32)))) (sp + 1) m n (vals.map (fun e => (e.1, e.2 / 2 ^ 32)))

/-- Registers that await an earlier result: outstanding loads and returning atomics, AWAIT, SAMPLE and FLAG.WAIT (R112). -/
def pendingRegs (f : Sheaf) : List Nat :=
  let ld (x : Load) : List Nat := idxFrom x.dst (if x.size = 3 then 2 else if x.size = 4 then 4 else 1)
  (f.loads.map (fun e => ld e.2)).flatten ++ f.awaits.map Prod.fst ++ f.sample.toList ++ f.flagWait.toList

/-! ## The run that a sheaf serves -/

/-- The stook of a sheaf. -/
def stookOf (s : State) (n : Nat) (f : Sheaf) : Option Stook := tfind (s.core n).stooks f.stook
/-- The run of a launch identifier. -/
def runOf (s : State) (launch : W32) : Option Run := tfind s.pel.runs launch.toNat
/-- A sheaf has ended: all its lanes have executed EXIT (R110). -/
def Sheaf.ended (f : Sheaf) : Bool := f.exited == 0xFFFF_FFFF
/-- A sheaf that may issue: none of the conditions of Table 4-3 that name no register holds. -/
def canIssue (s : State) (n sl : Nat) : Bool :=
  let f := s.sheaf n sl
  f.live && !f.ended && !f.parked && f.barWait.isNone && !f.arrWait &&
  (match f.lockWait with | some x => x.woken | none => true) &&
  (match stookOf s n f with | some t => t.killed.isNone && (runOf s t.launch).isSome | none => false)

/-! ## Faults (R142 to R147) -/

/-- Write a fault record for an instruction at `pc` under a mask, park the sheaf and signal Pelseso over the control network (R142); after a kill has
begun nothing is written (R150). -/
def raiseAt (n sl : Nat) (pc : W64) (active : W32) (cause detail : Nat) (lanes : W32) (addr : Nat) (instr : Nat) (s : State) : State :=
  let c := s.core n
  let f := c.sheaf sl
  match tfind c.stooks f.stook with
  | none => s
  | some t =>
    if t.killed.isSome || f.parked then s
    else
      let keeps := cause = 1 ∨ cause = 2 ∨ (cause = 4 ∧ (detail = 0x44 ∨ detail = 0x45))
      let r : FaultRec := { cause := cause, detail := detail, sheaf := sl, stook := f.stook, launch := t.launch, pc := pc,
                            active := active, lanes := lanes, addr := if keeps then BitVec.ofNat 64 addr else 0,
                            instr := BitVec.ofNat 64 instr, stamp := now s, source := srcCore n, depth := f.stack.length, gen := f.gen
                            seq := (c.faults.map (fun e => e.2.seq + 1)).foldl max 0 }
      signal (srcCore n) 0 0 (s.setCore n { c.setSheaf sl { f with parked := true, dog := false, lockWait := none } with faults := tput c.faults sl r })

/-- A fault of the instruction at the sheaf's program counter (R142). -/
def raiseFault (n sl cause detail : Nat) (lanes : W32) (addr : Nat) (instr : Nat) (s : State) : State :=
  raiseAt n sl (s.sheaf n sl).pc (s.sheaf n sl).active cause detail lanes addr instr s
/-- A fault record's 64 bytes (Table 4-9). -/
def faultBytes (r : FaultRec) : List Byte :=
  natLE 1 r.cause ++ natLE 1 r.detail ++ natLE 1 r.sheaf ++ natLE 1 r.stook ++ bvLE 4 r.launch ++ bvLE 8 r.pc ++ bvLE 4 r.active ++
  bvLE 4 r.lanes ++ bvLE 8 r.addr ++ bvLE 8 r.instr ++ bvLE 8 r.stamp ++ natLE 2 r.source ++ natLE 1 r.depth ++ natLE 1 0 ++
  bvLE 2 r.gen ++ natLE 2 0 ++ natLE 8 0
/-- A core's fault record as Pelseso copies it to the windrow log (R147). -/
def logFault (n : Nat) (r : FaultRec) (s : State) : State := logRec 3 (srcCore n) 0x8100 (faultBytes r) s

/-! ## Reconvergence (R116, R117, R135) -/

/-- Pop while the top entry's address is reached or the path has no lanes. -/
def settle : Nat → Sheaf → Sheaf
  | 0, f => f
  | k + 1, f =>
    match f.stack with
    | [] => f
    | e :: t =>
      if f.active = 0 ∨ f.pc = e.recon then
        match e.kind with
        | .branch =>
          -- the popped lanes take the branch; the entry that restores the full mask takes the freed place
          settle k { f with stack := { kind := .reconv, recon := e.recon, mask := f.active ||| e.mask, target := 0 } :: t,
                            active := e.mask &&& ~~~f.exited, pc := e.target }
        | .reconv => settle k { f with stack := t, active := e.mask &&& ~~~f.exited, pc := e.recon }
        | .lock => settle k { f with stack := t, active := e.mask &&& ~~~f.exited, pc := e.target }
      else f

/-- Complete the barriers at which every sheaf that has not ended has arrived; a parked one does not count as arrived (R140, R141). -/
def barsDone (c : Core) (st : Nat) : Core :=
  match tfind c.stooks st with
  | none => c
  | some t =>
    let live := t.slots.filter (fun sl => !(c.sheaf sl).ended)
    let ready := t.bars.filter (fun e => live.all (fun sl => e.2.contains sl && !(c.sheaf sl).parked))
    if ready.isEmpty || t.killed.isSome then c
    else
      let c1 := (ready.map Prod.snd).flatten.foldl (fun (a : Core) sl =>
        let f := a.sheaf sl
        if f.barWait.isSome && ready.any (fun e => some e.1 == f.barWait) then a.setSheaf sl { f with barWait := none } else a) c
      { c1 with stooks := tput c1.stooks st { t with bars := t.bars.filter (fun e => !(ready.any (fun r => r.1 == e.1))) } }

/-- Move a sheaf on: the next program counter, the reconvergence of its stack, and the barriers that its end completes. -/
def advance (n sl : Nat) (pc : W64) (s : State) : State :=
  let c := s.core n
  let f := settle 80 { c.sheaf sl with pc := pc }
  let c1 := c.setSheaf sl f
  s.setCore n (if f.ended then barsDone c1 f.stook else c1)

/-! ## Issue -/

/-- What an instruction meets: the place, the word, the sheaf before it, the executing lanes and the run. -/
structure Env where
  n : Nat
  sl : Nat
  w : Nat
  e : Nat
  f : Sheaf
  m : W32
  stook : Stook
  run : Run
  deriving DecidableEq, Repr

/-- What an instruction does: a fault (cause, detail, lanes, address) with no other effect, or its effect with the next program
counter (none: the next word), or a wait in which it is not issued. -/
inductive Res where
  | fault (cause detail : Nat) (lanes : W32) (addr : Nat)
  | go (s : State) (pc : Option W64)
  | wait
  deriving Repr

/-- Address of the next word (R153). -/
def nextPc (w : Nat) (pc : W64) : W64 := pc + (if wExt w then 16 else 8)
/-- Executing lanes (R159). -/
def execLanes (w : Nat) (f : Sheaf) : W32 :=
  if bit w 13 then f.active &&& (if bit w 14 then ~~~f.preg (bits w 17 15) else f.preg (bits w 17 15)) else f.active
/-- The DETAIL of a poisoned read by the store that serves it (Table 4-8). -/
def poisonDetail (s : State) (pa cls : Nat) : Nat :=
  match place s pa with
  | .hub _ => 4
  | .lpddr =>
    match findLine (s.half (homeHalf s pa)) (pa / 256) with
    | some l => if l.present.getLsbD (pa / 64 % 4) then 2 else if cls = 2 then 3 else 2
    | none => if cls = 2 then 3 else 2
  | _ => 2
/-- The fault of fetching the words at the program counter (R176): cause and detail. A line that the instruction cache holds is not read again
(R177). -/
def fetchFault (s : State) (n g : Nat) (w : Nat) (pc : W64) : Option (Nat × Nat) :=
  let one (va : Nat) : Option (Nat × Nat) :=
    match translate s g va .exec with
    | .error d => some (1, d)
    | .ok (pa, m) => if !(s.core n).icache.contains (pa / 64) && (cohRead s none pa 8).2 then some (2, poisonDetail s pa m.cls) else none
  match one pc.toNat, (if wExt w then one (pc + 8).toNat else none) with
  | some (1, d), _ => some (1, d)
  | _, some (1, d) => some (1, d)
  | some x, _ => some x
  | none, y => y
/-- The instruction word at an address, as the fetch would bring it; zero where it does not translate. -/
def wordAt (s : State) (g : Nat) (pc : W64) : Nat :=
  match translate s g pc.toNat .exec with | .ok (pa, _) => leNat (cohRead s none pa 8).1 | .error _ => 0
/-- Lanes of a mask in which at least k reads of a v register still fail. -/
def badLanes (f : Sheaf) (m : W32) (k r : Nat) : List Nat := (lanesOf m).filter (fun l => decide (k ≤ tget 0 f.regBad (32 * r + l)))
/-- The registers of a list whose first read fails in some lane (R143). -/
def badRegs (f : Sheaf) (m : W32) (rs : List Nat) : List Nat := rs.filter (fun r => !(badLanes f m 1 r).isEmpty)
/-- The first of them whose second read fails too, with its lanes (R143, R190). -/
def parity (f : Sheaf) (m : W32) (rs : List Nat) : Option (Nat × W32) :=
  ((badRegs f m rs).find? (fun r => !(badLanes f m 2 r).isEmpty)).map (fun r => (r, maskOf (badLanes f m 2 r)))
/-- The sheaf after registers have been read again: their cells hold what they held. -/
def reread (f : Sheaf) (m : W32) (rs : List Nat) : Sheaf :=
  { f with regBad := rs.foldl (fun t r => (lanesOf m).foldl (fun y l => tdel y (32 * r + l)) t) f.regBad }

/-- The physical lines of the words at the program counter. -/
def fetchLines (s : State) (g : Nat) (w : Nat) (pc : W64) : List Nat :=
  (if wExt w then [pc, pc + 8] else [pc]).foldr (fun a l => match translate s g a.toNat .exec with
    | .ok (pa, _) => if l.contains (pa / 64) then l else pa / 64 :: l
    | .error _ => l) []
/-- The lines that the fetch asks for: those that the instruction cache does not hold. -/
def fetchMiss (s : State) (n g w : Nat) (pc : W64) : List Nat := (fetchLines s g w pc).filter (fun a => !(s.core n).icache.contains a)
/-- The granary accesses of a fetch: the lines that it asks for, each in its page's class (R240). -/
def fetchCount (n g w : Nat) (pc : W64) (s : State) : State :=
  let cls (a : Nat) : Nat := match ((if wExt w then [pc, pc + 8] else [pc]).map (fun (x : W64) => translate s g x.toNat .exec)).find? (fun y =>
    match y with | .ok (pa, _) => pa / 64 == a | .error _ => false) with | some (.ok (_, m)) => m.cls | _ => 0
  (fetchMiss s n g w pc).foldl (fun b a => noteSector (cls a) (if servingQuarter s (64 * a) = some (n / 64) then 0 else 1) (64 * a) b) s
/-- A line of the fetch does not come now: its quarter is fenced, in headland or in reset (R381, R464), or its channel retrains (R297). -/
def fetchHeld (s : State) (n g w : Nat) (pc : W64) : Bool :=
  (fetchMiss s n g w pc).any (fun a => fencedAddr s (64 * a) || retryAddr s (64 * a) || burstStalls s (64 * a))
/-- A launch's command needs an address homed in a fenced quarter (R381): it ends with INPUT_LOST, and its run commits nothing. -/
def loseRun (n launch : Nat) (s : State) : State :=
  match tfind s.pel.runs launch with
  | none => s
  | some r =>
    { s with pel := { s.pel with
      runs := tput s.pel.runs launch { r with kill := some (r.kill.getD (now s, srcCore n, 0x02, 1)) }
      cmds := s.pel.cmds.map (fun x => if x.queue = r.queue ∧ x.seq = r.seq ∧ x.st ≠ .ended
                                       then { x with st := .ended, status := 0x02, detail := 1, waitFlags := false } else x) } }
/-- What a fetch that does not come does: lost input ends the run, and a return retry-later is counted. -/
def fetchWait (n launch g w : Nat) (pc : W64) (s : State) : State :=
  let l := fetchMiss s n g w pc
  if l.any (fun a => fencedAddr s (64 * a)) then loseRun n launch s
  else if l.any (fun a => retryAddr s (64 * a)) then bump 0x00D0_0218 1 s
  else s
/-- An issue: its scheduler's last sheaf and run (R108, R113), and the lines that the instruction cache of 512 lines holds (R177; log 3). -/
def noteIssue (n sl : Nat) (lines : List Nat) (s : State) : State :=
  let c := s.core n
  let last := tget (64, 0) c.sched (sl % 4)
  let run := if last.1 = sl ∧ last.2 < 8 then last.2 + 1 else 1
  s.setCore n { c with sched := tset (64, 0) c.sched (sl % 4) (sl, run), issues := c.issues + 1, issued := tset 0 c.issued sl (c.issues + 1)
                       icache := (lines ++ c.icache.filter (fun x => !lines.contains x)).take 512 }

/-- The instruction once its words are fetched: one that no lane executes only moves on (R160); the encoding, register and parity faults are met
in the order of R190; then its body. None: it waits. -/
def perform (v : Env) (fm : Form) (body : Env → State → Res) (s : State) : Option State :=
  if v.m = 0 && fm.guard then some (advance v.n v.sl (nextPc v.w v.f.pc) s)
  else if !encOk v.w v.e fm then some (raiseFault v.n v.sl 4 0x40 v.m 0 v.w s)
  else if beyond v.w v.run.regs fm then some (raiseFault v.n v.sl 4 0x41 v.m 0 v.w s)
  else
    let bad := badRegs v.f v.m (vSources v.w fm.opds)
    let s1 := if bad.isEmpty then s else bump (eccBlk (v.n / 64) + 0x130) bad.length s
    match parity v.f v.m (vSources v.w fm.opds) with
    | some (r, lanes) => some (raiseFault v.n v.sl 7 r lanes 0 v.w s1)
    | none =>
      let f1 := reread v.f v.m bad
      let s2 := if bad.isEmpty then s1 else s1.setSheaf v.n v.sl f1
      match body { v with f := f1 } s2 with
      | .fault cause d l a => some (raiseFault v.n v.sl cause d l a v.w s2)
      | .wait => none
      | .go s3 pc => some (advance v.n v.sl (pc.getD (nextPc v.w v.f.pc)) s3)

/-- A sheaf whose next instruction is not ready (R112): a register it touches awaits a result, or 32 memory instructions are outstanding. -/
def notReady (f : Sheaf) (w : Nat) (fm : Form) (mem : Bool) (hidden : List Nat) : Bool :=
  (touched w fm.opds ++ hidden ++ (if bit w 13 then [0x140 + bits w 17 15] else [])).any (fun r => (pendingRegs f).contains r) ||
  (mem && decide (32 ≤ f.loads.length + f.memOut.length))

/-- One row of Table 5-3: its encoding rules, whether it counts toward the 32 outstanding memory instructions, the registers it uses beside its
operands, and its effect. -/
structure SheafRow where
  form : Nat → Form
  mem : Bool
  hidden : Nat → List Nat
  body : Env → State → Res
/-- What a sheaf's instruction with given words meets; none where no run stands behind its stook. -/
def envAt (s : State) (n sl w e : Nat) : Option Env :=
  let f := s.sheaf n sl
  match stookOf s n f with
  | none => none
  | some t =>
    match runOf s t.launch with
    | none => none
    | some r => some { n := n, sl := sl, w := w, e := e, f := f, m := execLanes w f, stook := t, run := r }
/-- The instruction that its scheduler has picked: a watchdog fault and the faults of the fetch come before those of the instruction (R146, R190),
and nothing happens while its sheaf is not ready (R112). The record of a fetch fault has the program counter for ADDR (R176) and INSTR 0: no
usable word came (log 17). -/
def begins (v : Env) (row : SheafRow) (s : State) : State :=
  if v.f.dog then raiseFault v.n v.sl 6 0 v.f.active 0 v.w s
  else match fetchFault s v.n v.run.group v.w v.f.pc with
  | some (cause, d) => raiseFault v.n v.sl cause d v.f.active v.f.pc.toNat 0 s
  | none =>
    if notReady v.f v.w (row.form v.w) row.mem (row.hidden v.w) then s
    else (perform v (row.form v.w) row.body (noteIssue v.n v.sl (fetchLines s v.run.group v.w v.f.pc)
      (fetchCount v.n v.run.group v.w v.f.pc s))).getD s

/-- Replace the issuing sheaf. -/
def Env.put (v : Env) (f : Sheaf) (s : State) : State := s.setSheaf v.n v.sl f
/-- Write a destination from lane values. -/
def Env.write (v : Env) (sp cnt : Nat) (vals : List (Nat × Nat)) (s : State) : State :=
  v.put (wrN (s.sheaf v.n v.sl) sp v.m cnt vals) s

end Sys2Proof.Machine
end

