-- ==== Sys2Proof/Machine/Runs.lean ====
section
/-! DEFINITION. What the families that act on running work share: random streams, tilth scratch, requests in flight, the flush of an
array, the kill and the end of a stook, and the abandonment of a run (02 R48, 04 R149, 06 R191 to R193, 13 R366 to R379). -/
namespace Sys2Proof.Machine

/-! ## Random streams (R191 to R195) -/

/-- The counter block of Table 6-2, as bytes. -/
def ctrBlock (kind ctx block : Nat) : List Nat := nats (natLE 8 block ++ natLE 1 kind ++ natLE 2 ctx ++ List.replicate 5 0)
/-- Output block `i` of a stream as a 128-bit number (R192). -/
def streamBlock (ks : List (List Nat)) (kind ctx i : Nat) : Nat := leNat (bytesOf (aesEnc ks (ctrBlock kind ctx i)))
/-- `n` stream bits from position `pos` (R193), n ≤ 128. -/
def streamBits (key : W256) (kind ctx pos n : Nat) : Nat :=
  if n = 0 then 0
  else
    let ks := aesKeys (keyBytes key)
    let b := streamBlock ks kind ctx (pos / 128)
    let b2 := if pos % 128 + n ≤ 128 then 0 else streamBlock ks kind ctx (pos / 128 + 1)
    ((b + 2 ^ 128 * b2) >>> (pos % 128)) % 2 ^ n
/-- The first bit of the rounding stream that the present key does not serve: a key serves 2^48 blocks (R195). -/
def roundLimit (x : Seedbox) : Nat := (x.keyBase + 2 ^ 48) * 128
/-- Draw rounding bits, each used once (R99): those past the present key's last block come from the next key, which serves from that block on.
With no next key the count passes the limit, and the drain that asks waits (`roundDry`). -/
def drawRound (x : Seedbox) (n : Nat) : Nat × Seedbox :=
  let e := x.roundBits + n
  let m := roundLimit x
  match x.roundKey with
  | none => (0, x)
  | some k =>
    if n = 0 then (0, x)
    else if e ≤ m then (streamBits k 3 0 x.roundBits n, { x with roundBits := e })
    else match x.nextKey with
    | none => (0, { x with roundBits := e })
    | some k1 =>
      let a := m - x.roundBits
      (streamBits k 3 0 x.roundBits a + 2 ^ a * streamBits k1 3 0 m (n - a),
        { x with roundKey := some k1, nextKey := none, keyBase := x.keyBase + 2 ^ 48, roundBits := e })
/-- A drain has asked for bits that no delivered key serves. -/
def roundDry (x : Seedbox) : Bool := decide (roundLimit x < x.roundBits)
/-- The column of a run that holds a context on a core. -/
def columnAt (r : Run) (core col : Nat) : Option Column := r.cols.find? (fun x => x.core == core && x.col == col)
/-- Replace a column. -/
def putColumn (r : Run) (x : Column) : Run :=
  { r with cols := r.cols.map (fun y => if y.core = x.core ∧ y.col = x.col then x else y) }
/-- Replace a run. -/
def putRun (launch : Nat) (r : Run) (s : State) : State := { s with pel := { s.pel with runs := tput s.pel.runs launch r } }
/-- Change a run, if it exists. -/
def modRun (launch : Nat) (f : Run → Run) (s : State) : State :=
  match tfind s.pel.runs launch with | some r => putRun launch (f r) s | none => s
/-- Draw w bits for a consumer of a core from the stream that `sel` selects: a column's context stream, else the launch stream. The result
is the bits (none at the stream's end: R200), the counter before the draw, and the state. -/
def drawStream (n launch sel w : Nat) (s : State) : Option Nat × W64 × State :=
  match tfind s.pel.runs launch with
  | none => (none, 0, s)
  | some r =>
    match (if sel < 32 then columnAt r n sel else none) with
    | some x =>
      if 2 ^ 64 ≤ x.counter.toNat + w then (none, x.counter, putRun launch (putColumn r { x with streamEnd := true }) s)
      else
        let key := match tfind s.pel.ctxs x.ctx with | some c => c.key | none => 0
        (some (streamBits key 1 x.ctx x.counter.toNat w), x.counter,
          putRun launch (putColumn r { x with counter := x.counter + BitVec.ofNat 64 w }) s)
    | none =>
      let c := s.core n
      match tfind c.seed.launch launch with
      | none => (none, 0, s)
      | some st =>
        if 2 ^ 64 ≤ st.ctr.toNat + w then (none, st.ctr, s)
        else
          (some (streamBits st.key 2 0 st.ctr.toNat w), st.ctr,
            s.setCore n { c with seed := { c.seed with
                            launch := tput c.seed.launch launch { st with ctr := st.ctr + BitVec.ofNat 64 w } } })

/-! ## Tilth scratch (R119 to R121, R322) -/

/-- Scratchpad bytes of a core: 2 MiB less the tilth cache and the 64 KiB reserve (R241). -/
def padSize (c : Core) : Nat := 0x1F_0000 - 0x1_0000 * c.cunits
/-- Place of a scratchpad offset in the tilth store. -/
def tilAt (n off : Nat) : Nat := n * 0x20_0000 + off
/-- Read scratchpad bytes, with their poison. -/
def tilRead (s : State) (n off len : Nat) : List Byte × Bool := stRead 8 s.mem.tilth (tilAt n off) len
/-- Write scratchpad bytes. -/
def tilWrite (n off : Nat) (b : List Byte) (psn : Bool) (s : State) : State :=
  { s with mem := { s.mem with tilth := stWrite 8 s.mem.tilth (tilAt n off) b psn } }
/-- Mark the words that hold a range of bytes as poisoned. -/
def tilMark (n off len : Nat) (s : State) : State :=
  { s with mem := { s.mem with tilth := { s.mem.tilth with psn := (wordsOf 8 (tilAt n off) len).foldl ladd s.mem.tilth.psn } } }

/-! ## Array descriptors and records (Tables 2-4, 2-7) -/

/-- The array command descriptor as fields. -/
def descOf (b : List Byte) : Desc :=
  let w := fld b 0 4
  { mode := bits w 1 0, semiring := bits w 4 2, afmt := bits w 8 5, bfmt := bits w 12 9, outfmt := bits w 15 13, round := bits w 17 16
    rclass := bit w 18, accInit := bits w 20 19, drain := bit w 21, aring := bit w 22, fwd := bit w 23, dir := bit w 24
    twoLevel := bit w 25, hops := fld b 4 1, tag := fld b 5 1, m := fld b 8 4, n := fld b 12 4, k := fld b 16 4
    aAddr := fld b 0x14 4, aStride := fld b 0x18 4, aScale := fld b 0x1C 4, bAddr := fld b 0x20 4, bStride := fld b 0x24 4
    bScale := fld b 0x28 4, cAddr := fld b 0x2C 4, cStride := fld b 0x30 4, segScale := BitVec.ofNat 32 (fld b 0x34 4)
    statusAddr := fld b 0x38 4, poisonAddr := fld b 0x3C 4 }
/-- PANEL_K and RING_SLOTS of a ring-fed command. -/
def panelK (d : Desc) : Nat := bits d.aStride 10 0
/-- RING_SLOTS. -/
def ringSlots (d : Desc) : Nat := bits d.aStride 19 16
/-- b of R59: A bytes per reduction element across 512 rows. -/
def panelB (f : Nat) : Nat := match f with | 2 => 400 | 3 => 400 | 4 => 272 | 6 => 512 | 7 => 512 | 8 => 1024 | 9 => 1024 | _ => 528
/-- Bytes of one ring slot (R59). -/
def slotBytes (d : Desc) : Nat := cdiv (32 + panelK d * panelB d.afmt) 64 * 64
/-- Offset of a ring slot. -/
def slotOff (d : Desc) (i : Nat) : Nat := d.aAddr + i * slotBytes d
/-- Bytes spanned by rows of a stride. -/
def spanOf (addr rows stride len : Nat) : Nat × Nat := (addr, (rows - 1) * stride + len)
/-- Ranges that the command reads. -/
def descIns (d : Desc) : List (Nat × Nat) :=
  (if d.aring then [(d.aAddr, ringSlots d * slotBytes d)]
   else spanOf d.aAddr d.m d.aStride (cdiv (d.k * inBits d.afmt) 8) :: (if isMx d.afmt then [(d.aScale, d.m * (d.k / 32))] else [])) ++
  spanOf d.bAddr d.n d.bStride (cdiv (d.k * inBits d.bfmt) 8) :: (if isMx d.bfmt then [(d.bScale, d.n * (d.k / 32))] else []) ++
  (if d.accInit = 2 then [spanOf d.cAddr d.m d.cStride (rowBytes d.n d.outfmt)] else [])
/-- Ranges that the command writes. -/
def descOuts (d : Desc) : List (Nat × Nat) :=
  (if d.drain then spanOf d.cAddr d.m d.cStride (rowBytes d.n d.outfmt) ::
      (if d.poisonAddr = 0 then [] else [(d.poisonAddr, 4 * d.m * cdiv d.n 32)]) else []) ++ [(d.statusAddr, 32)]
/-- Whether two ranges of bytes overlap. -/
def overlaps (a la b lb : Nat) : Bool := decide (a < b + lb) && decide (b < a + la)
/-- A sheaf's write to scratch: a command in the queue or in the array whose input it touches has undefined results (R50). -/
def taint (n off len : Nat) (s : State) : State :=
  let c := s.core n
  let hit (x : ArrCmd) : ArrCmd := if (descIns x.desc).any (fun r => overlaps r.1 r.2 off len) then { x with tainted := true } else x
  s.setCore n { c with arr := { c.arr with queue := c.arr.queue.map hit, run := c.arr.run.map (fun r => { r with cmd := hit r.cmd }) } }
/-- A byte stands in the output rows of a command that waits in the queue: undefined to a reader until DONE (R50). -/
def inOutput (d : Desc) (off : Nat) : Bool :=
  d.drain && decide (d.cAddr ≤ off) && decide ((off - d.cAddr) / d.cStride < d.m) && decide ((off - d.cAddr) % d.cStride < rowBytes d.n d.outfmt)
/-- A sheaf's read of scratch: the output bytes of a queued command read as free values (R50); those of the running one are free in the store. -/
def scrRead (s : State) (n off len : Nat) : List Byte × Bool :=
  let r := tilRead s n off len
  let l := (s.core n).arr.queue
  if l.isEmpty then r
  else ((r.1.zip (List.range len)).map (fun e =>
    if l.any (fun x => inOutput x.desc (off + e.2)) then Config.undefOut s.free (off + e.2) else e.1), r.2)
/-- A sheaf's write to scratch, with its effect on queued commands. -/
def scrWrite (n off : Nat) (b : List Byte) (psn : Bool) (s : State) : State := taint n off b.length (tilWrite n off b psn s)

/-- A status record (Table 2-7). -/
def statusRec (code : Nat) (mapped outbound : Bool) (rows first steps : Nat) (cols : W128) : List Byte :=
  natLE 1 code ++ natLE 1 (1 + 2 * b2n mapped + 4 * b2n outbound) ++ natLE 2 0 ++ natLE 4 rows ++ natLE 4 first ++
  natLE 4 (min steps 0xFFFF_FFFF) ++ bvLE 16 cols
/-- The n free bytes of an undefined output row (R50, R56). -/
def undefRow (f off n : Nat) : List Byte := (List.range n).map (fun i => Config.undefOut f (off + i))
/-- The output area of a command becomes undefined. -/
def undefArea (n : Nat) (d : Desc) (s : State) : State :=
  if d.drain then
    (List.range d.m).foldl (fun a i => tilWrite n (d.cAddr + i * d.cStride)
      (undefRow s.free (d.cAddr + i * d.cStride) (rowBytes d.n d.outfmt)) false a) { s with free := s.free + 1 }
  else s
/-- POISON_ROWS, FIRST_ROW and COL_MASK of what a run has drained (R68); free when a sheaf overwrote an input (R50). -/
def poisonFields (free : Nat) (x : ArrRun) : Nat × Nat × W128 :=
  if x.cmd.tainted then ((Config.undefMark free 0).toNat % 2 ^ 32, (Config.undefMark free 1).toNat % 2 ^ 32, Config.undefMark free 2)
  else (x.prows.length, x.prows.headD 0xFFFF_FFFF, x.cols)
/-- Write output ranges of a run; with an overwritten input their bytes are free (R50). -/
def writeOuts (n : Nat) (x : ArrRun) (l : List (Nat × List Byte)) (s : State) : State :=
  l.foldl (fun a o => tilWrite n o.1 (if x.cmd.tainted then undefRow s.free o.1 o.2.length else o.2) false a) s
/-- Write the status record of a command that ends early with a code: its output area is undefined, STEPS free for FLUSHED and
RING_TIMEOUT (log 12). The map words and the poison of the tiles that a run had drained stand (R68). -/
def endEarly (n : Nat) (d : Desc) (code : Nat) (mapped outbound : Bool) (steps : Option Nat) (part : Option ArrRun) (s : State) : State :=
  let t := match part with | some x => writeOuts n x x.maps (undefArea n d s) | none => undefArea n d s
  let p := match part with | some x => poisonFields t.free x | none => (0, 0xFFFF_FFFF, 0)
  let k := match steps with | some x => x | none => (Config.freeSteps t.free).toNat
  tilWrite n d.statusAddr (statusRec code mapped outbound p.1 p.2.1 k p.2.2) false { t with free := t.free + 1 }
/-- Deliver the first word of a status record to every AWAIT that waits for it (R179). -/
def deliverAwaits (n off : Nat) (s : State) : State :=
  let v := leNat (tilRead s n off 4).1
  (List.range 64).foldl (fun (a : State) sl =>
    let f := a.sheaf n sl
    if f.awaits.any (fun e => e.2 == off) then
      let g := (f.awaits.filter (fun e => e.2 == off)).foldl (fun (x : Sheaf) e => wr32 x e.1 0xFFFF_FFFF [(0, v)]) f
      a.setSheaf n sl { g with awaits := f.awaits.filter (fun e => e.2 != off) }
    else a) s

/-! ## The flush of an array (R48) -/

/-- Flush the commands of a stook: FLUSHED to each of their status records; their ring slots, waiting panels and PFRs are dropped. -/
def flushStook (n st : Nat) (s : State) : State :=
  let c := s.core n
  let a := c.arr
  let mine (x : ArrCmd) : Bool := x.stook == st
  let runCmd := a.run.toList.filter (fun r => mine r.cmd)
  let gone := (runCmd.map (fun r => (r.cmd.desc, some r))) ++ (a.queue.filter mine).map (fun x => (x.desc, none))
  let tags := (gone.filter (fun x => x.1.aring)).map (fun x => x.1.tag)
  let a1 : Array2 := { a with
    queue := a.queue.filter (fun x => !mine x)
    waiting := a.waiting.filter (fun x => !mine x)
    run := if runCmd.isEmpty then a.run else none
    prevMode := if gone.isEmpty then a.prevMode else none
    pend := match a.pend with | some p => if mine p.cmd then none else some p | none => none
    ring := a.ring.filter (fun r => !tags.contains r.tag)
    inbound := match a.inbound with | some p => if tags.contains p.tag then none else some p | none => none }
  let s1 := s.setCore n { c with arr := a1, pfr := c.pfr.filter (fun x => !tags.contains x.tag) }
  gone.foldl (fun x g => deliverAwaits n g.1.statusAddr (endEarly n g.1 0x30 (!a.rowMap.isEmpty) false none g.2 x)) s1
/-- Flush every command of a core, writing no status (R48). -/
def flushCore (n : Nat) (s : State) : State :=
  let c := s.core n
  s.setCore n { c with arr := { Array2.dflt with rowMap := c.arr.rowMap, lastPass := c.arr.lastPass, lastTest := c.arr.lastTest
                                                 testing := c.arr.testing } }

/-! ## Requests in flight -/

/-- Lower the reduction counts of lines whose admitted reductions are removed. -/
def dropRed (hf : Half) (num : Nat) : Half :=
  { hf with lines := hf.lines.map (fun l => if l.num = num ∧ 0 < l.red then { l with red := l.red - 1 } else l) }
/-- A half without the requests that meet a condition. -/
def dropHalf (p : GReq → Bool) (hf : Half) : Half :=
  let gone := hf.reds.filter (fun r => p r.req)
  let h1 := { hf with reqs := hf.reqs.filter (fun r => !p r)
                      fills := hf.fills.map (fun f => { f with waiters := f.waiters.filter (fun r => !p r) })
                      reds := hf.reds.filter (fun r => !p r.req) }
  gone.foldl (fun a r => dropRed a (r.req.pa / 256)) h1
/-- Word operations of the admitted reductions that a condition names: they complete, on shadows that go with their stage (R245). -/
def redsGone (p : GReq → Bool) (hf : Half) : Nat := ((hf.reds.filter (fun r => p r.req)).map (fun r => r.ops)).foldl (· + ·) 0
/-- Discard the requests that meet a condition, wherever they wait. -/
def dropReqs (p : GReq → Bool) (s : State) : State :=
  let s1 := (List.range 8).foldl (fun (a : State) h => bump (grnBlk h + 0x160) (redsGone p (a.half h)) (a.setHalf h (dropHalf p (a.half h)))) s
  { s1 with pel := { s1.pel with retries := s1.pel.retries.filter (fun r => !p r) } }
/-- A request of a sheaf slot of a core that a kill discards: loads, and the lines of its bulk operations. -/
def killReq (n : Nat) (slots bulks : List Nat) (r : GReq) : Bool :=
  match r.req, r.op with
  | .load m sl _, .read => m == n && slots.contains sl
  | .bulk m id _, _ => m == n && bulks.contains id
  | _, _ => false
/-- Any request of a core. -/
def reqOfCore (n : Nat) (r : GReq) : Bool :=
  match r.req with | .load m _ _ => m == n | .store m _ _ => m == n | .bulk m _ _ => m == n | _ => false

/-! ## Killing and ending a stook (R149, R110) -/

/-- A killing status: the command takes the first by stamp, then by source (R374, R32). -/
def addKill (r : Run) (stamp : W64) (src status detail : Nat) : Run :=
  if status = 0 then r
  else match r.kill with
    | none => { r with kill := some (stamp, src, status, detail) }
    | some (t, q, _, _) => if stamp < t ∨ (stamp = t ∧ src < q) then { r with kill := some (stamp, src, status, detail) } else r
/-- A sheaf of a killed stook keeps only what its granary requests still have to acknowledge. -/
def killSheaf (f : Sheaf) : Sheaf :=
  { f with loads := [], memOut := [], memLanes := [], stOut := 0, bulkOut := 0, barWait := none, lockWait := none, lockSince := [], awaits := [],
           sample := none, flagWait := none, arrWait := false, parked := false, dog := false }
/-- Drop the flag waits of sheaf slots of a core at one store. -/
def dropWaits (n : Nat) (slots : List Nat) (s : State) (q : Nat) : State :=
  let k := s.flagStore q
  s.setFlagStore q { k with waits := k.waits.filter (fun w => !(w.core == n && slots.contains w.sheaf)) }
/-- Kill a stook with a status (0 for a kill without status). The records that its sheaves hold are copied to the log, and go (R147, R150). -/
def killStook (n st status detail : Nat) (stamp : W64) (s : State) : State :=
  let c := s.core n
  match tfind c.stooks st with
  | none => s
  | some t =>
    if t.killed.isSome then s
    else
      let bulks := ((c.bulk ++ c.pfr).filter (fun b => b.stook == st)).map (fun b => b.id)
      let held := c.faults.filter (fun e => t.slots.contains e.1)
      let s1 := dropReqs (killReq n t.slots bulks) (flushStook n st (held.foldl (fun a e => logFault n e.2 a) s))
      let c1 := s1.core n
      let c2 := t.slots.foldl (fun (a : Core) sl => a.setSheaf sl (killSheaf (a.sheaf sl))) c1
      let c3 := { c2 with bulk := c2.bulk.filter (fun b => b.stook != st), pfr := c2.pfr.filter (fun b => b.stook != st)
                          samples := c2.samples.filter (fun x => x.stook != st)
                          faults := c2.faults.filter (fun e => !t.slots.contains e.1)
                          stooks := tput c2.stooks st { t with killed := some (status, detail), bars := [] } }
      let s2 := s1.setCore n c3
      let fl := (List.range 4).foldl (dropWaits n t.slots) s2
      modRun t.launch.toNat (fun r => addKill r stamp (srcCore n) status detail) fl
/-- Clear the written and poisoned bits of a range of scratch: it reads as zero (R322). -/
def clearScratch (n base size : Nat) (s : State) : State :=
  { s with mem := { s.mem with tilth := stClear 8 s.mem.tilth (tilAt n base) size } }
/-- Free a stook's slots, register blocks and scratch; the start counts of its sheaf slots stay. A wait for a flag that a sheaf left behind goes with it
(R280); the scratch of a keyed group is cleared (R495). -/
def freeStook (n st : Nat) (s : State) : State :=
  let c := s.core n
  match tfind c.stooks st with
  | none => s
  | some t =>
    let c1 := t.slots.foldl (fun (a : Core) sl => a.setSheaf sl { Sheaf.dflt with gen := (a.sheaf sl).gen }) c
    let s0 := s.setCore n { c1 with stooks := tdel c1.stooks st, faults := c1.faults.filter (fun e => !t.slots.contains e.1) }
    let keyed := match tfind s.pel.runs t.launch.toNat with | some r => groupSlot s r.group != 0 | none => false
    let s1 := (List.range 4).foldl (dropWaits n t.slots) (if keyed then clearScratch n t.base t.size s0 else s0)
    modRun t.launch.toNat (fun r => { r with left := r.left - 1 }) s1

/-! ## The ledger's commands -/

/-- The accepted command of a queue and sequence number. -/
def findCmd (s : State) (qu seq : Nat) : Option Cmd := s.pel.cmds.find? (fun x => x.queue == qu && x.seq == seq)
/-- Change an accepted command. -/
def modCmd (qu seq : Nat) (f : Cmd → Cmd) (s : State) : State :=
  { s with pel := { s.pel with cmds := s.pel.cmds.map (fun x => if x.queue = qu ∧ x.seq = seq then f x else x) } }
/-- End a command early with a status: it waits in ENDED for its turn (R372). One that has ended keeps its status. -/
def endCmd (qu seq status detail : Nat) (s : State) : State :=
  modCmd qu seq (fun x => if x.st = .ended then x else { x with st := .ended, status := status, detail := detail, waitFlags := false }) s

/-! ## Stages (R366 to R370) -/

/-- Every holder drops the shadows of a stage, and its number is free. -/
def dropStage (st : Nat) (s : State) : State :=
  let s1 := (List.range 8).foldl (fun (a : State) h =>
    a.setHalf h { a.half h with lines := (a.half h).lines.filter (fun l => l.shadow != some st) }) s
  let sp := (List.range 5).foldl (fun (t : Tab (List Spill)) q =>
    tset [] t q ((tget [] t q).filter (fun x => x.stage != st))) s1.pel.spills
  { s1 with pel := { s1.pel with spills := sp, stages := ldel s1.pel.stages st } }
/-- A request staged under a stage. -/
def ofStage (st : Nat) (r : GReq) : Bool := r.stage == some st

/-- Stooks of a launch on a core, by stook slot. -/
def stooksOf (c : Core) (launch : W32) : List Nat := (c.stooks.filter (fun e => e.2.launch == launch)).map Prod.fst
/-- Take a launch off a core at once, with no status: its stooks are stopped, its waiting stooks and streams dropped. -/
def clearLaunch (launch : W32) (n : Nat) (s : State) : State :=
  let l := stooksOf (s.core n) launch
  let s1 := l.foldl (fun a st => freeStook n st (killStook n st 0 0 (now a) a)) s
  let c := s1.core n
  s1.setCore n { c with waiting := c.waiting.filter (fun w => w.1 != launch.toNat)
                        seed := { c.seed with launch := tdel c.seed.launch launch.toNat, launchReq := tdel c.seed.launchReq launch.toNat
                                              launchFail := ldel c.seed.launchFail launch.toNat } }
/-- Give back the flags of a launch. -/
def freeFlags (launch : W32) (s : State) : State :=
  (List.range 4).foldl (fun (a : State) q =>
    a.setFlagStore q { a.flagStore q with owned := (a.flagStore q).owned.filter (fun o => o.2.2 != launch.toNat) }) s
/-- The role that Table 9-6 gives a core. -/
def heldRole (s : State) (n : Nat) : Nat :=
  let c := s.core n
  if c.away then 3
  else if s.pel.runs.any (fun e => e.2.cores.contains n) && c.fallow < 2 then 1
  else if 2 ≤ c.fallow then 4
  else if c.arr.testing && c.inService then 2 else 0
/-- Pelseso sends ROLE_SET to the cores of a list whose role has changed, all with one new epoch (R272, R274, R461); a core in headland waits
until it is drained. -/
def syncRoles (l : List Nat) (s : State) : State :=
  let ch := l.filter (fun n => (s.ep (srcCore n)).role != heldRole s n && !(s.core n).headland)
  let ep := nextEpoch s.ctl.epochCtr
  if ch.isEmpty then s
  else ch.foldl (fun (a : State) n =>
      if (a.ep 0).out < outLimit 0 then takeHead (srcCore n) (arrive (srcCore n) (roleSetMsg 0 (srcCore n) (BitVec.ofNat 8 (heldRole s n)) ep) a) else a)
    { s with ctl := { s.ctl with epochCtr := ep } }
/-- The cores of a quarter join or leave its ring, between Pelseso commands only (R58): while a run has a core in the quarter nothing changes. -/
def syncRing (q : Nat) (s : State) : State :=
  if s.pel.runs.any (fun e => e.2.cores.any (fun n => n / 64 == q)) then s
  else (coreList s).foldl (fun (a : State) n =>
    let c := a.core n
    if n / 64 = q then a.setCore n { c with ringMember := !c.away } else a) s
/-- The rings of the quarters of a list of cores. -/
def syncRings (l : List Nat) (s : State) : State :=
  (List.range 4).foldl (fun a q => if l.any (fun n => n / 64 == q) then syncRing q a else a) s
/-- Stop a run: its stooks, requests, shadows, stage, flags and columns go. -/
def stopRun (launch : Nat) (s : State) : State :=
  match tfind s.pel.runs launch with
  | none => s
  | some r =>
    let l := BitVec.ofNat 32 launch
    let s1 := r.cores.foldl (fun a n => clearLaunch l n a) s
    let s2 := match r.stage with | some st => dropStage st (dropReqs (ofStage st) s1) | none => s1
    let s3 := if r.opcode = 0x40 then freeFlags l s2 else s2
    syncRings r.cores (syncRoles r.cores { s3 with pel := { s3.pel with runs := tdel s3.pel.runs launch } })
/-- The tally abandons a run (R379): the command returns to ACCEPTED, and the eighth abandonment for a fault ends it with INPUT_LOST. -/
def abandonRun (launch : Nat) (fault : Bool) (s : State) : State :=
  match tfind s.pel.runs launch with
  | none => s
  | some r =>
    let k := (match findCmd s r.queue r.seq with | some x => x.abandons | none => 0) + b2n fault
    let s1 := bump (0x0090_0000 + (if fault then 0x110 else 0x118)) 1 (stopRun launch s)
    if 8 ≤ k then modCmd r.queue r.seq (fun x => { x with st := .ended, abandons := k, status := 0x02, detail := 2, launch := 0 }) s1
    else modCmd r.queue r.seq (fun x => { x with st := .accepted, abandons := k, start := none, launch := 0 }) s1
/-- End a run with a status that commits nothing (R374, R381). -/
def failRun (launch status detail : Nat) (s : State) : State :=
  match tfind s.pel.runs launch with
  | none => s
  | some r => modCmd r.queue r.seq (fun x => { x with st := .ended, status := status, detail := detail, waitFlags := false }) (stopRun launch s)
/-- The launch of the run that holds a stage. -/
def launchOfStage (s : State) (st : Nat) : Option Nat := (s.pel.runs.find? (fun e => e.2.stage == some st)).map Prod.fst
/-- Assembly of a requester: the core's quarter, the quarter of a pin's own half, or the hub. -/
def reqHome (s : State) (r : GReq) : Nat :=
  match r.req with
  | .load n _ _ => n / 64 | .store n _ _ => n / 64 | .bulk n _ _ => n / 64
  | .pin _ => (servingQuarter s r.pa).getD 4
  | _ => 4
/-- Assemblies of a request: where it comes from and where its granary is. -/
def reqPair (s : State) (r : GReq) : Nat × Nat := (reqHome s r, (servingQuarter s r.pa).getD (reqHome s r))
/-- A unit issues a request to the home half: one to a fenced quarter is lost input of its run (R381), one to a quarter in headland or reset
returns retry-later (R464), and one whose route has a link down waits for its pair's new route (R269). -/
def sendReq (r : GReq) (s : State) : State :=
  if fencedAddr s r.pa && r.stage.isSome then
    match r.stage.bind (launchOfStage s) with | some l => failRun l 0x02 1 s | none => s
  else if retryAddr s r.pa then
    bump 0x00D0_0218 1 { s with pel := { s.pel with retries := s.pel.retries ++ [{ r with retry := some (now s) }] } }
  else if pairWaits s (reqPair s r).1 (reqPair s r).2 then { s with pel := { s.pel with retries := s.pel.retries ++ [{ r with retry := none }] } }
  else
    let h := homeHalf s r.pa
    let hf := s.half h
    s.setHalf h { hf with reqs := hf.reqs ++ [r] }
/-- Requests in flight for the sectors of a half: waiting, in a fill, admitted as reductions, or returned retry-later. -/
def inFlight (s : State) (h : Nat) : List GReq :=
  let hf := s.half h
  hf.reqs ++ (hf.fills.map (fun f => f.waiters)).flatten ++ hf.reds.map (fun r => r.req) ++ s.pel.retries
/-- Lanes of an outstanding memory instruction of a sheaf: lane, physical address, bytes. -/
def lanesOut (f : Sheaf) (id : Nat) : List (Nat × Nat × Nat) :=
  match tfind f.loads id with
  | some x => x.lanes.map (fun y => (y.lane, y.addr, 2 ^ x.size))
  | none => tget [] f.memLanes id
/-- A request in flight of a sheaf's instruction before `id` touches bytes of one of its lanes in a sector: that access comes first (R122). -/
def laneFirst (s : State) (n sl id pa : Nat) (lanes : List (Nat × Nat × Nat)) : Bool :=
  let f := s.sheaf n sl
  let hit (k : Nat) : Bool := decide (k < id) && (lanesOut f k).any (fun a => a.2.1 / 64 == pa / 64 &&
    lanes.any (fun b => a.1 == b.1 && overlaps a.2.1 a.2.2 b.2.1 b.2.2))
  (inFlight s (homeHalf s pa)).any (fun r => r.pa / 64 == pa / 64 &&
    (match r.req with | .load m x k => m == n && x == sl && hit k | .store m x k => m == n && x == sl && hit k | _ => false))
/-- An earlier access of a lane of a request comes first (R122). -/
def orderHeld (s : State) (r : GReq) : Bool :=
  match r.req with
  | .load n sl id => laneFirst s n sl id r.pa (lanesOut (s.sheaf n sl) id)
  | .store n sl id => laneFirst s n sl id r.pa (lanesOut (s.sheaf n sl) id)
  | _ => false
/-- Issue several requests. -/
def sendReqs (l : List GReq) (s : State) : State := l.foldl (fun a r => sendReq r a) s
/-- Master code of a core's access (Table 10-5). -/
def coreMaster (s : State) (n pa : Nat) : Nat := if servingQuarter s pa = some (n / 64) then 0 else 1
/-- The launches that have a core in their placement, and have not been decided. -/
def launchesOn (s : State) (p : Nat → Bool) : List Nat := (s.pel.runs.filter (fun e => e.2.cores.any p)).map Prod.fst
/-- Abandon every run whose placement holds a core that a condition names. -/
def abandonOn (p : Nat → Bool) (s : State) : State := (launchesOn s p).foldl (fun a l => abandonRun l true a) s

/-! ## The reset and the fence of a core (15 R429, 17 R459, R460; 02 R72) -/

/-- What a core holds when its reset steps begin: nothing but its rail, its pace table, its start counts, its place in the ring, the stamps of
its last tests and the rounding stream's position, which is never rewound (R191). -/
def coreFresh (c : Core) : Core :=
  { Core.dflt with fenced := c.fenced, fallow := c.fallow, therm := c.therm, ringMember := c.ringMember
                   sheaves := (c.sheaves.map (fun e => (e.1, { Sheaf.dflt with gen := e.2.gen }))).filter (fun e => e.2 != Sheaf.dflt)
                   arr := { Array2.dflt with testing := true, lastPass := c.arr.lastPass, lastTest := c.arr.lastTest }
                   seed := { Seedbox.dflt with roundBits := c.seed.roundBits } }
/-- Clear every written and poisoned bit of a core's tilth. -/
def clearTilth (n : Nat) (s : State) : State :=
  { s with mem := { s.mem with tilth := stClear 8 s.mem.tilth (tilAt n 0) 0x20_0000 } }
/-- The flag waits of a core are discarded. -/
def dropCoreWaits (n : Nat) (s : State) : State := (List.range 4).foldl (dropWaits n (List.range 64)) s
/-- Stop a core at once: its runs are abandoned, its inbox bounces, its waits, requests and contents go, and its reset steps begin. -/
def resetCore (n : Nat) (s : State) : State :=
  let s1 := resetEndpoint (srcCore n) (abandonOn (fun m => m == n) s)
  let s2 := clearTilth n (dropCoreWaits n (dropReqs (reqOfCore n) s1))
  s2.setCore n (coreFresh (s2.core n))
/-- Reset a cluster: its four cores at once (R460). -/
def clusterReset (q k : Nat) (s : State) : State :=
  bump 0x00D0_0208 1 ((List.range 4).foldl (fun a i => if coreFitted a (64 * q + 4 * k + i) then resetCore (64 * q + 4 * k + i) a else a) s)
/-- A core reset; the second in one cluster within 10 ms resets the cluster (Table 17-2). In a quarter in headland or reset it is absorbed
(R467). -/
def coreReset (n : Nat) (s : State) : State :=
  if (s.quarter (n / 64)).st = 1 ∨ (s.quarter (n / 64)).st = 2 then s else
  let kc := n / 4
  let old := recent s (tget [] s.boot.coreResets kc) (10 * ms)
  let s1 := bump 0x00D0_0200 1 { s with boot := { s.boot with coreResets := tset [] s.boot.coreResets kc (if old.isEmpty then [now s] else []) } }
  if old.isEmpty then resetCore n s1 else clusterReset (n / 64) (kc % 16) s1
/-! ## Set points of cores (15 R421), fences (R72) -/

/-- The governing estimate of a core, in 1/16 °C; 70 °C before any reading. -/
def coreTemp (s : State) (n : Nat) : Int :=
  let t := (s.core n).therm
  if t.pace then t.tp else ((tget Region.dflt s.thm.regions n).est).getD (70 * 16)
/-- Array step rate of a table entry at a temperature, in 1/160000 of M steps/s (R14). -/
def rateAt (m : Nat) (t : Int) : Int := if t ≤ 70 * 16 then 160000 * m else m * (160000 - 15 * (t - 70 * 16))
/-- vpace of R421 in mV. -/
def vpace (s : State) (n : Nat) : Nat :=
  match (List.range 31).find? (fun i => decide ((160000 * 2200 : Int) ≤ rateAt (tget 0 (s.core n).therm.step i) (coreTemp s n))) with
  | some i => 600 + 10 * i
  | none => 900
/-- vset of R421 in mV for a core in F0 or F1; 0.60 V in F2, 0 in F3. -/
def coreVset (s : State) (n : Nat) : Nat :=
  let c := s.core n
  if c.fallow = 3 then 0 else if c.fallow = 2 then 600
  else max 600 (min (vpace s n - 10 * s.pwr.offset) (10 * c.therm.limit))
/-- Pelseso sets the domain of a core. -/
def setPoint (n : Nat) (s : State) : State :=
  let x := s.domain (n / 64) (n % 64)
  s.setDomain (n / 64) (n % 64) { x with vset := coreVset s n }
/-- Fence a core: it stays in F3, leaves the ring and takes role FENCED. -/
def fenceCore (n : Nat) (s : State) : State :=
  let s1 := resetCore n s
  let c := s1.core n
  let s2 := s1.setCore n { c with fenced := true, inService := false, fallow := 3, ringMember := false, arr := { c.arr with testing := false } }
  let e := s2.ep (srcCore n)
  let s3 := s2.setEp (srcCore n) { e with role := 3, epoch := nextEpoch s2.ctl.epochCtr }
  setPoint n { s3 with ctl := { s3.ctl with epochCtr := nextEpoch s2.ctl.epochCtr } }
/-- A core whose rounding key fails is treated as fenced: its runs are abandoned, it loses its contents, goes to F3, leaves the ring and takes
role FENCED; the failure alarms, and Pelseso retries (R196, R72). -/
def roundKeyFail (n : Nat) (s : State) : State :=
  let s1 := resetCore n (alarmW 0x0803 (srcCore n) [] s)
  let c := s1.core n
  let s2 := s1.setCore n { c with inService := false, fallow := 3, ringMember := false, arr := { c.arr with testing := false }
                                  seed := { c.seed with roundReq := none, roundFail := some (now s1) } }
  setPoint n (syncRoles [n] s2)
/-- A launch whose key fails on a core: the command completes with ENTROPY_FAIL. -/
def launchKeyFail (n l : Nat) (s : State) : State := failRun l 0x27 0 (alarmW 0x0803 (srcCore n) [] s)
/-- A core asks the security engine for a rounding key; while the entropy source fails its tests the request fails (R196). -/
def askRound (n : Nat) (s : State) : State :=
  let c := s.core n
  if s.sec.entropyFailed then roundKeyFail n s else s.setCore n { c with seed := { c.seed with roundReq := some (now s) } }
/-- Ring members of a quarter in logical order (R58). -/
def ringMembers (s : State) (q : Nat) : List Nat := (coreList s).filter (fun n => n / 64 == q && (s.core n).ringMember)
/-- The member after a value in a list, cyclically. -/
def nextIn (l : List Nat) (n : Nat) : Option Nat :=
  match l.dropWhile (fun m => m != n) with | _ :: m :: _ => some m | [_] => l.head? | _ => none
/-- The successor of a core on its ring in a direction (Table 2-4 DIR). -/
def successor (s : State) (n : Nat) (dir : Bool) : Option Nat :=
  let l := ringMembers s (n / 64)
  nextIn (if dir then l.reverse else l) n

end Sys2Proof.Machine
end

