-- ==== Sys2Proof/Machine/Codes.lean ====
section
/-! DEFINITION. The storage codes: encoders and decoders, a read being the stored word with the wrong bits of an operand (log 19), and the error
records (11 R316 to R321, R324 to R327, R335, R336). -/
namespace Sys2Proof.Machine

/-! ## GF(2^9) and the granary word code (R317, R318) -/

/-- Product by α under x^9 + x^4 + 1. -/
def gf9Next (a : Nat) : Nat := if a < 256 then 2 * a else (2 * a) ^^^ 0x211
/-- Powers of α from a value, n of them. -/
def gf9Powers : Nat → Nat → List Nat
  | 0, _ => []
  | n + 1, a => a :: gf9Powers n (gf9Next a)
/-- Product in GF(2^9). -/
def gf9Mul : Nat → Nat → Nat → Nat
  | 0, _, _ => 0
  | n + 1, a, b => (if b % 2 = 1 then a else 0) ^^^ gf9Mul n (gf9Next a) (b / 2)
/-- Cube in GF(2^9). -/
def gf9Cube (a : Nat) : Nat := gf9Mul 9 a (gf9Mul 9 a a)
/-- Generator polynomial: the product of the minimal polynomials x^9 + x^4 + 1 of α and x^9 + x^6 + x^4 + x^3 + 1 of α³. -/
def bchGen : Nat := 0x4_95C9
/-- Remainder by a polynomial of a degree, for n coefficients above it. -/
def polyMod (g deg : Nat) : Nat → Nat → Nat
  | 0, a => a
  | n + 1, a => polyMod g deg n (if a.testBit (deg + n) then a ^^^ (g * 2 ^ n) else a)
/-- The address bit A of a word's location: the exclusive-or of its half, way, set and word-in-line bits. -/
def addrBit (h way set word : Nat) : Nat := (setBits 3 h ++ setBits 4 way ++ setBits 19 set ++ setBits 3 word).length % 2
/-- The 276 stored bits of 256 data bits and A, in the order of the operand (log 19): d0 to d255, A, r0 to r17, P. -/
def bchStored (d a : Nat) : Nat :=
  let w := d + 2 ^ 256 * a
  let v := w + 2 ^ 257 * polyMod bchGen 18 257 (w * 2 ^ 18)
  v + 2 ^ 275 * ((setBits 275 v).length % 2)
/-- Exponent of x of a stored bit: d0 to d255, A and r0 to r17 in the order of the operand. -/
def bchExp (i : Nat) : Nat := if i ≤ 256 then 18 + i else i - 257
/-- Stored bit of an exponent of x. -/
def bchBit (e : Nat) : Nat := if 18 ≤ e then e - 18 else e + 257
/-- Outcome of a decoder: bits or symbols corrected and the data delivered (for the symbol code, the wrong bits that stay in it), or uncorrectable. -/
inductive Decoded where
  | ok (corrected : Nat) (data : Nat)
  | bad
  deriving DecidableEq, Repr
/-- Syndromes S1 and S3 of the bits read. -/
def bchSyn (rec : Nat) : Nat × Nat :=
  let pw := gf9Powers 511 1
  (setBits 275 rec).foldl (fun s i =>
    let x := pw.getD (bchExp i) 0
    (s.1 ^^^ x, s.2 ^^^ gf9Cube x)) (0, 0)
/-- Exponents below 275 with their powers. -/
def bchPlaces : List (Nat × Nat) := (List.range 275).zip (gf9Powers 275 1)
/-- The pair of places whose powers explain the syndromes. -/
def bchPair (s1 s3 : Nat) : Option (Nat × Nat) :=
  let l := bchPlaces
  match l.find? (fun e => let y := s1 ^^^ e.2
      (gf9Cube e.2 ^^^ gf9Cube y) == s3 && l.any (fun g => decide (e.1 < g.1) && g.2 == y)) with
  | some e => (l.find? (fun g => g.2 == (s1 ^^^ e.2))).map (fun g => (e.1, g.1))
  | none => none
/-- The bits that the decoder flips; none when it finds the word uncorrectable. -/
def bchFlip (rec : Nat) : Option (List Nat) :=
  let odd := (setBits 276 rec).length % 2 = 1
  let (s1, s3) := bchSyn rec
  let one := bchPlaces.find? (fun e => e.2 == s1 && gf9Cube e.2 == s3)
  if s1 = 0 ∧ s3 = 0 then (if odd then some [275] else some [])
  else match one with
    | some e => some (if odd then [bchBit e.1] else [bchBit e.1, 275])
    | none => if odd then none else (bchPair s1 s3).map (fun p => [bchBit p.1, bchBit p.2])
/-- A granary word's outcome for the 276 bits read at a location of address bit a. -/
def bchDecode (a rec : Nat) : Decoded :=
  match bchFlip rec with
  | none => .bad
  | some l =>
    let w := l.foldl (fun x i => x ^^^ 2 ^ i) rec
    if w.testBit 256 = decide (a = 1) then .ok l.length (w % 2 ^ 256) else .bad
/-- Read a word of 256 data bits at a location of address bit a, with the wrong bits of err. -/
def bchRead (d a err : Nat) : Decoded := if err = 0 then .ok 0 d else bchDecode a (bchStored d a ^^^ err)

/-! ## The (72,64) code (R319) -/

/-- Eight-bit vectors of weight 3, ascending, then the eight further columns. -/
def secdedCols : List Nat :=
  (List.range 256).filter (fun v => (setBits 8 v).length == 3) ++ [0x1F, 0x2F, 0x37, 0x3B, 0x3D, 0x3E, 0x4F, 0x57]
/-- The columns of the 72 stored bits: check bit j, stored as bit 64 + j, has the vector 2^j. -/
def secdedAll : List Nat := secdedCols ++ (List.range 8).map (fun j => 2 ^ j)
/-- The syndrome of the 72 bits read. -/
def secdedSyn (rec : Nat) : Nat := (setBits 72 rec).foldl (fun a i => a ^^^ secdedAll.getD i 0) 0
/-- The 72 stored bits of 64 data bits: data bits 63:0, check bits 71:64. -/
def secdedStored (d : Nat) : Nat := d + 2 ^ 64 * secdedSyn d
/-- Outcome for the 72 bits read. -/
def secdedDecode (rec : Nat) : Decoded :=
  if rec = 0 then .ok 0 0
  else
    if secdedSyn rec = 0 then .ok 0 (rec % 2 ^ 64)
    else match secdedAll.findIdx? (fun v => v == secdedSyn rec) with
      | some i => .ok 1 ((rec ^^^ 2 ^ i) % 2 ^ 64)
      | none => .bad
/-- Read a word of 64 data bits with the wrong bits of err. -/
def secdedRead (d err : Nat) : Decoded := if err = 0 then .ok 0 d else secdedDecode (secdedStored d ^^^ err)

/-! ## Sheaf slot state: the (39,32) code (Table 11-1) -/

/-- The columns of the 39 stored bits: the first 32 vectors of weight 3 of 7 bits, ascending, then check bit j, stored as bit 32 + j. -/
def slotCols : List Nat :=
  ((List.range 128).filter (fun v => (setBits 7 v).length == 3)).take 32 ++ (List.range 7).map (fun j => 2 ^ j)
/-- Whether a pattern of wrong bits of an entry shows (some) and is corrected (true): the code is linear. -/
def slotFound (err : Nat) : Option Bool :=
  let syn := (setBits 39 err).foldl (fun a i => a ^^^ slotCols.getD i 0) 0
  if syn = 0 then none else some (slotCols.contains syn)

/-! ## State bits in three copies (R321) -/

/-- Rewrites of minority copies for the wrong copies of a word's W (2:0) and PSN (5:3). -/
def stateFixes (p : Nat) : Nat := (if bits p 2 0 = 0 then 0 else 1) + (if bits p 5 3 = 0 then 0 else 1)
/-- At most one copy of each bit is wrong, so that the majority stands (log 19). -/
def oneCopy (p : Nat) : Bool := decide ((setBits 3 (bits p 2 0)).length ≤ 1) && decide ((setBits 3 (bits p 5 3)).length ≤ 1)

/-! ## Cyclic redundancy checks -/

/-- One byte of a reflected CRC with a polynomial. -/
def crcByte (poly : Nat) : Nat → Nat → Nat
  | 0, c => c
  | n + 1, c => crcByte poly n (if c % 2 = 1 then (c / 2) ^^^ poly else c / 2)
/-- A reflected 32-bit CRC of bytes: initial value and final exclusive-or all ones. -/
def crc32 (poly : Nat) (b : List Byte) : Nat :=
  (b.foldl (fun c x => crcByte poly 8 (c ^^^ x.toNat)) 0xFFFF_FFFF) ^^^ 0xFFFF_FFFF
/-- CRC-32C (Castagnoli). -/
def crc32c (b : List Byte) : Nat := crc32 0x82F6_3B78 b

/-! ## Error records (R335, R336) -/

/-- A corrected location: whether it is the first correction of this pass, and the history after it. -/
def Hist.note (h : Hist) (word : Nat) : Bool × Nat × Hist :=
  match tfind h.locs word with
  | some (p, k) =>
    if p = h.pass then (false, k, h)
    else let k2 := if p + 1 = h.pass then k + 1 else 1; (true, k2, { h with locs := tput h.locs word (h.pass, k2) })
  | none => (true, 1, { h with locs := tput h.locs word (h.pass, 1) })
/-- What a corrected error reports: the counter, one record a location and pass, and the alarm of the third consecutive pass. -/
def reportCe (ctr store src finder bits_ addr loc : Nat) (fresh : Bool) (run : Nat) (s : State) : State :=
  let s1 := bump ctr 1 s
  if !fresh then s1
  else
    let s2 := errRec 1 store src finder bits_ addr loc s1
    if run = 3 then alarmW 0x0602 src [addr, loc] s2 else s2
/-- What the rewriting of minority copies of a word's state bits reports: the counter of the block, and one record a location and pass. -/
def reportState (ctr store src finder addr loc n : Nat) (fresh : Bool) (s : State) : State :=
  let s1 := bump ctr n s
  if fresh then errRec 4 store src finder n addr loc s1 else s1
/-- What an uncorrectable error reports. -/
def reportUe (ctr store src finder addr loc : Nat) (s : State) : State :=
  alarmW 0x0601 src [addr, loc] (errRec 2 store src finder 0xFF addr loc (bump ctr 1 s))

/-! ## Reading a scratch word through its code (11 R324 to R326) -/

/-- Physical address of a tilth offset (R17). -/
def tilPa (n off : Nat) : Nat := 0x0110_0000_0000 + 0x40_0000 * n + off
/-- An uncorrectable scratch word: poisoned and reported; the fourth within an hour fences the core (R326). -/
def tilUe (n off finder : Nat) (s : State) : State :=
  let s1 := tilWrite n off (List.replicate 8 0) true s
  let c := s1.core n
  let l := recent s c.ueHour hour ++ [now s]
  let s2 := reportUe (eccBlk (n / 64) + 0x128) 3 (srcCore n) finder (tilPa n off) off (s1.setCore n { c with ueHour := l })
  if 4 ≤ l.length then fenceCore n s2 else s2
/-- A corrected scratch word that a demand read met waits in the core's repair queue of 64 entries (R324). -/
def tilRepair (n off : Nat) (s : State) : State :=
  let c := s.core n
  if c.repair.contains off then s
  else if c.repair.length < 64 then s.setCore n { c with repair := c.repair ++ [off] }
  else bump (eccBlk (n / 64) + 0x140) 1 s
/-- A written, unpoisoned scratch word is read: by the walker, which rewrites it corrected (finder 1), or by a demand access (finder 0). -/
def readTilth (n word finder err : Nat) (s : State) : State :=
  let off := 8 * (word % 0x4_0000)
  let old := leNat (mread s.mem.tilth.bytes (8 * word) 8)
  match secdedRead old err with
  | .bad => tilUe n off finder s
  | .ok k d =>
    let st := s.mem.tilth
    let s1 := if d = old then s else { s with mem := { s.mem with tilth := { st with bytes := mwrite st.bytes (8 * word) (natLE 8 d) } } }
    if k = 0 then s1
    else
      let c := s1.core n
      let (fresh, run, hist) := c.hist.note off
      let s2 := reportCe (eccBlk (n / 64) + 0x120) 3 (srcCore n) finder k (tilPa n off) off fresh run (s1.setCore n { c with hist := hist })
      if finder = 0 then tilRepair n off s2 else s2
/-- A read of a scratch word finds copies of its state bits in the minority (R321). -/
def tilState (word finder fixes : Nat) (s : State) : State :=
  if fixes = 0 then s
  else
    let n := word / 0x4_0000
    let off := 8 * (word % 0x4_0000)
    let c := s.core n
    let (fresh, _, hist) := c.hist.note (2 ^ 32 + off)
    reportState (eccBlk (n / 64) + 0x138) 3 (srcCore n) finder (tilPa n off) off fixes fresh (s.setCore n { c with hist := hist })
/-- A demand read of a scratch word by its number, with the wrong bits of err: the word 71:0, copies of its state bits 77:72. A word never written,
and a poisoned one, shows no error of its code (R322, R325). -/
def demandTilth (word err : Nat) (s : State) : State :=
  let s1 := tilState word 0 (stateFixes (bits err 77 72)) s
  if s.mem.tilth.wr.contains word && !s.mem.tilth.psn.contains word then readTilth (word / 0x4_0000) word 0 (bits err 71 0) s1 else s1

/-- A demand read of a hub SRAM word, with the wrong bits of err: the word 71:0, copies of its state bits 77:72 (R321, R325, R336). The hub's counters
lie in its own block; it has no walker, so that every correction writes its record (log 19). -/
def demandHub (word err : Nat) (s : State) : State :=
  let pa := 0x0120_0000_0000 + 8 * word
  let fixes := stateFixes (bits err 77 72)
  let s0 := if fixes = 0 then s else reportState 0x0084_0138 7 6 0 pa (8 * word) fixes true s
  let st := s0.mem.hub
  if st.wr.contains word && !st.psn.contains word then
    let old := leNat (mread st.bytes (8 * word) 8)
    match secdedRead old (bits err 71 0) with
    | .bad => reportUe 0x0084_0128 7 6 0 pa (8 * word) { s0 with mem := { s0.mem with hub := stWrite 8 st (8 * word) (List.replicate 8 0) true } }
    | .ok k d =>
      let s1 := if d = old then s0 else { s0 with mem := { s0.mem with hub := { st with bytes := mwrite st.bytes (8 * word) (natLE 8 d) } } }
      if k = 0 then s1 else reportCe 0x0084_0120 7 6 0 k pa (8 * word) true 1 s1
  else s0

/-! ## The tilth cache and the sheaf slots (R316, R320, R325) -/

/-- Tilth offset of byte b of a cached line: the ways of 64 KiB follow the scratchpad, each with its sets in order (log 19). -/
def cacheOff (c : Core) (x : TLine) (b : Nat) : Nat := padSize c + 0x1_0000 * x.way + 64 * x.set + b
/-- Word i of a cached line is read, by the walker (finder 1) or a demand access (finder 0): an uncorrectable one invalidates the line, whose good
copy lies in its home granary. -/
def readCached (n finder : Nat) (x : TLine) (i err : Nat) (s : State) : State :=
  let c := s.core n
  let pa := 64 * x.line + 8 * i
  let off := cacheOff c x (8 * i)
  let old := leNat (slice x.bytes (8 * i) 8)
  match secdedRead old err with
  | .bad =>
    reportUe (eccBlk (n / 64) + 0x128) 4 (srcCore n) finder pa off (s.setCore n { c with tcache := c.tcache.filter (fun y => y.line != x.line) })
  | .ok k d =>
    let rest := c.tcache.map (fun y => if y.line = x.line then { y with bytes := splice y.bytes (8 * i) (natLE 8 d) } else y)
    let s1 := if d = old then s else s.setCore n { c with tcache := rest }
    if k = 0 then s1
    else
      let c1 := s1.core n
      let (fresh, run, hist) := c1.hist.note off
      let s2 := reportCe (eccBlk (n / 64) + 0x120) 4 (srcCore n) finder k pa off fresh run (s1.setCore n { c1 with hist := hist })
      if finder = 0 then tilRepair n off s2 else s2
/-- An entry of a sheaf's slot state is read with wrong bits: one is corrected; an uncorrectable entry resets the core as R69 does (R320). -/
def slotEntry (n err : Nat) (s : State) : State :=
  match slotFound err with
  | none => s
  | some true => errRec 1 9 (srcCore n) 0 1 0 0 s
  | some false => coreReset n (alarmW 0x0601 (srcCore n) [0, 0] (errRec 2 9 (srcCore n) 0 0xFF 0 0 s))

end Sys2Proof.Machine
end

