-- ==== Sys2Proof/Machine/Quarter.lean ====
section
/-! DEFINITION. Quarter faults and the fence of a quarter (17 R462, R463; 13 R379, R381). The steps that follow are in Machine/Resets.lean. -/
namespace Sys2Proof.Machine

/-- Change every core of a quarter. -/
def quarterCores (q : Nat) (f : Nat → State → State) (s : State) : State := (List.range 64).foldl (fun a c => f (64 * q + c) a) s
/-- A core of a quarter that enters headland: no stook remains, and it takes no work. -/
def closeCore (n : Nat) (s : State) : State := if coreFitted s n then s.setCore n { s.core n with inService := false, waiting := [] } else s
/-- A quarter fault: headland entry (R462, R463). The arrays of its cores are flushed first, and write no status (R48); then its runs are
abandoned. One in headland or reset restarts the sequence; a fenced quarter stays fenced. -/
def quarterFault (q : Nat) (stay : Bool) (s : State) : State :=
  let k := s.quarter q
  if k.st = 4 then s
  else
    let l := recent s k.faults hour ++ [now s]
    let noPath := tget 0 s.routes (5 * q + 4) == 3
    let keep := stay || decide (3 ≤ l.length) || noPath || (k.stay && decide (k.st = 1 ∨ k.st = 2))
    let s0 := quarterCores q flushCore (alarmW 0x0303 (srcQuarter q) [l.length] s)
    let s1 := quarterCores q closeCore (abandonOn (fun n => n / 64 == q) s0)
    s1.setQuarter q { s1.quarter q with st := 1, stamp := now s, headlandEnded := false, stay := keep, faults := l, step := 0, wave := 0 }
/-- A fenced quarter's core domains stay in F3. -/
def darkenCore (n : Nat) (s : State) : State :=
  let c := s.core n
  if coreFitted s n then s.setCore n { c with fallow := 3, inService := false } else s
/-- Lost input: the runs whose requests wait for a quarter that is fenced end (R381, R464). -/
def lostRetries (q : Nat) (s : State) : State :=
  let mine (r : GReq) : Bool := servingQuarter s r.pa == some q
  let gone := s.pel.retries.filter mine
  let s1 := { s with pel := { s.pel with retries := s.pel.retries.filter (fun r => !mine r) } }
  (gone.filterMap (fun r => r.stage)).foldl (fun a st => match launchOfStage a st with | some l => failRun l 0x02 1 a | none => a) s1
/-- A range of LPDDR has a line homed in a quarter. -/
def homedIn (s : State) (q base size : Nat) : Bool := (idxFrom (base / 256) (size / 256)).any (fun a => homeQuarter s (a * 256) == q)
/-- Admin commands that wait on a fenced quarter complete with INPUT_LOST (R365): the carve walks of its halves, and pins with lines homed there. -/
def lostWaits (q : Nat) (s : State) : State :=
  let walk (a : State) (h : Nat) : State :=
    match (a.half h).carve with
    | some c => endCmd c.qu c.seq 0x02 1 (a.setHalf h { a.half h with carve := none })
    | none => a
  let s1 := walk (walk s (2 * q)) (2 * q + 1)
  s1.pel.pins.foldl (fun (a : State) e =>
    match e.2.cmd with
    | some (qu, seq) =>
      if homedIn s1 q e.2.base e.2.size then
        endCmd qu seq 0x02 1 { a with pel := { a.pel with pins := tput a.pel.pins e.1 { e.2 with cmd := none } } }
      else a
    | none => a) s1
/-- Fence a quarter: it stays out of service until a module reset. -/
def fenceQuarter (q : Nat) (s : State) : State :=
  let k := s.quarter q
  if k.st = 4 then s
  else
    let s1 := abandonOn (fun n => n / 64 == q) s
    lostWaits q (lostRetries q (quarterCores q darkenCore (alarmW 0x0304 (srcQuarter q) [] (s1.setQuarter q { s1.quarter q with st := 4 }))))

/-! ## Key slots of accesses (18 R494) -/

/-- The slot of the line or plot that serves an address: a cached line's tag, else the recorded slot of its burst; a plot's slot. -/
def heldSlot (s : State) (pa : Nat) : Option Nat :=
  match place s pa with
  | .lpddr => (match findLine (s.half (homeHalf s pa)) (pa / 256) with | some l => some l.slot | none => some (burstSlot s pa))
  | .plot h off => (match plotAt (s.half h) off with | some (_, k) => k | none => none)
  | _ => none
/-- An access whose slot differs from that of the line or plot; a run's own shadow has its slot. -/
def mismatch (s : State) (stage : Option Nat) (slot pa : Nat) : Bool :=
  (match stage with | some st => (shadowSector s st pa).isNone | none => true) &&
  (match heldSlot s pa with | some k => k != slot | none => false)
/-- Count and log a mismatch (log code 0x8600). -/
def logMismatch (slot pa : Nat) (s : State) : State :=
  let held := (heldSlot s pa).getD 0
  bump 0x00E0_0108 1 (logRec 3 0 0x8600 (natLE 8 pa ++ natLE 1 slot ++ natLE 1 held ++ List.replicate 6 0) s)
/-- Bytes of one sector as an external reader with a slot receives them: a mismatch reads zero. -/
def slotSector (s : State) (slot pa k : Nat) : List Byte × Bool :=
  if mismatch s none slot pa then (List.replicate k 0, false) else cohRead s none pa k
/-- Bytes of a physical range as an external reader receives them, sector by sector. -/
def slotRead (s : State) (slot pa : Nat) : Nat → Nat → List Byte × Bool
  | 0, _ => ([], false)
  | f + 1, n =>
    if n = 0 then ([], false)
    else
      let k := min n (64 - pa % 64)
      let d := slotSector s slot pa k
      let r := slotRead s slot (pa + k) f (n - k)
      (d.1 ++ r.1, d.2 || r.2)

/-! ## Requests of the hub's engines (07 R222, R240) -/

/-- The sectors of a range: address within the sector range and bytes, sector by sector. -/
def sectorCuts : Nat → Nat → Nat → List (Nat × Nat)
  | 0, _, _ => []
  | f + 1, pa, n => if n = 0 then [] else let k := min n (64 - pa % 64); (pa, k) :: sectorCuts f (pa + k) (n - k)
/-- A granary serves an address. -/
def granaryServes (s : State) (pa : Nat) : Bool := match place s pa with | .lpddr => true | .plot _ _ => true | _ => false
/-- Master code of an external requester (Table 10-5). -/
def extMaster (req : Requester) : Nat := match req with | .os _ => 2 | .guest _ => 6 | .drill _ _ _ => 4 | .roce _ _ => 4 | _ => 3
/-- EXTERNAL requests of one sector each; those that no granary serves are left out. -/
def extReads (s : State) (req : Requester) (slot pa n : Nat) : List GReq :=
  ((sectorCuts (n / 64 + 2) pa n).filter (fun c => granaryServes s c.1)).map (fun c =>
    { pa := c.1 / 64 * 64, op := .read, req := req, cls := 3, master := extMaster req, slot := slot, stage := none, retry := none })
/-- EXTERNAL writes of a range. -/
def extWrites (s : State) (req : Requester) (slot pa : Nat) (b : List Byte) (psn : Bool) : List GReq :=
  ((sectorCuts (b.length / 64 + 2) pa b.length).filter (fun c => granaryServes s c.1)).map (fun c =>
    let d := (b.drop (c.1 - pa)).take c.2
    { pa := c.1 / 64 * 64, op := .write ((d.zip (List.range d.length)).map (fun e => (c.1 % 64 + e.2, e.1))) psn, req := req, cls := 3
      master := extMaster req, slot := slot, stage := none, retry := none })
/-- The accesses that a hub engine makes in one step to the sectors of a range (R240, log 21). -/
def noteRange (master pa n : Nat) (s : State) : State := noteSectors 3 master ((sectorCuts (n / 64 + 2) pa n).map Prod.fst) s
/-- The part of a write that reaches hub SRAM lands at once. -/
def hubWrite (pa : Nat) (b : List Byte) (psn : Bool) (s : State) : State :=
  match place s pa with | .hub _ => cohWrite s none 0 0 pa b psn | _ => s

end Sys2Proof.Machine
end

