-- ==== Sys2Proof/Machine/Wire.lean ====
section
/-! DEFINITION. What the port engines send: drill frames and notices, RoCE SENDs (14 R394, R398 to R402; 18 R496). -/
namespace Sys2Proof.Machine

/-- Offset of the fabric engines' block, and of a port's. -/
def fabBlk : Nat := 0x00A0_0000
/-- A port's block. -/
def portBlk (p : Nat) : Nat := 0x00A1_0000 + 0x1000 * p
/-- Fabric ports that are up, ascending. -/
def portsUp (s : State) : List Nat := (List.range 8).filter (fun p => (s.port p).st == 1)
/-- The port on which a flow's frames leave (R401). -/
def flowPort (s : State) (conn flow : Nat) : Option Nat :=
  let l := portsUp s
  if l.isEmpty then none else l[(conn + flow) % l.length]?
/-- An engine sends a frame: it is counted on its port, and observed. -/
def emit (kind conn : Nat) (b : List Byte) (port : Option Nat) (s : State) : State :=
  match port with
  | some p => bump (portBlk p + 0x108) 1 { s with fab := { s.fab with out := { kind := kind, conn := conn, bytes := b } :: s.fab.out } }
  | none => s
/-- A connection. -/
def connOf (s : State) (n : Nat) : Option Conn := tfind s.fab.conns n
/-- Replace a connection. -/
def putConn (n : Nat) (c : Conn) (s : State) : State := { s with fab := { s.fab with conns := tput s.fab.conns n c } }
/-- A flow of a connection. -/
def Conn.flow (c : Conn) (f : Nat) : Flow := tget Flow.dflt c.flowTab f
/-- Replace a flow. -/
def Conn.setFlow (c : Conn) (f : Nat) (x : Flow) : Conn := { c with flowTab := tset Flow.dflt c.flowTab f x }
/-- The 48-byte header (Table 14-5). -/
def drillHead (ver typ flow : Nat) (poison : Bool) (reason conn ctr seq ack addr len : Nat) : List Byte :=
  natLE 1 ver ++ natLE 1 typ ++ natLE 1 (flow % 64 + (if poison then 64 else 0)) ++ natLE 1 reason ++ natLE 4 conn ++ natLE 8 ctr ++
  natLE 8 seq ++ natLE 8 ack ++ natLE 8 addr ++ natLE 2 len ++ natLE 6 0
/-- The nonce of a frame: CTR in bits 63:0 and the receiver's CONN in bits 95:64, little-endian (R394). -/
def drillNonce (conn ctr : Nat) : List Nat := nats (natLE 8 ctr ++ natLE 4 conn)
/-- A protected frame: header, ciphertext, tag. -/
def drillSeal (key : W256) (conn ctr : Nat) (head payload : List Byte) : List Byte :=
  let iv := drillNonce conn ctr
  let ct := gcmCrypt (keyBytes key) iv (nats payload)
  head ++ bytesOf ct ++ bytesOf (gcmTag (keyBytes key) iv (nats head) ct)
/-- Send one frame of a connection under its next counter value. -/
def sendFrame (n typ flow : Nat) (poison : Bool) (reason seq addr : Nat) (payload : List Byte) (s : State) : State :=
  match connOf s n with
  | none => s
  | some c =>
    let ctr := c.ctrOut.toNat
    let head := drillHead c.version typ flow poison reason c.peerConn.toNat ctr seq (c.flow flow).rxNext.toNat addr payload.length
    emit 1 n (drillSeal c.keyOut c.peerConn.toNat ctr head payload) (flowPort s n flow) (putConn n { c with ctrOut := c.ctrOut + 1 } s)
/-- A connection ends: every end other than a peer's CLOSE raises an alarm (R400). A reason of 0 sends nothing. -/
def endConn (n reason : Nat) (alarmed : Bool) (s : State) : State :=
  let s1 := if reason = 0 then s else sendFrame n 0x03 0 false reason 0 0 [] s
  let s2 := { s1 with fab := { s1.fab with conns := tdel s1.fab.conns n } }
  if alarmed then alarmW 0x0A04 0x0000 [n, reason] s2 else s2
/-- A connection whose CTR would reach 2^48 is closed with KEY_END (R394). -/
def keyEnd (n : Nat) (s : State) : State :=
  match connOf s n with
  | some c => if 2 ^ 48 - 1 ≤ c.ctrOut.toNat then endConn n 3 true s else s
  | none => s
/-- Send a frame, unless the connection's key has ended. -/
def sendOn (n typ flow : Nat) (poison : Bool) (reason seq addr : Nat) (payload : List Byte) (s : State) : State :=
  let t := keyEnd n s
  sendFrame n typ flow poison reason seq addr payload t
/-- Send a sequenced message on a flow; beyond 256 unacknowledged ones it waits its turn (R398). -/
def sendMsg (n flow typ : Nat) (poison : Bool) (payload : List Byte) (s : State) : State :=
  match connOf s n with
  | none => s
  | some c =>
    let f := c.flow flow
    let seq := f.txNext
    let fresh := f.unacked.isEmpty
    let f1 := { f with txNext := seq + 1, unacked := f.unacked ++ [(seq, typ + (if poison then 0x100 else 0), payload, false)]
                       interval := if fresh then 20 else f.interval, resends := if fresh then 0 else f.resends
                       since := if fresh then now s else f.since }
    let s1 := putConn n (c.setFlow flow f1) s
    if f.unacked.length < 256 then sendOn n typ flow poison 0 seq.toNat 0 payload s1 else s1
/-- The payload of a notice (R399). -/
def notifyBytes (kind qu seq : Nat) (rec : List Byte) : List Byte := natLE 1 kind ++ natLE 3 0 ++ natLE 3 (qu % 2 ^ 20) ++ natLE 1 0 ++ natLE 8 seq ++ rec
/-- A queue pair. -/
def State.qp (s : State) (i : Nat) : Qp := tget Qp.dflt s.fab.qps i
/-- Replace a queue pair. -/
def State.setQp (s : State) (i : Nat) (x : Qp) : State := { s with fab := { s.fab with qps := tset Qp.dflt s.fab.qps i x } }
/-- Field of a queue-pair entry. -/
def qpFld (s : State) (i off n : Nat) : Nat := leNat (mread s.fab.qpTab (64 * i + off) n)
/-- The port of a RoCE frame: the lowest that is up. -/
def rocePort (s : State) : Option Nat := (portsUp s).head?
/-- Send a SEND of a queue pair (kind 2: PSN and payload). -/
def roceSendMsg (i : Nat) (payload : List Byte) (s : State) : State :=
  let x := s.qp i
  let y := { x with sendPsn := x.sendPsn + 1, sends := x.sends ++ [(x.sendPsn, payload)], timer := if x.sends.isEmpty then some (now s) else x.timer }
  emit 2 i (natLE 3 x.sendPsn.toNat ++ payload) (rocePort s) (s.setQp i y)
/-- Queue pairs that send notices of a mailbox. -/
def qpsOf (s : State) (mb : Nat) : List Nat :=
  (s.fab.qps.filter (fun e => e.2.st == 1 && bit (qpFld s e.1 0 1) 2 && qpFld s e.1 1 1 % 32 == mb)).map Prod.fst
/-- Live drill connections of a mailbox under version 2. -/
def connsOf (s : State) (mb : Nat) : List Nat :=
  (s.fab.conns.filter (fun e => e.2.mailbox == mb && e.2.pending.isNone && e.2.version == 2)).map Prod.fst
/-- Notices of an acknowledgment entry or completion record for a mailbox (R399, Table 14-6). -/
def notifyMb (mb kind qu seq : Nat) (rec : List Byte) (s : State) : State :=
  let b := notifyBytes kind qu seq rec
  let s1 := (connsOf s mb).foldl (fun a n => sendMsg n 0 0x30 false b a) s
  (qpsOf s mb).foldl (fun a i => roceSendMsg i b a) s1

end Sys2Proof.Machine
end

