-- ==== Sys2Proof/Machine/Mailbox.lean ====
section
/-! DEFINITION. The mailbox pairs and the queue engine: reads and writes of a mailbox block, doorbells and acceptance (12 R337 to R346). -/
namespace Sys2Proof.Machine

/-! ## Doorbells (R343, R344, R346) -/

/-- A drill connection that is bound to a mailbox pair (R397). -/
def mbBound (s : State) (mb : Nat) : Bool := s.fab.conns.any (fun e => e.2.mailbox == mb)
/-- Accepted commands of a queue not yet completed. -/
def queueCmds (s : State) (qu : Nat) : List Cmd := s.pel.cmds.filter (fun x => x.queue == qu)
/-- A queue that must stay in the descriptor cache. -/
def mustStay (s : State) (qu : Nat) : Bool :=
  !(queueCmds s qu).isEmpty || (match s.queue? qu with | some k => k.delCmd.isSome | none => false)
/-- Bring a queue into the descriptor cache, replacing the least recently used entry that may leave; false when none may. -/
def cacheQueue (qu : Nat) (s : State) : Bool × State :=
  let l := s.pel.cache
  if l.contains qu then (true, { s with pel := { s.pel with cache := qu :: l.filter (fun x => x != qu) } })
  else if l.length < 16384 then (true, { s with pel := { s.pel with cache := qu :: l } })
  else match l.reverse.find? (fun x => !mustStay s x) with
    | some v => (true, { s with pel := { s.pel with cache := qu :: l.filter (fun x => x != v) } })
    | none => (false, s)
/-- A fresh read of CONSUMED: a value below the previous one or above POSTED is ignored and logged (R354). -/
def freshConsumed (qu : Nat) (k : Queue) (s : State) : State :=
  if qu < 32 then s
  else
    let v := BitVec.ofNat 64 (leNat (cohRead s none k.cqAddr 8).1)
    let s1 := noteRange 3 k.cqAddr 8 s
    if k.consumed ≤ v ∧ v ≤ k.posted then s1.setQueue qu { k with consumed := v } else logIgnored k.cqAddr v.toNat s1
/-- The engine reads CONSUMED afresh before it answers QUEUE_FULL. -/
def rereadConsumed (qu : Nat) (s : State) : State :=
  match s.queue? qu with
  | some k => freshConsumed qu k s
  | none => s
/-- Commands of a queue whose records the submitter has not consumed. -/
def unconsumed (s : State) (qu : Nat) (k : Queue) : Nat :=
  if qu < 32 then (k.nextSeq - k.posted).toNat + ((s.mb qu).cplTail - (s.mb qu).cplHead).toNat
  else (k.nextSeq - k.consumed).toNat
/-- Depth of a queue. -/
def queueDepth (qu : Nat) (k : Queue) : Nat := if qu < 32 then 64 else 2 ^ k.depthLog2
/-- The result of a doorbell by Table 12-4, after the queue's descriptor was brought in (`cached`), by the engine's copy of CONSUMED. -/
def doorbellResult (s : State) (mb : Nat) (v : Nat) (cached : Bool) : Nat :=
  let qu := bits v 19 0
  let slot := bits v 25 20
  let count := bits v 32 26
  if bits v 63 33 ≠ 0 ∨ count = 0 ∨ 64 < slot + count then 0x01
  else if (s.mb mb).st ≠ 1 ∧ qu ≠ mb then 0x02
  else match s.queue? qu with
    | none => 0x03
    | some k =>
      if (qu < 32 ∧ qu ≠ mb) ∨ (32 ≤ qu ∧ k.mbMask.getLsbD mb = false) then 0x04
      else if k.st = 1 ∨ k.st = 3 ∨ s.boot.draining.isSome then 0x05
      else if k.st = 2 then 0x06
      else if queueDepth qu k < unconsumed s qu k + count then 0x07
      else if !cached then 0x09
      else if 131072 - s.pel.cmds.length < count then 0x08
      else 0x00
/-- Copy the offered descriptors into the store with consecutive sequence numbers. -/
def acceptCmds (mb qu : Nat) : List (List Byte) → State → State
  | [], s => s
  | d :: t, s =>
    match s.queue? qu with
    | none => s
    | some k =>
      let m := s.mb mb
      let c : Cmd := { queue := qu, seq := k.nextSeq.toNat, desc := d, bad := (false, false), verMajor := m.verMajor, verMinor := m.verMinor
                       mailbox := mb, order := s.pel.order, st := .accepted, first := none, start := none, runs := 0, abandons := 0
                       status := 0, detail := 0, waitFlags := false, launch := 0, readAt := none, retry := none, quarters := 0 }
      let s1 := bump 0x0090_0100 1 (s.setQueue qu { k with nextSeq := k.nextSeq + 1 })
      acceptCmds mb qu t { s1 with pel := { s1.pel with cmds := s1.pel.cmds ++ [c], order := s1.pel.order + 1 } }
/-- An acknowledgment entry (Table 12-3). -/
def ackEntry (seq qu count result slot : Nat) : List Byte :=
  natLE 8 seq ++ natLE 4 (qu + 2 ^ 20 * count) ++ natLE 1 result ++ natLE 1 slot ++ natLE 2 0
/-- Write an acknowledgment entry, then advance ACK_TAIL (R340), and send its notices. -/
def postAck (mb qu fseq : Nat) (e : List Byte) (s : State) : State :=
  let m := s.mb mb
  let s1 := s.setMb mb { m with ack := mwrite m.ack (16 * (m.ackTail.toNat % 128)) e, ackTail := m.ackTail + 1 }
  notifyMb mb 1 qu fseq e s1
/-- A queue's arbiter of 33 inputs grants one: a mailbox, or 32 for the command that pauses or deletes the queue (R33, R34). -/
def grantQueue (qu i : Nat) (s : State) : State :=
  match s.queue? qu with
  | some k => s.setQueue qu { k with ptr := pastGrant 33 i }
  | none => s
/-- A doorbell write reaches the queue engine; `fseq` is its FLOW_SEQ or PSN, 0 for an OS core's. -/
def doorbell (mb fseq : Nat) (v : W64) (s : State) : State :=
  let m := s.mb mb
  if (m.ackTail - m.ackHead).toNat = 128 then s.setMb mb { m with dropped := m.dropped + 1 }
  else
    let qu := bits v.toNat 19 0
    let (cached, s0) := match s.queue? qu with
      | some _ => cacheQueue qu s
      | none => (true, s)
    let s1 := if doorbellResult s0 mb v.toNat cached = 0x07 then rereadConsumed qu s0 else s0
    let res := doorbellResult s1 mb v.toNat cached
    let slot := bits v.toNat 25 20
    let count := bits v.toNat 32 26
    let seq := match s1.queue? qu with | some k => k.nextSeq.toNat | none => 0
    let ds := (List.range count).map (fun i => mread m.req (64 * (slot + i)) 64)
    let s2 := if res = 0 then acceptCmds mb qu ds s1 else s1
    postAck mb qu fseq (ackEntry (if res = 0 then seq else 0) qu (if res = 0 then count else 0) res slot) (grantQueue qu mb s2)
/-- The module answers its OS cores: Pelseso, the queue engine and the tally are in service (R474). -/
def inService (s : State) : Bool := decide (s.boot.step = 6) && !s.boot.lost
/-- Address of a mailbox block's byte. -/
def mbAddr (mb off : Nat) : Nat := ctrlBase + 0x4000 * mb + off
/-- The copies of the first command accepted since `order` that become uncorrectable in the accepted-command store (R364, log 28). -/
def spoilCopies (order : Nat) (a b : Bool) (s : State) : State :=
  if a || b then { s with pel := { s.pel with cmds := s.pel.cmds.map (fun x => if x.order = order then { x with bad := (a, b) } else x) } } else s
/-- MB_DOORBELL (R344): an OS core's write; while a drill connection holds the pair, it is discarded and logged (R397). Bits 64 and 65 of the operand
say which copy of the first accepted descriptor the store will read uncorrectable (log 28). -/
def execMbDoorbell (mb : Nat) (v : BitVec 66) (s : State) : Out :=
  evt (inService s && decide (mb < 32)) s
    (if mbBound s mb then logStray 0 (mbAddr mb 0x2008) 8 true s
     else spoilCopies s.pel.order (v.getLsbD 64) (v.getLsbD 65) (doorbell mb 0 (v.setWidth 64) s))

/-! ## Head counts (R340) -/

/-- MB_ACK_HEAD takes a value that consumes no more than the entries written. -/
def ackHeadWrite (mb : Nat) (v : Nat) (s : State) : State :=
  let m := s.mb mb
  let h := BitVec.ofNat 8 v
  if (h - m.ackHead).toNat ≤ (m.ackTail - m.ackHead).toNat then s.setMb mb { m with ackHead := h } else logIgnored (mbAddr mb 0x2004) v s
/-- MB_CPL_HEAD takes a value that consumes no more than the records posted. -/
def cplHeadWrite (mb : Nat) (v : Nat) (s : State) : State :=
  let m := s.mb mb
  let h := BitVec.ofNat 7 v
  if (h - m.cplHead).toNat ≤ (m.cplTail - m.cplHead).toNat then s.setMb mb { m with cplHead := h } else logIgnored (mbAddr mb 0x2010) v s
/-- MB_ACK_HEAD_WRITE (R340). -/
def execMbAckHeadWrite (mb : Nat) (v : BitVec 32) (s : State) : Out :=
  evt (inService s && decide (mb < 32)) s
    (if mbBound s mb then logStray 0 (mbAddr mb 0x2004) 4 true s else ackHeadWrite mb v.toNat s)
/-- MB_CPL_HEAD_WRITE (R340). -/
def execMbCplHeadWrite (mb : Nat) (v : BitVec 32) (s : State) : Out :=
  evt (inService s && decide (mb < 32)) s
    (if mbBound s mb then logStray 0 (mbAddr mb 0x2010) 4 true s else cplHeadWrite mb v.toNat s)

/-! ## Reads and writes of the block (R337 to R339) -/

/-- MB_STATE. -/
def mbState (m : Mailbox) : Nat :=
  m.st + 2 ^ 4 * m.verMinor + 2 ^ 8 * m.verMajor + 2 ^ 16 * m.cplTail.toNat + 2 ^ 24 * m.ackTail.toNat
/-- An access of a width that R338 allows. -/
def natural (off width : Nat) : Bool := (width == 1 || width == 2 || width == 4 || width == 8) && off % width == 0
/-- A register of Table 12-2: its value and width. -/
def mbReg (m : Mailbox) (off : Nat) : Option (Nat × Nat) :=
  match off with
  | 0x2000 => some (mbState m, 4)
  | 0x2004 => some (m.ackHead.toNat, 4)
  | 0x2008 => some (0, 8)
  | 0x2010 => some (m.cplHead.toNat, 4)
  | 0x2018 => some (m.dropped.toNat, 8)
  | 0x2020 => some (m.client.toNat, 4)
  | _ => none
/-- Read of a mailbox block: the value, and whether it is a stray access (R338, R10). -/
def mbRead (m : Mailbox) (off width : Nat) : Nat × Bool :=
  if off < 0x2000 then
    if natural off width then
      (leNat (if off < 0x1000 then mread m.req off width else if off < 0x1800 then mread m.cpl (off - 0x1000) width
              else mread m.ack (off - 0x1800) width), false)
    else (0, true)
  else match mbReg m off with
    | some (v, w) => if w = width then (v, false) else (0, true)
    | none => (0, true)
/-- Write of a mailbox block by its submitter. -/
def mbWrite (mb fseq off width : Nat) (v : Nat) (s : State) : State :=
  let m := s.mb mb
  let stray := logStray 0 (mbAddr mb off) width true s
  if off < 0x1000 then
    (if natural off width then s.setMb mb { m with req := mwrite m.req off (natLE width v) } else stray)
  else if off < 0x2000 then stray
  else match off, width with
    | 0x2004, 4 => ackHeadWrite mb v s
    | 0x2008, 8 => doorbell mb fseq (BitVec.ofNat 64 v) s
    | 0x2010, 4 => cplHeadWrite mb v s
    | 0x2000, 4 => s
    | 0x2018, 8 => s
    | 0x2020, 4 => s
    | _, _ => stray

end Sys2Proof.Machine
end

