-- ==== Sys2Proof/Machine/Drill.lean ====
section
/-! DEFINITION. Drill: connections, flows and their messages (14 R392 to R401; 18 R496, R497). Frames are the raw bytes of the transport's
payload: header, ciphertext and tag. -/
namespace Sys2Proof.Machine

/-! ## Applying messages (R396, R397) -/

/-- Length of a mailbox block's areas and registers (Table 12-1). -/
def mbAreas : Nat := 0x2028
/-- Read bytes of a mailbox block: its areas byte by byte, a register with one access. -/
def mbReadRange (m : Mailbox) (off len : Nat) : List Byte :=
  if off + len ≤ 0x2000 then (List.range len).map (fun i => BitVec.ofNat 8 (mbRead m (off + i) 1).1)
  else natLE len (mbRead m off len).1
/-- A WRITE to the block takes effect as an OS core's write of the same bytes would: request-area bytes land, a register takes one access. -/
def mbWriteRange (mb fseq off : Nat) (b : List Byte) (s : State) : State :=
  if off + b.length ≤ 0x1000 then let m := s.mb mb; s.setMb mb { m with req := mwrite m.req off b }
  else mbWrite mb fseq off b.length (leNat b) s
/-- Physical pieces of a virtual range, by 64 KiB pages; none when a page does not translate with the permission. -/
def physCuts (s : State) (g : Nat) (k : Acc2) : Nat → Nat → Nat → Option (List (Nat × Nat))
  | 0, _, _ => some []
  | f + 1, va, n =>
    if n = 0 then some []
    else match translate s g va k with
      | .error _ => none
      | .ok (pa, _) =>
        let step := min n (65536 - va % 65536)
        (physCuts s g k f (va + step) (n - step)).map (fun r => (pa, step) :: r)
/-- Bytes of physical pieces as an external reader receives them. -/
def cutsRead (s : State) (slot : Nat) : List (Nat × Nat) → List Byte × Bool
  | [] => ([], false)
  | (pa, n) :: t => let d := slotRead s slot pa (n / 64 + 2) n; let r := cutsRead s slot t; (d.1 ++ r.1, d.2 || r.2)
/-- Requests and hub writes of a write to physical pieces. -/
def cutsWrite (req : Requester) (slot : Nat) : List (Nat × Nat) → List Byte → State → List GReq × State
  | [], _, s => ([], s)
  | (pa, n) :: t, b, s =>
    let r := cutsWrite req slot t (b.drop n) (hubWrite pa (b.take n) false s)
    (extWrites s req slot pa (b.take n) false ++ r.1, r.2)
/-- The message of a flow whose turn it is. -/
def headMsg (f : Flow) : Option (W64 × Nat × W64 × List Byte × Nat) := f.held.find? (fun m => m.1 == f.rxNext)
/-- The current message has taken effect: the flow goes on, and an ACK says so. -/
def msgDone (n flow : Nat) (s : State) : State :=
  match connOf s n with
  | none => s
  | some c =>
    let f := c.flow flow
    let s1 := putConn n (c.setFlow flow { f with rxNext := f.rxNext + 1, await := 0, held := f.held.filter (fun m => m.1 != f.rxNext) }) s
    sendOn n 0x20 flow false 0 0 0 [] s1
/-- The message is not applied: NAK, and it counts as taken effect (R397). -/
def msgNak (n flow reason : Nat) (seq : W64) (s : State) : State := msgDone n flow (sendOn n 0x21 flow false reason seq.toNat 0 [] s)
/-- Answer a READ with its data, and go on. -/
def msgRead (n flow : Nat) (d : List Byte × Bool) (s : State) : State := msgDone n flow (sendMsg n flow 0x12 d.2 d.1 s)
/-- Begin the message of a flow's turn. -/
def msgBegin (n flow : Nat) (c : Conn) (m : W64 × Nat × W64 × List Byte × Nat) (s : State) : State :=
  let (seq, typ, addr, pay, len) := m
  if 8192 < len then msgNak n flow 5 seq s
  else if addr.getLsbD 63 then
    let off := addr.toNat % 2 ^ 14
    if mbAreas < off + len then msgNak n flow 5 seq s
    else if typ = 0x10 then msgDone n flow (mbWriteRange c.mailbox seq.toNat off pay s)
    else msgRead n flow (mbReadRange (s.mb c.mailbox) off len, false) s
  else match c.group with
    | none => msgNak n flow 4 seq s
    | some g =>
      match physCuts s g (if typ = 0x10 then .write else .read) (len / 65536 + 2) addr.toNat len with
      | none => msgNak n flow 4 seq s
      | some cuts =>
        let slot := groupSlot s g
        let req : Requester := .drill n flow seq
        let w := cutsWrite req slot cuts pay s
        let rs := if typ = 0x10 then w.1 else (cuts.map (fun x => extReads s req slot x.1 x.2)).flatten
        let s1 := if typ = 0x10 then w.2 else s
        if rs.isEmpty then (if typ = 0x10 then msgDone n flow s1 else msgRead n flow (cutsRead s1 slot cuts) s1)
        else
          let f := (match connOf s1 n with | some c1 => c1 | none => c).flow flow
          sendReqs rs (match connOf s1 n with
            | some c1 => putConn n (c1.setFlow flow { f with await := rs.length }) s1
            | none => s1)
/-- Apply the messages of a flow in order while none is in progress. -/
def drillPump (n flow : Nat) : Nat → State → State
  | 0, s => s
  | k + 1, s =>
    match connOf s n with
    | none => s
    | some c =>
      let f := c.flow flow
      if f.await ≠ 0 then s
      else match headMsg f with
        | none => s
        | some m => drillPump n flow k (msgBegin n flow c m s)
/-- A granary has answered one request of a message; with the last one the message takes effect. -/
def drillAnswer (n flow : Nat) (seq : W64) (s : State) : State :=
  match connOf s n with
  | none => s
  | some c =>
    let f := c.flow flow
    if f.rxNext ≠ seq ∨ f.await = 0 then s
    else if 1 < f.await then putConn n (c.setFlow flow { f with await := f.await - 1 }) s
    else match headMsg f with
      | none => s
      | some (_, typ, addr, _, len) =>
        let s1 := putConn n (c.setFlow flow { f with await := 0 }) s
        let s2 := if typ = 0x10 then msgDone n flow s1
          else match c.group.bind (fun g => (physCuts s1 g .read (len / 65536 + 2) addr.toNat len).map (fun cuts => (groupSlot s1 g, cuts))) with
            | some (slot, cuts) => msgRead n flow (cutsRead s1 slot cuts) s1
            | none => msgNak n flow 4 seq s1
        drillPump n flow 80 s2

/-! ## Frames (R394) -/

/-- A frame taken apart: connection, header and payload. -/
structure Frame where
  conn : Nat
  head : List Byte
  pay : List Byte
  deriving DecidableEq, Repr
/-- TYPE, FLOW, FLOW_SEQ, ACK_SEQ, ADDR, LEN. -/
def frType (h : List Byte) : Nat := fld h 1 1
/-- FLOW. -/
def frFlow (h : List Byte) : Nat := fld h 2 1 % 64
/-- FLOW_SEQ. -/
def frSeq (h : List Byte) : W64 := BitVec.ofNat 64 (fld h 0x10 8)
/-- ACK_SEQ. -/
def frAck (h : List Byte) : W64 := BitVec.ofNat 64 (fld h 0x18 8)
/-- ADDR. -/
def frAddr (h : List Byte) : W64 := BitVec.ofNat 64 (fld h 0x20 8)
/-- LEN. -/
def frLen (h : List Byte) : Nat := fld h 0x28 2
/-- Authenticate a frame: none when it is discarded. -/
def frameOpen (s : State) (b : List Byte) : Option Frame :=
  let head := b.take 48
  let n := fld head 4 4
  let ctr := fld head 8 8
  let ct := nats ((b.drop 48).take (b.length - 64))
  match connOf s n with
  | none => none
  | some c =>
    let iv := drillNonce n ctr
    let newer := match c.ctrIn with | some x => decide (x.toNat < ctr) | none => true
    if b.length < 64 ∨ newer = false ∨ 2 ^ 48 ≤ ctr then none
    else if gcmTag (keyBytes c.keyIn) iv (nats head) ct ≠ nats (b.drop (b.length - 16)) then none
    else some { conn := n, head := head, pay := bytesOf (gcmCrypt (keyBytes c.keyIn) iv ct) }
/-- Messages of a flow that may be in the air: the first 256 unacknowledged ones; send those that newly enter. -/
def sendNew (n flow old : Nat) (s : State) : State :=
  match connOf s n with
  | none => s
  | some c =>
    (((c.flow flow).unacked.take 256).drop old).foldl (fun a m =>
      sendOn n (m.2.1 % 0x100) flow (decide (0x100 ≤ m.2.1)) 0 m.1.toNat 0 m.2.2.1 a) s
/-- The peer's ACK_SEQ frees the messages before it (R398). -/
def ackProgress (n flow : Nat) (ack : W64) (s : State) : State :=
  match connOf s n with
  | none => s
  | some c =>
    let f := c.flow flow
    let left := f.unacked.filter (fun m => decide (ack ≤ m.1))
    if left.length = f.unacked.length then s
    else
      let s1 := putConn n (c.setFlow flow { f with unacked := left, interval := 20, resends := 0, since := now s }) s
      sendNew n flow (256 - (f.unacked.length - left.length)) s1
/-- An authenticated frame counts: the highest CTR, the end of the pending state, and its ACK_SEQ. -/
def frameIn (x : Frame) (s : State) : State :=
  match connOf s x.conn with
  | none => s
  | some c =>
    ackProgress x.conn (frFlow x.head) (frAck x.head)
      (putConn x.conn { c with ctrIn := some (BitVec.ofNat 64 (fld x.head 8 8)), pending := none } s)
/-- A frame of one TYPE: discarded and counted when it does not authenticate; another type is another command's. -/
def withFrame (typ : Nat) (b : List Byte) (f : Frame → Conn → State → State) (s : State) : Out :=
  evt (inService s && decide (fld b 1 1 = typ)) s
    (match frameOpen s b with
     | none => bump (fabBlk + 0x110) 1 s
     | some x =>
       let s1 := frameIn x s
       match connOf s1 x.conn with
       | some c => f x c s1
       | none => s1)
/-- SACK mask of the messages held beyond ACK_SEQ. -/
def sackMask (f : Flow) : Nat :=
  (List.range 64).foldl (fun a i => if f.held.any (fun m => m.1 == f.rxNext + 1 + BitVec.ofNat 64 i) then a + 2 ^ i else a) 0
/-- A WRITE or READ arrives on its flow (R396, R398): duplicate, beyond the window, held, or in its turn. -/
def flowMsg (x : Frame) (c : Conn) (s : State) : State :=
  let h := x.head
  let fl := frFlow h
  let f := c.flow fl
  let seq := frSeq h
  let len := frLen h
  let bad := c.flows ≤ fl ∨ (frType h = 0x10 ∧ x.pay.length ≠ len) ∨ (frType h = 0x11 ∧ x.pay.length ≠ 0)
  if c.flows ≤ fl then sendOn x.conn 0x21 fl false 5 seq.toNat 0 [] s
  else if seq < f.rxNext then sendOn x.conn 0x20 fl false 0 0 0 [] (bump (fabBlk + 0x108) 1 s)
  else if f.rxNext + 256 ≤ seq then bump (fabBlk + 0x120) 1 s
  else if f.held.any (fun m => m.1 == seq) then bump (fabBlk + 0x108) 1 s
  else
    let contiguous := seq == f.rxNext + BitVec.ofNat 64 f.held.length
    if !contiguous && (c.version == 1 || decide (64 ≤ f.held.length)) then s
    else
      let m := (seq, frType h, frAddr h, x.pay, if bad then 65536 else len)
      let s1 := putConn x.conn (c.setFlow fl { f with held := f.held ++ [m] }) s
      let s2 := drillPump x.conn fl 80 s1
      if contiguous then s2
      else match connOf s2 x.conn with
        | some c2 => sendOn x.conn 0x31 fl false 0 0 0 (natLE 8 (sackMask (c2.flow fl))) s2
        | none => s2
/-- DRILL_WRITE (R396). -/
def execDrillWrite (frame : List Byte) (s : State) : Out := withFrame 0x10 frame flowMsg s
/-- DRILL_READ (R396). -/
def execDrillRead (frame : List Byte) (s : State) : Out := withFrame 0x11 frame flowMsg s
/-- DRILL_ACK (R398): ACK_SEQ does its work in every frame. -/
def execDrillAck (frame : List Byte) (s : State) : Out := withFrame 0x20 frame (fun _ _ s => s) s
/-- DRILL_NAK (R397): the message that it names was not applied, and counts as taken effect. -/
def execDrillNak (frame : List Byte) (s : State) : Out :=
  withFrame 0x21 frame (fun x c s =>
    let f := c.flow (frFlow x.head)
    putConn x.conn (c.setFlow (frFlow x.head) { f with unacked := f.unacked.filter (fun m => m.1 != frSeq x.head) }) s) s
/-- DRILL_SACK (R398): the messages that the peer holds are shown. -/
def execDrillSack (frame : List Byte) (s : State) : Out :=
  withFrame 0x31 frame (fun x c s =>
    let f := c.flow (frFlow x.head)
    let mask := fld x.pay 0 8
    let mark (m : W64 × Nat × List Byte × Bool) : W64 × Nat × List Byte × Bool :=
      let i := (m.1 - (frAck x.head + 1)).toNat
      if i < 64 ∧ mask.testBit i then (m.1, m.2.1, m.2.2.1, true) else m
    putConn x.conn (c.setFlow (frFlow x.head) { f with unacked := f.unacked.map mark }) s) s
/-- CLOSE (R400): a peer's CLOSE ends the connection without an alarm. -/
def execClose (frame : List Byte) (s : State) : Out := withFrame 0x03 frame (fun x _ s => endConn x.conn 0 false s) s
/-- DRILL_RETRANSMIT (R398): the interval has passed without an acknowledgment; after 12 resends the connection closes. -/
def execDrillRetransmit (conn flow : Nat) (s : State) : Out :=
  match connOf s conn with
  | none => .next s
  | some c =>
    let f := c.flow flow
    let l := (f.unacked.take 256).filter (fun m => c.version == 1 || !m.2.2.2)
    let f1 := { f with interval := min (2 * f.interval) 10000, resends := f.resends + 1, since := now s }
    evt (!f.unacked.isEmpty && aged s f.since (f.interval * us)) s
      (if 12 ≤ f.resends then endConn conn 2 true s
       else l.foldl (fun a m => sendOn conn (m.2.1 % 0x100) flow (decide (0x100 ≤ m.2.1)) 0 m.1.toNat 0 m.2.2.1 (bump (fabBlk + 0x100) 1 a))
              (putConn conn (c.setFlow flow f1) s))
/-- DRILL_PENDING_TIMEOUT (R497). -/
def execDrillPendingTimeout (conn : Nat) (s : State) : Out :=
  match connOf s conn with
  | none => .next s
  | some c => evt (heldFor s c.pending (100 * ms)) s (bump (fabBlk + 0x110) 1 (endConn conn 0 false s))

/-! ## CONNECT (R392, R393, R496, R497) -/

/-- Field of a listen entry. -/
def lisFld (s : State) (i off n : Nat) : Nat := leNat (mread s.fab.listen (32 * i + off) n)
/-- Whether an entry in force covers a peer (Table 14-4). -/
def lisMatch (s : State) (peer : Nat) (v4 : Bool) (i : Nat) : Bool :=
  let w := if v4 then 32 else 128
  let len := lisFld s i 3 1
  bit (lisFld s i 0 1) 0 && (bit (lisFld s i 0 1) 1 == v4) && decide (len ≤ w) &&
  (peer % 2 ^ w) >>> (w - len) == (lisFld s i 0x10 16 % 2 ^ w) >>> (w - len)
/-- The entry with the longest prefix, lowest index among equals. -/
def lisBest (s : State) (peer : Nat) (v4 : Bool) : Option Nat :=
  ((List.range 64).filter (lisMatch s peer v4)).foldl (fun b i => match b with
    | none => some i
    | some j => if lisFld s j 3 1 < lisFld s i 3 1 then some i else some j) none
/-- Highest version common to two masks. -/
def commonVersion (a b : Nat) : Option Nat :=
  if a.testBit 1 ∧ b.testBit 1 then some 2 else if a.testBit 0 ∧ b.testBit 0 then some 1 else none
/-- EK_ID: the first 8 bytes of the digest of the boot encapsulation key (R491). -/
def ekDigest (s : State) : List Byte := bytesOf (shake256 (nats s.sec.ek) 32)
/-- AUTH that a CONNECT to a keyed group must carry. -/
def authOf (s : State) (slot : Nat) (body : List Byte) : List Byte :=
  let key := shake256 (ascii "KY-DRILL-A" ++ nats (bvLE 64 (slotKey s slot))) 32
  bytesOf (kmac256 key (nats body) 16 (ascii "KY-DRILL-A"))
/-- Answer a CONNECT with ACCEPT: keys from the transcript, a pending connection that holds its mailbox. -/
def acceptConn (e : Nat) (peer : W128) (v4 : Bool) (msg : List Byte) (ver : Nat) (s0 : State) : State :=
  let pay := msg.drop 48
  let (nonce, s) := drawEntropy s0
  let n := s.fab.nextConn % 2 ^ 32
  let flows := min (min (fld pay 1 1) (lisFld s e 5 1)) (if ver = 1 then 16 else 64)
  let peerConn := fld pay 4 4
  let head := drillHead ver 0x02 0 false 0 peerConn 0 0 0 0 56
  let body := natLE 1 ver ++ natLE 1 flows ++ natLE 2 0 ++ natLE 4 n ++ bvLE 32 nonce
  let t := nats (msg.take (48 + 0x650) ++ head ++ body)
  let ss := Config.mlkemDecaps (Config.entropy s.sec.dk) ((pay.drop 0x30).take 1568)
  let ks := shake256 (ascii "KY-DRILL-K" ++ nats (bvLE 32 ss) ++ t) 96
  let confirm := bytesOf (kmac256 (ks.drop 64) t 16 (ascii "KY-DRILL-C"))
  let c : Conn := { peer := peer, v4 := v4, mailbox := lisFld s e 1 1 % 32, group := if bit (lisFld s e 0 1) 2 then some (lisFld s e 2 1) else none
                    version := ver, flows := flows, peerConn := BitVec.ofNat 32 peerConn
                    ctrIn := some (BitVec.ofNat 64 (fld msg 8 8)), ctrOut := 1, keyIn := w256 (ks.take 32), keyOut := w256 ((ks.drop 32).take 32)
                    pending := some (now s), flowTab := [] }
  emit 1 n (head ++ body ++ confirm) (flowPort s n 0) (putConn n c { s with fab := { s.fab with nextConn := n + 1 } })
/-- CONNECT. -/
def execConnect (peer : BitVec 128) (v4 : Bool) (msg : List Byte) (s : State) : Out :=
  let pay := msg.drop 48
  let noMatch := bump (fabBlk + 0x118) 1 s
  let form := msg.length == 48 + 1632 && frLen msg == 1632 && fld msg 4 4 == 0
  evt (inService s && decide (fld msg 1 1 = 0x01)) s
    (match lisBest s peer.toNat v4 with
     | none => noMatch
     | some e =>
       let mb := lisFld s e 1 1 % 32
       let live := (s.fab.conns.filter (fun c => c.2.pending.isNone)).length
       let pend := (s.fab.conns.filter (fun c => c.2.pending.isSome)).length
       let g := lisFld s e 2 1
       let slot := if bit (lisFld s e 0 1) 2 then groupSlot s g else 0
       let auth := (pay.drop 0x650).take 16
       if !form || mbBound s mb || decide (4096 ≤ live) || decide (256 ≤ pend) then noMatch
       else match commonVersion (fld pay 0 1) (lisFld s e 4 1) with
         | none => emit 1 0 (drillHead 0 0x03 0 false 1 (fld pay 4 4) 0 0 0 0 0) (flowPort s 0 0) s
         | some ver =>
           if s.sec.ek.isEmpty || (pay.drop 0x28).take 8 != (ekDigest s).take 8 then noMatch
           else if auth != (if slot = 0 then List.replicate 16 0 else authOf s slot (msg.take (48 + 0x650))) then bump (fabBlk + 0x110) 1 s
           else acceptConn e peer v4 msg ver s)

end Sys2Proof.Machine
end

