-- ==== Sys2Proof/Machine/Roce.lean ====
section
/-! DEFINITION. Host rings and the RoCE engine (14 R391, R402, R403). -/
namespace Sys2Proof.Machine

/-! ## Host rings (R391, Table 14-2) -/

/-- CFG, HEAD and TAIL of a ring of a port (0 to 7 receive, 8 to 15 transmit). -/
def Port.cfg (p : Port) (r : Nat) : Nat := (tget 0 p.ringCfg r).toNat
/-- HEAD. -/
def Port.head (p : Port) (r : Nat) : W16 := tget 0 p.ringHead r
/-- TAIL. -/
def Port.tail (p : Port) (r : Nat) : W16 := tget 0 p.ringTail r
/-- ENABLE. -/
def Port.ringOn (p : Port) (r : Nat) : Bool := bit (p.cfg r) 63
/-- Number of descriptors. -/
def Port.ringSize (p : Port) (r : Nat) : Nat := 2 ^ bits (p.cfg r) 51 48
/-- Address of the descriptor of a count. -/
def Port.descAt (p : Port) (r : Nat) (i : W16) : Nat := bits (p.cfg r) 47 0 + 16 * (i.toNat % p.ringSize r)
/-- Master code of a port's engine: MGMT or FABRIC (Table 10-5). -/
def portMaster (p : Nat) : Nat := if p = 8 then 5 else 4
/-- Deliver a frame to a receive ring: the descriptor is written whole before TAIL advances; a full ring drops it. -/
def ringPut (p r qpn : Nat) (frame : List Byte) (s : State) : State :=
  let x := s.port p
  if !x.ringOn r || decide (x.ringSize r ≤ (x.tail r - x.head r).toNat) then bump (portBlk p + 0x120) 1 s
  else
    let a := x.descAt r (x.tail r)
    let d := (cohRead s none a 16).1
    let room := fld d 6 2
    let w := 1 + (if room < frame.length then 2 else 0) + 2 ^ 40 * (if r = 0 then qpn else 0)
    let m := portMaster p
    let s0 := noteRange m (fld d 0 6) (min room frame.length) (noteRange m a 16 s)
    let s1 := cohWrite s0 none m 0 (fld d 0 6) (frame.take room) false
    let s2 := cohWrite s1 none m 0 a (natLE 6 (fld d 0 6) ++ natLE 2 frame.length ++ natLE 8 w) false
    let y := s2.port p
    s2.setPort p { y with ringTail := tset 0 y.ringTail r (y.tail r + 1) }

/-! ## RDMA (R402, R403) -/

/-- Local QPN. -/
def qpnOf (i : Nat) : Nat := 0x100 + i
/-- A queue pair in force and ready. -/
def qpReady (s : State) (i : Nat) : Bool := decide (i < 1024) && bit (qpFld s i 0 1) 0 && (s.qp i).st == 1
/-- NAK of a queue pair (kind 4: PSN and code: 0 PSN sequence, 1 invalid request, 2 remote access). -/
def roceNak (i code : Nat) (psn : BitVec 24) (s : State) : State :=
  bump (fabBlk + 0x128) 1 (emit 4 i (natLE 3 psn.toNat ++ natLE 1 code) (rocePort s) s)
/-- ACK of a queue pair (kind 3: PSN, and the data of a READ). -/
def roceAck (i : Nat) (psn : BitVec 24) (data : List Byte) (s : State) : State := emit 3 i (natLE 3 psn.toNat ++ data) (rocePort s) s
/-- Packets of a message at the path MTU of 4,096 bytes. -/
def rocePkts (len : Nat) : Nat := max 1 (cdiv len 4096)
/-- The request at the head has taken effect. -/
def rdmaDone (i : Nat) (m : Rdma) (data : List Byte) (s : State) : State :=
  let x := s.qp i
  roceAck i (m.psn + BitVec.ofNat 24 (rocePkts m.len - 1)) data (s.setQp i { x with held := x.held.drop 1, await := 0 })
/-- The request at the head is refused, and counts as taken effect (R397, R403). -/
def rdmaNak (i : Nat) (m : Rdma) (s : State) : State :=
  let x := s.qp i
  roceNak i 2 m.psn (s.setQp i { x with held := x.held.drop 1, await := 0 })
/-- Pieces of the window that a request reaches: none when its key, range or translation is wrong. -/
def rdmaCuts (s : State) (i : Nat) (m : Rdma) : Option (List (Nat × Nat)) :=
  let base := qpFld s i 0x18 8
  let size := qpFld s i 0x20 8
  if m.va.toNat < base ∨ base + size < m.va.toNat + m.len then none
  else physCuts s (qpFld s i 2 1) (if m.read then .read else .write) (m.len / 65536 + 2) m.va.toNat m.len
/-- Begin the request at the head. -/
def rdmaBegin (i : Nat) (m : Rdma) (s : State) : State :=
  let mb := qpFld s i 1 1 % 32
  if m.rkey.toNat ≠ qpFld s i 8 4 then rdmaNak i m s
  else if m.va.getLsbD 63 then
    let off := m.va.toNat % 2 ^ 14
    if mbAreas < off + m.len then rdmaNak i m s
    else if m.read then rdmaDone i m (mbReadRange (s.mb mb) off m.len) s
    else rdmaDone i m [] (mbWriteRange mb m.psn.toNat off m.data s)
  else match rdmaCuts s i m with
    | none => rdmaNak i m s
    | some cuts =>
      let req : Requester := .roce i m.psn.toNat
      let w := cutsWrite req 0 cuts m.data s
      let rs := if m.read then (cuts.map (fun x => extReads s req 0 x.1 x.2)).flatten else w.1
      let s1 := if m.read then s else w.2
      if rs.isEmpty then rdmaDone i m (if m.read then (cutsRead s1 0 cuts).1 else []) s1
      else sendReqs rs (s1.setQp i { s1.qp i with await := rs.length })
/-- Take the requests of a queue pair in order while none is in progress. -/
def rdmaPump (i : Nat) : Nat → State → State
  | 0, s => s
  | k + 1, s =>
    match (s.qp i).held, (s.qp i).await with
    | m :: _, 0 => rdmaPump i k (rdmaBegin i m s)
    | _, _ => s
/-- A granary has answered one request of the message in progress. -/
def roceAnswer (i psn : Nat) (s : State) : State :=
  let x := s.qp i
  match x.held with
  | [] => s
  | m :: _ =>
    if m.psn.toNat ≠ psn ∨ x.await = 0 then s
    else if 1 < x.await then s.setQp i { x with await := x.await - 1 }
    else
      let s1 := s.setQp i { x with await := 0 }
      rdmaPump i (x.held.length + 1) (match (if m.read then rdmaCuts s1 i m else some []) with
        | some cuts => rdmaDone i m (if m.read then (cutsRead s1 0 cuts).1 else []) s1
        | none => rdmaNak i m s1)
/-- A request packet arrives with its PSN: in its turn, a duplicate (acknowledged again), or out of sequence. -/
def rdmaIn (i : Nat) (m : Rdma) (s : State) : State :=
  let x := s.qp i
  let d := (m.psn - x.recvPsn).toNat
  if d = 0 then
    rdmaPump i (x.held.length + 2)
      (s.setQp i { x with recvPsn := x.recvPsn + BitVec.ofNat 24 (rocePkts m.len), held := x.held ++ [m] })
  else if 2 ^ 23 ≤ d then roceAck i m.psn [] s
  else roceNak i 0 x.recvPsn s
/-- ROCE_RDMA_WRITE (R403). -/
def execRoceRdmaWrite (qp psn : Nat) (rkey : BitVec 32) (va : BitVec 64) (data : List Byte) (s : State) : Out :=
  evt (inService s && qpReady s qp) s
    (rdmaIn qp { psn := BitVec.ofNat 24 psn, read := false, rkey := rkey, va := va, data := data, len := data.length } s)
/-- ROCE_RDMA_READ (R403). -/
def execRoceRdmaRead (qp psn : Nat) (rkey : BitVec 32) (va : BitVec 64) (len : Nat) (s : State) : Out :=
  evt (inService s && qpReady s qp) s
    (rdmaIn qp { psn := BitVec.ofNat 24 psn, read := true, rkey := rkey, va := va, data := [], len := len } s)
/-- ROCE_SEND (R402): delivered to host receive ring 0 of the port, tagged with the QPN. -/
def execRoceSend (p qp psn : Nat) (data : List Byte) (s : State) : Out :=
  let x := s.qp qp
  let d := (BitVec.ofNat 24 psn - x.recvPsn).toNat
  let s1 := s.setQp qp { x with recvPsn := x.recvPsn + BitVec.ofNat 24 (rocePkts data.length) }
  evt (inService s && qpReady s qp && decide ((s.port p).st = 1) && decide (p < 8)) s
    (if d = 0 then roceAck qp (BitVec.ofNat 24 psn) [] (ringPut p 0 (qpnOf qp) data s1)
     else if 2 ^ 23 ≤ d then roceAck qp (BitVec.ofNat 24 psn) [] s
     else roceNak qp 0 x.recvPsn s)
/-- ROCE_CNP (R402): the send rate halves. -/
def execRoceCnp (qp : Nat) (s : State) : Out :=
  let x := s.qp qp
  evt (qpReady s qp) s (s.setQp qp { x with rate := x.rate / 2, cnpAt := now s })
/-- ROCE_RATE_RECOVER (R402): 55 µs without a CNP give back one eighth of the full rate. -/
def execRoceRateRecover (qp : Nat) (s : State) : Out :=
  let x := s.qp qp
  evt (qpReady s qp && decide (x.rate < 65536) && aged s x.cnpAt (55 * us)) s
    (s.setQp qp { x with rate := min 65536 (x.rate + 8192), cnpAt := now s })
/-- Send again every SEND that is not acknowledged. -/
def roceResend (i : Nat) (s : State) : State :=
  (s.qp i).sends.foldl (fun a m => emit 2 i (natLE 3 m.1.toNat ++ m.2) (rocePort a) a) s
/-- Exhausted retries put the queue pair in error (R402). -/
def qpError (i : Nat) (s : State) : State :=
  alarmW 0x0A05 0x0000 [qpnOf i] (s.setQp i { s.qp i with st := 2, timer := none, rnrTimer := none })
/-- ROCE_ACK_TIMEOUT (R402): the RNR timer (100 µs) or the local ACK timer (1 ms) expires. -/
def execRoceAckTimeout (qp : Nat) (s : State) : Out :=
  let x := s.qp qp
  if heldFor s x.rnrTimer (100 * us) then
    evt (qpReady s qp) s
      (if 7 ≤ x.rnr then qpError qp s
       else roceResend qp (s.setQp qp { x with rnr := x.rnr + 1, rnrTimer := none, timer := some (now s) }))
  else
    evt (qpReady s qp && heldFor s x.timer ms) s
      (if 7 ≤ x.retries then qpError qp s
       else roceResend qp (s.setQp qp { x with retries := x.retries + 1, timer := some (now s) }))
/-- ROCE_ACK_RECEIVE (R402): kind 0 acknowledges up to a PSN, 1 (NAK) up to the one before it, 2 (RNR NAK) starts an RNR wait. -/
def execRoceAckReceive (qp kind psn : Nat) (s : State) : Out :=
  let x := s.qp qp
  let p := BitVec.ofNat 24 psn
  let left := x.sends.filter (fun m => decide ((m.1 - p).toNat < 2 ^ 23) && !(kind == 0 && m.1 == p))
  let y := { x with sends := left, retries := 0, rnr := 0, rnrTimer := none, timer := if left.isEmpty then none else some (now s) }
  evt (qpReady s qp && !x.sends.isEmpty) s
    (match kind with
     | 0 => s.setQp qp y
     | 1 => roceResend qp (s.setQp qp { y with retries := x.retries })
     | _ => s.setQp qp { x with rnrTimer := some (now s), timer := none })

end Sys2Proof.Machine
end

