-- ==== Sys2Proof/Machine/Guest.lean ====
section
/-! DEFINITION. The guest port and the hedgerow (09 R285 to R290; 12 R342; 20 R534). Reading of the flits in log 20. -/
namespace Sys2Proof.Machine

/-! ## Flits (R287, Table 9-10) -/

/-- LG carries traffic. -/
def guestUp (s : State) : Bool := is4G s && (s.link 8).st == 1 && !s.guest.closed && !s.guest.unpowered
/-- Bytes 0x00 to 0xEF of a flit. -/
def flitBody (op len tag status : Nat) (poison : Bool) (addr : Nat) (data : List Byte) : List Byte :=
  natLE 1 op ++ natLE 1 len ++ natLE 2 tag ++ natLE 1 status ++ natLE 1 (b2n poison) ++ natLE 2 0 ++ natLE 8 addr ++ padTo 224 data
/-- A whole flit: body, SEQ, ACK, zero and CRC. -/
def flitOf (body : List Byte) (seq ack : W32) : List Byte :=
  let b := padTo 240 body ++ bvLE 4 seq ++ bvLE 4 ack ++ natLE 4 0
  b ++ natLE 4 (crc32c b)
/-- LG retrains: traffic pauses (R286). -/
def guestPaused (s : State) : Bool :=
  is4G s && (s.link 8).st == 0 && s.guest.retrain.isSome && !s.guest.closed && !s.guest.unpowered
/-- Put a flit on the wire: forward runs from the module (log 20), and a flit that is not idle counts (R291). -/
def guestWire (f : List Byte) (s : State) : State :=
  let s1 := { s with guest := { s.guest with sent := f :: s.guest.sent } }
  if fld f 0 1 = 0 then s1 else bump 0x0060_8120 1 s1
/-- An idle flit carries ACK and does not advance SEQ. -/
def guestIdle (s : State) : State := guestWire (flitOf (flitBody 0 0 0 0 false 0 []) s.guest.txSeq (s.guest.rxSeq - 1)) s
/-- Send a flit with the next SEQ, or keep it while 1,024 are unacknowledged or traffic pauses; then only idle flits go. -/
def guestSend (body : List Byte) (s : State) : State :=
  let g := s.guest
  if guestPaused s then { s with guest := { g with txWait := g.txWait ++ [body] } }
  else if !guestUp s then s
  else if 1024 ≤ g.unacked.length then guestIdle { s with guest := { g with txWait := g.txWait ++ [body] } }
  else
    let g1 := { g with unacked := g.unacked ++ [(g.txSeq, body)], txSeq := g.txSeq + 1, ackAt := if g.unacked.isEmpty then now s else g.ackAt }
    guestWire (flitOf body g.txSeq (g.rxSeq - 1)) { s with guest := g1 }
/-- Send the flits that wait, as far as there is room. -/
def guestDrain : Nat → State → State
  | 0, s => s
  | k + 1, s =>
    match s.guest.txWait with
    | [] => s
    | b :: t =>
      if 1024 ≤ s.guest.unacked.length then s
      else guestDrain k (guestSend b { s with guest := { s.guest with txWait := t } })
/-- ACK of a received flit frees the flits up to it. -/
def guestAck (ack : W32) (s : State) : State :=
  let g := s.guest
  let left := g.unacked.filter (fun e => decide ((ack - e.1).toNat ≥ 2 ^ 31))
  let moved := decide (ack ≠ g.ackRx)
  guestDrain 1024 { s with guest := { g with unacked := left, ackRx := ack, ackAt := if moved then now s else g.ackAt } }
/-- GUEST_FLIT (R287): a flit whose CRC fails, or whose SEQ is not the next one, is discarded; an idle flit only carries ACK. A failed CRC
counts for every module of LG, over which the flit is spread (log 20). An idle flit in return acknowledges any other (log 20). -/
def execGuestFlit (flit : List Byte) (s : State) : Out :=
  let g := s.guest
  let ok := decide (crc32c (flit.take 252) = fld flit 252 4)
  let seq := BitVec.ofNat 32 (fld flit 0xF0 4)
  let idle := fld flit 0 1 == 0
  let count (t : Tab (List W64)) (i : Nat) : Tab (List W64) := tset [] t i (recent s (tget [] t i) sec1 ++ [now s])
  evt (guestUp s && decide (flit.length = 256)) s
    (if !ok then bump 0x0060_8108 1 { s with guest := { g with crc := (List.range 4).foldl count g.crc } }
     else if idle then guestAck (BitVec.ofNat 32 (fld flit 0xF4 4)) s
     else if seq ≠ g.rxSeq then guestIdle (bump 0x0060_8128 1 s)
     else
      guestIdle (guestAck (BitVec.ofNat 32 (fld flit 0xF4 4))
        (bump 0x0060_8128 1 { s with guest := { g with rxSeq := g.rxSeq + 1, rx := g.rx ++ [flit] } })))
/-- Resend every unacknowledged flit, if there are any: a replay. -/
def guestReplay (s : State) : State :=
  if s.guest.unacked.isEmpty then s
  else
    s.guest.unacked.foldl (fun a e => guestWire (flitOf e.2 e.1 (a.guest.rxSeq - 1)) a)
      (bump 0x0060_8110 1 { s with guest := { s.guest with ackAt := now s } })
/-- GUEST_REPLAY_TIMER (R287): ACK unchanged for 1 µs with flits outstanding replays from ACK + 1. -/
def execGuestReplayTimer (s : State) : Out :=
  evt (guestUp s && !s.guest.unacked.isEmpty && aged s s.guest.ackAt us) s (guestReplay s)
/-- GUEST_VERSION_EXCHANGE (R286): both sides use the lower of their highest versions; the module's is 2. -/
def execGuestVersionExchange (v : Nat) (s : State) : Out :=
  evt (guestUp s && decide (1 ≤ v)) s { s with guest := { s.guest with version := min v 2 } }
/-- GUEST_CRC_RETRAIN (R286): a module that counts more than 16 CRC failures within 1 s makes Pelseso retrain the port. Traffic pauses until
LINK_TRAINING, and replay preserves it. -/
def execGuestCrcRetrain (i : Nat) (s : State) : Out :=
  evt (guestUp s && decide (i < 4) && decide (16 < (recent s (tget [] s.guest.crc i) sec1).length)) s
    { s.setLink 8 { s.link 8 with st := 0 } with guest := { s.guest with retrain := some (now s), crc := [] } }

/-! ## Events, and the close of LG (R290, R534) -/

/-- An OS core's request to the guest die ends. -/
def guestAnswerOs (o : GuestOut) (data : W64) (poison : Bool) (s : State) : State :=
  let k := s.osCore o.core
  let key := 2 ^ 48 + o.tag
  let put (y : OsCore) (p : Nat × Nat × Nat × Nat) : OsCore :=
    { y with data := y.data + BitVec.ofNat 512 (data.toNat / 2 ^ (8 * p.2.1) % 2 ^ (8 * p.2.2.1) * 2 ^ (8 * p.2.2.2)), poison := y.poison || poison }
  if o.write then s
  else s.setOs o.core ((k.await.filter (fun p => p.1 == key)).foldl put { k with await := k.await.filter (fun p => p.1 != key) })
/-- A request that timed out delivers its data poisoned, or is acknowledged; it is counted, and raises an alarm. -/
def guestLate (o : GuestOut) (s : State) : State :=
  let g := s.guest
  let s0 := { s with guest := { g with outReqs := g.outReqs.erase o } }
  let s1 := if o.write then s0 else errRec 2 0 0x0048 0 0xFF 0 0 s0
  alarmW 0x0407 0x0048 [o.tag] (bump 0x0068_0038 1 (guestAnswerOs o (Config.poisonValue o.tag) true s1))
/-- The hedgerow closes LG: LNK_STATE reads down, and the requests in flight complete as timeouts. -/
def guestClose (s : State) : State :=
  let g := s.guest
  if g.closed then s
  else
    let s1 := { s with guest := { g with closed := true, unacked := [], txWait := [], rx := [], inReqs := [] } }
    let k := s1.link 8
    let s2 := s1.setLink 8 { k with st := 2, downSince := some (now s) }
    alarmW 0x0408 0x0048 [] (g.outReqs.foldl (fun a o => guestLate o a) s2)
/-- Count a MALFORMED, DENIED or TIMEOUT event; more than 64 within 1 ms close LG. -/
def guestEvent (s : State) : State :=
  let l := recent s s.guest.events ms ++ [now s]
  let s1 := { s with guest := { s.guest with events := l } }
  if 64 < l.length then guestClose s1 else s1
/-- GUEST_RESPONSE_TIMEOUT (R290): a request unanswered after 100 µs. -/
def execGuestResponseTimeout (tag : Nat) (s : State) : Out :=
  match s.guest.outReqs.find? (fun o => o.tag == tag) with
  | none => .next s
  | some o => evt (aged s o.since (100 * us)) s (guestEvent (guestLate o s))
/-- GUEST_OVERCURRENT (R534): treated as a guest timeout; LG closes, and the guest's supply is removed until a module reset. -/
def execGuestOvercurrent (s : State) : Out :=
  evt (is4G s && !s.guest.unpowered) s
    (let s1 := guestClose (alarmW 0x0407 0x0048 [] (bump 0x0068_0038 1 s))
     { s1 with guest := { s1.guest with unpowered := true } })
/-- GUEST_RESPONSE (R290): READ_DATA or WRITE_ACK answers the module's request of its TAG; a late one is a timeout. A READ answered with ERROR,
or with POISON, is poisoned (log 20). -/
def execGuestResponse (flit : List Byte) (s : State) : Out :=
  let g := s.guest
  let op := fld flit 0 1
  match g.rx with
  | [] => .next s
  | f :: t =>
    let s1 := { s with guest := { g with rx := t } }
    evt (guestUp s && f == flit && (op == 3 || op == 4 || op == 6)) s
      (match g.outReqs.find? (fun o => o.tag == fld flit 2 2) with
       | none => s1
       | some o =>
         if 100 * us < since s o.since then guestEvent (guestLate o s1)
         else
           guestAnswerOs o (BitVec.ofNat 64 (fld flit 0x10 8)) (op != 3 || bit (fld flit 5 1) 0)
             { s1 with guest := { s1.guest with outReqs := g.outReqs.erase o } })

/-! ## Guest requests (R288, R289) -/

/-- The rule that covers a whole range. -/
def ruleFor (s : State) (addr len : Nat) : Option Rule :=
  (s.guest.rules.find? (fun r => r.2.valid && decide (r.2.gbase ≤ addr) && decide (addr + len ≤ r.2.gbase + r.2.size))).map Prod.snd
/-- Answer ERROR with a status, and count the event. -/
def guestError (tag status : Nat) (s : State) : State :=
  let s1 := guestSend (flitBody 6 0 tag status false 0 []) (bump (if status = 2 then 0x0068_0030 else 0x0068_0028) 1 s)
  guestEvent s1
/-- The checks of R289 in their order: the status of the first failure, or the rule. -/
def guestCheck (s : State) (flit : List Byte) : Except Nat Rule :=
  let op := fld flit 0 1
  let len := fld flit 1 1
  let addr := fld flit 8 8
  if !(op == 1 || op == 2 || (op == 5 && s.guest.version == 2)) then .error 2
  else if len = 0 ∨ 28 < len then .error 2
  else if fld flit 5 1 / 2 ≠ 0 ∨ fld flit 6 2 ≠ 0 ∨ fld flit 0xF8 4 ≠ 0 ∨ 2 ^ 40 ≤ addr then .error 2
  else if addr % 8 ≠ 0 ∨ 4096 < addr % 4096 + 8 * len then .error 2
  else match ruleFor s addr (8 * len) with
    | none => .error 1
    | some r =>
      if !(if op = 1 then r.read else if op = 2 then r.write else r.atomic) then .error 1
      else if 256 ≤ s.guest.inReqs.length then .error 1
      else .ok r
/-- Pelseso's reserved LPDDR region or hub SRAM (R342). -/
def reservedPa (s : State) (pa : Nat) : Bool :=
  match place s pa with
  | .lpddr => decide (79 * regionSize s ≤ pa)
  | .hub off => decide (off < 0x0200_0000)
  | _ => false
/-- Answer a request whose granaries have all answered. -/
def guestDone (x : GuestIn) (s : State) : State :=
  let s1 := { s with guest := { s.guest with inReqs := s.guest.inReqs.filter (fun y => y.id != x.id) } }
  if x.op = 2 then guestSend (flitBody 4 0 x.tag 0 false 0 []) s1
  else if x.op = 1 then
    let d := if reservedPa s x.pa then (List.replicate x.len 0, false) else slotRead s x.slot x.pa (x.len / 64 + 2) x.len
    guestSend (flitBody 3 (x.len / 8) x.tag (if d.2 then 4 else 0) d.2 0 d.1) s1
  else guestSend (flitBody 3 (x.len / 8) x.tag (if x.poison then 4 else 0) x.poison 0 (mread x.data 0 x.len)) s1
/-- The granary requests of a request of the guest: one a sector, or one a word of an ATOMIC_ADD. -/
def guestReqs (s : State) (x : GuestIn) (poison : Bool) (data : List Byte) : List GReq :=
  let req : Requester := .guest x.id
  if reservedPa s x.pa then []
  else if x.op = 1 then extReads s req x.slot x.pa x.len
  else if x.op = 2 then extWrites s req x.slot x.pa (data.take x.len) poison
  else ((List.range (x.len / 8)).map (fun i =>
    let pa := x.pa + 8 * i
    let r : GReq := { pa := pa / 64 * 64, op := .atomic 0 2 (pa % 64) [(i, BitVec.ofNat 64 (fld data (8 * i) 8), 0)], req := req, cls := 3
                      master := 6, slot := x.slot, stage := none, retry := none }
    r)).filter (fun r => granaryServes s r.pa)
/-- GUEST_REQUEST (R289): the hedgerow checks a received request, and translates it or answers ERROR. An access to Pelseso's reserved ranges
reads zero, is discarded and is logged (R342). -/
def execGuestRequest (flit : List Byte) (s : State) : Out :=
  let g := s.guest
  let op := fld flit 0 1
  let len := 8 * fld flit 1 1
  match g.rx with
  | [] => .next s
  | f :: t =>
    let s1 := { s with guest := { g with rx := t } }
    evt (guestUp s && f == flit && !(op == 3 || op == 4 || op == 6)) s
      (match guestCheck s flit with
       | .error st => guestError (fld flit 2 2) st s1
       | .ok r =>
         let x : GuestIn := { id := g.nextIn, op := op, tag := fld flit 2 2, pa := r.mbase + (fld flit 8 8 - r.gbase), len := len, slot := r.keySlot
                              due := 0, data := [], poison := false }
         let rs := guestReqs s x (bit (fld flit 5 1) 0) (flit.drop 0x10)
         let s2 := { s1 with guest := { s1.guest with nextIn := g.nextIn + 1, inReqs := g.inReqs ++ [{ x with due := rs.length }] } }
         let bad := op == 2 && bit (fld flit 5 1) 0 && !reservedPa s x.pa
         let s2 := if bad then errRec 2 1 (srcHalf (homeHalf s x.pa)) 0 0xFF x.pa 0 s2 else s2
         let s3 := if reservedPa s x.pa then logStray 0x5000 x.pa len (op != 1) s2 else s2
         if rs.isEmpty then guestDone x s3 else sendReqs rs s3)
/-- A granary has answered one request of the guest: the old value of a word, and whether data was poisoned. -/
def guestAnswer (id : Nat) (old : List (Nat × Nat)) (poison : Bool) (s : State) : State :=
  match s.guest.inReqs.find? (fun x => x.id == id) with
  | none => s
  | some x =>
    let y := { x with due := x.due - 1, poison := x.poison || poison, data := old.foldl (fun m e => mwrite m (8 * e.1) (natLE 8 e.2)) x.data }
    let s1 := { s with guest := { s.guest with inReqs := s.guest.inReqs.map (fun z => if z.id = id then y else z) } }
    if y.due = 0 then guestDone y s1 else s1

end Sys2Proof.Machine
end

