-- ==== Sys2Proof/Machine/Flags.lean ====
section
/-! DEFINITION. Arithmetic exceptions and their traps, and the predicates that comparisons give (R163 to R167, Table 5-5). -/
namespace Sys2Proof.Machine

/-- The exceptions of Table 5-5 by the DETAIL of Table 4-8: 1 integer divide by zero, 2 floating invalid, 3 floating divide by zero,
4 floating overflow. -/
abbrev Exns := List Nat

/-- The trap that a set of lanes raises under TRAP_MASK: the lowest DETAIL, and the lanes that raise it (R167). -/
def trapOf (mask : Nat) (l : List (Nat × Exns)) : Option (Nat × W32) :=
  let lanes (d : Nat) : List Nat := ((l.filter (fun e => e.2.contains d)).map Prod.fst)
  match [1, 2, 3, 4].find? (fun d => mask.testBit (d - 1) && !(lanes d).isEmpty) with
  | some d => some (d, maskOf (lanes d))
  | none => none

/-- The condition of SETP on two values of a type (MOD of Table 5-5); `un` for an unordered pair. -/
def condOf (mod : Nat) (lt eq un : Bool) : Bool :=
  match mod with
  | 0 => eq && !un
  | 1 => un || !eq
  | 2 => lt && !un
  | 3 => (lt || eq) && !un
  | 4 => !lt && !eq && !un
  | 5 => !lt && !un
  | 6 => un
  | _ => !un

/-- An operand read as the integer of its type: signed for i32 and i64. -/
def intOf (ty v : Nat) : Int :=
  let w := if wide ty then 64 else 32
  if ty = 0 ∨ ty = 2 then signed w v else (v % 2 ^ w : Nat)

/-- SETP of one lane. -/
def setpOf (ty mod a b : Nat) : Bool :=
  if ty = 4 then
    let x := fdec f32 a
    let y := fdec f32 b
    condOf mod (flt x y) (feq x y) (decide (x = .nan) || decide (y = .nan))
  else condOf mod (decide (intOf ty a < intOf ty b)) (decide (intOf ty a = intOf ty b)) false

/-- Exceptions of a floating result: invalid for a signalling operand or a NaN made from numbers, overflow (R166, R167). -/
def fpExns (fm : Fmt) (ops : List Nat) (x : Num) (excess div0 : Bool) : Exns :=
  let nanIn := ops.any (fun v => decide (fdec fm v = .nan))
  (if ops.any (isSnan fm) || (decide (x = .nan) && !nanIn) then [2] else []) ++ (if div0 then [3] else []) ++ (if excess then [4] else [])

end Sys2Proof.Machine
end

