-- ==== Sys2Proof/Machine/Array.lean ====
section
/-! DEFINITION. The matrix array: issue and its checks, the queue, tiles, the status record, the rotation ring, faults and self-tests
(02 R36 to R74, 05 R178 to R180). -/
namespace Sys2Proof.Machine

/-! ## Descriptor checks (R55, Table 2-6) -/

/-- Grid of a structure: rows and columns of a tile. -/
def gridOf (mode : Nat) : Nat × Nat := if mode = 1 then (128, 128) else (512, 32)
/-- Tiles of a command in a structure. -/
def tilesOf (d : Desc) (mode : Nat) : Nat := cdiv d.m (gridOf mode).1 * cdiv d.n (gridOf mode).2
/-- A positive normal binary32 value. -/
def posNormal (v : W32) : Bool := let e := bits v.toNat 30 23; !bit v.toNat 31 && e != 0 && e != 255
/-- Addresses and strides that must be multiples of 8 (code 0x07). -/
def descAddrs (d : Desc) : List Nat :=
  [d.aAddr, d.bAddr, d.bStride] ++ (if d.drain || d.accInit == 2 then [d.cAddr, d.cStride] else []) ++
  (if d.aring then [] else d.aStride :: (if isMx d.afmt then [d.aScale] else [])) ++ (if isMx d.bfmt then [d.bScale] else [])
/-- A ring-fed command in the queue or in the array holds the descriptor's TAG. -/
def tagClash (a : Array2) (d : Desc) : Bool :=
  d.aring && (a.queue ++ a.run.toList.map (fun r => r.cmd)).any (fun x => x.desc.aring && x.desc.tag == d.tag)
/-- The checks of Table 2-6 in the order of their codes: code and failure. -/
def descChecks (s : State) (n : Nat) (raw : List Byte) : List (Nat × Bool) :=
  let d := descOf raw
  let c := s.core n
  let int := intKind d.afmt d.semiring
  let mx := isMx d.afmt || isMx d.bfmt
  [(0x01, bits (fld raw 0 4) 31 26 != 0 || fld raw 6 2 != 0 || d.mode == 3 || decide (9 < d.afmt) || decide (9 < d.bfmt) ||
      d.round == 3 || d.accInit == 3),
   (0x02, d.m == 0 || decide (2 ^ 20 < d.m) || d.n == 0 || decide (65536 < d.n) || d.k == 0 || decide (2 ^ 20 < d.k)),
   (0x03, mx && d.k % 32 != 0),
   (0x04, (d.afmt == 5) != (d.bfmt == 5) ||
      (d.semiring != 0 && (decide (2 ≤ d.afmt) && decide (d.afmt ≤ 4) || decide (2 ≤ d.bfmt) && decide (d.bfmt ≤ 4)))),
   (0x05, if int then d.outfmt != 0 && d.outfmt != 6 && d.outfmt != 7 else decide (5 < d.outfmt)),
   (0x06, (d.accInit == 1 || !d.drain) && decide (1 < tilesOf d d.mode)),
   (0x07, (descAddrs d).any (fun a => a % 8 != 0) || d.statusAddr % 32 != 0 || d.poisonAddr % 4 != 0),
   (0x08, (descIns d ++ descOuts d).any (fun r => decide (padSize c < r.1 + r.2))),
   (0x09, d.aring && (d.mode != 0 || decide (32 < d.n) || d.hops == 0 || decide ((ringMembers s (n / 64)).length < d.hops) ||
      decide (ringSlots d < 2) || decide (8 < ringSlots d) || decide (panelK d < 32) || decide (1024 < panelK d) || panelK d % 32 != 0 ||
      tagClash c.arr d)),
   (0x0A, d.twoLevel && (!isMx d.afmt || !posNormal d.segScale)),
   (0x0B, decide (d.cStride < rowBytes d.n d.outfmt))]
/-- The lowest failing check code, 0 for none. -/
def descCode (s : State) (n : Nat) (raw : List Byte) : Nat :=
  match (descChecks s n raw).find? (fun x => x.2) with | some x => x.1 | none => 0

/-! ## AISSUE, AWAIT, AQUERY (R178 to R180) -/

/-- The fault DETAIL of a scratch position relative to a stook: 0x45, then 0x44 (R121, R169). -/
def scrFault (t : Stook) (rel : Int) (len align : Nat) : Option Nat :=
  if rel % (align : Int) ≠ 0 then some 0x45 else if rel < 0 ∨ (t.size : Int) < rel + len then some 0x44 else none
/-- Form of AISSUE: SA a u register, DST null. -/
def aissueForm (_w : Nat) : Form :=
  { regs := [24, 33], opds := [⟨33, 2, 1, false⟩], used := 0, types := [], ok := true, ext := false, guard := true, lanewise := false }
/-- Form of AWAIT: DST and SA u registers. -/
def awaitForm (_w : Nat) : Form :=
  { regs := [24, 33], opds := [⟨24, 2, 1, true⟩, ⟨33, 2, 1, false⟩], used := 0, types := [], ok := true, ext := false, guard := true,
    lanewise := false }
/-- Form of AQUERY: DST a u register, SA null. -/
def aqueryForm (_w : Nat) : Form :=
  { regs := [24, 33], opds := [⟨24, 2, 1, true⟩], used := 0, types := [], ok := true, ext := false, guard := true, lanewise := false }
/-- An earlier PFS of a sheaf has not finished: its scratch stores are not complete (R127, R251). -/
def pfsOut (c : Core) (sl : Nat) : Bool := c.bulk.any (fun b => b.kind == 0 && b.sheaf == sl)
/-- AISSUE: a failing descriptor faults with its check code, before a wrong position (R190); a full queue, or an earlier issue that still waits for
it, makes the issue wait in line (R49). -/
def aissueBody (v : Env) (s : State) : Res :=
  let c := s.core v.n
  let rel := rd32 v.f (bits v.w 41 33) 0
  let off := v.stook.base + rel
  let raw := (scrRead s v.n off 64).1
  let code := if off + 64 ≤ padSize c then descCode s v.n raw else 0
  let cmd : ArrCmd := { desc := descOf raw, stook := v.f.stook, sheaf := v.sl, launch := v.stook.launch, tainted := false }
  if pfsOut c v.sl then .wait
  else if code ≠ 0 then .fault 4 code v.m 0
  else match scrFault v.stook rel 64 64 with
    | some d => .fault 4 d v.m rel
    | none =>
      if c.arr.queue.length < 8 ∧ c.arr.waiting = [] then .go (s.setCore v.n { c with arr := { c.arr with queue := c.arr.queue ++ [cmd] } }) none
      else .go ((s.setCore v.n { c with arr := { c.arr with waiting := c.arr.waiting ++ [cmd] } }).setSheaf v.n v.sl
                  { v.f with arrWait := true }) (some v.f.pc)
/-- Row of AISSUE. -/
def rowAissue : SheafRow := { form := aissueForm, mem := false, hidden := fun _ => [], body := aissueBody }

/-- A command in the queue or in the array names a status record. -/
def namesRecord (a : Array2) (off : Nat) : Bool :=
  a.queue.any (fun x => x.desc.statusAddr == off) || a.run.toList.any (fun r => r.cmd.desc.statusAddr == off)
/-- AWAIT: DST waits while a command names the record, else takes its present bytes. -/
def awaitBody (v : Env) (s : State) : Res :=
  let rel := rd32 v.f (bits v.w 41 33) 0
  let off := v.stook.base + rel
  match scrFault v.stook rel 32 32 with
  | some d => .fault 4 d v.m rel
  | none =>
    if namesRecord (s.core v.n).arr off then .go (v.put { v.f with awaits := v.f.awaits ++ [(bits v.w 32 24, off)] } s) none
    else
      let d := tilRead s v.n off 4
      if d.2 then .fault 2 1 v.m rel else .go (v.write (bits v.w 32 24) 1 [(0, leNat d.1)] s) none
/-- Row of AWAIT. -/
def rowAwait : SheafRow := { form := awaitForm, mem := false, hidden := fun _ => [], body := awaitBody }

/-- AQUERY: depth, mapped-out flag, ks. -/
def aqueryBody (v : Env) (s : State) : Res :=
  let a := (s.core v.n).arr
  .go (v.write (bits v.w 32 24) 1 [(0, a.queue.length + 16 * b2n (!a.rowMap.isEmpty) + 65536 * (512 - a.rowMap.length))] s) none
/-- Row of AQUERY. -/
def rowAquery : SheafRow := { form := aqueryForm, mem := false, hidden := fun _ => [], body := aqueryBody }

/-- A waiting issue whose TAG another ring-fed command now holds faults as it would have at issue: check code 0x09 (R55). -/
def refuseWaiting (n : Nat) (x : ArrCmd) (s : State) : State :=
  let f := s.sheaf n x.sheaf
  let w := match runOf s x.launch with | some r => wordAt s r.group f.pc | none => 0
  raiseFault n x.sheaf 4 0x09 (execLanes w f) 0 w (s.setSheaf n x.sheaf { f with arrWait := false })
/-- ARRAY_QUEUE_ROOM (R49): the oldest waiting issue enters the queue, once its TAG is checked against what the queue then holds (R55), and its
sheaf moves past it. The array's running command does not count among the queue's 8 (log 13). -/
def execArrayQueueRoom (q c : Nat) (s : State) : Out :=
  let n := 64 * q + c
  let k := s.core n
  match k.arr.waiting with
  | [] => .next s
  | x :: t =>
    let s1 := s.setCore n { k with arr := { k.arr with queue := k.arr.queue ++ [x], waiting := t } }
    let f := s1.sheaf n x.sheaf
    evt (wfCore q c && decide (k.arr.queue.length < 8)) s
      (if tagClash k.arr x.desc then refuseWaiting n x (s.setCore n { k with arr := { k.arr with waiting := t } })
       else advance n x.sheaf (f.pc + 8) (s1.setSheaf n x.sheaf { f with arrWait := false }))

/-! ## Operands (R66, R76, R77) -/

/-- `k` operand values of one row: element codes packed in ascending order, with the scale bytes of their blocks. -/
def rowOps (fmt k : Nat) (codes : Nat) (scales : Option (List Byte)) : List Num :=
  (List.range k).map (fun i =>
    operandOf fmt ((codes >>> (i * inBits fmt)) % 2 ^ inBits fmt)
      (match scales with | some l => some (l.getD (i / 32) 0).toNat | none => none))
/-- Row or column `r` of an operand in scratch: its values and whether an element or a scale is poisoned. -/
def scrOps (s : State) (n addr stride saddr fmt k r : Nat) : List Num × Bool :=
  let d := tilRead s n (addr + r * stride) (cdiv (k * inBits fmt) 8)
  let sc := tilRead s n (saddr + r * (k / 32)) (k / 32)
  if isMx fmt then (rowOps fmt k (leNat d.1) (some sc.1), d.2 || sc.2) else (rowOps fmt k (leNat d.1) none, d.2)
/-- Row `r` of one ring panel. -/
def panelRow (fmt pk r : Nat) (p : Panel) : List Num × Bool :=
  let rb := pk * inBits fmt / 8
  let so := 512 * rb + r * (pk / 32)
  let bad (off len : Nat) : Bool := (wordsOf 8 off len).any (fun i => p.psn.contains i)
  let codes := leNat (slice p.bytes (r * rb) rb)
  if isMx fmt then (rowOps fmt pk codes (some (slice p.bytes so (pk / 32))), bad (r * rb) rb || bad so (pk / 32))
  else (rowOps fmt pk codes none, bad (r * rb) rb)
/-- Row `i` of A within a tile whose first row is `r0`: from scratch, or from the panels taken for the tile. -/
def aRow (s : State) (n : Nat) (x : ArrRun) (r0 i : Nat) : List Num × Bool :=
  let d := x.cmd.desc
  if d.aring then
    let l := x.panels.map (panelRow d.afmt (panelK d) i)
    (((l.map Prod.fst).flatten).take d.k, l.any Prod.snd)
  else scrOps s n d.aAddr d.aStride d.aScale d.afmt d.k (r0 + i)

/-! ## Accumulators of a command -/

/-- One accumulator of a bank; an empty bank holds the identity. -/
def bankAt (d : Desc) (b : List (List Acc)) (i j : Nat) : Acc :=
  match (b.getD i [])[j]? with | some a => a | none => { val := identity (intKind d.afmt d.semiring) d.semiring, poison := false }
/-- The bank that ACC_INIT = 2 loads from the output area: the first tile's (R45, R66, R94); every later tile starts from the identity (R43). -/
def loadBank (s : State) (n : Nat) (d : Desc) (mode : Nat) : List (List Acc) :=
  (List.range (min (gridOf mode).1 d.m)).map fun i =>
    let row := d.cAddr + i * d.cStride
    (List.range (min (gridOf mode).2 d.n)).map fun j =>
      let e := tilRead s n (row + j * outSize d.outfmt) (outSize d.outfmt)
      let sc := if d.outfmt = 5 then tilRead s n (row + d.n + j / 32) 1 else ([], false)
      { val := loadElem d.afmt d.semiring d.outfmt (leNat e.1) (leNat sc.1), poison := e.2 || sc.2 }
/-- Structure in which a core runs a command: mapped-out rows make it a dot-product command (R71). -/
def runMode (a : Array2) (d : Desc) : Nat := if a.rowMap.isEmpty then d.mode else 2
/-- First row and column of a tile: row groups within column groups (R42). -/
def tileAt (d : Desc) (mode t : Nat) : Nat × Nat :=
  let g := gridOf mode
  let rg := cdiv d.m g.1
  ((t % rg) * g.1, (t / rg) * g.2)
/-- The accumulators of a tile after its last product (R37, R43, R64, R66): rows of the tile, columns within each. -/
def tileAccs (s : State) (n : Nat) (x : ArrRun) : List (List Acc) :=
  let d := x.cmd.desc
  let a := (s.core n).arr
  let mode := runMode a d
  let g := gridOf mode
  let (r0, c0) := tileAt d mode x.tile
  let rows := min g.1 (d.m - r0)
  let cols := min g.2 (d.n - c0)
  let bs := (List.range cols).map (fun j => scrOps s n d.bAddr d.bStride d.bScale d.bfmt d.k (c0 + j))
  let dot := if mode = 2 then some a.rowMap else none
  (List.range rows).map fun i =>
    let ar := aRow s n x r0 i
    ((List.range cols).zip bs).map fun (j, br) =>
      let acc := bankAt d x.bank (r0 + i) (c0 + j)
      { val := reduce d.afmt d.semiring (slotElems d.afmt d.bfmt) dot acc.val (ar.1.zip br.1)
        poison := acc.poison || ar.2 || br.2 }

/-! ## The drain (R44, R67, R68, R90) -/

/-- SEG_SCALE when TWO_LEVEL is 1. -/
def segOf (d : Desc) : Option W32 := if d.twoLevel then some d.segScale else none
/-- Convert elements in order, drawing rounding bits for each inexact one: their codes. -/
def drainElems (d : Desc) : List Acc → Seedbox → List Nat × Seedbox
  | [], x => ([], x)
  | a :: t, x =>
    let mode := drainRnd d.round d.rclass
    let r := drawRound x (elemDraw mode d.semiring d.outfmt (segOf d) a.val)
    let u := drainElems d t r.2
    (elemCode mode d.semiring d.outfmt (segOf d) a.val r.1 :: u.1, u.2)
/-- Convert an MXFP8 block's elements in order. -/
def drainBlock (mode : Rnd) (b : MxBlock) : List Num → Seedbox → List Nat × Seedbox
  | [], x => ([], x)
  | v :: t, x =>
    let r := drawRound x (mxDraw mode b v)
    let u := drainBlock mode b t r.2
    (mxCode mode b v r.1 :: u.1, u.2)
/-- What a drain has produced so far. -/
structure Drained where
  seed : Seedbox
  outs : List (Nat × List Byte)
  maps : List (Nat × List Byte)
  psn : List (Nat × Nat)
  rows : List Nat
  cols : W128
  deriving DecidableEq, Repr
/-- Bytes of an element: the value bits of a poisoned one are free (R83, log 2). -/
def elemBytes (free off sz code : Nat) (psn : Bool) : List Byte :=
  natLE sz (if psn then (Config.poisonValue (free * 2 ^ 32 + off)).toNat else code)
/-- Drain one piece of an output row: at most 32 columns from `c0`; an MXFP8 block with one poisoned element is poisoned whole, and the value
bits of its elements and of its scale are free. -/
def drainPiece (free : Nat) (d : Desc) (row c0 : Nat) (as : List Acc) (x : Drained) : Drained :=
  let mode := drainRnd d.round d.rclass
  let base := d.cAddr + row * d.cStride
  let sz := outSize d.outfmt
  let mx := d.outfmt == 5
  let vals := as.map (fun a => drainNum a.val (segOf d))
  let b := mxCase vals
  let r := if mx then drainBlock mode b vals x.seed else drainElems d as x.seed
  let all := as.any (fun a => a.poison)
  let psnOf (a : Acc) : Bool := if mx then all else a.poison
  let es := (r.1.zip as).zip (List.range as.length)
  let bad := (es.filter (fun e => psnOf e.1.2)).map (fun e => e.2)
  let so := base + d.n + c0 / 32
  let scale := if mx then [(so, elemBytes free so 1 (mxByte b) all)] else []
  let word := bad.foldl (fun v j => v ||| 2 ^ ((c0 + j) % 32)) 0
  let map := if d.poisonAddr = 0 then [] else [(d.poisonAddr + 4 * (row * cdiv d.n 32 + c0 / 32), natLE 4 word)]
  { seed := r.2
    outs := x.outs ++ es.map (fun e => (base + (c0 + e.2) * sz, elemBytes free (base + (c0 + e.2) * sz) sz e.1.1 (psnOf e.1.2))) ++ scale
    maps := x.maps ++ map
    psn := x.psn ++ bad.map (fun j => (base + (c0 + j) * sz, sz)) ++ (if mx && all then [(so, 1)] else [])
    rows := if bad.isEmpty then x.rows else ladd x.rows row
    cols := bad.foldl (fun v j => v ||| BitVec.ofNat 128 (2 ^ ((c0 + j) % 128))) x.cols }
/-- Drain a row in pieces of 32 columns, in column order. -/
def drainRow (free : Nat) (d : Desc) (row c0 : Nat) (as : List Acc) (x : Drained) : Drained :=
  ((chunks 32 as.length as).zip (List.range as.length)).foldl (fun y p => drainPiece free d row (c0 + 32 * p.2) p.1 y) x

/-! ## The ring (R58 to R63, R253) -/

/-- Panels of a tile of a ring-fed command. -/
def panelsPerTile (d : Desc) : Nat := cdiv d.k (panelK d)
/-- A slot whose forward is still due: complete, with further visits, and not yet accepted by the successor. -/
def owesForward (r : RingSlot) : Bool := r.complete && r.fwd && decide (1 < r.visits) && !r.forwarded
/-- Free the slots that the array has consumed and that owe no forward (R61). -/
def freeSlots (l : List RingSlot) : List RingSlot := l.filter (fun r => !(r.consumed && !owesForward r))
/-- Payload of a ring slot as the array or the ring port reads it. -/
def slotPanel (s : State) (n : Nat) (r : RingSlot) : Panel :=
  { tag := r.tag, visits := r.visits, panel := r.panel, poison := r.poison, bytes := (tilRead s n (r.off + 32) r.len).1
    psn := (List.range (cdiv r.len 8)).filter (fun i => (tilRead s n (r.off + 32 + 8 * i) 8).2), src := n, srcSlot := r.slot }
/-- The array takes the oldest claimed slot when it is complete and holds the next panel of the present tile (R60, R253). -/
def ringTake (n : Nat) : Nat → State → State
  | 0, s => s
  | k + 1, s =>
    let c := s.core n
    match c.arr.run with
    | none => s
    | some x =>
      let d := x.cmd.desc
      if !d.aring || x.lost || decide (tilesOf d (runMode c.arr d) ≤ x.tile) then s
      else if panelsPerTile d ≤ x.panels.length then
        s.setCore n { c with arr := { c.arr with run := some { x with ringSince := none } } }
      else
        match c.arr.ring.find? (fun r => r.tag == d.tag && !r.consumed) with
        | some r =>
          if r.complete && r.panel == x.panel then
            let x1 := { x with panels := x.panels ++ [slotPanel s n r], panel := x.panel + 1, ringSince := some (now s) }
            let l := c.arr.ring.map (fun y => if y.tag = r.tag ∧ y.slot = r.slot then { y with consumed := true } else y)
            ringTake n k (s.setCore n { c with arr := { c.arr with run := some x1, ring := freeSlots l } })
          else s
        | none => s

/-! ## Commands of the array -/

/-- Whether pending accumulators continue in a command (R46). -/
def continues (p : ArrCmd) (d : Desc) : Bool :=
  let e := p.desc
  e.mode == d.mode && e.semiring == d.semiring && e.afmt == d.afmt && e.bfmt == d.bfmt && e.m == d.m && e.n == d.n &&
  e.twoLevel == d.twoLevel && (!d.twoLevel || e.segScale == d.segScale)
/-- Fill of R57 in a structure. -/
def fillOf (mode : Nat) : Nat := if mode = 0 then 542 else if mode = 1 then 254 else 0
/-- The run that a command at the head of the queue begins; accumulators of a command whose input was overwritten carry that on (R50). -/
def startRun (s : State) (n : Nat) (x : ArrCmd) : ArrRun :=
  let a := (s.core n).arr
  let d := x.desc
  let mode := runMode a d
  let pend := if d.accInit = 1 then a.pend.filter (fun p => continues p.cmd d) else none
  let dirty := match pend with | some p => p.cmd.tainted | none => false
  { cmd := { x with tainted := x.tainted || dirty }, fill := if a.prevMode = some mode then 0 else fillOf mode, tile := 0
    bank := match pend with | some p => p.bank | none => if d.accInit = 2 then loadBank s n d mode else []
    panels := [], panel := 0, outs := [], maps := [], psnOuts := [], lost := d.accInit == 1 && pend.isNone, prows := [], cols := 0
    ringSince := if d.aring then some (now s) else none, mapped := !a.rowMap.isEmpty }
/-- ARRAY_COMMAND_START (R46, R52, R57): the continuation check; any other command discards pending accumulators. The output bytes, undefined to
every reader since the issue (`scrRead`), are free values from here until DONE (R50). The command leaves the queue, which then has room for
8 more (DESIGN CHOICE, log 13: the spec does not say whether the running command counts among the 8). -/
def execArrayCommandStart (q c : Nat) (s : State) : Out :=
  let n := 64 * q + c
  let k := s.core n
  match k.arr.queue with
  | [] => .next s
  | x :: t =>
    let r := startRun s n x
    let s1 := s.setCore n { k with arr := { k.arr with queue := t, run := some r, pend := none, prevMode := none } }
    evt (wfCore q c && k.arr.run.isNone && !k.arr.testing) s (ringTake n 9 (if r.lost then s1 else undefArea n x.desc s1))

/-- A completed bank kept in place of the output: the tile's accumulators in the whole bank. -/
def keepTile (d : Desc) (mode t : Nat) (b : List (List Acc)) (new : List (List Acc)) : List (List Acc) :=
  let (r0, c0) := tileAt d mode t
  (List.range d.m).map fun i => (List.range d.n).map fun j =>
    match (if r0 ≤ i ∧ c0 ≤ j then (new.getD (i - r0) [])[j - c0]? else none) with | some a => a | none => bankAt d b i j
/-- ARRAY_TILE_END (R42 to R45): the tile's reduction is complete; it is converted, or left in its bank with DRAIN = 0. -/
def execArrayTileEnd (q c : Nat) (s : State) : Out :=
  let n := 64 * q + c
  let k := s.core n
  match k.arr.run with
  | none => .next s
  | some x =>
    let d := x.cmd.desc
    let mode := runMode k.arr d
    let ready := wfCore q c && !x.lost && decide (x.tile < tilesOf d mode) && (!d.aring || decide (panelsPerTile d ≤ x.panels.length)) &&
                 (d.round != 2 || k.seed.roundKey.isSome)
    let accs := tileAccs s n x
    let (r0, c0) := tileAt d mode x.tile
    let d0 : Drained := { seed := k.seed, outs := x.outs, maps := x.maps, psn := x.psnOuts, rows := x.prows, cols := x.cols }
    let more := decide (x.tile + 1 < tilesOf d mode)
    let dr := (accs.zip (List.range accs.length)).foldl (fun y p => drainRow s.free d (r0 + p.2) c0 p.1 y) d0
    let x1 : ArrRun := if d.drain
      then { x with tile := x.tile + 1, panels := [], outs := dr.outs, maps := dr.maps, psnOuts := dr.psn, prows := dr.rows, cols := dr.cols
                    ringSince := if d.aring && more then some (now s) else none }
      else { x with tile := x.tile + 1, panels := [], bank := keepTile d mode x.tile x.bank accs
                    ringSince := if d.aring && more then some (now s) else none }
    let s1 := s.setCore n { k with arr := { k.arr with run := some x1 }, seed := if d.drain then dr.seed else k.seed }
    evt (ready && (!d.drain || d.round != 2 || !roundDry dr.seed)) s (ringTake n 9 { s1 with free := s1.free + 1 })

/-- Steps of one tile's reduction with p (R57) and the A bytes of R40. DESIGN CHOICE (log 13): a pair that Table 2-3 lacks (an MXFP4, MXFP6 or
MXFP8 A with a 16-bit B) takes the A bytes of its A format's row, and a product with a / 512 that is no whole number rounds up. -/
def tileSteps (d : Desc) : Nat :=
  let t := cdiv (2 * d.k) (rate2 d.afmt d.bfmt)
  let a := match d.afmt with | 4 => 544 | 2 => 800 | 3 => 800 | 6 => 512 | 7 => 512 | 8 => 512 | 9 => 512 | _ => 528
  if d.aring ∧ 512 < a then cdiv (t * a) 512 else t
/-- Rows of each row group of a dot-product command. -/
def groupRows (m : Nat) : List Nat := (List.range (cdiv m 512)).map (fun g => min 512 (m - 512 * g))
/-- L of R57 or R65. -/
def stepsOf (d : Desc) (mode fill ks : Nat) : Nat :=
  let ini := if d.accInit = 2 then 128 else 0
  if mode = 2 then
    let qq := if inBits d.afmt = 16 ∨ inBits d.bfmt = 16 then 2 else 1
    let one := ((groupRows d.m).map (fun mt => cdiv d.k ks * (128 + mt) * qq + 128)).foldl (· + ·) 0
    12 + cdiv d.n 32 * one + 10 + ini
  else fill + tilesOf d mode * max (tileSteps d) 128 + (if d.drain then 128 else 0) + 10 + ini

/-- Mark the contexts that a command's own launch placed in poisoned tall-mode columns (R68). -/
def markColumns (n launch : Nat) (cols : W128) (s : State) : State :=
  modRun launch (fun r => { r with cols := r.cols.map (fun x =>
    if x.core = n ∧ (List.range 4).any (fun g => cols.getLsbD (x.col + 32 * g)) then { x with marked := true } else x) }) s
/-- Ranges that a run marks as poisoned: any of its outputs, as free bits decide, when a sheaf overwrote an input (R50). -/
def marksOf (free : Nat) (x : ArrRun) : List (Nat × Nat) :=
  if x.cmd.tainted then (x.outs.map (fun o => (o.1, o.2.length))).filter (fun o => (Config.undefMark free (4 + o.1)).getLsbD 0) else x.psnOuts
/-- The output bytes and map words, then the marks, become visible; with overwritten inputs the results stay undefined (R50, R51). -/
def applyOuts (n : Nat) (x : ArrRun) (s : State) : State :=
  (marksOf s.free x).foldl (fun a p => tilMark n p.1 p.2 a) (writeOuts n x (x.outs ++ x.maps) s)
/-- CODE of a run that has completed: POISONED when it drained poison, and free when a sheaf overwrote an input (R50, R56). -/
def doneCode (free : Nat) (x : ArrRun) : Nat :=
  if x.cmd.tainted then b2n ((Config.undefMark free 3).getLsbD 0) else b2n (!x.prows.isEmpty)
/-- ARRAY_COMMAND_DONE (R51, R56): outputs, then the status record with DONE; a ring-fed command waits for its forwards (log 13). -/
def execArrayCommandDone (q c : Nat) (s : State) : Out :=
  let n := 64 * q + c
  let k := s.core n
  match k.arr.run with
  | none => .next s
  | some x =>
    let d := x.cmd.desc
    let mode := runMode k.arr d
    let done := wfCore q c && (x.lost || (decide (tilesOf d mode ≤ x.tile) &&
      !k.arr.ring.any (fun r => r.tag == d.tag && owesForward r)))
    let pend := if d.drain || x.lost then none else some { cmd := x.cmd, bank := x.bank : Pending }
    let a1 := { k.arr with run := none, pend := pend, prevMode := if k.arr.queue.isEmpty || x.lost then none else some mode
                           ring := if x.lost then k.arr.ring.filter (fun r => r.tag != d.tag || !d.aring) else k.arr.ring }
    let s1 := s.setCore n { k with arr := a1 }
    let s2 := if x.lost then endEarly n d 0x20 x.mapped false (some 10) none s1
      else
        let p := poisonFields s.free x
        let rec32 := statusRec (doneCode s.free x) x.mapped false p.1 p.2.1 (stepsOf d mode x.fill (512 - k.arr.rowMap.length)) p.2.2
        let s3 := tilWrite n d.statusAddr rec32 false (applyOuts n x { s1 with free := s1.free + 1 })
        if d.mode = 0 then markColumns n x.cmd.launch.toNat p.2.2 s3 else s3
    evt done s (deliverAwaits n d.statusAddr s2)

/-- A slot's panel stands in some inbound port. -/
def inTransit (s : State) (n : Nat) (r : RingSlot) : Bool :=
  (List.range 256).any (fun m => match (s.core m).arr.inbound with
    | some p => p.src == n && p.srcSlot == r.slot && p.tag == r.tag
    | none => false)
/-- RING_SLOT_FORWARD (R61, R62): a completed slot with further visits enters the successor's inbound port, once that is free; the slot
stays held until the successor accepts it. -/
def execRingSlotForward (q c i : Nat) (s : State) : Out :=
  let n := 64 * q + c
  let k := s.core n
  match k.arr.ring[i]? with
  | none => .next s
  | some r =>
    let held := s.setCore n { k with arr := { k.arr with ring := lmod k.arr.ring i (fun y =>
      { y with fwdSince := match y.fwdSince with | some t => some t | none => some (now s) }) } }
    let sent := match successor s n r.dir with
      | some m =>
        let o := held.core m
        if o.arr.inbound.isNone then
          held.setCore m { o with arr := { o.arr with inbound := some { slotPanel s n r with visits := r.visits - 1 } } }
        else held
      | none => held
    evt (wfCore q c && owesForward r && (r.fwdSince.isNone || !inTransit s n r)) s sent

/-- Ring-fed commands of a core, running first. -/
def ringCmds (a : Array2) : List ArrCmd := ((a.run.toList.map (fun r => r.cmd)) ++ a.queue).filter (fun x => x.desc.aring)
/-- The free slot of a command's ring buffer that a panel or a prefetch claims: the lowest-numbered one (DESIGN CHOICE, log 13: the spec does
not say which). -/
def freeRing (a : Array2) (d : Desc) : Option Nat :=
  (List.range (ringSlots d)).find? (fun i => !a.ring.any (fun r => r.tag == d.tag && r.slot == i))
/-- A ring slot header (Table 2-9). -/
def ringHeader (tag visits panel : Nat) (psn : Bool) : List Byte :=
  natLE 1 tag ++ natLE 1 visits ++ natLE 2 0 ++ natLE 4 panel ++ natLE 8 (b2n psn) ++ natLE 16 0
/-- A claimed slot of a command's buffer. -/
def claimSlot (d : Desc) (i visits panel : Nat) (psn complete : Bool) : RingSlot :=
  { slot := i, off := slotOff d i, len := panelK d * panelB d.afmt, fwd := d.fwd, dir := d.dir, tag := d.tag, visits := visits
    panel := panel, poison := psn, complete := complete, consumed := false, forwarded := false, fwdSince := none }
/-- Write a panel's payload and marks into a slot, then its header (R255). -/
def writePanel (n : Nat) (d : Desc) (i : Nat) (p : Panel) (s : State) : State :=
  let off := slotOff d i + 32
  let s1 := p.psn.foldl (fun a w => tilMark n (off + 8 * w) 8 a) (tilWrite n off p.bytes false s)
  tilWrite n (slotOff d i) (ringHeader p.tag p.visits p.panel p.poison) false s1
/-- The sender's slot is released once its forward is accepted. -/
def releaseSender (p : Panel) (s : State) : State :=
  let c := s.core p.src
  let l := c.arr.ring.map (fun r => if r.tag = p.tag ∧ r.slot = p.srcSlot then { r with forwarded := true, fwdSince := none } else r)
  s.setCore p.src { c with arr := { c.arr with ring := freeSlots l } }
/-- RING_PANEL_ACCEPT (R62): the inbound panel takes a free slot of the queued command with its TAG. -/
def execRingPanelAccept (q c : Nat) (s : State) : Out :=
  let n := 64 * q + c
  let k := s.core n
  match k.arr.inbound with
  | none => .next s
  | some p =>
    match (ringCmds k.arr).find? (fun x => x.desc.tag == p.tag) with
    | none => .next s
    | some x =>
      match freeRing k.arr x.desc with
      | none => .next s
      | some i =>
        let s1 := s.setCore n { k with arr := { k.arr with inbound := none
                                                           ring := k.arr.ring ++ [claimSlot x.desc i p.visits p.panel p.poison true] } }
        evt (wfCore q c) s (ringTake n 9 (releaseSender p (writePanel n x.desc i p s1)))

/-- Time that a stamp's wait has lasted is at least 100 µs. -/
def waited100 (s : State) (t : Option W64) : Bool := heldFor s t (100 * us)
/-- A ring-fed command whose wait has lasted 100 µs (R63), with its run if it is running: the arrival wait is the running command's; the
forward of a complete slot may belong to a queued one. -/
def timedOut (s : State) (a : Array2) (outbound : Bool) : Option (Desc × Option ArrRun) :=
  let late (x : ArrCmd) : Bool := x.desc.aring && a.ring.any (fun r => r.tag == x.desc.tag && owesForward r && waited100 s r.fwdSince)
  match a.run.filter (fun x => x.cmd.desc.aring && !x.lost && (if outbound then late x.cmd else waited100 s x.ringSince)) with
  | some x => some (x.cmd.desc, some x)
  | none => if outbound then (a.queue.find? late).map (fun x => (x.desc, none)) else none
/-- RING_TIMEOUT (R63): the command ends; its slots are flushed, its waiting panel and PFRs discarded. -/
def execRingTimeout (q c : Nat) (outbound : Bool) (s : State) : Out :=
  let n := 64 * q + c
  let k := s.core n
  match timedOut s k.arr outbound with
  | none => .next s
  | some (d, part) =>
    let a1 : Array2 := { k.arr with
      run := if part.isSome then none else k.arr.run
      queue := if part.isSome then k.arr.queue else k.arr.queue.filter (fun x => !(x.desc.aring && x.desc.tag == d.tag))
      prevMode := if part.isSome then none else k.arr.prevMode
      ring := k.arr.ring.filter (fun r => r.tag != d.tag)
      inbound := k.arr.inbound.filter (fun p => p.tag != d.tag) }
    let s1 := s.setCore n { k with arr := a1, pfr := k.pfr.filter (fun b => b.tag != d.tag) }
    evt (wfCore q c) s
      (deliverAwaits n d.statusAddr (endEarly n d 0x10 (!k.arr.rowMap.isEmpty) outbound none part s1))

/-! ## Faults and self-tests (R69 to R74) -/

/-- ARRAY_FAULT (R69): the core is faulty; its runs are re-dispatched and it resets. No status record is written. -/
def execArrayFault (q c furrow : Nat) (s : State) : Out :=
  let n := 64 * q + c
  evt (wfCore q c && decide (furrow < 4) && coreFitted s n && (s.core n).arr.run.isSome) s
    (coreReset n (alarmW 0x0801 (srcCore n) [furrow] s))

/-- SELF_TEST_START (R70): in service, the interval since the last test has expired and the array queue is empty. Pending accumulators are
discarded, since the test drives every cell (DESIGN CHOICE, log 13: the spec does not say what becomes of them). -/
def execSelfTestStart (q c : Nat) (s : State) : Out :=
  let n := 64 * q + c
  let k := s.core n
  evt (wfCore q c && k.inService && !k.arr.testing && k.arr.queue.isEmpty && k.arr.run.isNone &&
       aged s k.arr.lastTest (s.pel.testInterval * sec1)) s
    (syncRoles [n] (s.setCore n { k with arr := { k.arr with testing := true, pend := none, prevMode := none } }))

/-- The rows of a self-test's result, ascending. -/
def failRows (rows : List Nat) : List Nat := (rows.filter (fun r => decide (r < 512))).foldl ladd []
/-- A core returns from a self-test with a row map (R71), passing when the test found nothing new; it enters service once it holds a rounding
key (R196), and joins the ring when no command runs in its quarter (R58). -/
def passTest (n : Nat) (map : List Nat) (pass : Bool) (s : State) : State :=
  let k := s.core n
  syncRing (n / 64) (s.setCore n { k with
    arr := { k.arr with testing := false, rowMap := map, lastPass := if pass then now s else k.arr.lastPass, lastTest := now s }
    inService := k.seed.roundKey.isSome && k.seed.roundFail.isNone
    fenced := false
    fallow := if k.seed.roundFail.isNone then 1 else 3 })
/-- Failing rows that a test finds anew: in service, those that the map lacks, since it lasts until the next reset (R73). -/
def newRows (c : Core) (rows : List Nat) : List Nat := (failRows rows).filter (fun r => !(c.inService && c.arr.rowMap.contains r))
/-- What a self-test that ends does to its core: no new failing cell, at most 8 rows mapped out, or a fence; a failure in service alarms, and
resets the core, whose own self-test then builds the row map (R71 to R74). -/
def testResult (n : Nat) (rows : List Nat) (other : Bool) (s : State) : State :=
  let k := s.core n
  let fails := failRows rows
  if (newRows k rows).isEmpty && !other then passTest n (if k.inService then k.arr.rowMap else []) true s
  else
    let s0 := s.setCore n { k with arr := { k.arr with lastTest := now s } }
    let s1 := if k.inService then alarmW 0x0802 (srcCore n) [k.arr.lastPass.toNat, (now s).toNat] s0
              else alarmW 0x0306 (srcCore n) [fails.length] s0
    if other || decide (8 < fails.length) then fenceCore n s1
    else if k.inService then coreReset n s1
    else passTest n fails false s1
/-- SELF_TEST_RESULT (R71 to R74). -/
def execSelfTestResult (q c : Nat) (rows : List Nat) (other : Bool) (s : State) : Out :=
  let n := 64 * q + c
  evt (wfCore q c && coreFitted s n && (s.core n).arr.testing) s (syncRoles [n] (testResult n rows other s))

end Sys2Proof.Machine
end

