-- ==== Sys2Proof/Machine/SheafMem.lean ====
section
/-! DEFINITION. Loads, stores and bulk operations of sheaves (04 R121 to R128, 05 R168 to R173, 07 R242, 08 R249 to R251). A global access
becomes requests at its home halves; scratch, hub SRAM and the tilth cache answer at once (log 15). -/
namespace Sys2Proof.Machine

/-! ## The element forms of MEM (R168, R169) -/

/-- SPACE, SIZE, SIGN. -/
def memSpace (w : Nat) : Nat := bits w 43 42
/-- SIZE. -/
def memSize (w : Nat) : Nat := bits w 46 44
/-- SIGN. -/
def memSign (w : Nat) : Bool := bit w 47
/-- Registers of a data operand. -/
def dataRegs (size : Nat) : Nat := if size = 3 then 2 else if size = 4 then 4 else 1
/-- Form of LD and ST. -/
def memForm (load : Bool) (w : Nat) : Form :=
  { regs := [24, 33]
    opds := [⟨24, if memSize w = 4 then 9 else 15, dataRegs (memSize w), load⟩, ⟨33, 11, if memSpace w = 1 then 2 else 1, false⟩]
    used := fmask 42 2 ||| fmask 44 3 ||| fmask 47 1 ||| (if wExt w then 0 else fmask 48 16)
    types := []
    ok := decide (memSpace w ≤ 1) && decide (memSize w ≤ 4) && !(memSign w && (!load || decide (2 ≤ memSize w)))
    ext := true, guard := true, lanewise := false }
/-- The offset of an element access. -/
def memOfs (w e : Nat) : Int := if wExt w then signed 60 (e >>> 4) else sfield w 63 48
/-- The address of a lane: a scratch offset as an integer, or a virtual address modulo 2^64. -/
def laneAddr (v : Env) (space sp : Nat) (ofs : Int) (lane : Nat) : Int :=
  if space = 0 then (rd32 v.f sp lane : Int) + ofs else (wrapInt 64 ((rdN v.f sp 2 lane : Int) + ofs) : Int)

/-- Lanes of a list that meet a condition, as a fault with the lowest one's address. -/
def laneFault (cause detail : Nat) (l : List (Nat × Int)) : Res :=
  .fault cause detail (maskOf (l.map Prod.fst)) (wrapInt 64 ((l.headD (0, 0)).2))
/-- The address faults of lanes, in the order of R190: 0x45, 0x44, TRANSLATION. -/
def addrFault (s : State) (v : Env) (space size : Nat) (k : Acc2) (l : List (Nat × Int)) : Option Res :=
  let mis := l.filter (fun e => e.2 % (size : Int) != 0)
  let out := l.filter (fun e => decide (e.2 < 0) || decide ((v.stook.size : Int) < e.2 + size))
  let bad := l.filter (fun e => match translate s v.run.group e.2.toNat k with | .error _ => true | .ok _ => false)
  if !mis.isEmpty then some (laneFault 4 0x45 mis)
  else if space = 0 then (if out.isEmpty then none else some (laneFault 4 0x44 out))
  else match bad with
    | [] => none
    | (_, a) :: _ => match translate s v.run.group a.toNat k with | .error d => some (laneFault 1 d bad) | .ok _ => none
/-- The physical address and class of a virtual one that translates. -/
def physOf (s : State) (g va : Nat) (k : Acc2) : Nat × Nat :=
  match translate s g va k with | .ok (pa, m) => (pa, m.cls) | .error _ => (0, 0)

/-! ## The tilth cache (R123, R242) -/

/-- Tag of a sector in the tilth cache: its physical address (R242). -/
def tcTag (pa : Nat) : Nat := pa / 64
/-- A hit. -/
def tcFind (c : Core) (tag : Nat) : Option TLine := c.tcache.find? (fun x => x.line == tag)
/-- Update the issuing core's copy of a sector when it holds one. -/
def tcUpdate (n tag off : Nat) (b : List Byte) (s : State) : State :=
  let c := s.core n
  s.setCore n { c with tcache := c.tcache.map (fun x => if x.line = tag then { x with bytes := splice x.bytes off b } else x) }
/-- Drop a sector from a core's copy. -/
def tcDrop (n tag : Nat) (s : State) : State :=
  let c := s.core n
  s.setCore n { c with tcache := c.tcache.filter (fun x => x.line != tag) }
/-- Fill a sector: the lowest empty way of its set, else the way of the round-robin pointer (R242). -/
def tcFill (n tag : Nat) (b : List Byte) (s : State) : State :=
  let c := s.core n
  let set := tag % 1024
  let ways := c.tcache.filter (fun x => x.set == set)
  let p := tget 0 c.trr set
  if ways.any (fun x => x.line == tag) then tcUpdate n tag 0 b s
  else match (List.range c.cunits).find? (fun w => !ways.any (fun x => x.way == w)) with
    | some w => s.setCore n { c with tcache := { set := set, way := w, line := tag, bytes := b } :: c.tcache }
    | none =>
      let rest := c.tcache.filter (fun x => !(x.set == set && x.way == p))
      s.setCore n { c with tcache := { set := set, way := p, line := tag, bytes := b } :: rest
                           trr := tset 0 c.trr set ((p + 1) % (max c.cunits 1)) }

/-! ## LD (R168) -/

/-- Bytes of an access size. -/
def sizeBytes (size : Nat) : Nat := 2 ^ size
/-- A loaded value as the destination receives it. -/
def loadVal (size : Nat) (sign : Bool) (b : List Byte) : Nat :=
  let x := leNat b
  if sign ∧ size = 0 then wrapInt 32 (signed 8 x) else if sign ∧ size = 1 then wrapInt 32 (signed 16 x) else x
/-- Lanes that a load serves: every executing one, or one for the sheaf with a u or p destination. -/
def memLanes (v : Env) (dst : Nat) : List Nat :=
  if regClass dst = 2 ∨ regClass dst = 4 then (lanesOf v.m).take 1 else lanesOf v.m
/-- What serves a global lane at once: hub SRAM or the tilth cache; none when a granary must. -/
def loadNow (s : State) (v : Env) (pa size : Nat) : Option (List Byte × Nat) :=
  match place s pa with
  | .hub _ => let d := cohRead s v.run.stage pa (sizeBytes size); some (d.1, if d.2 then 4 else 0)
  | .lpddr | .plot _ _ =>
    match tcFind (s.core v.n) (tcTag pa) with
    | some x => some (slice x.bytes (pa % 64) (sizeBytes size), 0)
    | none => none
  | _ => let d := cohRead s v.run.stage pa (sizeBytes size); some (d.1, if d.2 then 2 else 0)
/-- One lane of a load that issues. -/
def laneLoad (s : State) (v : Env) (space size : Nat) (e : Nat × Int) : LaneLoad :=
  if space = 0 then
    let d := scrRead s v.n (v.stook.base + e.2.toNat) (sizeBytes size)
    { lane := e.1, addr := e.2.toNat, data := some (BitVec.ofNat 128 (leNat d.1), if d.2 then 1 else 0) }
  else
    let p := physOf s v.run.group e.2.toNat .read
    { lane := e.1, addr := p.1, data := (loadNow s v p.1 size).map (fun x => (BitVec.ofNat 128 (leNat x.1), x.2)) }
/-- Distinct sectors, in order. -/
def sectorsOf (l : List Nat) : List Nat := l.foldl (fun a p => if a.contains (p / 64 * 64) then a else a ++ [p / 64 * 64]) []
/-- A core's request for a sector. -/
def coreReq (s : State) (v : Env) (pa cls : Nat) (op : GOp) (req : Requester) : GReq :=
  { pa := pa, op := op, req := req, cls := cls, master := coreMaster s v.n pa, slot := groupSlot s v.run.group, stage := v.run.stage
    retry := none }
/-- The lanes of a memory instruction, each with its address. -/
def memAddrs (v : Env) (lanes : List Nat) : List (Nat × Int) :=
  lanes.map (fun i => (i, laneAddr v (memSpace v.w) (bits v.w 41 33) (memOfs v.w v.e) i))
/-- The class of each sector that lanes touch: that of the page by which its first lane reaches it (R240). -/
def sectorClasses (s : State) (g : Nat) (k : Acc2) : List (Nat × Int) → Tab Nat
  | [] => []
  | e :: t => let p := physOf s g e.2.toNat k; tput (sectorClasses s g k t) (p.1 / 64) p.2
/-- The load that issues: every lane's place, with the data of those that scratch, hub SRAM or the tilth cache serve at once. -/
def ldRecord (v : Env) (s : State) : Load :=
  let l := memAddrs v (memLanes v (bits v.w 32 24))
  { dst := bits v.w 32 24, size := memSize v.w, sign := memSign v.w, glob := memSpace v.w == 1, instr := BitVec.ofNat 64 v.w, pc := v.f.pc
    active := v.f.active, exec := v.m, lanes := l.map (laneLoad s v (memSpace v.w) (memSize v.w))
    vaddr := l.map (fun e => (e.1, BitVec.ofInt 64 e.2))
    cls := if memSpace v.w = 1 then sectorClasses s v.run.group .read l else []
    atomic := false }
/-- The load stands in its sheaf, and the sectors that nothing serves at once are requested. -/
def ldSend (v : Env) (s : State) : State :=
  let c := s.core v.n
  let ld := ldRecord v s
  let s1 := s.setCore v.n { c.setSheaf v.sl { v.f with loads := tput v.f.loads c.nextLoad ld } with nextLoad := c.nextLoad + 1 }
  let need := sectorsOf ((ld.lanes.filter (fun x => x.data.isNone)).map (fun x => x.addr))
  sendReqs (need.map (fun pa => coreReq s v pa (tget 0 ld.cls (pa / 64)) .read (.load v.n v.sl c.nextLoad))) s1
/-- LD: address faults, then poison met at issue; the granary's sectors are requested. -/
def ldBody (v : Env) (s : State) : Res :=
  let l := memAddrs v (memLanes v (bits v.w 32 24))
  match addrFault s v (memSpace v.w) (sizeBytes (memSize v.w)) .read l with
  | some r => r
  | none =>
    let bad := ((ldRecord v s).lanes.zip l).filter (fun x => match x.1.data with | some (_, d) => d != 0 | none => false)
    match bad with
    | (x, _) :: _ => laneFault 2 (match x.data with | some (_, d) => d | none => 0) (bad.map Prod.snd)
    | [] => .go (ldSend v s) none
/-- Row of LD. -/
def rowLd : SheafRow := { form := memForm true, mem := true, hidden := fun _ => [], body := ldBody }

/-- Write a completed load's destination. -/
def loadWrite (f : Sheaf) (x : Load) : Sheaf :=
  let vals := x.lanes.map (fun y => (y.lane, match y.data with
    | some (d, _) => loadVal x.size x.sign (natLE (sizeBytes x.size) d.toNat) | none => 0))
  wrN f x.dst x.exec (dataRegs x.size) vals
/-- Raise the POISON_READ of a load that has returned: the record names the load; the sheaf, which has gone on issuing under R112, parks where it
has reached (log 16). -/
def poisonFault (n sl : Nat) (x : Load) (s : State) : State :=
  let bad := x.lanes.filter (fun y => match y.data with | some (_, d) => d != 0 | none => false)
  let d := match bad with | y :: _ => (match y.data with | some (_, k) => k | none => 0) | [] => 0
  let lanes := maskOf (bad.map (fun y => y.lane))
  let addr := match bad with | y :: _ => (tget 0 x.vaddr y.lane).toNat | [] => 0
  raiseAt n sl x.pc x.active 2 d lanes addr x.instr.toNat s
/-- Bytes a to a + len - 1 of the lane touch the 8-byte word w. -/
def touches (a len w : Nat) : Bool := decide (a / 8 ≤ w) && decide (w ≤ (a + len - 1) / 8)
/-- Replace the lanes of a load that stands. -/
def reloadLanes (n sl ld : Nat) (p : LaneLoad → LaneLoad) (s : State) : State :=
  let g := s.sheaf n sl
  match tfind g.loads ld with
  | some z => s.setSheaf n sl { g with loads := tput g.loads ld { z with lanes := z.lanes.map p } }
  | none => s
/-- A load of scratch reads the stored word of its first lane with wrong bits: the lanes that read that word take it as it then stands. -/
def scratchFound (n sl ld base : Nat) (x : Load) (y0 : LaneLoad) (err : Nat) (s : State) : State :=
  let w := (base + y0.addr) / 8
  let s1 := demandTilth (0x4_0000 * n + w) err s
  let again (y : LaneLoad) : LaneLoad :=
    let d := scrRead s1 n (base + y.addr) (sizeBytes x.size)
    if touches (base + y.addr) (sizeBytes x.size) w then { y with data := some (BitVec.ofNat 128 (leNat d.1), if d.2 then 1 else 0) } else y
  if scrRead s n (8 * w) 8 = scrRead s1 n (8 * w) 8 then s1 else reloadLanes n sl ld again s1
/-- A load of hub SRAM reads the stored word of its first lane with wrong bits: an uncorrectable one is delivered poisoned (Table 11-3). -/
def hubFound (n sl ld off : Nat) (stage : Option Nat) (x : Load) (y0 : LaneLoad) (err : Nat) (s : State) : State :=
  let w := y0.addr / 8
  let s1 := demandHub (off / 8) err s
  let again (y : LaneLoad) : LaneLoad :=
    let d := cohRead s1 stage y.addr (sizeBytes x.size)
    if touches y.addr (sizeBytes x.size) w then { y with data := some (BitVec.ofNat 128 (leNat d.1), if d.2 then 4 else 0) } else y
  if cohRead s stage (8 * w) 8 = cohRead s1 stage (8 * w) 8 then s1 else reloadLanes n sl ld again s1
/-- A load reads its first lane's word in a line of the tilth cache with wrong bits: an uncorrectable one has the line fetched again from its home
granary, and the lanes that it served wait for it (Table 11-3). -/
def cacheFound (n sl ld : Nat) (x : Load) (y0 : LaneLoad) (l : TLine) (err : Nat) (s : State) : State :=
  let w := y0.addr / 8
  let s1 := readCached n 0 l (w % 8) (bits err 71 0) s
  match tcFind (s1.core n) l.line with
  | some z1 =>
    let again (y : LaneLoad) : LaneLoad :=
      if y.addr / 64 = l.line ∧ touches y.addr (sizeBytes x.size) w then
        { y with data := some (BitVec.ofNat 128 (leNat (slice z1.bytes (y.addr % 64) (sizeBytes x.size))), 0) } else y
    if z1 = l then s1 else reloadLanes n sl ld again s1
  | none =>
    match (stookOf s n (s.sheaf n sl)).bind (fun t => runOf s t.launch) with
    | some r =>
      sendReq { pa := 64 * l.line, op := .read, req := .load n sl ld, cls := tget 0 x.cls l.line, master := coreMaster s n (64 * l.line)
                slot := groupSlot s r.group, stage := r.stage, retry := none }
        (reloadLanes n sl ld (fun y => if y.addr / 64 = l.line then { y with data := none } else y) s1)
    | none => s1
/-- A load reads the stored word of its first lane, with the wrong bits that err gives (log 19), in scratch, in hub SRAM, or in a line of the tilth
cache. -/
def loadFound (n sl ld : Nat) (x : Load) (err : Nat) (s : State) : State :=
  if x.atomic || err == 0 then s
  else match x.lanes, stookOf s n (s.sheaf n sl) with
    | y0 :: _, some t =>
      if !x.glob then scratchFound n sl ld t.base x y0 err s
      else match place s y0.addr with
        | .hub off => hubFound n sl ld off ((runOf s t.launch).bind (fun r => r.stage)) x y0 err s
        | _ => match tcFind (s.core n) (tcTag y0.addr) with | some z => cacheFound n sl ld x y0 z err s | none => s
    | _, _ => s
/-- A load whose data has arrived writes its destination, or faults on a poisoned word. -/
def loadArrive (n sl ld : Nat) (s : State) : State :=
  let f := s.sheaf n sl
  match tfind f.loads ld with
  | none => s
  | some x =>
    if x.lanes.any (fun y => y.data.isNone) then s
    else if !x.atomic && x.lanes.any (fun y => match y.data with | some (_, d) => d != 0 | none => false) then poisonFault n sl x s
    else s.setSheaf n sl (loadWrite { f with loads := tdel f.loads ld } x)
/-- A cell of the register file fails its parity check from now on: register 7:0, lane 12:8, failing reads 14:13 (R143, log 19). -/
def cellFails (n sl par : Nat) (s : State) : State :=
  let f := s.sheaf n sl
  if bits par 14 13 = 0 then s
  else s.setSheaf n sl { f with regBad := tput f.regBad (32 * bits par 7 0 + bits par 12 8) (bits par 14 13) }
/-- LOAD_DATA_RETURN (R145): the data of a load, or an atomic's old value, arrives in the destination; a poisoned word faults. A parked sheaf
takes no data until it is resolved. The load may meet an error (R324, R325), a register cell may begin to fail (R143), and an entry of the sheaf's
slot state may be read with wrong bits (R320). Operand err (log 19): word 71:0, copies of its state bits 77:72, register cell 92:78, entry 131:93. -/
def execLoadDataReturn (q c sl ld : Nat) (err : BitVec 132) (s : State) : Out :=
  let n := 64 * q + c
  let f := s.sheaf n sl
  match tfind f.loads ld with
  | none => .next s
  | some x =>
    evt (wfSheaf q c sl && x.lanes.all (fun y => y.data.isSome) && !f.parked && oneCopy (bits err.toNat 77 72)) s
      (slotEntry n (bits err.toNat 131 93)
        (cellFails n sl (bits err.toNat 92 78) (loadArrive n sl ld (loadFound n sl ld x (bits err.toNat 77 0) s))))

/-! ## ST (R123, R168) -/

/-- The bytes that a store's lanes write to one sector, lanes ascending; and whether any lane stores there. -/
def sectorBytes (sec size : Nat) : List (Nat × Nat) → Mem → Mem
  | [], m => m
  | (pa, x) :: t, m =>
    sectorBytes sec size t (if pa / 64 * 64 = sec then
      ((natLE (sizeBytes size) x).zip (List.range 16)).foldl (fun a b => tput a (pa % 64 + b.2) b.1) m else m)
/-- Bytes at consecutive offsets, in runs: offset and bytes. -/
def byteRuns : Mem → List (Nat × List Byte)
  | [] => []
  | (o, b) :: t =>
    match byteRuns t with
    | [] => [(o, [b])]
    | (p, l) :: r => if p = o + 1 then (o, b :: l) :: r else (o, [b]) :: (p, l) :: r
/-- Write listed bytes of a sector as a party does, in runs of consecutive bytes. -/
def writeBytes (stage : Option Nat) (master slot pa : Nat) (psn : Bool) (m : Mem) (s : State) : State :=
  (byteRuns m).foldl (fun a e => sectorWrite a stage master slot (pa + e.1) e.2 psn) s
/-- An outstanding instruction of a sheaf: k requests still due under an identifier, and the lanes behind them: lane, physical address, bytes. -/
def addOut (id k : Nat) (lanes : List (Nat × Nat × Nat)) (f : Sheaf) : Sheaf :=
  if k = 0 then f else { f with memOut := tput f.memOut id k, memLanes := tput f.memLanes id lanes, stOut := f.stOut + k }
/-- The value that a lane stores. -/
def stVal (v : Env) (i : Nat) : Nat := rdN v.f (bits v.w 32 24) (dataRegs (memSize v.w)) i % 2 ^ (8 * sizeBytes (memSize v.w))
/-- ST to scratch, lanes ascending. -/
def stScr (v : Env) (s : State) : State :=
  (memAddrs v (lanesOf v.m)).foldl (fun a e =>
    scrWrite v.n (v.stook.base + e.2.toNat) (natLE (sizeBytes (memSize v.w)) (stVal v e.1)) false a) s
/-- ST to global memory: hub SRAM is written at once, the other sectors become requests at their home halves; the core's own copies follow. -/
def stFar (v : Env) (s : State) : State :=
  let size := memSize v.w
  let l := memAddrs v (lanesOf v.m)
  let ps := l.map (fun e => ((physOf s v.run.group e.2.toNat .write).1, stVal v e.1))
  let cls := sectorClasses s v.run.group .write l
  let secs := sectorsOf (ps.map Prod.fst)
  let c := s.core v.n
  let id := c.nextLoad
  let far := secs.filter (fun pa => !isHub s pa)
  let lanes := (memAddrs v (lanesOf v.m)).zip (ps.map Prod.fst) |>.map (fun e => (e.1.1, e.2, sizeBytes size))
  let s1 := s.setCore v.n { c.setSheaf v.sl (addOut id far.length lanes v.f) with nextLoad := id + 1 }
  let s2 := (secs.filter (isHub s)).foldl (fun a pa =>
    writeBytes v.run.stage 0 0 pa false (sectorBytes pa size ps []) a) s1
  let s3 := far.foldl (fun a pa =>
    (sectorBytes pa size ps []).foldl (fun x b => tcUpdate v.n (tcTag pa) b.1 [b.2] x) a) s2
  sendReqs (far.map (fun pa =>
    coreReq s v pa (tget 0 cls (pa / 64)) (.write (sectorBytes pa size ps []) false) (.store v.n v.sl id))) s3
/-- ST: its address faults, else its effect in its space. -/
def stBody (v : Env) (s : State) : Res :=
  match addrFault s v (memSpace v.w) (sizeBytes (memSize v.w)) .write (memAddrs v (lanesOf v.m)) with
  | some r => r
  | none => .go (if memSpace v.w = 0 then stScr v s else stFar v s) none
/-- Row of ST. -/
def rowSt : SheafRow := { form := memForm false, mem := true, hidden := fun _ => [], body := stBody }

/-! ## Bulk operations (R171 to R173) -/

/-- Form of PFS, PWB and PFR. -/
def bulkForm (pfr : Bool) (_w : Nat) : Form :=
  { regs := [24, 33, 42]
    opds := (if pfr then [] else [⟨24, 2, 1, false⟩]) ++ [⟨33, 2, 2, false⟩, ⟨42, 2, 1, false⟩]
    used := if pfr then fmask 51 8 else 0
    types := [], ok := true, ext := false, guard := true, lanewise := false }
/-- First byte of a virtual range that does not translate, by 64 KiB steps. -/
def rangeFault (s : State) (g : Nat) (k : Acc2) : Nat → Nat → Nat → Option (Nat × Nat)
  | 0, _, _ => none
  | f + 1, va, n =>
    if n = 0 then none
    else match translate s g va k with
      | .error d => some (d, va)
      | .ok _ => let step := min n (65536 - va % 65536); rangeFault s g k f (va + step) (n - step)
/-- Physical addresses of the 64-byte lines of a virtual range. -/
def linesOf (s : State) (g va len : Nat) (k : Acc2) : List Nat :=
  (List.range (cdiv len 64)).map (fun i => (physOf s g (va + 64 * i) k).1)
/-- PFS and PWB: checked whole, then queued at the bulk engine. -/
def bulkBody (kind : Nat) (v : Env) (s : State) : Res :=
  let scr := rd32 v.f (bits v.w 32 24) 0
  let va := rdN v.f (bits v.w 41 33) 2 0
  let len := rd32 v.f (bits v.w 50 42) 0
  let k : Acc2 := if kind = 0 then .read else .write
  if scr % 64 ≠ 0 then .fault 4 0x45 v.m scr
  else if va % 64 ≠ 0 then .fault 4 0x45 v.m va
  else if len % 64 ≠ 0 then .fault 4 0x45 v.m scr
  else if len = 0 then .go s none
  else if v.stook.size < scr + len then .fault 4 0x44 v.m scr
  else match rangeFault s v.run.group k (len / 65536 + 2) va len with
    | some (d, a) => .fault 1 d v.m a
    | none =>
      let c := s.core v.n
      let op : BulkOp := { id := c.nextLoad, kind := kind, scr := v.stook.base + scr, lines := linesOf s v.run.group va len k
                           stook := v.f.stook, sheaf := v.sl, tag := 0, panel := 0, slot := 0, begun := false, done := 0, poison := false
                           pc := 0, active := 0, instr := 0, held := false }
      .go (s.setCore v.n { c.setSheaf v.sl { v.f with bulkOut := v.f.bulkOut + 1, memOut := tput v.f.memOut c.nextLoad 1 } with
                             nextLoad := c.nextLoad + 1, bulk := c.bulk ++ [op] }) none
/-- Row of PFS. -/
def rowPfs : SheafRow := { form := bulkForm false, mem := true, hidden := fun _ => [], body := bulkBody 0 }
/-- Row of PWB. -/
def rowPwb : SheafRow := { form := bulkForm false, mem := true, hidden := fun _ => [], body := bulkBody 1 }

/-- The group whose addresses a launch uses. -/
def groupOf (s : State) (launch : W32) : Nat := match runOf s launch with | some r => r.group | none => 0
/-- A PFR claims slot `i` of the ring-fed command with its TAG and joins the engine's order (R173, R250). -/
def claimPfr (n : Nat) (op : BulkOp) (d : Desc) (i g : Nat) (s : State) : State :=
  let c := s.core n
  let o := { op with scr := slotOff d i, slot := i, lines := linesOf s g (op.lines.headD 0) (panelK d * panelB d.afmt) .read }
  s.setCore n { c with bulk := c.bulk ++ [o], pfr := c.pfr.filter (fun y => y.id != op.id)
                       arr := { c.arr with ring := c.arr.ring ++ [claimSlot d i d.hops op.panel false false] } }
/-- A PFR that a page of its payload refuses faults its sheaf under its own program counter and word (R142), and is held until the fault is
resolved. One record stands for a sheaf slot at a time: while the sheaf is parked the PFR waits (R147). -/
def faultPfr (n : Nat) (op : BulkOp) (d a : Nat) (s : State) : State :=
  let c := s.core n
  if (c.sheaf op.sheaf).parked then s
  else raiseAt n op.sheaf op.pc op.active 1 d op.active a op.instr.toNat
    (s.setCore n { c with pfr := c.pfr.map (fun y => if y.id = op.id then { y with held := true } else y) })
/-- Bind a PFR, when the command with its TAG is queued and has a free slot; the payload's extent is known only now, so its pages are
checked now (log 15). -/
def bindPfr (n : Nat) (op : BulkOp) (s : State) : State :=
  let c := s.core n
  if op.held then s else
  match (ringCmds c.arr).find? (fun x => x.desc.tag == op.tag) with
  | none => s
  | some x =>
    match freeRing c.arr x.desc with
    | none => s
    | some i =>
      let g := match tfind c.stooks op.stook with | some t => groupOf s t.launch | none => 0
      let len := panelK x.desc * panelB x.desc.afmt
      match rangeFault s g .read (len / 65536 + 2) (op.lines.headD 0) len with
      | some (d, a) => faultPfr n op d a s
      | none => claimPfr n op x.desc i g s
/-- PFR: it waits until a command with its TAG is queued and has a free slot. Before it binds, its virtual address stands in `lines`. -/
def pfrBody (v : Env) (s : State) : Res :=
  let va := rdN v.f (bits v.w 41 33) 2 0
  let c := s.core v.n
  let len := match (ringCmds c.arr).find? (fun x => x.desc.tag == bits v.w 58 51) with
    | some x => panelK x.desc * panelB x.desc.afmt | none => 1
  if va % 64 ≠ 0 then .fault 4 0x45 v.m va
  else match rangeFault s v.run.group .read (len / 65536 + 2) va len with
    | some (d, a) => .fault 1 d v.m a
    | none =>
      let op : BulkOp := { id := c.nextLoad, kind := 2, scr := 0, lines := [va], stook := v.f.stook, sheaf := v.sl, tag := bits v.w 58 51
                           panel := rd32 v.f (bits v.w 50 42) 0, slot := 0, begun := false, done := 0, poison := false
                           pc := v.f.pc, active := v.f.active, instr := BitVec.ofNat 64 v.w, held := false }
      let s1 := s.setCore v.n { c.setSheaf v.sl { v.f with memOut := tput v.f.memOut c.nextLoad 1 } with
                                  nextLoad := c.nextLoad + 1, pfr := c.pfr ++ [op] }
      .go (bindPfr v.n op s1) none
/-- Row of PFR. -/
def rowPfr : SheafRow := { form := bulkForm true, mem := true, hidden := fun _ => [], body := pfrBody }
/-- PFR_BIND (R173): a waiting PFR binds. -/
def execPfrBind (q c i : Nat) (s : State) : Out :=
  match (s.core (64 * q + c)).pfr[i]? with
  | none => .next s
  | some op => evt (wfCore q c) s (bindPfr (64 * q + c) op s)

/-- Requests of a bulk operation, line by line. -/
def bulkReqs (s : State) (n : Nat) (op : BulkOp) (stage : Option Nat) (g slot : Nat) : List GReq :=
  (op.lines.zip (List.range op.lines.length)).map fun (pa, i) =>
    let cls := match s.pel.maps.find? (fun m => m.group == g && decide (m.pa ≤ pa) && decide (pa < m.pa + m.size)) with | some m => m.cls | none => 0
    let d := scrRead s n (op.scr + 64 * i) 64
    let words := (List.range 8).any (fun j => (tilRead s n (op.scr + 64 * i + 8 * j) 8).2)
    { pa := pa
      op := if op.kind = 1 then .write ((List.range 64).zip d.1) words else .read
      req := .bulk n op.id i
      cls := cls, master := coreMaster s n pa, slot := slot, stage := stage, retry := none }
/-- Bytes of line i of a bulk operation that belong to it: a panel's last line may be partial. -/
def bulkLen (c : Core) (op : BulkOp) (i : Nat) : Nat :=
  if op.kind = 2 then
    match c.arr.ring.find? (fun r => r.tag == op.tag && r.slot == op.slot && !r.complete) with
    | some r => min 64 (r.len - 64 * i)
    | none => 64
  else 64
/-- Word j of line i of a bulk operation moves between hub SRAM and scratch, with its poison mark (R172). -/
def hubWord (n : Nat) (op : BulkOp) (stage : Option Nat) (pa i j : Nat) (s : State) : State :=
  let off := op.scr + 64 * i + 8 * j
  if op.kind = 1 then
    let d := scrRead s n off 8
    sectorWrite s stage 0 0 (pa + 8 * j) d.1 d.2
  else
    let d := cohRead s stage (pa + 8 * j) 8
    if op.kind = 2 then tilWrite n (off + 32) (d.1.take (bulkLen (s.core n) op i - 8 * j)) d.2 s else scrWrite n off d.1 d.2 s
/-- Lines in hub SRAM, which answers at once, move word by word into scratch, or out of it. -/
def bulkNow (n : Nat) (op : BulkOp) (stage : Option Nat) (s : State) : State :=
  (op.lines.zip (List.range op.lines.length)).foldl (fun (a : State) e =>
    match place a e.1 with
    | .hub _ => (List.range 8).foldl (fun x j => hubWord n op stage e.1 e.2 j x) a
    | _ => a) s
/-- BULK_OP_START (R250): the engine begins the next operation once the earlier ones have issued every request. -/
def execBulkOpStart (q c : Nat) (s : State) : Out :=
  let n := 64 * q + c
  let k := s.core n
  match k.bulk.find? (fun b => !b.begun) with
  | none => .next s
  | some op =>
    match tfind k.stooks op.stook with
    | none => .next s
    | some t =>
      let r := runOf s t.launch
      let stage := match r with | some x => x.stage | none => none
      let g := match r with | some x => x.group | none => 0
      let reqs := (bulkReqs s n op stage g (groupSlot s g)).filter (fun x => !isHub s x.pa)
      let hubs := (op.lines.filter (isHub s)).length
      let hubPsn := (op.lines.filter (isHub s)).any (fun pa => (cohRead s stage pa 64).2)
      let l := k.bulk.map (fun b => if b.id = op.id then { b with begun := true, done := hubs, poison := hubPsn } else b)
      let s1 := s.setCore n { k with bulk := l }
      evt (wfCore q c) s (sendReqs reqs (bulkNow n op stage s1))
/-- BULK_OP_COMPLETE (R172, R173): the last byte is written; a PFR then writes its slot's header. -/
def execBulkOpComplete (q c i : Nat) (s : State) : Out :=
  let n := 64 * q + c
  let k := s.core n
  match k.bulk[i]? with
  | none => .next s
  | some op =>
    let f := k.sheaf op.sheaf
    let f1 := { f with memOut := tdel f.memOut op.id, bulkOut := if op.kind = 2 then f.bulkOut else f.bulkOut - 1 }
    let k1 := { k.setSheaf op.sheaf f1 with bulk := k.bulk.filter (fun b => b.id != op.id) }
    let slotOf (r : RingSlot) : Bool := r.tag == op.tag && r.slot == op.slot && !r.complete
    let k2 := if op.kind = 2 then { k1 with arr := { k1.arr with ring := k1.arr.ring.map (fun r =>
                if slotOf r then { r with complete := true, poison := op.poison } else r) } } else k1
    let hops := match k.arr.ring.find? slotOf with | some r => r.visits | none => 0
    let s1 := s.setCore n k2
    let s2 := if op.kind = 2 then ringTake n 9 (tilWrite n op.scr (ringHeader op.tag hops op.panel op.poison) false s1) else s1
    evt (wfCore q c && op.begun && decide (op.lines.length ≤ op.done)) s s2

end Sys2Proof.Machine
end

