-- ==== Sys2Proof/Machine/SheafSync.lean ====
section
/-! DEFINITION. Atomic instructions and locks (04 R129 to R139, 05 R181, R182, 13 R369). -/
namespace Sys2Proof.Machine

/-! ## Atomic operations on one word (R129 to R131) -/

/-- min or max of two binary32 codes: NaN when either is NaN, −0 below +0 (R130). -/
def atomFMin (mx : Bool) (a b : Nat) : Nat :=
  let x := fdec f32 a
  let y := fdec f32 b
  if x = .nan ∨ y = .nan then nanCode f32 else if mx then (if fbelow x y then b else a) else (if fbelow y x then b else a)
/-- The word after one lane's operation: old word, SA, SB (OP of Table 5-3; fp32 add is `atomAdd32`). -/
def atomOne (op ty old a b : Nat) : Nat :=
  match op with
  | 0 => wrapInt (if wide ty then 64 else 32) ((old : Int) + a)
  | 1 => if ty = 4 then atomFMin false old a else if intOf ty a < intOf ty old then a else old
  | 2 => if ty = 4 then atomFMin true old a else if intOf ty old < intOf ty a then a else old
  | 3 => old &&& a
  | 4 => old ||| a
  | 5 => old ^^^ a
  | 6 => a
  | _ => if old = a then b else old
/-- Lanes served one at a time in ascending order: the final word, and each lane's old word. -/
def atomSerial (op ty : Nat) : List (Nat × Nat × Nat) → Nat → Nat × List (Nat × Nat)
  | [], old => (old, [])
  | (i, a, b) :: t, old =>
    let r := atomSerial op ty t (atomOne op ty old a b)
    (r.1, (i, old) :: r.2)
/-- Old word plus the tree T over operands, rounded once; with no operand the old word itself. -/
def atomTree (old : Nat) (l : List Nat) : Nat :=
  if l.isEmpty then old else to32 (fadd false (fdec f32 old) (treeSum 6 (l.map (fdec f32))))
/-- fp32 add: lane i receives the old word combined with the operands below it (R130). -/
def atomAdd32 (l : List (Nat × Nat × Nat)) (old : Nat) : Nat × List (Nat × Nat) :=
  let ops := l.map (fun e => e.2.1)
  (atomTree old ops, (l.zip (List.range l.length)).map (fun e => (e.1.1, atomTree old (ops.take e.2))))
/-- One atomic operation on one word for the lanes that name it. -/
def atomWord (op ty old : Nat) (l : List (Nat × Nat × Nat)) : Nat × List (Nat × Nat) :=
  if op = 0 ∧ ty = 4 then atomAdd32 l old else atomSerial op ty l old

/-! ## Conflicts between stages (R366, R369) -/

/-- Whether run a is older than run b: first-start stamp, then sequence number, then queue. -/
def olderRun (s : State) (a b : Run) : Bool :=
  let t (r : Run) : W64 := match findCmd s r.queue r.seq with | some x => x.first.getD 0 | none => 0
  decide (t a < t b) || (decide (t a = t b) && (decide (a.seq < b.seq) || (a.seq == b.seq && decide (a.queue < b.queue))))
/-- Stages other than `st` that shadow the sector of an address. -/
def shadowers (s : State) (st : Option Nat) (pa : Nat) : List Nat :=
  s.pel.stages.filter (fun x => some x != st && (match place s pa with
    | .hub _ => (hubShadow s x pa).isSome
    | _ => (shadowSector s x pa).isSome))
/-- Resolve the conflicts of a staged access at an address: younger runs are abandoned; none when an older run holds it back. -/
def resolveConflict (st : Option Nat) (pa : Nat) (s : State) : Option State :=
  match st.bind (launchOfStage s) with
  | none => some s
  | some l =>
    match tfind s.pel.runs l with
    | none => some s
    | some me =>
      let others := (shadowers s st pa).filterMap (launchOfStage s)
      let older := others.filter (fun o => match tfind s.pel.runs o with | some r => olderRun s r me | none => false)
      if older.isEmpty then some (others.foldl (fun a o => abandonRun o false a) s) else none

/-! ## ATOM (R181) -/

/-- Types of an atomic operation (Table 4-6). -/
def atomTypes (op : Nat) : List Nat :=
  if op = 0 then [0, 2, 4] else if op ≤ 2 then [0, 1, 2, 3, 4] else if op ≤ 5 then [0, 1, 7, 2, 3, 8] else [0, 1, 7, 4, 2, 3, 8]
/-- Form of an ATOM instruction. -/
def atomForm (op : Nat) (w : Nat) : Form :=
  let cnt := regsOf (wType w)
  { regs := [24, 33, 42, 51]
    opds := [⟨24, 15, cnt, true⟩, ⟨33, 11, if bit w 60 then 2 else 1, false⟩, ⟨42, 15, cnt, false⟩] ++
            (if op = 7 then [⟨51, 15, cnt, false⟩] else [])
    used := fmask 60 2, types := atomTypes op, ok := bit w 61 == wide (wType w), ext := false, guard := true, lanewise := false }
/-- Distinct addresses, in order. -/
def distinct (l : List Int) : List Int := l.foldl (fun a x => if a.contains x then a else a ++ [x]) []
/-- Lanes of one word: lane, SA, SB. -/
def wordLanes (l : List (Nat × Int)) (a : Int) (val : Nat → Nat × Nat) : List (Nat × Nat × Nat) :=
  (l.filter (fun e => e.2 == a)).map (fun e => (e.1, (val e.1).1, (val e.1).2))
/-- Perform one scratch word's operation: the state and the values returned. -/
def scrAtom (n off nb op ty : Nat) (l : List (Nat × Nat × Nat)) (s : State) : State × List (Nat × Nat) :=
  let d := scrRead s n off nb
  let r := atomWord op ty (leNat d.1) l
  (scrWrite n off (natLE nb r.1) d.2 s, r.2)
/-- Perform one hub SRAM word's operation (log 17). -/
def hubAtom (stage : Option Nat) (pa nb op ty : Nat) (l : List (Nat × Nat × Nat)) (s : State) : State × List (Nat × Nat) :=
  let d := cohRead s stage pa nb
  let r := atomWord op ty (leNat d.1) l
  (cohWrite s stage 0 0 pa (natLE nb r.1) d.2, r.2)
/-- Words served at once, in order. -/
def atomsNow (f : Int → State → State × List (Nat × Nat)) : List Int → State → State × List (Nat × Nat)
  | [], s => (s, [])
  | a :: t, s =>
    let r := f a s
    let u := atomsNow f t r.1
    (u.1, r.2 ++ u.2)
/-- SPACE of an ATOM or LOCK instruction (Table 5-2). -/
def atomSpace (v : Env) : Nat := if bit v.w 60 then 1 else 0
/-- The lanes that an ATOM serves, each with its address. -/
def atomLanes (v : Env) : List (Nat × Int) :=
  (memLanes v (bits v.w 32 24)).map (fun i => (i, laneAddr v (atomSpace v) (bits v.w 41 33) 0 i))
/-- Bytes of an ATOM's words. -/
def atomBytes (v : Env) : Nat := if wide (wType v.w) then 8 else 4
/-- SA and SB (only for CAS) of a lane. -/
def atomVal (op : Nat) (v : Env) (i : Nat) : Nat × Nat :=
  let n := regsOf (wType v.w)
  (rdN v.f (bits v.w 50 42) n i, if op = 7 then rdN v.f (bits v.w 59 51) n i else 0)
/-- ATOM on scratch: every word is served at once, and the old values are written. -/
def atomScr (op : Nat) (v : Env) (s : State) : State :=
  let l := atomLanes v
  let r := atomsNow (fun a x => scrAtom v.n (v.stook.base + a.toNat) (atomBytes v) op (wType v.w) (wordLanes l a (atomVal op v)) x)
             (distinct (l.map Prod.snd)) s
  v.write (bits v.w 32 24) (regsOf (wType v.w)) r.2 r.1
/-- Of several requests for words of one sector, the first is counted as its access (R248). -/
def countFirst : List GReq → List GReq
  | [] => []
  | r :: t => r :: (countFirst t).map (fun x => if x.pa = r.pa then { x with counted := true } else x)
/-- ATOM on global memory: hub SRAM words are served at once, the others become requests at their home halves; the issuing core's copies go. -/
def atomFar (op : Nat) (v : Env) (s : State) : State :=
  let ty := wType v.w
  let nb := atomBytes v
  let dst := bits v.w 32 24
  let l := atomLanes v
  let ws := distinct (l.map Prod.snd)
  let pa (a : Int) : Nat := (physOf s v.run.group a.toNat .write).1
  let cls (a : Int) : Nat := (physOf s v.run.group a.toNat .write).2
  let hub := ws.filter (fun a => isHub s (pa a))
  let far := ws.filter (fun a => !isHub s (pa a))
  let c := s.core v.n
  let id := c.nextLoad
  let ret := regClass dst != 8
  let lanes : List LaneLoad := l.map (fun e => { lane := e.1, addr := pa e.2, data := none })
  let ld : Load := { dst := dst, size := if nb = 8 then 3 else 2, sign := false, glob := true, instr := BitVec.ofNat 64 v.w, pc := v.f.pc
                     active := v.f.active, exec := v.m, lanes := lanes, vaddr := [], cls := [], atomic := true }
  let f1 := if ret then { v.f with loads := tput v.f.loads id ld, stOut := v.f.stOut + far.length }
    else addOut id far.length (l.map (fun e => (e.1, pa e.2, nb))) v.f
  let s1 := s.setCore v.n { c.setSheaf v.sl f1 with nextLoad := id + 1 }
  let r := atomsNow (fun a x => hubAtom v.run.stage (pa a) nb op ty (wordLanes l a (atomVal op v)) x) hub s1
  let fill (x : State) (e : Nat × Nat) : State :=
    let f := x.sheaf v.n v.sl
    match tfind f.loads id with
    | some y => x.setSheaf v.n v.sl { f with loads := tput f.loads id { y with lanes := y.lanes.map (fun z =>
        if z.lane = e.1 then { z with data := some (BitVec.ofNat 128 e.2, 0) } else z) } }
    | none => x
  let s2 := far.foldl (fun x a => tcDrop v.n (tcTag (pa a)) x) (r.2.foldl fill r.1)
  let req (a : Int) : GReq := coreReq s v (pa a / 64 * 64) (if cls a = 2 then 1 else cls a)
    (.atomic op ty (pa a % 64) ((wordLanes l a (atomVal op v)).map (fun e => (e.1, BitVec.ofNat 64 e.2.1, BitVec.ofNat 64 e.2.2))))
    (if ret then .load v.n v.sl id else .store v.n v.sl id)
  sendReqs (countFirst (far.map req)) s2
/-- The address faults of lanes that read and write a word: the page must allow both (R128). -/
def rmwFault (s : State) (v : Env) (space size : Nat) (l : List (Nat × Int)) : Option Res :=
  match addrFault s v space size .write l with | some r => some r | none => addrFault s v space size .read l
/-- ATOM: its address faults, else its effect in its space. -/
def atomBody (op : Nat) (v : Env) (s : State) : Res :=
  match rmwFault s v (atomSpace v) (atomBytes v) (atomLanes v) with
  | some r => r
  | none => .go (if atomSpace v = 0 then atomScr op v s else atomFar op v s) none
/-- Row of ATOM.ADD. -/
def rowAtomAdd : SheafRow := { form := atomForm 0, mem := true, hidden := fun _ => [], body := atomBody 0 }
/-- Row of ATOM.MIN. -/
def rowAtomMin : SheafRow := { form := atomForm 1, mem := true, hidden := fun _ => [], body := atomBody 1 }
/-- Row of ATOM.MAX. -/
def rowAtomMax : SheafRow := { form := atomForm 2, mem := true, hidden := fun _ => [], body := atomBody 2 }
/-- Row of ATOM.AND. -/
def rowAtomAnd : SheafRow := { form := atomForm 3, mem := true, hidden := fun _ => [], body := atomBody 3 }
/-- Row of ATOM.OR. -/
def rowAtomOr : SheafRow := { form := atomForm 4, mem := true, hidden := fun _ => [], body := atomBody 4 }
/-- Row of ATOM.XOR. -/
def rowAtomXor : SheafRow := { form := atomForm 5, mem := true, hidden := fun _ => [], body := atomBody 5 }
/-- Row of ATOM.XCHG. -/
def rowAtomXchg : SheafRow := { form := atomForm 6, mem := true, hidden := fun _ => [], body := atomBody 6 }
/-- Row of ATOM.CAS. -/
def rowAtomCas : SheafRow := { form := atomForm 7, mem := true, hidden := fun _ => [], body := atomBody 7 }

/-! ## Locks (R133 to R139, R182) -/

/-- The holder value of a lane (Table 4-7). -/
def holderWord (s : State) (n sl lane : Nat) (gen : W16) : Nat :=
  lane + 32 * sl + 2 ^ 16 * (logCore s n % 256) + 2 ^ 32 * gen.toNat + 2 ^ 63
/-- Form of LOCK.ACQ: RECONV in 59:42, no guard. -/
def lockAcqForm (w : Nat) : Form :=
  { regs := [24, 33], opds := [⟨33, 11, if bit w 60 then 2 else 1, false⟩], used := fmask 42 18 ||| fmask 60 2, types := []
    ok := bit w 61, ext := false, guard := false, lanewise := false }
/-- Form of LOCK.REL. -/
def lockRelForm (w : Nat) : Form :=
  { regs := [24, 33, 42, 51], opds := [⟨33, 11, if bit w 60 then 2 else 1, false⟩], used := fmask 60 2, types := [], ok := bit w 61
    ext := false, guard := true, lanewise := false }
/-- Read a lock word by its place: an absolute scratchpad offset, or a physical address. -/
def lockRead (s : State) (v : Env) (space at_ : Nat) : Nat :=
  if space = 0 then leNat (tilRead s v.n at_ 8).1 else leNat (cohRead s v.run.stage at_ 8).1
/-- Write a lock word; a global one is staged, and leaves the core's tilth cache. -/
def lockWrite (v : Env) (space at_ x : Nat) (s : State) : State :=
  if space = 0 then scrWrite v.n at_ (natLE 8 x) false s
  else tcDrop v.n (tcTag at_)
    (cohWrite s v.run.stage (coreMaster s v.n at_) (groupSlot s v.run.group) at_ (natLE 8 x) false)
/-- Where each lane's word lies. -/
def lockPlace (s : State) (v : Env) (space : Nat) (e : Nat × Int) : Nat × Nat :=
  (e.1, if space = 0 then v.stook.base + e.2.toNat else (physOf s v.run.group e.2.toNat .write).1)
/-- The lanes of a LOCK instruction, each with its address. -/
def lockLanes (v : Env) : List (Nat × Int) := (lanesOf v.m).map (fun i => (i, laneAddr v (atomSpace v) (bits v.w 41 33) 0 i))
/-- Resolve the conflicts of several addresses in turn: none while an older run, or a quarter in headland or reset (R464), holds one back. -/
def resolveAll (st : Option Nat) : List Nat → State → Option State
  | [], s => some s
  | a :: t, s => if retryAddr s a then none else match resolveConflict st a s with | some x => resolveAll st t x | none => none
/-- The accesses that a lock instruction makes to its global words, one for each sector, in the class of its page; a NOALLOC page counts as STREAM,
as for an atomic (R240, R248). -/
def lockCount (v : Env) (s : State) : State :=
  (sectorClasses s v.run.group .write (lockLanes v)).foldl (fun a e => noteSector (if e.2 = 2 then 1 else e.2) (coreMaster s v.n (64 * e.1)) (64 * e.1) a) s
/-- A lock instruction comes to its words: scratch words at once, global ones once no older run and no closed quarter holds one back. -/
def lockReady (v : Env) (ps : List (Nat × Nat)) (s : State) : Option State :=
  if atomSpace v = 1 then (match resolveAll v.run.stage (ps.map Prod.snd) s with | some t => some (lockCount v t) | none => none) else some s
/-- A global lock word is homed in a fenced quarter (R381). -/
def lockLost (s : State) (space : Nat) (ps : List (Nat × Nat)) : Bool := space == 1 && ps.any (fun e => fencedAddr s e.2)
/-- Invalidate a core's whole tilth cache (R124). -/
def invalAll (n : Nat) (s : State) : State := let c := s.core n; s.setCore n { c with tcache := [], trr := c.trr }
/-- The lanes that acquire: of each free word, the lowest lane that names it (R134). -/
def winners (s : State) (v : Env) (space : Nat) : List (Nat × Nat) → List Nat → List (Nat × Nat)
  | [], _ => []
  | (i, a) :: t, taken =>
    if taken.contains a then winners s v space t taken
    else if lockRead s v space a = 0 then (i, a) :: winners s v space t (a :: taken)
    else winners s v space t (a :: taken)
/-- Entries that a split pushes (R135). -/
def splitEntries (f : Sheaf) (recon : W64) (wait : W32) : List StackEntry :=
  let has : Bool := match f.stack with | e :: _ => e.kind == .reconv && e.recon == recon && e.target == f.pc | [] => false
  { kind := .lock, recon := recon, mask := wait, target := f.pc } ::
    (if has = true then [] else [{ kind := .reconv, recon := recon, mask := f.active, target := f.pc }])
/-- An earlier access in flight of a lane to its lock word comes first (R122). -/
def lockHeld (s : State) (v : Env) (ps : List (Nat × Nat)) : Bool :=
  atomSpace v == 1 && ps.any (fun e => laneFirst s v.n v.sl (s.core v.n).nextLoad e.2 [(e.1, e.2, 8)])
/-- Lanes that have waited the launch's LOCK_TIMEOUT without acquiring (R137). -/
def lateLanes (s : State) (f : Sheaf) (r : Run) : List Nat :=
  (f.lockSince.filter (fun e => aged s e.2 (r.lockUs * us))).map Prod.fst
/-- The program counter of the acquire. -/
def lockRecon (v : Env) : W64 := v.f.pc + BitVec.ofInt 64 (8 * sfield v.w 59 42)
/-- A split of the acquire would take more than 32 stack entries (R118); lanes with a bad address acquire nothing. -/
def splitOver (s : State) (v : Env) : Bool :=
  let good := (lockLanes v).filter (fun e => (rmwFault s v (atomSpace v) 8 [e]).isNone)
  let win := winners s v (atomSpace v) (good.map (lockPlace s v (atomSpace v))) []
  let wait := v.m &&& ~~~maskOf (win.map Prod.fst)
  !win.isEmpty && wait != 0 && decide (32 < v.f.stack.length + (splitEntries v.f (lockRecon v) wait).length)
/-- The attempt: the lowest lane of each free word acquires it; with none the sheaf waits, with some it splits (R134 to R136). -/
def lockTry (v : Env) (ps : List (Nat × Nat)) (s : State) : Res :=
  let space := atomSpace v
  let win := winners s v space ps []
  let got := maskOf (win.map Prod.fst)
  let wait := v.m &&& ~~~got
  let since := (lanesOf wait).foldl (fun (t : Tab W64) i => match tfind t i with | some _ => t | none => tput t i (now s)) v.f.lockSince
  let s1 := win.foldl (fun a e => lockWrite v space e.2 (holderWord s v.n v.sl e.1 v.f.gen) a) s
  let s2 := if space = 1 && !win.isEmpty then invalAll v.n s1 else s1
  let f := { v.f with lockWait := none, lockSince := (lanesOf got).foldl tdel since }
  if win.isEmpty then
    .go (v.put { v.f with lockWait := some { mask := v.m, glob := space == 1, addrs := ps.foldl (fun t e => tput t e.1 e.2) []
                                             failed := now s, woken := false }, lockSince := since } s) (some v.f.pc)
  else if wait = 0 then .go (v.put f s2) none
  else .go (v.put { f with stack := splitEntries v.f (lockRecon v) wait ++ v.f.stack, active := got } s2) none
/-- LOCK.ACQ: a lane past LOCK_TIMEOUT faults before it can acquire (R137); a stack overflow comes before the faults of the addresses (R190). -/
def lockAcqBody (v : Env) (s : State) : Res :=
  let late := (lanesOf v.m).filter (fun i => (lateLanes s v.f v.run).contains i)
  if !late.isEmpty then .fault 5 0 (maskOf late) 0
  else if splitOver s v then .fault 4 0x42 v.m 0
  else match rmwFault s v (atomSpace v) 8 (lockLanes v) with
  | some r => r
  | none =>
    let ps := (lockLanes v).map (lockPlace s v (atomSpace v))
    if lockHeld s v ps then .wait
    else if lockLost s (atomSpace v) ps then .go (loseRun v.n v.stook.launch.toNat s) (some v.f.pc)
    else match lockReady v ps s with
    | none => .wait
    | some s0 => lockTry v ps s0
/-- Row of LOCK.ACQ. -/
def rowLockAcq : SheafRow := { form := lockAcqForm, mem := true, hidden := fun _ => [], body := lockAcqBody }

/-- Wake the sheaves of a core that wait on a word. -/
def wakeCore (space at_ n : Nat) (s : State) : State :=
  (s.core n).sheaves.foldl (fun (a : State) e =>
    match e.2.lockWait with
    | some x => if (x.glob == (space == 1)) && x.addrs.any (fun y => y.2 == at_)
                then a.setSheaf n e.1 { a.sheaf n e.1 with lockWait := some { x with woken := true } } else a
    | none => a) s
/-- A release wakes the waiters of this core's scratch, or of the cores of the quarter where the line is homed (R136). -/
def wakeWaiters (n space at_ : Nat) (s : State) : State :=
  if space = 0 then wakeCore 0 at_ n s
  else match servingQuarter s at_ with
    | some q => (s.cores.filter (fun e => e.1 / 64 == q)).foldl (fun a e => wakeCore 1 at_ e.1 a) s
    | none => s
/-- A PWB of the sheaf has not finished. -/
def pwbOut (c : Core) (sl : Nat) : Bool := c.bulk.any (fun b => b.kind == 1 && b.sheaf == sl)
/-- Whether the accesses that a release of a scope waits for are complete (Table 4-5). -/
def fenceDone (s : State) (v : Env) (scope : Nat) : Bool :=
  let scr := v.f.bulkOut == 0 && v.f.loads.all (fun e => e.2.glob)
  match scope with
  | 0 => scr
  | 1 => scr && v.f.loads.isEmpty
  | _ => v.f.stOut == 0 && !pwbOut (s.core v.n) v.sl
/-- Whether a release fence of the scope of a space is satisfied: STOOK for scratch, MODULE for global (R138). -/
def released (s : State) (v : Env) (space : Nat) : Bool := fenceDone s v (if space = 0 then 0 else 2)
/-- LOCK.REL: every lane's word must hold its holder value. -/
def lockRelBody (v : Env) (s : State) : Res :=
  let space := atomSpace v
  match rmwFault s v space 8 (lockLanes v) with
  | some r => r
  | none =>
    let ps := (lockLanes v).map (lockPlace s v space)
    if !released s v space || lockHeld s v ps then .wait
    else if lockLost s space ps then .go (loseRun v.n v.stook.launch.toNat s) (some v.f.pc)
    else match lockReady v ps s with
    | none => .wait
    | some s0 =>
      let bad := ps.filter (fun e => lockRead s0 v space e.2 != holderWord s v.n v.sl e.1 v.f.gen)
      if !bad.isEmpty then .fault 4 0x43 (maskOf (bad.map Prod.fst)) 0
      else .go (ps.foldl (fun a e => wakeWaiters v.n space e.2 (lockWrite v space e.2 0 a)) s0) none
/-- Row of LOCK.REL. -/
def rowLockRel : SheafRow := { form := lockRelForm, mem := true, hidden := fun _ => [], body := lockRelBody }

/-- Where a late lane waits: at the sheaf's program counter with lanes that all wait, else at the acquire that a lock entry of the stack names. -/
def lockPc (f : Sheaf) (late : List Nat) : W64 :=
  let hit (m : W32) : Bool := late.any (fun i => m.getLsbD i)
  if f.lockWait.any (fun x => hit x.mask) then f.pc
  else match f.stack.find? (fun e => e.kind == .lock && hit e.mask) with | some e => e.target | none => f.pc
/-- LOCK_TIMEOUT (R137): lanes of a sheaf that have waited the launch's LOCK_TIMEOUT fault, those that wait in a lock entry while a sibling path
runs too. -/
def execLockTimeout (q c sl : Nat) (s : State) : Out :=
  let n := 64 * q + c
  let f := s.sheaf n sl
  match stookOf s n f with
  | none => .next s
  | some t =>
    match runOf s t.launch with
    | none => .next s
    | some r =>
      let late := lateLanes s f r
      let pc := lockPc f late
      evt (wfSheaf q c sl && !late.isEmpty && !f.parked) s (raiseAt n sl pc f.active 5 0 (maskOf late) 0 (wordAt s r.group pc) s)
/-- LOCK_REPOLL (R136): 512 steps after the failed attempt a sheaf whose words give no wake event retries. -/
def execLockRepoll (q c sl : Nat) (s : State) : Out :=
  let n := 64 * q + c
  let f := s.sheaf n sl
  match f.lockWait with
  | some x =>
    let far := x.glob && x.addrs.any (fun e => servingQuarter s e.2 != some q)
    evt (wfSheaf q c sl && far && !f.parked) s (s.setSheaf n sl { f with lockWait := some { x with woken := true } })
  | none => .next s

end Sys2Proof.Machine
end

