-- ==== Sys2Proof/Machine/GranaryOps.lean ====
section
/-! DEFINITION. What the granary's commands share: answers to requesters, the storage code on a read, carve changes of a set, pins, way
fences, and the room for shadows (07 R217 to R240; 09 R283; 11 R323 to R327; 13 R369 to R371; 18 R494). -/
namespace Sys2Proof.Machine

/-! ## Answers -/

/-- The half serves accesses: its quarter is in service, or in headland while transfers in flight complete (R463). -/
def halfServes (s : State) (h : Nat) : Bool :=
  decide (h < 8) && ((s.quarter (h / 2)).st == 0 || ((s.quarter (h / 2)).st == 1 && !(s.quarter (h / 2)).headlandEnded))
/-- A poisoned 32-byte word of a sector lies under k bytes from an offset. -/
def underPsn (psn : List Nat) (off k : Nat) : Bool := (wordsOf 32 off k).any (fun i => psn.contains i)
/-- A sector that a load brought as the core's tilth cache takes it: its own stores in flight to the sector are laid over it in their order, so
that a lane that stored there reads its own data (R122, R123); none while an atomic of the core is in flight there, which has removed the copy. -/
def ownView (s : State) (n pa : Nat) (b : List Byte) : Option (List Byte) :=
  let l := (inFlight s (homeHalf s pa)).filter (fun r => reqOfCore n r && r.pa == pa)
  let put (t : Tab Mem) (r : GReq) : Tab Mem := match r.req, r.op with | .store _ _ id, .write m _ => tput t id m | _, _ => t
  if l.any (fun r => match r.op with | .atomic _ _ _ _ => true | _ => false) then none
  else some ((l.foldl put []).foldl (fun x e => e.2.foldl (fun y o => y.set o.1 o.2) x) b)
/-- A sector reaches a load: its lanes take their data, with the DETAIL of a POISON_READ; an unpoisoned sector fills the tilth cache. -/
def answerLoad (n sl id pa : Nat) (b : List Byte) (psn : List Nat) (detail : Nat) (s : State) : State :=
  let f := s.sheaf n sl
  match tfind f.loads id with
  | none => s
  | some x =>
    let k := sizeBytes x.size
    let take (y : LaneLoad) : LaneLoad :=
      if y.data.isNone ∧ y.addr / 64 * 64 = pa then
        { y with data := some (BitVec.ofNat 128 (leNat (slice b (y.addr % 64) k)), if underPsn psn (y.addr % 64) k then detail else 0) }
      else y
    let s1 := s.setSheaf n sl { f with loads := tput f.loads id { x with lanes := x.lanes.map take } }
    match ownView s n pa b with
    | some d => if psn.isEmpty then tcFill n (tcTag pa) d s1 else s1
    | none => s1
/-- A line of a bulk operation has been copied, or a written line acknowledged. -/
def answerBulk (n id i : Nat) (b : List Byte) (psn : List Nat) (s : State) : State :=
  let c := s.core n
  match c.bulk.find? (fun x => x.id == id) with
  | none => s
  | some op =>
    let s1 := s.setCore n { c with bulk := c.bulk.map (fun x => if x.id = id then { x with done := x.done + 1, poison := x.poison || !psn.isEmpty } else x) }
    if op.kind = 1 then s1
    else
      let at_ := op.scr + (if op.kind = 2 then 32 else 0) + 64 * i
      let d := b.take (bulkLen c op i)
      let put (w : Nat) (x : State) : State :=
        let e := (d.drop (32 * w)).take 32
        if op.kind = 2 then tilWrite n (at_ + 32 * w) e (psn.contains w) x else scrWrite n (at_ + 32 * w) e (psn.contains w) x
      put 1 (put 0 s1)
/-- A store of a sheaf is acknowledged at one home half. -/
def answerStore (n sl id : Nat) (s : State) : State :=
  let f := s.sheaf n sl
  match tfind f.memOut id with
  | some k => s.setSheaf n sl { f with memOut := if k ≤ 1 then tdel f.memOut id else tput f.memOut id (k - 1),
                                         memLanes := if k ≤ 1 then tdel f.memLanes id else f.memLanes, stOut := f.stOut - 1 }
  | none => s
/-- An OS core's load of a sector is answered: the parts of the load that lie in it take their bytes. -/
def answerOs (k pa : Nat) (b : List Byte) (psn : List Nat) (s : State) : State :=
  let x := s.osCore k
  let mine := x.await.filter (fun p => p.1 == pa)
  let put (y : OsCore) (p : Nat × Nat × Nat × Nat) : OsCore :=
    { y with data := y.data + BitVec.ofNat 512 (leNat (slice b p.2.1 p.2.2.1) * 2 ^ (8 * p.2.2.2)), poison := y.poison || underPsn psn p.2.1 p.2.2.1 }
  s.setOs k (mine.foldl put { x with await := x.await.filter (fun p => p.1 != pa) })
/-- The answer to a read or a write of one sector. -/
def answer (r : GReq) (b : List Byte) (psn : List Nat) (detail : Nat) (s : State) : State :=
  match r.req with
  | .load n sl id => answerLoad n sl id r.pa b psn detail s
  | .store n sl id => answerStore n sl id s
  | .bulk n id i => answerBulk n id i b psn s
  | .os k => (match r.op with | .read => answerOs k r.pa b psn s | _ => s)
  | .pin _ => s
  | .guest id => guestAnswer id [] (!psn.isEmpty) s
  | .drill n f q => drillAnswer n f q s
  | .roce i p => roceAnswer i p s
/-- The answer to an atomic: the old value of each lane. -/
def answerAtom (r : GReq) (vals : List (Nat × Nat)) (poison : Bool) (s : State) : State :=
  match r.req with
  | .load n sl id =>
    let f := s.sheaf n sl
    (match tfind f.loads id with
     | none => s
     | some x =>
       let put (y : LaneLoad) : LaneLoad :=
         match vals.find? (fun v => v.1 == y.lane) with | some v => { y with data := some (BitVec.ofNat 128 v.2, 0) } | none => y
       s.setSheaf n sl { f with loads := tput f.loads id { x with lanes := x.lanes.map put }, stOut := f.stOut - 1 })
  | .store n sl id => answerStore n sl id s
  | .guest id => guestAnswer id vals poison s
  | _ => s
/-- Source identifier of a requester, for a stray access. -/
def reqSrc (r : GReq) : Nat :=
  match r.req with
  | .load n _ _ => srcCore n | .store n _ _ => srcCore n | .bulk n _ _ => srcCore n | .os k => 0x10 + k | .guest _ => 0x5000 | _ => 0
/-- Address and width of a stray access: the bytes that a store names, an atomic's word, the part that an OS core loads, and the sector of any
other read (log 31). -/
def strayPart (s : State) (r : GReq) : Nat × Nat :=
  match r.op, r.req with
  | .write m _, _ => match m.map Prod.fst with | [] => (r.pa, 0) | o :: t => (r.pa + o, (o :: t).getLastD o + 1 - o)
  | .atomic _ ty off _, _ => (r.pa + off, if wide ty then 8 else 4)
  | .read, .os k => match (s.osCore k).await.find? (fun e => e.1 == r.pa) with | some e => (r.pa + e.2.1, e.2.2.1) | none => (r.pa, 64)
  | .read, _ => (r.pa, 64)
/-- Log a stray access of a request. -/
def strayReq (r : GReq) (s : State) : State :=
  let p := strayPart s r
  logStray (reqSrc r) p.1 p.2 (match r.op with | .read => false | _ => true) s
/-- Take request i off a half. -/
def takeReq (h i : Nat) (s : State) : State := let hf := s.half h; s.setHalf h { hf with reqs := hf.reqs.eraseIdx i }

/-! ## Merged reads (R237) -/

/-- Join or start an array access: whether a read is merged (R237), and the state with its entry. -/
def mergeRead (h pa : Nat) (s : State) : Bool × State :=
  let hf := s.half h
  match hf.merge.find? (fun m => m.sector == pa / 64) with
  | some m =>
    if m.readers < 64 then
      (true, bump (grnBlk h + 0x150) 1
        (s.setHalf h { hf with merge := hf.merge.map (fun x => if x.sector = pa / 64 then { x with readers := x.readers + 1 } else x) }))
    else (false, s.setHalf h { hf with merge := hf.merge.map (fun x => if x.sector = pa / 64 then { x with readers := 1 } else x) })
  | none =>
    let l := hf.merge ++ [{ sector := pa / 64, readers := 1 }]
    (false, s.setHalf h { hf with merge := l.drop (l.length - 256) })

/-! ## The reads that wait for a sector of a fill (R223) -/

/-- Poisoned words of a sector as a requester sees it. -/
def viewWords (s : State) (stage : Option Nat) (pa : Nat) : List Nat := [0, 1].filter (fun i => sectorPoison s stage (pa + 32 * i) 32)
/-- The committed line holds the sector of an address. -/
def sectorHere (hf : Half) (pa : Nat) : Bool :=
  match findLine hf (pa / 256) with | some l => l.present.getLsbD (pa / 64 % 4) | none => false
/-- A pin engine's read, which waits for its line. -/
def isPin (r : GReq) : Bool := match r.req with | .pin _ => true | _ => false
/-- The reads that wait for a sector, up to the first store or atomic that waits for it; a pin engine's read waits for the line. -/
def readsFirst (pa : Nat) : List GReq → List GReq
  | [] => []
  | r :: t =>
    if r.pa = pa ∧ !isPin r then (if r.op = .read then r :: readsFirst pa t else []) else readsFirst pa t
/-- What a read that waited for a fill takes: its run's shadow, the line's sector, or the sector that came; none where the burst's slot is another. -/
def fillView (s : State) (h : Nat) (f : Fill) (r : GReq) : Option (List Byte × List Nat) :=
  if (match r.stage with | some st => (shadowSector s st r.pa).isSome | none => false) || sectorHere (s.half h) r.pa then
    some ((sectorView s r.stage r.pa).1, viewWords s r.stage r.pa)
  else (tfind f.got (r.pa / 64 % 4)).map (fun d => (bvLE 64 d.1, if d.2 then [0, 1] else []))
/-- A read that waited for a fill is answered; the DETAIL of poison names LPDDR for a NOALLOC read, else the granary (Table 4-8). -/
def fillAnswer (h : Nat) (f : Fill) (s : State) (r : GReq) : State :=
  match fillView s h f r with
  | some d => answer r d.1 d.2 (if f.install then 2 else 3) s
  | none => answer r (List.replicate 64 0) [] 2 (logMismatch r.slot r.pa s)
/-- A sector of a fill has come: the reads that wait for it are answered at once; the entry of a NOALLOC read ends with it. -/
def fillServe (h num : Nat) (install : Bool) (s : State) (sec : Nat) : State :=
  let hf := s.half h
  match hf.fills.findIdx? (fun f => f.num == num && f.install == install && !f.want.contains sec && (install || f.want.isEmpty)) with
  | none => s
  | some i =>
    match hf.fills[i]? with
    | none => s
    | some f =>
      let out := readsFirst (num * 256 + 64 * sec) f.waiters
      let rest := if install then lmod hf.fills i (fun x => { x with waiters := x.waiters.filter (fun r => !out.contains r) }) else hf.fills.eraseIdx i
      out.foldl (fillAnswer h f) (s.setHalf h { hf with fills := rest })
/-- A sector comes from LPDDR for a fill. -/
def fillArrive (h num sec : Nat) (install : Bool) (slot : Option Nat) (d : W512 × Bool) (s : State) : State :=
  fillServe h num install (fillTake h num sec install slot d s) sec

/-! ## Reductions (R232 to R235) -/

/-- Operations that an atomic places in its bank: lanes for an exchange or compare-and-swap, else one for its word. -/
def redOps (op : Nat) (lanes : Nat) : Nat := if op = 6 ∨ op = 7 then lanes else 1
/-- Admitted work of a bank. -/
def bankWork (hf : Half) (bank : Nat) : Nat := (hf.reds.filter (fun r => r.bank == bank)).foldl (fun a r => a + r.ops) 0
/-- Raise the reduction count of the lines that hold a word: the committed line and the run's shadow. -/
def raiseRed (hf : Half) (num : Nat) (stage : Option Nat) : Half :=
  { hf with lines := hf.lines.map (fun l => if l.num = num ∧ (l.shadow = none ∨ l.shadow = stage) then { l with red := l.red + 1 } else l) }
/-- Lower them. -/
def lowerRed (hf : Half) (num : Nat) (stage : Option Nat) : Half :=
  { hf with lines := hf.lines.map (fun l =>
      if l.num = num ∧ (l.shadow = none ∨ l.shadow = stage) ∧ 0 < l.red then { l with red := l.red - 1 } else l) }
/-- Admit a reduction. -/
def admitRed (h : Nat) (r : GReq) (s : State) : State :=
  match r.op with
  | .atomic op _ _ lanes =>
    let hf := s.half h
    let x : Red := { req := r, bank := setOf s r.pa % 128, ops := redOps op lanes.length }
    s.setHalf h (raiseRed { hf with reds := hf.reds ++ [x] } (r.pa / 256) r.stage)
  | _ => s
/-- A mismatched atomic returns zero and changes nothing. -/
def atomZero (r : GReq) (s : State) : State :=
  match r.op with
  | .atomic _ _ _ lanes => answerAtom r (lanes.map (fun e => (e.1, 0))) false (logMismatch r.slot r.pa s)
  | _ => s
/-- Perform a reduction on its word, and return the old values. -/
def reduceNow (r : GReq) (s : State) : State :=
  match r.op with
  | .atomic op ty off lanes =>
    let nb := if wide ty then 8 else 4
    let d := cohRead s r.stage (r.pa + off) nb
    let x := atomWord op ty (leNat d.1) (lanes.map (fun e => (e.1, e.2.1.toNat, e.2.2.toNat)))
    answerAtom r x.2 d.2 (sectorWrite s r.stage r.master r.slot (r.pa + off) (natLE nb x.1) d.2)
  | _ => s

/-- A request waits at its half again; its access is counted already. -/
def requeue (h : Nat) (r : GReq) (s : State) : State := let hf := s.half h; s.setHalf h { hf with reqs := hf.reqs ++ [{ r with counted := true }] }
/-- An admitted reduction that has left the unit's list completes: its count falls, its operations are counted, and it is performed. One whose sector
a storage error has dropped is not performed in LPDDR: it waits again (R233, R325). -/
def completeRed (h : Nat) (x : Red) (s : State) : State :=
  let s1 := s.setHalf h (lowerRed (s.half h) (x.req.pa / 256) x.req.stage)
  let gone := x.req.stage.isNone && decide (place s x.req.pa = .lpddr) && !sectorHere (s.half h) x.req.pa
  if gone then requeue h x.req s1 else useAt x.req.pa (useAt x.req.pa (reduceNow x.req (bump (grnBlk h + 0x160) x.ops s1)))
/-- Complete the admitted reductions of a half that a condition names, in their order. -/
def settleReds (h : Nat) (p : Red → Bool) (s : State) : State :=
  let hf := s.half h
  (hf.reds.filter p).foldl (fun a x => completeRed h x a) (s.setHalf h { hf with reds := hf.reds.filter (fun x => !p x) })
/-- Complete the reductions of a line before it leaves its way (R233). -/
def settleLine (h num : Nat) (s : State) : State := settleReds h (fun x => x.req.pa / 256 == num) s

/-! ## Spills and the change of a set by a carve (R220, R221, R370) -/

/-- Spill the present sectors of a shadow line, and drop it. -/
def spillLine (h : Nat) (l : Line) (s : State) : State :=
  match l.shadow with
  | none => s
  | some st =>
    let s1 := [0, 1, 2, 3].foldl (fun (a : State) i =>
      if l.present.getLsbD i then
        putSpill a (h / 2) { stage := st, pa := lineAddr l.num + 64 * i, bytes := (lineSector l i).1, psn := lineWords l i } else a) s
    s1.setHalf h (dropLine (s1.half h) l)
/-- Spill shadows of a set while it holds more than LIMIT. -/
def spillOver (h set : Nat) : Nat → State → State
  | 0, s => s
  | k + 1, s =>
    let hf := s.half h
    if heldCount hf set ≤ hf.limit then s
    else match hf.lines.find? (fun l => l.set == set && l.shadow.isSome) with
      | some l => spillOver h set k (spillLine h l s)
      | none => s
/-- A line that is neither pinned nor a shadow leaves its way: it is written back and dropped. -/
def evictLine (h : Nat) (l : Line) (s : State) : State :=
  let s1 := writeBack l 0 s
  let hf := s1.half h
  s1.setHalf h { dropLine hf l with merge := hf.merge.filter (fun m => m.sector / 4 != l.num) }
/-- A pinned line moves to a free cache way of its set. -/
def movePinned (h : Nat) (l : Line) (s : State) : State :=
  match makeRoom s h l.set 0 with
  | (some w, s1) => s1.setHalf h (putLine (s1.half h) { l with way := w })
  | (none, s1) => s1
/-- Lines in the ways of a set that a carve takes. -/
def takenLines (hf : Half) (c : Carve) (set : Nat) : List Line :=
  hf.lines.filter (fun l => l.set == set && decide (c.oldP ≤ l.way) && decide (l.way < hf.plotWays))
/-- The carve walk changes a set (R220, R221): its admitted reductions complete, the shadows in ways being taken and those beyond the new LIMIT
spill, the unpinned lines in those ways leave, and then the pinned ones move. -/
def carveSet (h set : Nat) (s : State) : State :=
  match (s.half h).carve with
  | none => s
  | some c =>
    let s1 := settleReds h (fun x => setOf s x.req.pa == set) s
    let s2 := ((takenLines (s1.half h) c set).filter (fun l => l.shadow.isSome)).foldl (fun a l => spillLine h l a) s1
    let s3 := spillOver h set 16 s2
    let s4 := ((takenLines (s3.half h) c set).filter (fun l => !l.pinned)).foldl (fun a l => evictLine h l a) s3
    ((takenLines (s4.half h) c set).filter (fun l => l.pinned)).foldl (fun a l => movePinned h l a) s4

/-! ## Pins (R228, R229, R231) -/

/-- The lines of a range of which a half is the home. -/
def rangeLines (s : State) (h base size : Nat) : List Nat :=
  (idxFrom (base / 256) (size / 256)).filter (fun a => homeHalf s (a * 256) == h)
/-- A pin that the half has accepted covers a line. -/
def pinned? (s : State) (h num : Nat) : Bool :=
  s.pel.pins.any (fun e => e.2.accepted.contains h && decide (e.2.base ≤ num * 256) && decide (num * 256 < e.2.base + e.2.size))
/-- Release one reservation of a set. -/
def unreserve (set : Nat) (hf : Half) : Half := { hf with reserved := tset 0 hf.reserved set (tget 0 hf.reserved set - 1) }
/-- Clear one line of a pin: its mark goes and its age becomes 3, or its reservation goes with its fill mark. -/
def unpinLine (h num : Nat) (s : State) : State :=
  let hf := s.half h
  match findLine hf num with
  | some l =>
    if l.pinned then s.setHalf h (putLine hf { l with pinned := false, age := 3 })
    else s.setHalf h (unreserve (setOf s (num * 256)) hf)
  | none =>
    let h1 := unreserve (setOf s (num * 256)) hf
    s.setHalf h { h1 with fills := h1.fills.map (fun f => if f.num = num then { f with pin := false } else f) }
/-- A half releases a range: the marks, the reservations and the engine's own reads of it. -/
def unpinRange (h pin base size : Nat) (s : State) : State :=
  let s1 := (rangeLines s h base size).foldl (fun a n => unpinLine h n a) s
  let hf := s1.half h
  s1.setHalf h { hf with reqs := hf.reqs.filter (fun r => r.req != .pin pin)
                         fills := hf.fills.map (fun f => { f with waiters := f.waiters.filter (fun r => r.req != .pin pin) }) }
/-- Every line of a pin that a half is home to is resident and marked. -/
def pinMarked (s : State) (h : Nat) (p : Pin) : Bool :=
  (rangeLines s h p.base p.size).all (fun a => match findLine (s.half h) a with | some l => l.pinned | none => false)
/-- The pin engine of a half is serving a pin: lines of the pin that it last accepted wait for their marks (R221, R228). -/
def pinBusy (s : State) (h : Nat) : Bool :=
  match (s.half h).serving with
  | none => false
  | some x => match tfind s.pel.pins x.pin with | some p => p.accepted.contains h && !pinMarked s h p | none => false
/-- The pin engine of a half has a pin or an unpin to finish; a pin that waits for room after a change of mode is no request being served. -/
def pinServing (s : State) (h : Nat) : Bool := pinBusy s h || (s.half h).pinq.any (fun x => x.kind != 4)
/-- No engine is asked for a pin any more. -/
def unask (n : Nat) (s : State) : State :=
  (List.range 8).foldl (fun (a : State) h =>
    a.setHalf h { a.half h with pinq := (a.half h).pinq.filter (fun x => !((x.kind == 0 || x.kind == 4) && x.pin == n)) }) s
/-- Pins with lines in a half. -/
def pinsOf (s : State) (h : Nat) : List (Nat × Pin) := s.pel.pins.filter (fun e => e.2.accepted.contains h)
/-- The pin that R231 chooses from a list: lowest priority, then the most recently created. -/
def pickPin : List (Nat × Pin) → Option (Nat × Pin)
  | [] => none
  | e :: t => some (t.foldl (fun b x =>
      if x.2.priority < b.2.priority ∨ (x.2.priority = b.2.priority ∧ b.2.order < x.2.order) then x else b) e)
/-- Release a pin: requests to the engines of every half that accepted it, or at once where `now_`; its number is free. -/
def releasePin (n kind : Nat) (s : State) : State :=
  match tfind s.pel.pins n with
  | none => s
  | some p =>
    let s1 := p.accepted.foldl (fun (a : State) h =>
      a.setHalf h { a.half h with pinq := (a.half h).pinq ++ [{ kind := kind, pin := n, base := p.base, size := p.size }] }) (unask n s)
    { s1 with pel := { s1.pel with pins := tdel s1.pel.pins n } }
/-- Release a pin at once in every half (a way fence). -/
def dropPin (n : Nat) (s : State) : State :=
  match tfind s.pel.pins n with
  | none => s
  | some p =>
    let s1 := p.accepted.foldl (fun (a : State) h => unpinRange h n p.base p.size a) (unask n s)
    let s2 := { s1 with pel := { s1.pel with pins := tdel s1.pel.pins n } }
    match p.cmd with | some (qu, seq) => endCmd qu seq 0x1A 0 s2 | none => s2

/-! ## The fence of a way (R283) -/

/-- The set that holds most beyond LIMIT, if any does. -/
def overSet (hf : Half) : Option Nat :=
  ((hf.lines.filter (fun l => l.pinned || l.shadow.isSome)).map (fun l => l.set) ++ hf.reserved.map Prod.fst).find?
    (fun x => decide (hf.limit < heldCount hf x))
/-- Spill every shadow of a half that a condition names. -/
def spillAll (h : Nat) (p : Line → Bool) (s : State) : State :=
  ((s.half h).lines.filter (fun l => l.shadow.isSome && p l)).foldl (fun a l => spillLine h l a) s
/-- Release pins in the order of R231 and spill shadows until no set holds more than LIMIT. -/
def fitLimit (h : Nat) : Nat → State → State
  | 0, s => s
  | k + 1, s =>
    match overSet (s.half h) with
    | none => s
    | some x =>
      let hf := s.half h
      if hf.lines.any (fun l => l.set == x && l.shadow.isSome) then fitLimit h k (spillOver h x 16 s)
      else match pickPin (pinsOf s h) with
        | some (n, p) => fitLimit h k (alarmW 0x0702 (srcHalf h) [n, p.priority] (dropPin n s))
        | none => s
/-- Fenced cache ways of a half. -/
def fencedCache (hf : Half) : Nat := (hf.fenced.filter (fun w => decide (hf.plotWays ≤ w))).length
/-- Empty a way: dirty sectors are written back, shadows spill, and a pinned line keeps its reservation. -/
def emptyWayOf (h w : Nat) (s : State) : State :=
  let s1 := settleReds h (fun x => (s.half h).lines.any (fun l => l.way == w && l.num == x.req.pa / 256)) s
  ((s1.half h).lines.filter (fun l => l.way == w)).foldl (fun (a : State) l =>
    if l.shadow.isSome then spillLine h l a
    else
      let a1 := evictLine h l a
      let h1 := a1.half h
      a1.setHalf h (if l.pinned then { h1 with reserved := tset 0 h1.reserved l.set (tget 0 h1.reserved l.set + 1) } else h1)) s1
/-- A way of a half leaves use. -/
def closeWay (h w : Nat) (s : State) : State :=
  let hf := s.half h
  if hf.fenced.contains w then s
  else if w < hf.plotWays then
    let hit := hf.plots.filter (fun p => decide (p.2.1 < (w + 1) * 2 ^ 27) && decide (w * 2 ^ 27 < p.2.1 + p.2.2.1))
    hit.foldl (fun a p => alarmW 0x0703 (srcHalf h) [p.1, w] a) (s.setHalf h { hf with fenced := ladd hf.fenced w })
  else
    let s1 := emptyWayOf h w (s.setHalf h { hf with fenced := ladd hf.fenced w, serving := if pinBusy s h then hf.serving else none })
    let h1 := s1.half h
    let v := waysFitted s1 - 2 - fencedCache h1
    let s2 := s1.setHalf h { h1 with limit := if h1.plotWays ≤ v then min h1.limit v else h1.plotWays }
    let s3 := if h1.plotWays ≤ v then s2
      else spillAll h (fun _ => true) ((pinsOf s2 h).foldl (fun a e => alarmW 0x0702 (srcHalf h) [e.1, e.2.priority] (dropPin e.1 a)) s2)
    let s4 := fitLimit h (524288 + 4096) s3
    if (cacheWays s4 (s4.half h)).isEmpty then quarterFault (h / 2) true s4 else s4

/-- Fence a way of a half, with its alarm. -/
def fenceWay (h w : Nat) (s : State) : State :=
  if (s.half h).fenced.contains w then s else closeWay h w (alarmW 0x0603 (srcHalf h) [w] s)

/-! ## The storage code on a read (R324 to R326) -/

/-- LOC of a granary word. -/
def grnLoc (way set word : Nat) : Nat := way + 2 ^ 4 * set + 2 ^ 23 * word
/-- Queue a word to the half's repair queue (R324). -/
def queueRepair (h word : Nat) (s : State) : State :=
  let hf := s.half h
  if hf.repair.contains word then s
  else if hf.repair.length < 64 then s.setHalf h { hf with repair := hf.repair ++ [word] }
  else bump (eccBlk (h / 2) + 0x140) 1 s
/-- A word found correctable: counter, record and alarm of its location; R446 counts those of the middle-die ways in the second. -/
def grnCe (h way set word finder bits_ : Nat) (s : State) : State :=
  let hf := { s.half h with ceSec := (s.half h).ceSec + b2n (decide (way < 10)) }
  let (fresh, run, hist) := hf.hist.note word
  reportCe (eccBlk (h / 2) + 0x100) 1 (srcHalf h) finder bits_ (word * 32) (grnLoc way set (word % 8)) fresh run (s.setHalf h { hf with hist := hist })
/-- Count an uncorrectable word of a way; the sixteenth within an hour fences the way (R326). -/
def countUe (h way : Nat) (s : State) : State :=
  let hf := s.half h
  let l := recent s (tget [] hf.ueHour way) hour ++ [now s]
  let s1 := s.setHalf h { hf with ueHour := tset [] hf.ueHour way l }
  if 16 ≤ l.length then fenceWay h way s1 else s1
/-- Outcome of one word at a location of address bit a: its bytes, whether it is now poisoned, and the decoder's result. -/
def codeWord (b : List Byte) (psn : Bool) (a err : Nat) : List Byte × Bool × Decoded :=
  match bchRead (leNat b) a err with
  | .ok k d => (natLE 32 d, psn, .ok k d)
  | .bad => (List.replicate 32 0, true, .bad)
/-- Report the outcomes of a sector's two words, where uncorrectable ones are poisoned. -/
def reportWords (h way set pa finder : Nat) (o : List (Nat × Decoded)) (s : State) : State :=
  o.foldl (fun (a : State) e =>
    let word := pa / 32 + e.1
    match e.2 with
    | .ok 0 _ => a
    | .ok k _ => queueRepair h word (grnCe h way set word finder k a)
    | .bad => countUe h way (reportUe (eccBlk (h / 2) + 0x108) 1 (srcHalf h) finder (word * 32) (grnLoc way set (word % 8)) a)) s
/-- Report uncorrectable words of a clean sector, which is dropped (R325, R326): REFETCHED, with no alarm. -/
def reportRefetch (h way set pa finder : Nat) (o : List (Nat × Decoded)) (s : State) : State :=
  o.foldl (fun (a : State) e =>
    let word := pa / 32 + e.1
    match e.2 with
    | .ok 0 _ => a
    | .ok k _ => grnCe h way set word finder k a
    | .bad => countUe h way (errRec 3 1 (srcHalf h) finder 0xFF (word * 32) (grnLoc way set (word % 8)) (bump (eccBlk (h / 2) + 0x108) 1 a))) s
/-- The decoder over a sector whose first word's location is loc: bytes, poisoned words, and the outcome of each word. -/
def codeSector (loc : Nat × Nat × Nat × Nat) (b : List Byte) (psn : List Nat) (e0 e1 : Nat) : List Byte × List Nat × List (Nat × Decoded) :=
  let a (i : Nat) : Nat := addrBit loc.1 loc.2.1 loc.2.2.1 (loc.2.2.2 + i)
  let x := codeWord (b.take 32) (psn.contains 0) (a 0) e0
  let y := codeWord (b.drop 32) (psn.contains 1) (a 1) e1
  (x.1 ++ y.1, (if x.2.1 then [0] else []) ++ (if y.2.1 then [1] else []), [(0, x.2.2), (1, y.2.2)])
/-- A sector holds an uncorrectable word. -/
def anyBad (o : List (Nat × Decoded)) : Bool := o.any (fun e => e.2 == .bad)
/-- A read of a granary word finds copies of its state bits in the minority (R321). -/
def grnState (h way set finder word fixes : Nat) (s : State) : State :=
  if fixes = 0 then s
  else
    let hf := s.half h
    let (fresh, _, hist) := hf.hist.note (2 ^ 60 + word)
    reportState (eccBlk (h / 2) + 0x138) 1 (srcHalf h) finder (word * 32) (grnLoc way set (word % 8)) fixes fresh (s.setHalf h { hf with hist := hist })
/-- Neither copy of a tag entry decodes, for the wrong bits of the two (R319). -/
def tagLost (c0 c1 : Nat) : Bool := secdedDecode c0 == .bad && secdedDecode c1 == .bad
/-- A tag entry is read, with the wrong bits of its copies: the first that decodes is used. The identity of a line that neither gives is lost, which
is a quarter fault (R319). -/
def tagRead (h way set finder c0 c1 : Nat) (s : State) : State :=
  let found (n k : Nat) : State :=
    let hf := s.half h
    let (fresh, run, hist) := hf.hist.note (2 ^ 61 + 16 * set + way)
    bump (eccBlk (h / 2) + 0x118) (n - 1) (reportCe (eccBlk (h / 2) + 0x118) 2 (srcHalf h) finder k 0 (grnLoc way set 0) fresh run
      (s.setHalf h { hf with hist := hist }))
  match secdedDecode c0, secdedDecode c1 with
  | .ok 0 _, _ => s
  | .ok k _, _ => found 1 k
  | .bad, .ok 0 _ => found 1 2
  | .bad, .ok k _ => found 2 (2 + k)
  | .bad, .bad =>
    let loc := grnLoc way set 0
    quarterFault (h / 2) false (alarmW 0x0601 (srcHalf h) [0, loc] (errRec 2 2 (srcHalf h) finder 0xFF 0 loc s))
/-- Replace a sector of a line, its poison included. -/
def setSector (l : Line) (sec : Nat) (b : List Byte) (psn : List Nat) : Line :=
  let rest := l.psn.filter (fun i => i / 2 != sec)
  { l with bytes := mwrite l.bytes (64 * sec) b, psn := psn.foldl (fun a i => ladd a (2 * sec + i)) rest }
/-- Read a sector of a line through the code: what is delivered, or none when a clean sector was dropped; a drop counts in ECC_GRN_REFETCH. -/
def lineRead (h pa finder : Nat) (l : Line) (e0 e1 : Nat) (s : State) : Option (List Byte × List Nat) × State :=
  let sec := pa / 64 % 4
  let (b, psn, o) := codeSector (h, l.way, l.set, 2 * sec) (lineSector l sec).1 (lineWords l sec) e0 e1
  if anyBad o && l.shadow.isNone && !l.dirty.getLsbD sec then
    let hf := s.half h
    let s1 := s.setHalf h (unmerge (putLine hf { l with present := l.present &&& ~~~ BitVec.ofNat 4 (2 ^ sec) }) pa)
    (none, reportRefetch h l.way l.set pa finder o (bump (eccBlk (h / 2) + 0x110) 1 (useWay h l.way s1)))
  else
    (some (b, psn), reportWords h l.way l.set pa finder o (useWay h l.way (s.setHalf h (putLine (s.half h) (setSector l sec b psn)))))
/-- Read a sector of a plot through the code: an unwritten word is zero and its check bits are not consulted (R322). -/
def plotRead (h off pa finder : Nat) (e0 e1 : Nat) (s : State) : (List Byte × List Nat) × State :=
  if plotFenced (s.half h) off then ((List.replicate 64 0, [0, 1]), s)
  else
    let p := s.mem.plots
    let w (i e : Nat) : Nat := if p.wr.contains (pa / 32 + i) then e else 0
    let old := (mread p.bytes pa 64, [0, 1].filter (fun i => p.psn.contains (pa / 32 + i)))
    let (b, psn, o) := codeSector (h, off >>> 27, setOf s pa, pa / 32 % 8) old.1 old.2 (w 0 e0) (w 1 e1)
    let put (st : Store) (i : Nat) : Store :=
      if st.wr.contains (pa / 32 + i) then stWrite 32 st (pa + 32 * i) ((b.drop (32 * i)).take 32) (psn.contains i) else st
    let s1 := if (b, psn) = old then s else { s with mem := { s.mem with plots := put (put p 0) 1 } }
    ((b, psn), reportWords h (off >>> 27) (setOf s pa) pa finder o (useWay h (off >>> 27) s1))

/-! ## Room for shadows (R371) -/

/-- A staged write to a sector needs a place in the spill area. -/
def needsSpill (s : State) (st pa : Nat) : Bool :=
  let h := homeHalf s pa
  (shadowSector s st pa).isNone && (findShadow (s.half h) (pa / 256) st).isNone && decide ((s.half h).limit ≤ heldCount (s.half h) (setOf s pa))
/-- Runs that hold spilled sectors in a quarter. -/
def spillers (s : State) (q : Nat) : List (Nat × Run) :=
  s.pel.runs.filter (fun e => match e.2.stage with | some st => (tget [] s.pel.spills q).any (fun x => x.stage == st) | none => false)
/-- The youngest of a list of runs. -/
def youngest (s : State) : List (Nat × Run) → Option (Nat × Run)
  | [] => none
  | e :: t => some (t.foldl (fun b x => if olderRun s b.2 x.2 then x else b) e)
/-- Room for a spilled sector of a stage: none when the access waits; a run that alone fills the area ends with NO_RESOURCES. -/
def spillRoom (st pa : Nat) (s : State) : Option State :=
  let q := homeHalf s pa / 2
  if !needsSpill s st pa || decide ((tget [] s.pel.spills q).length < 2 ^ 24) then some s
  else match launchOfStage s st with
    | none => some s
    | some l =>
      match tfind s.pel.runs l with
      | none => some s
      | some me =>
        match youngest s ((spillers s q).filter (fun e => olderRun s me e.2)) with
        | some (k, _) => some (abandonRun k false s)
        | none => if (tget [] s.pel.spills q).all (fun x => x.stage == st) then some (failRun l 0x28 2 s) else none

end Sys2Proof.Machine
end

