-- ==== Sys2Proof/Machine/Granary.lean ====
section
/-! DEFINITION. The granary: reads, stores, fills, reductions, the merge buffer, the carve walk, the pin engine, the thrash window and the
tilth split (07 R212 to R244). The sectors of a fill come from the LPDDR controllers; a shadow begins as a copy of the committed sector (log 21). -/
namespace Sys2Proof.Machine

/-! ## Counting an access at its half (R240, R248) -/

/-- Count an access once: a plot's as PLOT, whatever class its page has (R222, R248). -/
def countReq (h cls : Nat) (r : GReq) (hit : Bool) (s : State) : State :=
  if r.counted then s
  else match place s r.pa with
    | .plot _ _ => bump (grnBlk h + 0x148) 1 s
    | _ => countAcc h cls hit s
/-- Count a hit on a line, and set the line's age (R225, R230). -/
def countLine (h : Nat) (r : GReq) (l : Line) (s : State) : State := if r.counted then s else touch h r.cls l.num (countHit h r.cls l s)

/-! ## Fills (R223, R225, R226) -/

/-- An access waits for a line: it joins the fill of the line, whose absent sectors it may add to, or takes a free entry; none when all 512 are in
use. -/
def allocFill (h : Nat) (r : GReq) (pin : Bool) (s : State) : Option State :=
  let hf := s.half h
  let num := r.pa / 256
  let sec := r.pa / 64 % 4
  match hf.fills.findIdx? (fun f => f.install && f.num == num) with
  | some i =>
    let more : Bool := match hf.fills[i]? with
      | some f => !f.want.contains sec && (tfind f.got sec).isNone && !sectorHere hf r.pa
      | none => false
    let join (f : Fill) : Fill := { f with waiters := f.waiters ++ [r], pin := f.pin || pin, want := if more then f.want ++ [sec] else f.want }
    let s1 := s.setHalf h { hf with fills := lmod hf.fills i join }
    some (fillServe h num true (if more then fillRead h num r.master true s1 sec else s1) sec)
  | none => if 512 ≤ fillsUsed hf then none else some (fillServe h num true (startFill h r.pa r.cls r.master true pin [r] s) sec)
/-- Request i of a half misses: it leaves its queue and waits in the fill buffer; with the buffer full it waits where it is. -/
def missAt (h i : Nat) (r : GReq) (s : State) : State :=
  match allocFill h { r with counted := true } false (countReq h r.cls r false (takeReq h i s)) with
  | some t => t
  | none => s
/-- Insertion age of a class (Table 7-5). -/
def insertAge (cls : Nat) : Nat := if cls = 1 then 3 else 2
/-- The sectors that have come for a fill, laid into a line that lacks them; none where the line's slot is another (R494). -/
def layGot (f : Fill) (l : Line) : Line :=
  if l.slot ≠ f.slot then l
  else f.got.foldl (fun a e =>
    if a.present.getLsbD e.1 then a
    else { setSector a e.1 (bvLE 64 e.2.1) (if e.2.2 then [0, 1] else []) with present := setBit4 a.present e.1 }) l

/-! ## Serving an access whose line is present -/

/-- A write whose bytes cover a whole sector. -/
def wholeSector (m : Mem) : Bool := decide (m.length = 64)
/-- Write listed bytes of a sector: whole, in one piece; else byte by byte. -/
def putBytes (r : GReq) (m : Mem) (psn : Bool) (s : State) : State :=
  useAt r.pa (if wholeSector m then sectorWrite s r.stage r.master r.slot r.pa (m.map Prod.snd) psn
    else writeBytes r.stage r.master r.slot r.pa psn m s)
/-- The line is held back from new admissions: a fill waits on its set and its reduction count is not zero (R235). -/
def heldBack (s : State) (hf : Half) (pa : Nat) : Bool :=
  let set := setOf s pa
  hf.fills.any (fun f => f.waiting && setOf s (f.num * 256) == set) &&
  (match findLine hf (pa / 256) with | some l => l.red != 0 | none => false)
/-- The reduction unit takes an operation now: its quarter is not in headland (R246), its bank's work stays within 82 steps (R234), and its line is
not held back (R235). -/
def redFits (s : State) (h : Nat) (r : GReq) (op lanes : Nat) : Bool :=
  (s.quarter (h / 2)).st == 0 && decide (bankWork (s.half h) (setOf s r.pa % 128) + redOps op lanes ≤ 82) && !heldBack s (s.half h) r.pa
/-- A staged access meets no other run's shadow, and its shadow needs no spill (R369, R371). -/
def stageFree (s : State) (r : GReq) : Bool :=
  match r.stage with | some st => (shadowers s r.stage r.pa).isEmpty && !needsSpill s st r.pa | none => true
/-- An access that waited for its line is served; where the burst's slot kept its sector absent, it is a mismatch (R494). An atomic that the unit does
not take now, and a staged store, wait at the half again. -/
def serveWaiter (h : Nat) (f : Fill) (s : State) (r : GReq) : State :=
  if isPin r then s
  else
    let here := sectorHere (s.half h) r.pa
    match r.op with
    | .read => fillAnswer h f s r
    | .write m psn =>
      if r.stage.isSome then requeue h r s
      else if here then answer r [] [] 0 (putBytes r m psn s)
      else answer r [] [] 0 (logMismatch r.slot r.pa s)
    | .atomic op _ _ lanes =>
      let shadow : Bool := match r.stage with | some st => (shadowSector s st r.pa).isSome | none => false
      if !here && !shadow then atomZero r s
      else if redFits s h r op lanes.length && stageFree s r then admitRed h r s
      else requeue h r s
/-- Install or complete the line of a fill, mark it pinned where a pin covers it, and serve the accesses that wait for it in order. -/
def installFill (h : Nat) (f : Fill) (s : State) : State :=
  let hf := s.half h
  let set := setOf s (f.num * 256)
  match findLine hf f.num with
  | some l =>
    let mark := f.pin && !l.pinned
    let h1 := putLine (if mark then unreserve set hf else hf) { layGot f l with pinned := l.pinned || f.pin }
    f.waiters.foldl (serveWaiter h f) (f.got.foldl (fun a _ => useWay h l.way a) (s.setHalf h h1))
  | none =>
    match makeRoom s h set f.master with
    | (none, s1) => s1
    | (some w, s1) =>
      let h1 := s1.half h
      let mark := f.pin || (pinned? s1 h f.num && decide (0 < tget 0 h1.reserved set))
      let l : Line := { set := set, way := w, num := f.num, present := 0, dirty := 0, age := insertAge f.cls, pinned := mark, shadow := none, red := 0
                        slot := f.slot, bytes := [], psn := [] }
      f.waiters.foldl (serveWaiter h f)
        (f.got.foldl (fun a _ => useWay h w a) (installLine (s1.setHalf h (if mark then unreserve set h1 else h1)) h w (layGot f l)))
/-- A fill has a way to go to: its line is present, or its set has an eligible way. -/
def fillFits (s : State) (h : Nat) (f : Fill) : Bool :=
  (findLine (s.half h) f.num).isSome || !(eligible s (s.half h) (setOf s (f.num * 256))).isEmpty
/-- Fill i installs where it has a way to go to; otherwise the carve walk in progress serves its set at once (R226), and none where that opens none. -/
def finishFill (h i : Nat) (f : Fill) (s : State) : Option State :=
  let s1 := if fillFits s h f then s else carveSet h (setOf s (f.num * 256)) s
  let hf := s1.half h
  match hf.fills[i]? with
  | some g => if fillFits s1 h f then some (installFill h g (s1.setHalf h { hf with fills := hf.fills.eraseIdx i })) else none
  | none => none
/-- FILL_RETURN (R225, R226): every sector of a fill has come; the victim is chosen now. With no eligible way the fill waits, and is counted. -/
def execFillReturn (h i : Nat) (s : State) : Out :=
  match (s.half h).fills[i]? with
  | none => .next s
  | some f =>
    let s1 := if fillFits s h f then s else bump (grnBlk h + 0x158) 1 s
    let hf := s1.half h
    evt (halfServes s h && f.install && f.want.isEmpty && !f.waiting) s
      ((finishFill h i f s1).getD (s1.setHalf h { hf with fills := lmod hf.fills i (fun x => { x with waiting := true }) }))
/-- FILL_RESUME (R226): a waiting fill proceeds once a way of its set is eligible, or a carve walk in progress opens one. -/
def execFillResume (h i : Nat) (s : State) : Out :=
  match (s.half h).fills[i]? with
  | none => .next s
  | some f => evt (halfServes s h && f.want.isEmpty && f.waiting) s ((finishFill h i f s).getD s)

/-! ## Reads (R215, R223, R237) -/

/-- A pin engine's read of a line: a present one is marked at once, an absent one is filled and marked (R228). -/
def pinRead (h i : Nat) (r : GReq) (s : State) : State :=
  let hf := s.half h
  match findLine hf (r.pa / 256) with
  | some l =>
    let h1 := if l.pinned then hf else unreserve l.set (putLine hf { l with pinned := true })
    takeReq h i (s.setHalf h h1)
  | none =>
    match allocFill h r true (takeReq h i s) with
    | some t => t
    | none => s
/-- A read of a sector of a cache line: merged, or read through the code; a dropped sector is fetched again. -/
def readLine (h i : Nat) (r : GReq) (l : Line) (e0 e1 : Nat) (s : State) : State :=
  let (merged, s1) := mergeRead h r.pa s
  if merged then answer r (lineSector l (r.pa / 64 % 4)).1 (lineWords l (r.pa / 64 % 4)) 2 (takeReq h i (countLine h r l s1))
  else match lineRead h r.pa 0 l e0 e1 s1 with
    | (some (b, psn), s2) => answer r b psn 2 (takeReq h i (countLine h r l s2))
    | (none, s2) => missAt h i r s2
/-- A read of a plot (R217, R218, R222). -/
def readPlot (h i off : Nat) (r : GReq) (e0 e1 : Nat) (s : State) : State :=
  let s0 := countReq h r.cls r true s
  match plotAt (s.half h) off with
  | none => answer r (List.replicate 64 0) [] 2 (takeReq h i (strayReq r s0))
  | some _ =>
    let (merged, s1) := mergeRead h r.pa s0
    if merged then answer r (committedSector s1 r.pa).1 (committedWords s1 r.pa) 2 (takeReq h i s1)
    else let d := plotRead h off r.pa 0 e0 e1 s1; answer r d.1.1 d.1.2 2 (takeReq h i d.2)
/-- A NOALLOC read of an absent sector: the sector alone is read from LPDDR, with no fill (Table 7-5). -/
def readThrough (h i : Nat) (r : GReq) (s : State) : State :=
  fillServe h (r.pa / 256) false (startFill h r.pa r.cls r.master false false [r] (countReq h r.cls r false (takeReq h i s))) (r.pa / 64 % 4)
/-- A read reaches its home half. -/
def readAt (h i : Nat) (r : GReq) (e0 e1 : Nat) (s : State) : State :=
  let shadow : Option Line := r.stage.bind (fun st => (findShadow (s.half h) (r.pa / 256) st).filter (fun l => l.present.getLsbD (r.pa / 64 % 4)))
  match shadow with
  | some l =>
    (match lineRead h r.pa 0 l e0 e1 (countReq h r.cls r true s) with
     | (some (b, psn), s1) => answer r b psn 2 (takeReq h i s1)
     | (none, s1) => takeReq h i s1)
  | none =>
    match r.stage.bind (fun st => spillOf s (h / 2) st r.pa) with
    | some x => answer r x.bytes x.psn 2 (takeReq h i (countReq h r.cls r false s))
    | none =>
      if mismatch s none r.slot r.pa then
        answer r (List.replicate 64 0) [] 2 (takeReq h i (logMismatch r.slot r.pa (countReq h r.cls r false s)))
      else match place s r.pa with
        | .plot _ off => readPlot h i off r e0 e1 s
        | _ =>
          match (findLine (s.half h) (r.pa / 256)).filter (fun l => l.present.getLsbD (r.pa / 64 % 4)) with
          | some l => readLine h i r l e0 e1 s
          | none => if r.cls = 2 then readThrough h i r s else missAt h i r s
/-- The read first meets the state bits of the sector's two words, and the tag of a line (R319, R321); e0 and e1 as in GRANARY_READ. -/
def readMeets (h : Nat) (r : GReq) (e0 e1 : Nat) (s : State) : State :=
  let both (way set : Nat) : State :=
    grnState h way set 0 (2 * (r.pa / 64) + 1) (stateFixes (bits e1 281 276)) (grnState h way set 0 (2 * (r.pa / 64)) (stateFixes (bits e0 281 276)) s)
  match place s r.pa, findLine (s.half h) (r.pa / 256) with
  | .plot _ off, _ => both (off >>> 27) (setOf s r.pa)
  | _, some l => tagRead h l.way l.set 0 (bits e0 353 282) (bits e1 353 282) (if l.present.getLsbD (r.pa / 64 % 4) then both l.way l.set else s)
  | _, none => s
/-- The tag that a read meets is lost. -/
def readLost (s : State) (h : Nat) (r : GReq) (e0 e1 : Nat) : Bool :=
  match place s r.pa with
  | .plot _ _ => false
  | _ => (findLine (s.half h) (r.pa / 256)).isSome && tagLost (bits e0 353 282) (bits e1 353 282)
/-- GRANARY_READ (R215, R223, R237, R325): request i of a half, a read, is served. The operands hold wrong bits (log 19), of the stored words 275:0, of
the copies of their state bits 281:276, and of the line's first (e0) and second (e1) tag copy 353:282. A lost tag is a quarter fault, and delivers
nothing. -/
def execGranaryRead (h i : Nat) (e0 e1 : BitVec 354) (s : State) : Out :=
  match (s.half h).reqs[i]? with
  | none => .next s
  | some r =>
    evt (halfServes s h && r.op == .read && !orderHeld s r && oneCopy (bits e0.toNat 281 276) && oneCopy (bits e1.toNat 281 276)) s
      (let s1 := readMeets h r e0.toNat e1.toNat s
       if readLost s h r e0.toNat e1.toNat then s1
       else match r.req with
         | .pin _ => pinRead h i r s1
         | _ => readAt h i r (bits e0.toNat 275 0) (bits e1.toNat 275 0) s1)

/-! ## Stores (R224, R368, R494) -/

/-- A shadow line that only whole-sector stores of class NOALLOC have written: its commit writes them to LPDDR (Table 7-5, log 21). -/
def noallocShadow (hf : Half) (st num : Nat) : Bool :=
  match findShadow hf num st with | some l => l.age == 4 | none => true
/-- The shadow line of a staged store keeps the insertion age of the store's class for its commit, 4 for NOALLOC. -/
def noteClass (h st : Nat) (r : GReq) (keep : Bool) (s : State) : State :=
  match findShadow (s.half h) (r.pa / 256) st with
  | some l => s.setHalf h (putLine (s.half h) { l with age := if r.cls = 2 then (if keep then 4 else 3) else insertAge r.cls })
  | none => s
/-- Count a staged store: a hit on its run's shadow, or on the line, whose age it sets. -/
def countStaged (h st : Nat) (r : GReq) (s : State) : State :=
  if (shadowSector s st r.pa).isSome then countReq h r.cls r true s
  else match (findLine (s.half h) (r.pa / 256)).filter (fun l => l.present.getLsbD (r.pa / 64 % 4)) with
    | some l => countLine h r l s
    | none => countReq h r.cls r false s
/-- A staged store whose conflicts are settled: one of part of an absent sector fetches its line first (R224); then room for the shadow; a mismatch
discards a partial write. -/
def storeShadow (h i st : Nat) (r : GReq) (m : Mem) (psn : Bool) (s : State) : State :=
  let isPlot : Bool := match place s r.pa with | .plot _ _ => true | _ => false
  let bad := mismatch s (some st) r.slot r.pa
  if !isPlot && !wholeSector m && !bad && (shadowSector s st r.pa).isNone && !sectorHere (s.half h) r.pa then missAt h i r s
  else match spillRoom st r.pa s with
    | none => s
    | some s1 =>
      if (s1.half h).reqs[i]? ≠ some r then s1
      else
        let s2 := takeReq h i (countStaged h st r s1)
        if bad && (isPlot || !wholeSector m) then answer r [] [] 0 (logMismatch r.slot r.pa s2)
        else answer r [] [] 0 (noteClass h st r (wholeSector m && noallocShadow (s2.half h) st (r.pa / 256))
          (putBytes r m psn (if bad then logMismatch r.slot r.pa s2 else s2)))
/-- A staged store: conflicts first. -/
def storeStaged (h i st : Nat) (r : GReq) (m : Mem) (psn : Bool) (s : State) : State :=
  match resolveConflict (some st) r.pa s with
  | none => s
  | some s0 => if (s0.half h).reqs[i]? ≠ some r then s0 else storeShadow h i st r m psn s0
/-- A store to a plot. -/
def storePlot (h i off : Nat) (r : GReq) (m : Mem) (psn : Bool) (s : State) : State :=
  let s0 := takeReq h i (countReq h r.cls r true s)
  match plotAt (s.half h) off with
  | none => answer r [] [] 0 (strayReq r s0)
  | some _ => if mismatch s none r.slot r.pa then answer r [] [] 0 (logMismatch r.slot r.pa s0) else answer r [] [] 0 (putBytes r m psn s0)
/-- Install a line whose sectors a store writes whole (R224), or let the store wait when its set has no eligible way. -/
def storeInstall (h i : Nat) (r : GReq) (m : Mem) (psn : Bool) (s : State) : State :=
  let set := setOf s r.pa
  match makeRoom s h set r.master with
  | (none, _) => s
  | (some w, s1) =>
    let mark := pinned? s1 h (r.pa / 256) && decide (0 < tget 0 (s1.half h).reserved set)
    let l : Line := { set := set, way := w, num := r.pa / 256, present := 0, dirty := 0, age := insertAge r.cls, pinned := mark, shadow := none, red := 0
                      slot := r.slot, bytes := [], psn := [] }
    let sec := r.pa / 64 % 4
    let l1 := { setSector l sec (m.map Prod.snd) (if psn then [0, 1] else []) with present := setBit4 0 sec, dirty := setBit4 0 sec }
    let h1 := s1.half h
    answer r [] [] 0 (takeReq h i (countReq h r.cls r false (useWay h w (installLine (s1.setHalf h (unmerge (if mark then unreserve set h1 else h1) r.pa)) h w l1))))
/-- A whole-sector write under another slot: the line's dirty sectors are written back, the line is dropped, and installed anew in its way. -/
def storeRewrite (h i : Nat) (r : GReq) (l : Line) (m : Mem) (psn : Bool) (s : State) : State :=
  let s1 := writeBack l r.master (logMismatch r.slot r.pa s)
  let sec := r.pa / 64 % 4
  let l1 := { setSector { l with bytes := [], psn := [], slot := r.slot } sec (m.map Prod.snd) (if psn then [0, 1] else []) with
                present := setBit4 0 sec, dirty := setBit4 0 sec }
  let hf := s1.half h
  answer r [] [] 0 (takeReq h i (countReq h r.cls r false
    (useWay h l.way (s1.setHalf h { putLine hf l1 with merge := hf.merge.filter (fun x => x.sector / 4 != l.num) }))))
/-- A store of an unstaged requester to LPDDR. -/
def storeLine (h i : Nat) (r : GReq) (m : Mem) (psn : Bool) (s : State) : State :=
  let hf := s.half h
  match findLine hf (r.pa / 256) with
  | some l =>
    let sec := r.pa / 64 % 4
    if l.slot ≠ r.slot then
      (if wholeSector m then storeRewrite h i r l m psn s
       else answer r [] [] 0 (takeReq h i (logMismatch r.slot r.pa (countReq h r.cls r (l.present.getLsbD sec) s))))
    else if l.present.getLsbD sec then
      answer r [] [] 0 (takeReq h i (putBytes r m psn (countLine h r l s)))
    else if wholeSector m then
      let l1 := { setSector l sec (m.map Prod.snd) (if psn then [0, 1] else []) with present := setBit4 l.present sec, dirty := setBit4 l.dirty sec }
      answer r [] [] 0 (takeReq h i (countReq h r.cls r false (useWay h l.way (s.setHalf h (unmerge (putLine hf l1) r.pa)))))
    else missAt h i r s
  | none =>
    if wholeSector m then
      (if r.cls = 2 then answer r [] [] 0 (takeReq h i (countReq h 2 r false (burstWrite s r.pa r.master r.slot (m.map Prod.snd) psn)))
       else if hf.fills.any (fun f => f.install && f.num == r.pa / 256) then missAt h i r s
       else storeInstall h i r m psn s)
    else if burstSlot s r.pa ≠ r.slot then answer r [] [] 0 (takeReq h i (logMismatch r.slot r.pa (countReq h r.cls r false s)))
    else missAt h i r s
/-- GRANARY_STORE (R224): request i of a half, a write, is served. -/
def execGranaryStore (h i : Nat) (s : State) : Out :=
  match (s.half h).reqs[i]? with
  | none => .next s
  | some r =>
    match r.op with
    | .write m psn =>
      evt (halfServes s h && !orderHeld s r) s
        (match r.stage, place s r.pa with
         | some st, _ => storeStaged h i st r m psn s
         | none, .plot _ off => storePlot h i off r m psn s
         | none, _ => storeLine h i r m psn s)
    | _ => .next s

/-! ## Reductions: admission and completion -/

/-- Admission of an atomic once its conflicts and its room for a shadow are settled. -/
def admitAt (h i : Nat) (r : GReq) (op lanes : Nat) (s : State) : State :=
  let hf := s.half h
  let isPlot : Bool := match place s r.pa with | .plot _ _ => true | _ => false
  let shadow : Bool := match r.stage with | some st => (shadowSector s st r.pa).isSome | none => false
  let uncovered : Bool := match place s r.pa with | .plot _ off => (plotAt hf off).isNone | _ => false
  if uncovered then
    (match r.op with
     | .atomic _ _ _ l => answerAtom r (l.map (fun e => (e.1, 0))) false (takeReq h i (strayReq r (countReq h r.cls r true s)))
     | _ => s)
  else if mismatch s r.stage r.slot r.pa then atomZero r (takeReq h i (countReq h r.cls r false s))
  else if !isPlot && !shadow && !sectorHere hf r.pa then missAt h i r s
  else if !redFits s h r op lanes then s
  else
    admitRed h r (takeReq h i
      (match findLine hf (r.pa / 256) with
       | some l => countLine h r l s
       | none => countReq h r.cls r true s))
/-- REDUCTION_ADMIT (R232 to R235, R369): request i of a half, an atomic, is admitted to its bank; in headland none is (R463). -/
def execReductionAdmit (h i : Nat) (s : State) : Out :=
  match (s.half h).reqs[i]? with
  | none => .next s
  | some r =>
    match r.op with
    | .atomic op _ _ lanes =>
      evt (halfServes s h && (s.quarter (h / 2)).st == 0 && !orderHeld s r) s
        (match resolveConflict r.stage r.pa s with
         | none => s
         | some s0 =>
           match (match r.stage with | some st => spillRoom st r.pa s0 | none => some s0) with
           | none => s0
           | some s1 => if ((s1.half h).reqs[i]?) = some r then admitAt h i r op lanes.length s1 else s1)
    | _ => .next s
/-- REDUCTION_COMPLETE (R234): an admitted reduction is performed, its value returns, and the line's count falls. -/
def execReductionComplete (h i : Nat) (s : State) : Out :=
  match (s.half h).reds[i]? with
  | none => .next s
  | some x =>
    let hf := s.half h
    evt (halfServes s h) s (completeRed h x (s.setHalf h { hf with reds := hf.reds.eraseIdx i }))
/-- MERGE_ENTRY_EXPIRE (R237): an entry leaves the buffer. -/
def execMergeEntryExpire (h i : Nat) (s : State) : Out :=
  let hf := s.half h
  evt (decide (h < 8) && decide (i < hf.merge.length)) s (s.setHalf h { hf with merge := hf.merge.eraseIdx i })

/-! ## The carve walk and the pin engine (R220, R221, R228) -/

/-- Sets of a half (R212). -/
def setCount : Nat := 524288
/-- CARVE_WALK_SET (R220): the walk changes the next set; after the last one it ends, and its command completes. -/
def execCarveWalkSet (h : Nat) (s : State) : Out :=
  match (s.half h).carve with
  | none => .next s
  | some c =>
    let s1 := carveSet h c.set s
    let hf := s1.half h
    evt (halfServes s h) s
      (if c.set + 1 < setCount then s1.setHalf h { hf with carve := some { c with set := c.set + 1 } }
       else endCmd c.qu c.seq 0 0 (s1.setHalf h { hf with carve := none }))
/-- Lines of a list by set. -/
def bySet (s : State) (l : List Nat) : Tab Nat := l.foldl (fun t a => let x := setOf s (a * 256); tset 0 t x (tget 0 t x + 1)) []
/-- Plot ways, pinned lines and reservations of a set. -/
def pinCount (hf : Half) (set : Nat) : Nat :=
  hf.plotWays + (hf.lines.filter (fun l => l.set == set && l.pinned)).length + tget 0 hf.reserved set
/-- A pin fails in a half: its command completes with PIN_LIMIT, and the halves that accepted release it. -/
def pinFails (h n : Nat) (p : Pin) (s : State) : State :=
  let s1 := p.accepted.foldl (fun (a : State) k => unpinRange k n p.base p.size a) (bump (grnBlk h + 0x170) 1 s)
  let s2 := unask n s1
  let s3 := { s2 with pel := { s2.pel with pins := tdel s2.pel.pins n } }
  match p.cmd with | some (qu, seq) => endCmd qu seq 0x1A 0 s3 | none => s3
/-- A half accepts a pin: reservations, spills of shadows beyond LIMIT, marks of present lines, and reads of the others; the engine serves the pin
until its lines are marked. -/
def pinAccept (h : Nat) (x : PinReq) (p : Pin) (l : List Nat) (s : State) : State :=
  let hf := s.half h
  let counts := bySet s l
  let res := counts.foldl (fun (t : Tab Nat) e => tset 0 t e.1 (tget 0 t e.1 + e.2)) hf.reserved
  let s1 := { s.setHalf h { hf with reserved := res, serving := some x } with
                pel := { s.pel with pins := tput s.pel.pins x.pin { p with accepted := ladd p.accepted h } } }
  let s2 := counts.foldl (fun a e => spillOver h e.1 16 a) s1
  let reads := l.map (fun a => ({ pa := a * 256, op := .read, req := .pin x.pin, cls := 0, master := 3, slot := 0, stage := none, retry := none } : GReq))
  let h2 := s2.half h
  let has (a : Nat) : Bool := (findLine h2 a).isSome
  let mark (hh : Half) (a : Nat) : Half :=
    match findLine hh a with | some y => if y.pinned then hh else unreserve y.set (putLine hh { y with pinned := true }) | none => hh
  let h3 := (l.filter has).foldl mark h2
  s2.setHalf h { h3 with reqs := h3.reqs ++ reads.filter (fun r => !has (r.pa / 256)) }
/-- The engine of a half takes a pin request: it fails as a whole where a count would exceed LIMIT (R228); an established pin whose region changed
its mode waits for room instead, since a pin goes only as R229 says (log 27). -/
def pinServe (h : Nat) (x : PinReq) (p : Pin) (s : State) : State :=
  let hf := s.half h
  let l := rangeLines s h p.base p.size
  if (bySet s l).any (fun e => decide (hf.limit < pinCount hf e.1 + e.2)) then
    (if x.kind = 4 then s.setHalf h { hf with pinq := hf.pinq ++ [x] } else pinFails h x.pin p s)
  else pinAccept h x p l s
/-- PIN_ENGINE_REQUEST (R228, R229, R231): the engine of a half serves the request at its head, once it has finished the pin before; a carve holds it
(R221). -/
def execPinEngineRequest (h : Nat) (s : State) : Out :=
  let hf := s.half h
  match hf.pinq with
  | [] => .next s
  | x :: t =>
    let s1 := s.setHalf h { hf with pinq := t }
    evt (halfServes s h && hf.carve.isNone && !pinBusy s h) s
      (if x.kind = 0 ∨ x.kind = 4 then (match tfind s1.pel.pins x.pin with | none => s1 | some p => pinServe h x p s1)
       else unpinRange h x.pin x.base x.size s1)
/-- Halves that are home to some line of a range. -/
def rangeHalves (s : State) (base size : Nat) : List Nat := (List.range 8).filter (fun h => !(rangeLines s h base size).isEmpty)
/-- PIN_COMPLETE (R228): every line of the pin is resident and marked. -/
def execPinComplete (pin : Nat) (s : State) : Out :=
  match tfind s.pel.pins pin with
  | none => .next s
  | some p =>
    match p.cmd with
    | none => .next s
    | some (qu, seq) =>
      evt ((rangeHalves s p.base p.size).all (fun h => p.accepted.contains h && pinMarked s h p)) s
        (endCmd qu seq 0 0 { s with pel := { s.pel with pins := tput s.pel.pins pin { p with cmd := none } } })

/-! ## The thrash event (R230, R231) -/

/-- WINDOW_US, MINACC_LOG2 and THRESH. -/
def thrashWindow (hf : Half) : Nat := bits hf.thrashCfg.toNat 23 8
/-- THRASH_WINDOW_END (R230): the window's ordinary accesses and hits are compared, and a qualifying window raises the event. -/
def execThrashWindowEnd (h : Nat) (s : State) : Out :=
  let hf := s.half h
  let acc := counter s (grnBlk h + 0x100)
  let hit := counter s (grnBlk h + 0x108)
  let a := (acc - hf.winAcc).toNat
  let k := (hit - hf.winHit).toNat
  let q := decide (2 ^ bits hf.thrashCfg.toNat 28 24 ≤ a) && decide (k * 256 < bits hf.thrashCfg.toNat 7 0 * a)
  let h1 := { hf with thrash := q, winAcc := acc, winHit := hit, winAt := now s, evA := if q then BitVec.ofNat 64 a else hf.evA
                      evH := if q then BitVec.ofNat 64 k else hf.evH, event := hf.event || (q && hf.ignore == 0), ignore := hf.ignore - 1 }
  let s1 := s.setHalf h h1
  evt (halfServes s h && s.fuse.loaded && aged s hf.winAt (thrashWindow hf * us)) s (if q then signal (srcHalf h) 0 1 (bump (grnBlk h + 0x178) 1 s1) else s1)
/-- THRASH_EVENT (R231): Pelseso releases the eligible pin of lowest priority, the most recently created first, and ignores the half's events for 4
windows; with no eligible pin it logs the event. -/
def execThrashEvent (h : Nat) (s : State) : Out :=
  let hf := s.half h
  let s1 := s.setHalf h { hf with event := false }
  evt (decide (h < 8) && hf.event) s
    (match pickPin ((pinsOf s h).filter (fun e => e.2.cmd.isNone && decide (e.2.priority < 7))) with
     | some (n, p) =>
       let s2 := releasePin n 2 (s1.setHalf h { s1.half h with ignore := 4 })
       alarmW 0x0701 (srcHalf h) [n, p.priority, h] s2
     | none => logRec 2 (srcHalf h) 0x8900 (bvLE 8 hf.evA ++ bvLE 8 hf.evH) s1)

/-! ## The tilth split (R241 to R243) -/

/-- A core is drained: no resident stook, empty array and sampler queues, no bulk operation. -/
def drained (c : Core) : Bool :=
  c.stooks.isEmpty && c.arr.queue.isEmpty && c.arr.waiting.isEmpty && c.arr.run.isNone && c.samples.isEmpty && c.bulk.isEmpty && c.pfr.isEmpty
/-- TILTH_SPLIT_CHANGE (R243): a drained core's cache takes 64 KiB × units; the cache is invalidated and the whole scratchpad reads as zero. -/
def execTilthSplitChange (q c units : Nat) (s : State) : Out :=
  let n := 64 * q + c
  let k := s.core n
  evt (wfCore q c && coreFitted s n && drained k && decide (1 ≤ units) && decide (units ≤ 31)) s
    (clearScratch n 0 0x1F_0000 (s.setCore n { k with cunits := units, tcache := [], trr := [] }))

end Sys2Proof.Machine
end

