-- ==== Sys2Proof/Machine/Lpddr.lean ====
section
/-! DEFINITION. The stack controllers: the symbol code, training, the request pool, the channel scheduler, retries, retrains and refresh
(10 R292 to R315). The pool holds the bursts of the granary's fills and write-backs and those that LPDDR_REQUEST brings (log 22). -/
namespace Sys2Proof.Machine

/-! ## The symbol code on a read (R296) -/

/-- Symbol and value that a syndrome points at. -/
def symFind (syn : Nat) : Option (Nat × Nat) :=
  (List.range 136).findSome? (fun j => ((idxFrom 1 15).find? (fun e => symScale e (symCol j) == syn)).map (fun e => (j, e)))
/-- Outcome of a burst whose stored word arrives with the wrong bits of a pattern: data 511:0, sideband bits 31:0 in 543:512. -/
def symDecode (stored err0 : Nat) : Decoded :=
  let err := err0 % 2 ^ 544
  let syn := symSyn (stored ^^^ err)
  if syn = 0 then .ok 0 err
  else match symFind syn with
    | some (j, e) => .ok 1 (err ^^^ (e <<< symAt j))
    | none => .bad

/-! ## A burst on the pins (R293, R294, R297) -/

/-- The 576 bits of a burst as they are sent: data, sideband bits 31:0, and the CRC-32C over both, which is never stored. -/
def lpFrame (x : W512 × W32) : Nat := let b := bvLE 64 x.1 ++ bvLE 4 x.2; leNat b + 2 ^ 544 * crc32c b
/-- The receiver's check of CRC fails. -/
def crcFails (f : Nat) : Bool := crc32c (natLE 68 (f % 2 ^ 544)) != f >>> 544
/-- Bit of a burst that pin p carries in beat b: DQ(p), or SB(p - 32). -/
def pinBit (b p : Nat) : Nat := if p < 32 then 32 * b + p else 512 + 4 * b + (p - 32)
/-- Wrong bits of a burst from the wrong levels on its pins: bit 36b + p stands for pin p in beat b. -/
def wireErr (w : Nat) : Nat := ((List.range 576).filter (bit w)).foldl (fun a k => a ^^^ 2 ^ pinBit (k / 36) (k % 36)) 0

/-! ## Stack state -/

/-- Channels in service. -/
def chUp (k : Stack) : Nat := if k.st = 1 ∨ k.st = 2 ∨ k.st = 5 then 64 - (setBits 64 k.failed.toNat).length else 0
/-- MEM_STATE. -/
def memState (s : State) (m : Nat) : Nat :=
  if !stackFitted s m then 4
  else let k := s.stack m; k.st + 2 ^ 4 * k.rate + 2 ^ 8 * chUp k + 2 ^ 16 * k.gen

/-! ## Failures (R299) -/

/-- Runs whose placement has a core in the stack's quarter are abandoned; one that needs a sector spilled there loses its input (R379, R381). -/
def stackLoss (q : Nat) (s : State) : State :=
  (launchesOn s (fun n => n / 64 == q)).foldl (fun a l =>
    match tfind a.pel.runs l with
    | some r =>
      let spilled := match r.stage with | some st => (tget [] a.pel.spills q).any (fun x => x.stage == st) | none => false
      if spilled then failRun l 0x02 4 a else abandonRun l true a
    | none => a) s
/-- Rows stay open while a pooled request targets them. -/
def closeRows (k : Stack) (ch : Nat) (c : Chan) : Chan :=
  { c with rows := c.rows.filter (fun e => k.pool.any (fun r => lpChan r.y == ch && lpBank r.y == e.1 && lpRow r.y == e.2)) }
/-- A request leaves its controller or its port; its bank precharges when no other targets the row (R309). -/
def lpDrop (m : Nat) (r : MReq) (s : State) : State :=
  let k := s.stack m
  let k1 := { k with pool := k.pool.filter (fun x => x.id != r.id), port := k.port.filter (fun x => x.id != r.id) }
  s.setStack m (k1.setChan (lpChan r.y) (closeRows k1 (lpChan r.y) (k1.chan (lpChan r.y))))
/-- Deliver a read: to the port that brought it, or to the fill that asked for the sector, under the burst's slot; none where the controller made the
data. -/
def lpDeliver (m : Nat) (r : MReq) (slot : Option Nat) (d : W512 × Bool) (s : State) : State :=
  match r.src with
  | .port => let k := s.stack m; s.setStack m { k with answers := (r.id, d.1, d.2) :: k.answers }
  | .fill h num install => fillArrive h num (r.y / 64 % 4) install slot d s
/-- A read ends with a burst's bits: decrypted, and poisoned where the burst is or the code fails. -/
def lpGive (m : Nat) (r : MReq) (x : W512 × W32) (bad : Bool) (s : State) : State :=
  let pa := lpInv s m r.y
  let o := lpOpen s pa x
  lpDeliver m r (some (sideSlot x.2)) (BitVec.ofNat 512 (leNat o.1), o.2 || bad) (countRd (lpDrop m r s) pa r.master)
/-- A request ends without being served: a read is delivered poisoned, with its record, and a write is discarded and counted (R298, R299, R327). -/
def lpLost (m : Nat) (s : State) (r : MReq) : State :=
  let s1 := lpDrop m r s
  if r.write then bump (memBlk m + 0x1C8) 1 s1
  else lpDeliver m r none (Config.poisonBurst (lpInv s m r.y), true) (poisonRec m r.y s1)
/-- A stack fails: one alarm; its requests end. -/
def stackFail (m : Nat) (s : State) : State :=
  let k := s.stack m
  let s1 := s.setStack m { k with st := 3, failed := 0xFFFF_FFFF_FFFF_FFFF }
  let s2 := alarmW 0x0501 (srcStack m) [memState s1 m, 0xFFFF_FFFF_FFFF_FFFF] s1
  (k.pool ++ k.port).foldl (lpLost m) s2
/-- A channel fails: an alarm, its requests end, and interrupted runs are abandoned. -/
def chanFail (m ch : Nat) (s : State) : State :=
  let k := s.stack m
  let s1 := s.setStack m { k with failed := setBit64 k.failed ch, st := if k.st = 1 then 2 else k.st }
  let s2 := alarmW 0x0501 (srcChan m ch) [memState s1 m, (s1.stack m).failed.toNat] s1
  stackLoss (m / 2) (((k.pool ++ k.port).filter (fun r => lpChan r.y == ch)).foldl (lpLost m) s2)

/-! ## Training (R300 to R302) -/

/-- Channels of which some pin leaves less than 0.20 UI of eye width: entries are channel, pin and width in thousandths of a UI; a pin that is not listed
leaves the whole. -/
def eyeFails (l : List (Nat × Nat × Nat)) : BitVec 64 :=
  BitVec.ofNat 64 (((List.range 64).filter (fun ch => l.any (fun e => e.1 == ch && decide (e.2.1 < 36) && decide (e.2.2 < 200)))).foldl (fun a ch => a + 2 ^ ch) 0)
/-- STACK_TRAINING (R300, R301): identity, command training and the eye widths of the channels at each rate tried, with the activation threshold that
each die reports. After a module reset that is no cold start contents are kept, and the stack is up at once (R304). -/
def execStackTraining (m : Nat) (gen : Option (Nat × List (Nat × Nat))) (cmdOk : Bool) (eyes107 eyes96 : List (Nat × Nat × Nat)) (s : State) : Out :=
  let k := s.stack m
  let g := (gen.getD (0, [])).1
  let rfm := (gen.getD (0, [])).2
  let fast := g == 6 && decide ((setBits 64 (eyeFails eyes107).toNat).length ≤ 2)
  let failed : W64 := eyeFails (if fast then eyes107 else eyes96)
  let cold := s.boot.kind == 1
  let k1 := { k with gen := g % 256, rate := if fast then 2 else 1, failed := failed, st := if cold then 0 else if failed = 0 then 1 else 2
                     rfmLimit := (rfm.filter (fun e => decide (e.1 < 16))).foldl (fun t e => tset 0 t e.1 e.2) [] }
  evt (stackFitted s m && k.st == 0 && k.rate == 0 && s.boot.step == 5) s
    (if gen.isNone ∨ (g ≠ 5 ∧ g ≠ 6) ∨ !cmdOk then stackFail m (s.setStack m { k with gen := g % 256 })
     else (setBits 64 failed.toNat).foldl (fun a ch => alarmW 0x0501 (srcChan m ch) [memState a m, failed.toNat] a) (s.setStack m k1))
/-- Every burst of a stack holds zero data with a valid code and a zero META field (R302), and nothing waits for it. -/
def zeroStack (m : Nat) (s : State) : State :=
  let other (pa : Nat) : Bool := (lpLoc s pa).1 != m
  { s.setStack m { s.stack m with pool := [], port := [] } with
      mem := { s.mem with lpddr := s.mem.lpddr.filter (fun e => other e.1), lpSide := s.mem.lpSide.filter (fun e => other (64 * e.1)) } }
/-- STACK_ZERO_FILL_DONE (R302): the stack is up, or degraded when a channel has failed. -/
def execStackZeroFillDone (m : Nat) (s : State) : Out :=
  let k := s.stack m
  evt (stackFitted s m && k.st == 0 && k.rate != 0) s (zeroStack m (s.setStack m { k with st := if k.failed = 0 then 1 else 2 }))

/-! ## The pool (R307, R312) -/

/-- The stack carries requests. -/
def stackUp (s : State) (m : Nat) : Bool := stackFitted s m && ((s.stack m).st == 1 || (s.stack m).st == 2)
/-- LPDDR_REQUEST (R307, R312): a burst request reaches its master's port; one of a failed channel or stack is answered at once (R299). -/
def execLpddrRequest (m : Nat) (write : Bool) (master y slot : Nat) (data : BitVec 512) (poison : Bool) (s : State) : Out :=
  let k := s.stack m
  let a := y / 64 * 64
  let r : MReq := { id := k.nextId, write := false, master := master, y := a, data := 0, side := 0, src := .port, since := now s, issued := false, tries := 0 }
  evt (stackFitted s m && (stackUp s m || k.st == 3) && decide (master < 8) && decide (y < 0x14_0000_0000) && decide (slot < 64)) s
    (if write then burstWrite s (lpInv s m a) master slot (bvLE 64 data) poison
     else if chanDead s m (lpChan a) then lpLost m (s.setStack m { k with nextId := k.nextId + 1 }) r
     else lpIssue m r s)

/-! ## The scheduler (R309, R310, R313, R314) -/

/-- An urgency wire that counts: asserted, and not ignored. -/
def urgent (s : State) (q master : Nat) : Bool := (tfind s.urgent (8 * q + master)).isSome && (tfind s.urgIgnored (8 * q + master)).isNone
/-- A master's engine asserts its wire: a receive buffer is at least three quarters full, or a transmit buffer at most one quarter. Entries are the
master, whether the buffer transmits, its level and its size. -/
def wireUp (levels : List (Nat × Bool × Nat × Nat)) (master : Nat) : Bool :=
  levels.any (fun e => e.1 == master && (if e.2.1 then decide (4 * e.2.2.1 ≤ e.2.2.2) else decide (3 * e.2.2.2 ≤ 4 * e.2.2.1)))
/-- The controllers of a quarter sample a wire: an ignored one counts again once it has been deasserted for 10 µs (R314). -/
def sampleWire (q : Nat) (levels : List (Nat × Bool × Nat × Nat)) (s : State) (master : Nat) : State :=
  let i := 8 * q + master
  let up := wireUp levels master
  let held := match tfind s.urgIgnored i with
    | some (some t) => if aged s t (10 * us) then tdel s.urgIgnored i else if up then tput s.urgIgnored i none else s.urgIgnored
    | some none => if up then s.urgIgnored else tput s.urgIgnored i (some (now s))
    | none => s.urgIgnored
  { s with urgIgnored := held, urgent := if up then (if (tfind s.urgent i).isSome then s.urgent else tput s.urgent i (now s)) else tdel s.urgent i }
/-- Both wires (Table 10-5). -/
def sampleWires (q : Nat) (levels : List (Nat × Bool × Nat × Nat)) (s : State) : State := [4, 5].foldl (sampleWire q levels) s
/-- Reserved share of a master. -/
def masterShare (k : Stack) (master : Nat) : Nat := bits k.share.toNat (6 * master + 5) (6 * master)
/-- An open row serves the request. -/
def rowHit (c : Chan) (r : MReq) : Bool := tfind c.rows (lpBank r.y) == some (lpRow r.y)
/-- Distance of a master from the arbiter's pointer (R30). -/
def turn (ptr master : Nat) : Nat := (master + 8 - ptr % 8) % 8
/-- Whether a request comes before another: an urgent master where asked, a row hit, then the older, then the turn. -/
def goesFirst (s : State) (m : Nat) (c : Chan) (useUrg : Bool) (a b : MReq) : Bool :=
  let ua := useUrg && urgent s (m / 2) a.master
  let ub := useUrg && urgent s (m / 2) b.master
  if ua ≠ ub then ua
  else if rowHit c a ≠ rowHit c b then rowHit c a
  else if a.since ≠ b.since then decide (a.since < b.since)
  else decide (turn c.ptr a.master < turn c.ptr b.master)
/-- Requests of a channel that may be issued: not issued, and none that entered before names the same burst (R307). -/
def readyIn (ch : Nat) : List Nat → List MReq → List MReq
  | _, [] => []
  | seen, r :: t =>
    if lpChan r.y = ch ∧ !r.issued ∧ !seen.contains r.y then r :: readyIn ch (r.y :: seen) t else readyIn ch (r.y :: seen) t
/-- Requests of a channel that may be issued. -/
def ready (k : Stack) (ch : Nat) : List MReq := readyIn ch [] k.pool
/-- The choice of R309: the request and the counter of its step, if any. -/
def choose (s : State) (m ch : Nat) : Option (MReq × Option Nat) :=
  let k := s.stack m
  let c := k.chan ch
  let all := ready k ch
  let l := if c.batch then all.filter (fun r => r.write) else all
  match firstBy (goesFirst s m c true) (l.filter (fun r => decide (tget 0 c.winBy r.master < masterShare k r.master))) with
  | some r => some (r, none)
  | none =>
    match firstBy (fun a b => decide (a.since < b.since) || (a.since == b.since && decide (turn c.ptr a.master < turn c.ptr b.master)))
      (all.filter (fun r => aged s r.since (4 * us))) with
    | some r => some (r, some 0x1C0)
    | none =>
      match firstBy (goesFirst s m c false) (l.filter (fun r => urgent s (m / 2) r.master)) with
      | some r => some (r, some 0x1B8)
      | none => (firstBy (goesFirst s m c false) l).map (fun r => (r, none))
/-- The reads of a burst up to the next write to it. -/
def readsOf (y : Nat) : List MReq → List MReq
  | [] => []
  | r :: t => if r.y = y then (if r.write then [] else r :: readsOf y t) else readsOf y t
/-- A write that the DRAM has not refused is complete: its bits are stored, and the reads that entered after it take its data from the pool (R307). -/
def lpWritten (m : Nat) (s : State) (r : MReq) : State :=
  let s1 := bump (memBlk m + 0x108 + 0x10 * r.master) 1 (lpStore (lpInv s m r.y) (r.data, r.side) (lpDrop m r s))
  (readsOf r.y (s1.stack m).pool).foldl (fun a x => lpGive m x (r.data, r.side) false a) s1
/-- Writes of a channel issued in earlier slots are complete. -/
def writesDone (m ch : Nat) (s : State) : State :=
  ((s.stack m).pool.filter (fun r => r.write && r.issued && lpChan r.y == ch)).foldl (lpWritten m) s
/-- Whether the channel serves a write batch. -/
def batchNow (k : Stack) (ch : Nat) (c : Chan) : Bool :=
  let w := (k.pool.filter (fun r => r.write && lpChan r.y == ch)).length
  if c.batch then decide (16 < w) else decide (48 ≤ w)
/-- Issue a request: its row opens, its slot counts, and activations count toward refresh management. -/
def issueReq (m ch : Nat) (r : MReq) (ctr : Option Nat) (s : State) : State :=
  let k := s.stack m
  let c := k.chan ch
  let hit := rowHit c r
  let bank := lpBank r.y
  let acts := tget 0 c.acts bank + b2n (!hit)
  let limit := tget 0 k.rfmLimit (ch / 4)
  let rfm := !hit && limit != 0 && decide (limit ≤ acts)
  let wrap := decide (64 ≤ c.winUsed + 1)
  let c1 := { c with rows := tput c.rows bank (lpRow r.y), acts := tset 0 c.acts bank (if rfm then 0 else acts), ptr := (r.master + 1) % 8
                     winUsed := if wrap then 0 else c.winUsed + 1
                     winBy := if wrap then [] else tset 0 c.winBy r.master (tget 0 c.winBy r.master + 1) }
  let k1 := { k with pool := k.pool.map (fun (x : MReq) => if x.id = r.id then { x with issued := true } else x) }
  let s1 := s.setStack m (k1.setChan ch (closeRows k1 ch c1))
  let s2 := bump (memBlk m + (if hit then 0x180 else 0x188)) 1 s1
  let s3 := if rfm then bump (memBlk m + 0x198) 1 s2 else s2
  match ctr with | some o => bump (memBlk m + o) 1 s3 | none => s3
/-- A bank whose postponed refreshes have reached the limit of 8. -/
def dueBank (c : Chan) : Option Nat := (c.refresh.find? (fun e => decide (8 ≤ e.2))).map Prod.fst
/-- Issue n refreshes of a bank: the row closes. -/
def refreshBank (m ch bank n : Nat) (left : Int) (s : State) : State :=
  let k := s.stack m
  let c := k.chan ch
  let c1 := { c with refresh := tset 0 c.refresh bank left, rows := if n = 0 then c.rows else tdel c.rows bank }
  bump (memBlk m + 0x190) n (s.setStack m (k.setChan ch c1))
/-- What a burst slot of a channel serves: a refresh that is due, else the request that the scheduler chooses, if any (R309). -/
def slotServe (m ch : Nat) (s : State) : State :=
  match dueBank ((s.stack m).chan ch) with
  | some b => refreshBank m ch b 1 (tget 0 ((s.stack m).chan ch).refresh b - 1) s
  | none => match choose s m ch with
    | some (r, ctr) => issueReq m ch r ctr s
    | none => s
/-- CHANNEL_SLOT (R309, R314): before a burst slot the scheduler samples the urgency wires, from the levels of the engines' buffers, and chooses a refresh
or a request. -/
def execChannelSlot (m : Nat) (slot : Nat × List (Nat × Bool × Nat × Nat)) (s : State) : Out :=
  let ch := slot.1
  let s0 := portDrain m (writesDone m ch (sampleWires (m / 2) slot.2 s))
  let k0 := s0.stack m
  let s1 := s0.setStack m (k0.setChan ch { k0.chan ch with batch := batchNow k0 ch (k0.chan ch) })
  evt (stackUp s m && decide (ch < 64) && !chanDead s m ch && !((s.stack m).chan ch).retraining) s (slotServe m ch s1)
/-- Interval between the refreshes of a bank: the base interval over the rate multiple of the channel's die, dies holding four channels each (R292,
R310). -/
def refreshTicks (k : Stack) (ch : Nat) : Nat := Config.refreshBase.toNat / max 1 (tget 1 k.dieRate (ch / 4))
/-- REFRESH_DUE (R310): a bank's interval has passed; its refresh is postponed, up to 8, while requests for the bank wait; with the bank idle it is
issued, and one more is pulled in, up to 8 (log 22). -/
def execRefreshDue (m ch bank : Nat) (s : State) : Out :=
  let k := s.stack m
  let c := k.chan ch
  let busy := k.pool.any (fun r => lpChan r.y == ch && lpBank r.y == bank)
  let r := tget 0 c.refresh bank + 1
  let due : Bool := match tfind c.dueAt bank with | some t => aged s t (refreshTicks k ch) | none => true
  let s1 := s.setStack m (k.setChan ch { c with dueAt := tput c.dueAt bank (now s) })
  evt (stackUp s m && decide (ch < 64) && decide (bank < 16) && due) s
    (if busy then (if 8 < r then refreshBank m ch bank 1 8 s1 else refreshBank m ch bank 0 r s1)
     else let left := max (-8) (r - 2); refreshBank m ch bank (r - left).toNat left s1)
/-- A die's refresh falls back to four times the base rate, with an alarm. -/
def refreshFallback (m die : Nat) (s : State) : State :=
  let k := s.stack m
  alarmW 0x0503 (srcStack m) [die] (s.setStack m { k with dieRate := tset 1 k.dieRate die 4, dieFallback := ladd k.dieFallback die })
/-- REFRESH_RATE_POLL (R310): the die's register is read; none stands for a value outside its codes. -/
def execRefreshRatePoll (m die : Nat) (rate : Option Nat) (s : State) : Out :=
  let k := s.stack m
  evt (stackUp s m && decide (die < 16)) s
    (match rate with
     | some r => s.setStack m { k with dieRate := tset 1 k.dieRate die r, dieFallback := ldel k.dieFallback die }
     | none => refreshFallback m die s)
/-- REFRESH_RATE_TIMEOUT (R310): the read of a die's register was not answered within 10 µs. -/
def execRefreshRateTimeout (m die : Nat) (s : State) : Out := evt (stackUp s m && decide (die < 16)) s (refreshFallback m die s)
/-- URGENCY_WIRE_TIMEOUT (R314): a wire that has been asserted for 1 ms raises an alarm, and is ignored. -/
def execUrgencyWireTimeout (q master : Nat) (s : State) : Out :=
  let i := 8 * q + master
  let due : Bool := match tfind s.urgent i with | some t => aged s t ms | none => false
  evt (decide (q < 4) && (master == 4 || master == 5) && due && (tfind s.urgIgnored i).isNone) s
    (alarmW 0x0504 (srcQuarter q) [master] { s with urgIgnored := tput s.urgIgnored i none })
/-- CHANNEL_TIMING_ADJUST (R303). -/
def execChannelTimingAdjust (m ch : Nat) (s : State) : Out :=
  let k := s.stack m
  let c := k.chan ch
  let due := match c.adjust with | some t => aged s t (16 * ms) | none => true
  evt (stackUp s m && decide (ch < 64) && due) s (s.setStack m (k.setChan ch { c with adjust := some (now s) }))

/-! ## Returns, retries and retrains (R296 to R299) -/

/-- Change the stored bits of a burst: data, and sideband bits 31:0 above them (a decoder's wrong correction). -/
def lpFlip (pa left : Nat) (s : State) : State :=
  if left = 0 then s
  else let x := lpStored s pa; lpStore pa (x.1 ^^^ BitVec.ofNat 512 left, x.2 ^^^ BitVec.ofNat 32 (left >>> 512)) s
/-- Queue a burst to the stack's repair queue (R324). -/
def lpRepair (m y : Nat) (s : State) : State :=
  let k := s.stack m
  if k.repair.contains (y / 64) then s
  else if k.repair.length < 64 then s.setStack m { k with repair := k.repair ++ [y / 64] }
  else bump (eccBlk (m / 2) + 0x140) 1 s
/-- Report a corrected burst. -/
def lpCe (m y finder bits_ : Nat) (s : State) : State :=
  let k := s.stack m
  let (fresh, run, hist) := k.hist.note (y / 64)
  reportCe (memBlk m + 0x1A8) 8 (srcChan m (lpChan y)) finder bits_ (lpInv s m y) (lpWhere y) fresh run (s.setStack m { k with hist := hist })
/-- Report an uncorrectable burst; the 64th of a channel within an hour raises a further alarm (R326). -/
def lpUe (m y finder : Nat) (s : State) : State :=
  let k := s.stack m
  let ch := lpChan y
  let l := recent s (tget [] k.ueHour ch) hour ++ [now s]
  let s1 := reportUe (memBlk m + 0x1B0) 8 (srcChan m ch) finder (lpInv s m y) (lpWhere y) (s.setStack m { k with ueHour := tset [] k.ueHour ch l })
  if l.length = 64 then alarmW 0x0505 (srcChan m ch) [64] s1 else s1
/-- A stored burst as the symbol code covers it: data, then sideband bits 31:0. -/
def lpWord (x : W512 × W32) : Nat := x.1.toNat + 2 ^ 512 * x.2.toNat
/-- LPDDR_READ_RETURN (R296): an issued read returns with a right CRC; err holds the wrong stored bits (log 19). -/
def execLpddrReadReturn (m id : Nat) (err : BitVec 576) (s : State) : Out :=
  match (s.stack m).pool.find? (fun r => r.id == id) with
  | none => .next s
  | some r =>
    let pa := lpInv s m r.y
    evt (r.issued && !r.write && stackUp s m) s
      (match symDecode (lpWord (lpStored s pa)) err.toNat with
       | .ok k left =>
         let s1 := lpFlip pa left (if k = 0 then s else lpRepair m r.y (lpCe m r.y 0 k s))
         portDrain m (lpGive m r (lpStored s1 pa) false s1)
       | .bad => portDrain m (lpGive m r (lpStored s pa) true (lpRepair m r.y (lpUe m r.y 0 s))))
/-- The bits that a request's transfer carries: a write's own, or those stored in the burst that is read. -/
def sentBits (m : Nat) (r : MReq) (s : State) : W512 × W32 := if r.write then (r.data, r.side) else lpStored s (lpInv s m r.y)
/-- CRC_RETRY (R297): an issued burst was sent with wrong levels on its pins, and its CRC fails; it is sent or read again. 4 failures in succession, or
64 on the channel within 1 s, make a retrain due. -/
def execCrcRetry (m : Nat) (burst : Nat × BitVec 576) (s : State) : Out :=
  let k := s.stack m
  let id := burst.1
  match k.pool.find? (fun r => r.id == id) with
  | none => .next s
  | some r =>
    let ch := lpChan r.y
    let c := k.chan ch
    let l := recent s c.crc sec1 ++ [now s]
    let k1 := { k with pool := k.pool.map (fun (x : MReq) => if x.id = id then { x with issued := false, tries := x.tries + 1 } else x) }
    let c1 := { c with crc := l, retrainDue := c.retrainDue || decide (4 ≤ r.tries + 1) || decide (64 ≤ l.length) }
    evt (r.issued && stackUp s m && crcFails (lpFrame (sentBits m r s) ^^^ wireErr burst.2.toNat)) s
      (bump (memBlk m + 0x1A0) 1 (s.setStack m (k1.setChan ch c1)))
/-- CHANNEL_RETRAIN (R297): a due retrain starts; the channel's requests wait in the controller. -/
def execChannelRetrain (m ch : Nat) (s : State) : Out :=
  let k := s.stack m
  let c := k.chan ch
  let k1 := { k with pool := k.pool.map (fun (r : MReq) => if lpChan r.y = ch then { r with issued := false, tries := 0 } else r) }
  evt (stackUp s m && decide (ch < 64) && c.retrainDue && !c.retraining) s
    (s.setStack m (k1.setChan ch { c with retrainDue := false, retraining := true, crc := [], rows := [] }))
/-- CHANNEL_RETRAIN_DONE (R297, R299): the channel returns, or fails. -/
def execChannelRetrainDone (m ch : Nat) (ok : Bool) (s : State) : Out :=
  let k := s.stack m
  let c := k.chan ch
  let s1 := s.setStack m (k.setChan ch { c with retraining := false })
  evt (stackUp s m && decide (ch < 64) && c.retraining) s (if ok then s1 else chanFail m ch s1)
/-- LPDDR_REQUEST_TIMEOUT (R298): a request 100 µs in the controller ends, with an alarm, and its channel retrains. -/
def execLpddrRequestTimeout (m id : Nat) (s : State) : Out :=
  match (s.stack m).pool.find? (fun r => r.id == id) with
  | none => .next s
  | some r =>
    let s1 := lpLost m s r
    let k := s1.stack m
    let ch := lpChan r.y
    evt (stackUp s m && aged s r.since (100 * us)) s
      (alarmW 0x0502 (srcChan m ch) [lpInv s m r.y] (s1.setStack m (k.setChan ch { k.chan ch with retrainDue := true })))

end Sys2Proof.Machine
end

