-- ==== Sys2Proof/Machine/Integrity.lean ====
section
/-! DEFINITION. The gleaner, the repair queues, the checker self-test and the fuse load (11 R326 to R334; 16 R441; 18 R478). -/
namespace Sys2Proof.Machine

/-! ## Granary walkers (R328, R329) -/

/-- A word of a granary location that a walker reads: a word of a line in a cache way, or a word of a plot. -/
inductive GWord where
  | line (l : Line) (word : Nat)
  | plot (off : Nat)
/-- Location number: set, way, word in line. -/
def wordLoc (set way word : Nat) : Nat := 128 * set + 8 * way + word
/-- Words of a line that hold unpoisoned data, with their locations. -/
def lineLocs (l : Line) : List (Nat × GWord) :=
  ((List.range 8).filter (fun i => l.present.getLsbD (i / 2) && !l.psn.contains i)).map (fun i => (wordLoc l.set l.way i, .line l i))
/-- Written, unpoisoned words of the plots of a half. -/
def plotLocs (s : State) (h : Nat) : List (Nat × GWord) :=
  let hf := s.half h
  s.mem.plots.wr.filterMap (fun i =>
    match place s (32 * i) with
    | .plot k off =>
      if k = h ∧ !s.mem.plots.psn.contains i ∧ (plotAt hf off).isSome ∧ !plotFenced hf off then
        some (wordLoc (setOf s (32 * i)) (off >>> 27) (i % 8), .plot off) else none
    | _ => none)
/-- The lowest location from a number up. -/
def nextLoc (from_ : Nat) (l : List (Nat × GWord)) : Option (Nat × GWord) :=
  match l.filter (fun e => decide (from_ ≤ e.1)) with
  | [] => none
  | e :: t => some (t.foldl (fun b x => if x.1 < b.1 then x else b) e)
/-- Report one word that a walker read: it is rewritten, so that nothing is queued. -/
def gleanReport (h way set pa : Nat) (e : Nat × Decoded) (s : State) : State :=
  match e.2 with
  | .ok 0 _ => s
  | .ok k _ => grnCe h way set (pa / 32 + e.1) 1 k s
  | .bad => reportWords h way set pa 1 [e] s
/-- Read and rewrite word i of a line; a clean sector with an uncorrectable word is dropped. -/
def gleanLine (h : Nat) (l : Line) (i err : Nat) (s : State) : State :=
  let sec := i / 2
  let pa := l.num * 256 + 64 * sec
  let (b, psn, o) := codeSector (h, l.way, l.set, 2 * sec) (lineSector l sec).1 (lineWords l sec) (if i % 2 = 0 then err else 0) (if i % 2 = 1 then err else 0)
  let hf := s.half h
  if anyBad o && l.shadow.isNone && !l.dirty.getLsbD sec then
    reportRefetch h l.way l.set pa 1 o
      (useWay h l.way (s.setHalf h (unmerge (putLine hf { l with present := l.present &&& ~~~ BitVec.ofNat 4 (2 ^ sec) }) pa)))
  else o.foldl (fun a e => gleanReport h l.way l.set pa e a) (useWay h l.way (s.setHalf h (putLine hf (setSector l sec b psn))))
/-- Read and rewrite the word of a plot. -/
def gleanPlot (h pa off err : Nat) (s : State) : State :=
  let st := s.mem.plots
  let (b, psn, o) := codeWord (mread st.bytes pa 32) (st.psn.contains (pa / 32)) (addrBit h (off >>> 27) (setOf s pa) (pa / 32 % 8)) err
  let s1 := if err = 0 then s else { s with mem := { s.mem with plots := stWrite 32 st pa b psn } }
  gleanReport h (off >>> 27) (setOf s pa) (pa / 64 * 64) (pa / 32 % 2, o) (useWay h (off >>> 27) s1)
/-- Base of the plot region of a half (R217). -/
def plotBase (h : Nat) : Nat := 0x0100_0000_0000 + 0x8000_0000 * h
/-- Read and rewrite a word: err holds the wrong bits of the word 275:0, of the copies of its state bits 281:276, and of its line's two tag copies
353:282 and 425:354 (log 19). -/
def gleanWord (h err : Nat) (w : GWord) (s : State) : State :=
  let e := bits err 275 0
  let fixes := stateFixes (bits err 281 276)
  match w with
  | .line l i =>
    let s1 := tagRead h l.way l.set 1 (bits err 353 282) (bits err 425 354) (grnState h l.way l.set 1 (8 * l.num + i) fixes s)
    if tagLost (bits err 353 282) (bits err 425 354) then s1 else gleanLine h l i e s1
  | .plot off =>
    let pa := plotBase h + off / 32 * 32
    gleanPlot h pa off e (grnState h (off >>> 27) (setOf s pa) 1 (pa / 32) fixes s)
/-- A pass is complete: the next correction of a location counts for a new pass. -/
def Hist.next (h : Hist) : Hist := { h with pass := h.pass + 1 }
/-- The walker skips a word: its line's reduction count is not zero (R329). -/
def redHeld (w : GWord) : Bool :=
  match w with | .line l _ => l.red != 0 | .plot _ => false
/-- The granary walker's next word: a skipped one whose line's reductions are over, else the next location, else the end of its pass, which waits for
the skipped ones that still stand. -/
def walkHalf (h err : Nat) (s : State) : State :=
  let hf := s.half h
  let all := plotLocs s h ++ (hf.lines.map lineLocs).flatten
  let held := all.filter (fun e => redHeld e.2)
  let free := all.filter (fun e => !redHeld e.2)
  match free.find? (fun e => hf.skips.contains e.1) with
  | some (loc, w) => gleanWord h err w (s.setHalf h { hf with skips := hf.skips.filter (fun x => x != loc) })
  | none =>
    match nextLoc hf.walker free with
    | some (loc, w) =>
      let past := (held.filter (fun e => decide (hf.walker ≤ e.1) && decide (e.1 < loc))).map Prod.fst
      gleanWord h err w (s.setHalf h { hf with walker := loc + 1, skips := hf.skips ++ past })
    | none =>
      let left := held.filter (fun e => decide (hf.walker ≤ e.1) || hf.skips.contains e.1)
      if left.isEmpty then bump (eccBlk (h / 2) + 0x148) 1 (s.setHalf h { hf with walker := 0, skips := [], hist := hf.hist.next })
      else s
/-- Serve the head of a half's repair queue. -/
def repairHalf (h err : Nat) (s : State) : State :=
  let hf := s.half h
  match hf.repair with
  | [] => s
  | word :: rest =>
    let s1 := s.setHalf h { hf with repair := rest }
    match place s (32 * word) with
    | .plot _ off => if s.mem.plots.wr.contains word && !s.mem.plots.psn.contains word then gleanWord h err (.plot off) s1 else s1
    | _ =>
      match hf.lines.find? (fun l => l.num == word / 8 && l.present.getLsbD (word % 8 / 2) && !l.psn.contains (word % 8)) with
      | some l => gleanWord h err (.line l (word % 8)) s1
      | none => s1

/-! ## Tilth walkers -/

/-- Read and rewrite a written, unpoisoned scratch word: err holds the wrong bits of the word 71:0 and of the copies of its state bits 77:72. -/
def gleanTilth (n word err : Nat) (s : State) : State :=
  readTilth n word 1 (bits err 71 0) (tilState word 1 (stateFixes (bits err 77 72)) s)
/-- The words of the lines that a core's tilth cache holds, with their tilth offsets. -/
def cacheLocs (c : Core) : List (Nat × TLine × Nat) :=
  (c.tcache.map (fun x => (List.range 8).map (fun i => (cacheOff c x (8 * i), x, i)))).flatten
/-- The lowest offset from a number up. -/
def nextCached (from_ : Nat) (l : List (Nat × TLine × Nat)) : Option (Nat × TLine × Nat) :=
  match l.filter (fun e => decide (from_ ≤ e.1)) with
  | [] => none
  | e :: t => some (t.foldl (fun b x => if x.1 < b.1 then x else b) e)
/-- The tilth walker's next word, of the scratchpad and then of the tilth cache, or the end of its pass. -/
def walkTilth (n err : Nat) (s : State) : State :=
  let c := s.core n
  let lo := 0x4_0000 * n
  match s.mem.tilth.wr.find? (fun w => decide (lo + c.walker ≤ w) && decide (w < lo + 0x4_0000) && !s.mem.tilth.psn.contains w) with
  | some w => gleanTilth n w err (s.setCore n { c with walker := w - lo + 1 })
  | none =>
    match nextCached (8 * c.walker) (cacheLocs c) with
    | some (off, x, i) => readCached n 1 x i (bits err 71 0) (s.setCore n { c with walker := off / 8 + 1 })
    | none => bump (eccBlk (n / 64) + 0x148) 1 (s.setCore n { c with walker := 0, hist := c.hist.next })
/-- Serve the head of a core's repair queue. -/
def repairTilth (n err : Nat) (s : State) : State :=
  let c := s.core n
  match c.repair with
  | [] => s
  | off :: rest =>
    let s1 := s.setCore n { c with repair := rest }
    let w := 0x4_0000 * n + off / 8
    match (cacheLocs c).find? (fun e => e.1 == off) with
    | some (_, x, i) => readCached n 1 x i (bits err 71 0) s1
    | none => if s.mem.tilth.wr.contains w && !s.mem.tilth.psn.contains w then gleanTilth n w err s1 else s1

/-! ## Stack walkers (R328, R329) -/

/-- A burst is rewritten in place: master 7 (Table 10-5), stored bits, no key. -/
def lpRewritten (m : Nat) (s : State) : State := bump (memBlk m + 0x178) 1 s
/-- An uncorrectable burst that a repair read still finds so is written with POISON = 1 and zero data (R325), under the slot recorded with it. -/
def lpPoison (y m : Nat) (s : State) : State :=
  let pa := lpInv s m y
  lpRewritten m (lpStore pa (0, sideOf 0 true (sideSlot (lpStored s pa).2)) s)
/-- Read a burst through master 7, and rewrite it corrected, in one step, so that no request comes between (R308); `repair` for an entry of the repair
queue. -/
def gleanBurst (m y err : Nat) (repair : Bool) (s : State) : State :=
  let s1 := bump (memBlk m + 0x170) 1 s
  match symDecode (lpWord (lpStored s (lpInv s m y))) err with
  | .ok 0 left => lpFlip (lpInv s m y) left s1
  | .ok k left => lpRewritten m (lpFlip (lpInv s m y) left (lpCe m y 1 k s1))
  | .bad => if repair then lpPoison y m (lpUe m y 1 s1) else lpRepair m y (lpUe m y 1 s1)
/-- Master 7 waits for a burst: its channel retrains, or its controller holds a request to the burst, which entered before (R297, R307). -/
def gleanWaits (s : State) (m y : Nat) : Bool := ((s.stack m).chan (lpChan y)).retraining || (s.stack m).pool.any (fun r => r.y == y)
/-- Bursts of a stack: 80 GiB. -/
def stackBursts : Nat := 0x5000_0000
/-- The stack walker's next burst; one that must wait is waited for, one of a failed channel skipped. -/
def walkStack (m err : Nat) (s : State) : State :=
  let k := s.stack m
  let y := 64 * k.walker
  let next : Stack := if k.walker + 1 < stackBursts then { k with walker := k.walker + 1 } else { k with walker := 0, hist := k.hist.next }
  if chanDead s m (lpChan y) then s.setStack m next
  else if gleanWaits s m y then s
  else gleanBurst m y err false (s.setStack m next)
/-- Serve the head of a stack's repair queue. -/
def repairStack (m err : Nat) (s : State) : State :=
  let k := s.stack m
  match k.repair with
  | [] => s
  | b :: rest => if !chanDead s m (lpChan (64 * b)) && !gleanWaits s m (64 * b) then gleanBurst m (64 * b) err true (s.setStack m { k with repair := rest }) else s

/-! ## The commands -/

/-- A walker runs: its quarter is in service (R331), and its unit is there; that of a core in F2 or F3 pauses (R429). -/
def walks (s : State) (kind unit : Nat) : Bool :=
  match kind with
  | 0 => decide (unit < 8) && (s.quarter (unit / 2)).st == 0
  | 1 => coreFitted s unit && (s.quarter (unit / 64)).st == 0 && decide ((s.core unit).fallow < 2)
  | 2 => stackUp s unit && (s.quarter (stackQuarter unit)).st == 0
  | _ => false
/-- At most one copy of a state bit that a walker reads is wrong. -/
def walkCopies (kind err : Nat) : Bool :=
  match kind with | 0 => oneCopy (bits err 281 276) | 1 => oneCopy (bits err 77 72) | _ => true
/-- WALKER_READ (R328, R329): the walker of a half, core or stack reads its next written, unpoisoned word; err holds the wrong stored bits
(log 19). With none left the pass ends, and the next begins at word 0. -/
def execWalkerRead (kind unit : Nat) (err : BitVec 576) (s : State) : Out :=
  evt (walks s kind unit && walkCopies kind err.toNat) s
    (match kind with
     | 0 => walkHalf unit (err.toNat) s
     | 1 => walkTilth unit (err.toNat) s
     | _ => walkStack unit err.toNat s)
/-- REPAIR_REWRITE (R324, R329): the walker serves the head of its repair queue; err holds the wrong stored bits of its read. -/
def execRepairRewrite (kind unit : Nat) (err : BitVec 576) (s : State) : Out :=
  evt (walks s kind unit && walkCopies kind err.toNat) s
    (match kind with
     | 0 => repairHalf unit (err.toNat) s
     | 1 => repairTilth unit (err.toNat) s
     | _ => repairStack unit err.toNat s)

/-! ## Checker self-test (R332) and fuse load (R334, R441, R478) -/

/-- The boot stops with a status code of Table 20-9. -/
def bootStop (code : Nat) (s : State) : State := { s with boot := { s.boot with step := 7, stopCode := code } }
/-- STORE of Table 11-6 that a checker guards. -/
def checkerStore (kind unit : Nat) : Nat :=
  match kind with
  | 0 => 1 | 1 => 2 | 2 => if unit < 8 then 1 else if unit < 264 then 3 else 7 | 3 => 3 | 4 => 6 | 5 => 8 | _ => 7
/-- SOURCE of Table 11-6. -/
def checkerSrc (kind unit : Nat) : Nat :=
  match checkerStore kind unit with
  | 1 => srcHalf unit | 2 => srcHalf unit | 3 => srcCore (if kind = 2 then unit - 8 else unit) | 6 => srcCore unit | 8 => srcStack unit | _ => 6
/-- When a checker runs: bring-up or after a quarter reset; a core's wave or reset; before stack training; at boot. -/
def checkerRuns (s : State) (kind unit : Nat) : Bool :=
  match checkerStore kind unit with
  | 1 => decide (unit < 8) && ((s.quarter (unit / 2)).st == 2 || (s.quarter (unit / 2)).st == 3)
  | 2 => decide (unit < 8) && ((s.quarter (unit / 2)).st == 2 || (s.quarter (unit / 2)).st == 3)
  | 3 => coreFitted s (if kind = 2 then unit - 8 else unit)
  | 6 => coreFitted s unit
  | 8 => stackFitted s unit && (s.stack unit).st == 0 && (s.stack unit).rate == 0
  | _ => s.boot.step == 3
/-- A failing checker fences its unit. -/
def checkerFail (kind unit : Nat) (s : State) : State :=
  match checkerStore kind unit with
  | 1 => fenceQuarter (unit / 2) s
  | 2 => fenceQuarter (unit / 2) s
  | 3 => fenceCore (if kind = 2 then unit - 8 else unit) s
  | 6 => fenceCore unit s
  | 8 => stackFail unit s
  | _ => bootStop 7 s
/-- CHECKER_SELF_TEST (R332): stored data is neither read nor changed. A failure writes a record of KIND 0x05, raises an alarm and fences the
unit; the hub's test at boot lets the image be read. -/
def execCheckerSelfTest (kind unit : Nat) (pass : Bool) (s : State) : Out :=
  let src := checkerSrc kind unit
  evt (checkerRuns s kind unit) s
    (if pass then (if checkerStore kind unit = 7 ∧ kind = 6 then { s with boot := { s.boot with step := 4 } } else s)
     else checkerFail kind unit (alarmW 0x0604 src [] (errRec 5 (checkerStore kind unit) src 2 0 0 0 s)))

/-- A copy whose closing CRC-32C passes. -/
def copyOk (l : List Byte) : Bool :=
  decide (4 < l.length) && crc32c (l.take (l.length - 4)) == leNat (l.drop (l.length - 4))
/-- Two copies that pass and agree. -/
def copiesAgree (a b d : List Byte) : Bool :=
  (copyOk a && (a == b || a == d)) || (copyOk b && b == d)
/-- A repair map that fails: KIND 0x06, an alarm, and the unit is fenced. -/
def mapFail (unit : Nat) (s : State) : State :=
  if unit < 8 then fenceQuarter (unit / 2) (alarmW 0x0605 (srcHalf unit) [] (errRec 6 1 (srcHalf unit) 2 0 0 0 s))
  else fenceCore (unit - 8) (alarmW 0x0605 (srcCore (unit - 8)) [] (errRec 6 3 (srcCore (unit - 8)) 2 0 0 0 s))
/-- The hub fuses agree: FUS_PART, FUS_SEC and FUS_EPOCH become valid, and the lifecycle state is applied. -/
def fusesIn (s : State) : State :=
  let s1 := { s with fuse := { s.fuse with loaded := true } }
  if s.fuse.lifecycle = 2 then bootStop 0xD s1 else { s1 with boot := { s1.boot with step := 3 } }
/-- FUSE_LOAD (R334, R441, R478): the three copies of a unit's fuses. Units 0 to 7 are the maps of the halves, 8 + n the map of core n, 264
the security fuses, 265 the calibration fuses. The copies stand for their CRC and agreement; their contents are the fuse fields (log 4). -/
def execFuseLoad (unit : Nat) (a b d : List Byte) (s : State) : Out :=
  let ok := copiesAgree a b d
  evt (s.boot.step == 2 && decide (unit ≤ 265) && (decide (unit < 8) || decide (264 ≤ unit) || coreFitted s (unit - 8))) s
    (if unit = 264 then (if ok then fusesIn s else bootStop 6 s)
     else if unit = 265 then
       (if ok then s else alarmW 0x020B 0x0004 [] { s with fuse := { s.fuse with curveDefault := true } })
     else if ok then s else mapFail unit s)

end Sys2Proof.Machine
end

