-- ==== Sys2Proof/Machine/SheafCtl.lean ====
section
/-! DEFINITION. Control flow, barriers, flags and special instructions of sheaves, the start and the end of stooks, and the resolution of
faults (04 R102 to R111, R116 to R118, R124 to R126, R140 to R150; 05 R174 to R188; 09 R278 to R280). -/
namespace Sys2Proof.Machine

/-! ## Branches (R174 to R176) -/

/-- Address of a word count relative to the instruction. -/
def relPc (v : Env) (hi lo : Nat) : W64 := v.f.pc + BitVec.ofInt 64 (8 * sfield v.w hi lo)
/-- Form of BRA: every bit of its layout is used. -/
def braForm (_w : Nat) : Form :=
  { regs := [], opds := [], used := fmask 24 40, types := [], ok := true, ext := false, guard := false, lanewise := false }
/-- BRA: the lanes that agree take one path; else the taken lanes are pushed (R116, R118). -/
def braBody (v : Env) (s : State) : Res :=
  let p := v.f.preg (bits v.w 26 24)
  let taken := v.f.active &&& (if bit v.w 27 then ~~~p else p)
  let rest := v.f.active &&& ~~~taken
  if taken = 0 then .go s none
  else if rest = 0 then .go s (some (relPc v 45 28))
  else if 32 ≤ v.f.stack.length then .fault 4 0x42 v.f.active 0
  else
    let e : StackEntry := { kind := .branch, recon := relPc v 63 46, mask := taken, target := relPc v 45 28 }
    .go (v.put { v.f with stack := e :: v.f.stack, active := rest } s) none
/-- Row of BRA. -/
def rowBra : SheafRow := { form := braForm, mem := false, hidden := fun w => [0x140 + bits w 26 24], body := braBody }
/-- Form of JMP and CALL: TARGET alone. -/
def jmpForm (_w : Nat) : Form := { braForm 0 with used := fmask 28 18 }
/-- Row of JMP. -/
def rowJmp : SheafRow := { form := jmpForm, mem := false, hidden := fun _ => [], body := fun v s => .go s (some (relPc v 45 28)) }
/-- CALL: the link pair u62:u63 receives the address of the next instruction. -/
def callBody (v : Env) (s : State) : Res :=
  .go (v.write 0x13E 2 [(0, (v.f.pc + 8).toNat)] s) (some (relPc v 45 28))
/-- Row of CALL. -/
def rowCall : SheafRow := { form := jmpForm, mem := false, hidden := fun _ => [0x13E, 0x13F], body := callBody }
/-- Form of JMPR: an even u pair. -/
def jmprForm (_w : Nat) : Form := { braForm 0 with regs := [24], opds := [⟨24, 2, 2, false⟩], used := 0 }
/-- Jump to the address in a u pair; one that is not a multiple of 8 faults (R176). -/
def pairJump (sp : Nat) (v : Env) (s : State) : Res :=
  let a := rdN v.f sp 2 0
  if a % 8 ≠ 0 then .fault 4 0x45 v.f.active a else .go s (some (BitVec.ofNat 64 a))
/-- Row of JMPR. -/
def rowJmpr : SheafRow := { form := jmprForm, mem := false, hidden := fun _ => [], body := fun v s => pairJump (bits v.w 32 24) v s }
/-- Form of RET: no field. -/
def retForm (_w : Nat) : Form := { braForm 0 with used := 0 }
/-- Row of RET. -/
def rowRet : SheafRow := { form := retForm, mem := false, hidden := fun _ => [0x13E, 0x13F], body := pairJump 0x13E }
/-- Form of EXIT. -/
def exitForm (_w : Nat) : Form := { braForm 0 with used := 0, guard := true }
/-- EXIT: the executing lanes end (R110, R117). -/
def exitBody (v : Env) (s : State) : Res :=
  .go (v.put { v.f with exited := v.f.exited ||| v.m, active := v.f.active &&& ~~~v.m } s) none
/-- Row of EXIT. -/
def rowExit : SheafRow := { form := exitForm, mem := false, hidden := fun _ => [], body := exitBody }

/-! ## Barriers and flags (R140, R141, R183, R184, R278 to R280) -/

/-- Form of BAR. -/
def barForm (_w : Nat) : Form := { braForm 0 with regs := [24, 33, 51], used := fmask 42 4 }
/-- BAR: the arrival waits for the sheaf's scratch accesses (R140), and the last arrival completes the barrier. -/
def barBody (v : Env) (s : State) : Res :=
  let b := bits v.w 45 42
  if !fenceDone s v 0 then .wait
  else
    let s1 := advance v.n v.sl (v.f.pc + 8) (v.put { v.f with barWait := some b } s)
    let c := s1.core v.n
    let t := { v.stook with bars := tput v.stook.bars b (ladd (tget [] v.stook.bars b) v.sl) }
    let s2 := s1.setCore v.n (barsDone { c with stooks := tput c.stooks v.f.stook t } v.f.stook)
    .go s2 (some (s2.sheaf v.n v.sl).pc)
/-- Row of BAR. -/
def rowBar : SheafRow := { form := barForm, mem := false, hidden := fun _ => [], body := barBody }

/-- Form of a FLAG instruction: u registers. -/
def flagForm (wait : Bool) (_w : Nat) : Form :=
  { regs := [24, 33, 42, 51]
    opds := (if wait then [⟨24, 2, 1, true⟩] else []) ++ [⟨33, 2, 1, false⟩, ⟨42, 2, 1, false⟩]
    used := 0, types := [], ok := true, ext := false, guard := true, lanewise := false }
/-- Flag k of pieces. -/
def flagAt : List (Nat × Nat) → Nat → Nat
  | [], k => k
  | (a, n) :: t, k => if k < n then a + k else flagAt t (k - n)
/-- Number of the launch's flag that an identifier selects, at its store (R278). -/
def flagIndex (r : Run) (id : Nat) : Nat := flagAt r.flags.2 (id % (max ((r.flags.2.map Prod.snd).foldl (· + ·) 0) 1))
/-- A wait's result reaches its sheaf. -/
def flagDeliver (x : W32) (s : State) (w : FlagWait) : State :=
  let f := s.sheaf w.core w.sheaf
  match f.flagWait with
  | some d => s.setSheaf w.core w.sheaf { wr32 f d 0xFFFF_FFFF [(0, x.toNat)] with flagWait := none }
  | none => s
/-- The home store applies an update and wakes the waits whose thresholds it meets (R279, R280). -/
def flagUpdate (q i : Nat) (g : W32 → W32) (s : State) : State :=
  let k := s.flagStore q
  let x := g (tget 0 k.vals i)
  let met (w : FlagWait) : Bool := w.flag == i && decide (w.threshold ≤ x)
  (k.waits.filter met).foldl (flagDeliver x)
    (s.setFlagStore q { k with vals := tset 0 k.vals i x, waits := k.waits.filter (fun w => !met w) })
/-- FLAG.SET and FLAG.ADD. -/
def flagBody (add : Bool) (v : Env) (s : State) : Res :=
  let x := BitVec.ofNat 32 (rd32 v.f (bits v.w 50 42) 0)
  .go (flagUpdate v.run.flags.1 (flagIndex v.run (rd32 v.f (bits v.w 41 33) 0)) (fun o => if add then o + x else x) s) none
/-- Row of FLAG.SET. -/
def rowFlagSet : SheafRow := { form := flagForm false, mem := false, hidden := fun _ => [], body := flagBody false }
/-- Row of FLAG.ADD. -/
def rowFlagAdd : SheafRow := { form := flagForm false, mem := false, hidden := fun _ => [], body := flagBody true }
/-- FLAG.WAIT: met at once, or registered at the home store; a second one waits for the first (R280). -/
def flagWaitBody (v : Env) (s : State) : Res :=
  let dst := bits v.w 32 24
  let thr := BitVec.ofNat 32 (rd32 v.f (bits v.w 50 42) 0)
  let i := flagIndex v.run (rd32 v.f (bits v.w 41 33) 0)
  let q := v.run.flags.1
  let k := s.flagStore q
  let x := tget 0 k.vals i
  if v.f.flagWait.isSome then .wait
  else if thr ≤ x then .go (v.write dst 1 [(0, x.toNat)] s) none
  else
    let s1 := s.setFlagStore q { k with waits := k.waits ++ [{ core := v.n, sheaf := v.sl, flag := i, threshold := thr }] }
    .go (v.put { v.f with flagWait := some dst } s1) none
/-- Row of FLAG.WAIT. -/
def rowFlagWait : SheafRow := { form := flagForm true, mem := false, hidden := fun _ => [], body := flagWaitBody }

/-! ## Special instructions (R185 to R188) -/

/-- Form of an instruction of the SPECIAL format with no operand. -/
def specForm (_w : Nat) : Form :=
  { regs := [24, 33, 42], opds := [], used := 0, types := [], ok := true, ext := false, guard := true, lanewise := false }
/-- Row of NOP. -/
def rowNop : SheafRow := { form := specForm, mem := false, hidden := fun _ => [], body := fun _ s => .go s none }
/-- Form of FENCE: SUB holds a scope and a kind. -/
def fenceForm (w : Nat) : Form := { specForm w with used := fmask 51 4, ok := decide (bits w 52 51 ≠ 3) && decide (bits w 54 53 ≠ 0) }
/-- FENCE: a release waits; an acquire of scope MODULE invalidates the tilth cache. -/
def fenceBody (v : Env) (s : State) : Res :=
  let scope := bits v.w 52 51
  if bit v.w 53 && !fenceDone s v scope then .wait
  else if bit v.w 54 && scope == 2 then .go (invalAll v.n s) none
  else .go s none
/-- Row of FENCE. -/
def rowFence : SheafRow := { form := fenceForm, mem := false, hidden := fun _ => [], body := fenceBody }
/-- Form of INVAL: an even u pair and a u register. -/
def invalForm (w : Nat) : Form := { specForm w with opds := [⟨33, 2, 2, false⟩, ⟨42, 2, 1, false⟩] }
/-- Whether a cached physical line lies, under a group's mappings, in a range of virtual bytes. -/
def lineInRange (s : State) (g va len pa : Nat) : Bool :=
  s.pel.maps.any (fun m => m.group == g && decide (m.pa ≤ pa) && decide (pa < m.pa + m.size) &&
    overlaps (m.va + (pa - m.pa)) 64 va len)
/-- INVAL: lines that overlap the range go; above 2 MiB every line does (R125, R185). -/
def invalBody (v : Env) (s : State) : Res :=
  let va := rdN v.f (bits v.w 41 33) 2 0
  let len := rd32 v.f (bits v.w 50 42) 0
  let c := s.core v.n
  if 0x20_0000 < len then .go (invalAll v.n s) none
  else .go (s.setCore v.n { c with tcache := c.tcache.filter (fun x =>
    len == 0 || !lineInRange s v.run.group va len (x.line * 64)) }) none
/-- Row of INVAL. -/
def rowInval : SheafRow := { form := invalForm, mem := false, hidden := fun _ => [], body := invalBody }

/-- Form of RND.U32 and RND.F32. -/
def rndForm (w : Nat) : Form := { specForm w with opds := [⟨24, 15, 1, true⟩, ⟨33, 15, 1, false⟩] }
/-- Stream selection of a lane: null selects the launch stream (R186). -/
def rndSel (v : Env) (lane : Nat) : Nat := let sp := bits v.w 41 33; if regClass sp = 8 then 32 else rd32 v.f sp lane
/-- Draws of lanes in ascending order. -/
def rndLanes (v : Env) (nb : Nat) : List Nat → State → List (Nat × Nat) × State
  | [], s => ([], s)
  | i :: t, s =>
    let r := drawStream v.n v.stook.launch.toNat (rndSel v i) nb s
    let u := rndLanes v nb t r.2.2
    ((i, r.1.getD 0) :: u.1, u.2)
/-- The binary32 code of k × 2^-24. -/
def unitF32 (k : Nat) : Nat := to32 (.fin false k (-24))
/-- RND.U32 (24 bits for RND.F32): fresh bits for each lane; a stream at its end gives zero (R186, R193, R200). -/
def rndBody (flt : Bool) (v : Env) (s : State) : Res :=
  let lanes := memLanes v (bits v.w 32 24)
  let needs := lanes.any (fun i => decide (32 ≤ rndSel v i) || (columnAt v.run v.n (rndSel v i)).isNone)
  if needs && (tfind (s.core v.n).seed.launch v.stook.launch.toNat).isNone then .wait
  else
    let r := rndLanes v (if flt then 24 else 32) lanes s
    .go (v.write (bits v.w 32 24) 1 (if flt then r.1.map (fun e => (e.1, unitF32 e.2)) else r.1) r.2) none
/-- Row of RND.U32. -/
def rowRndU32 : SheafRow := { form := rndForm, mem := false, hidden := fun _ => [], body := rndBody false }
/-- Row of RND.F32. -/
def rowRndF32 : SheafRow := { form := rndForm, mem := false, hidden := fun _ => [], body := rndBody true }

/-- Form of SAMPLE: DST and SA u registers. -/
def sampleForm (w : Nat) : Form := { specForm w with opds := [⟨24, 2, 1, true⟩, ⟨33, 2, 1, false⟩] }
/-- Bytes of a score (Table 6-3), none for the reserved format. -/
def scoreBytes (d : List Byte) : Nat := match bits (fld d 0 4) 1 0 with | 0 => 4 | 1 => 2 | 2 => 2 | _ => 0
/-- SAMPLE: the faults of R202; the descriptor then waits its turn at the sampler. -/
def sampleBody (v : Env) (s : State) : Res :=
  let rel := rd32 v.f (bits v.w 41 33) 0
  let d := (scrRead s v.n (v.stook.base + rel) 32).1
  let sb := scoreBytes d
  let glob := bit (fld d 0 4) 2
  let len := fld d 4 4
  let row := if glob then fld d 8 8 else fld d 8 4
  let res := fld d 0x1C 4
  if v.f.sample.isSome then .wait
  else if rel % 32 ≠ 0 then .fault 4 0x45 v.m rel
  else if v.stook.size < rel + 32 then .fault 4 0x44 v.m rel
  else if sb ≠ 0 ∧ row % sb ≠ 0 then .fault 4 0x45 v.m row
  else if res % 16 ≠ 0 then .fault 4 0x45 v.m res
  else if !glob && decide (v.stook.size < row + len * sb) then .fault 4 0x44 v.m row
  else if v.stook.size < res + 16 then .fault 4 0x44 v.m res
  else match (if glob then rangeFault s v.run.group .read (len * sb / 65536 + 2) row (len * sb) else none) with
    | some (k, a) => .fault 1 k v.m a
    | none =>
      let pages := if glob then (List.range ((row + len * sb - 1) / 65536 + 1 - row / 65536)).map (fun i =>
                     (physOf s v.run.group ((row / 65536 + i) * 65536) .read).1) else []
      let j : SampleJob := { sheaf := v.sl, stook := v.f.stook, dst := bits v.w 32 24, desc := d, pages := pages, since := none }
      let c := s.core v.n
      .go (s.setCore v.n { c.setSheaf v.sl { v.f with sample := some (bits v.w 32 24) } with samples := c.samples ++ [j] }) none
/-- Row of SAMPLE. -/
def rowSample : SheafRow := { form := sampleForm, mem := false, hidden := fun _ => [], body := sampleBody }

/-- Form of ROLE and STAMP: DST an even u pair. -/
def pairForm (w : Nat) : Form := { specForm w with opds := [⟨24, 10, 2, true⟩] }
/-- ROLE: the role code and the role epoch. -/
def roleBody (v : Env) (s : State) : Res :=
  let e := s.ep (srcCore v.n)
  .go (v.write (bits v.w 32 24) 2 [(0, e.role + 2 ^ 32 * e.epoch.toNat)] s) none
/-- Row of ROLE. -/
def rowRole : SheafRow := { form := pairForm, mem := false, hidden := fun _ => [], body := roleBody }
/-- The time base as the units of a quarter read it: the copy of the quarter's base die (R458). -/
def copyNow (s : State) (q : Nat) : W64 :=
  now s - BitVec.ofInt 64 (tget 0 s.clk.copies q)
/-- Row of STAMP. -/
def rowStamp : SheafRow := { form := pairForm, mem := false, hidden := fun _ => [], body := fun v s => .go (v.write (bits v.w 32 24) 2 [(0, (copyNow s (v.n / 64)).toNat)] s) none }

/-! ## The start and the end of a stook (R105 to R110, R119, R126) -/

/-- First-fit place of m bytes in 4 KiB granules below a limit (R119); no bytes need no place (R114). -/
def firstFit (used : List (Nat × Nat)) (m limit : Nat) : Option Nat :=
  if m = 0 then some 0 else
  ((List.range (limit / 4096)).map (fun i => 4096 * i)).find? (fun a =>
    decide (a + m ≤ limit) && used.all (fun u => u.2 == 0 || !overlaps a m u.1 u.2))
/-- The sheaf of an index of a starting stook (R109, Table 4-2). -/
def startSheaf (s : State) (n st idx base launch : Nat) (r : Run) (f : Sheaf) (i : Nat) : Sheaf :=
  let lanes := List.range 32
  { Sheaf.dflt with
      live := true, stook := st, index := i, pc := r.entry, active := 0xFFFF_FFFF, gen := f.gen + 1
      v := lanes.foldl (fun t l => tset 0 t l (BitVec.ofNat 32 (32 * i + l))) []
      u := (([base, r.scratch, idx, i, r.arg.toNat % 2 ^ 32, r.arg.toNat / 2 ^ 32, logCore s n, launch]).zip (List.range 8)).foldl
             (fun t e => tset 0 t e.2 (BitVec.ofNat 32 e.1)) []
      p := tset 0 [] 0 0xFFFF_FFFF }
/-- Place the sheaves of a starting stook in their slots. -/
def startSheaves (s : State) (n st idx base launch : Nat) (r : Run) (c : Core) (l : List (Nat × Nat)) : Core :=
  l.foldl (fun (a : Core) e => a.setSheaf e.1 (startSheaf s n st idx base launch r (a.sheaf e.1) e.2)) c
/-- Start the head stook of a core with the slots, block and scratch chosen. -/
def startStook (n launch idx st base : Nat) (slots : List Nat) (r : Run) (s : State) : State :=
  let c0 := s.core n
  let c := if r.begun.contains n then c0 else { c0 with tcache := [], icache := [] }
  let t : Stook := { launch := BitVec.ofNat 32 launch, index := idx, slots := slots, base := base, size := r.scratch
                     blocks := r.sheaves * (r.regs / 8), start := now s, bars := [], killed := none }
  let c1 := startSheaves s n st idx base launch r { c with waiting := c.waiting.drop 1, stooks := tput c.stooks st t
                                                           issued := slots.foldl (fun x sl => tset 0 x sl c.issues) c.issued }
              (slots.zip (List.range slots.length))
  modRun launch (fun x => { x with begun := ladd x.begun n }) (clearScratch n base r.scratch (s.setCore n c1))
/-- STOOK_START (R106 to R109): the head stook starts once every resource it needs is free, on a core that takes work, and with its launch
key delivered (R196). -/
def execStookStart (q c : Nat) (s : State) : Out :=
  let n := 64 * q + c
  let k := s.core n
  match k.waiting with
  | [] => .next s
  | (launch, idx) :: _ =>
    match tfind s.pel.runs launch with
    | none => .next s
    | some r =>
      let free := (List.range 64).filter (fun sl => !(k.sheaf sl).live)
      let slot := (List.range 32).find? (fun st => (tfind k.stooks st).isNone)
      let blocks := (k.stooks.map (fun e => e.2.blocks)).sum
      let place := firstFit (k.stooks.map (fun e => (e.2.base, e.2.size))) r.scratch (padSize k)
      match slot, place with
      | some st, some base =>
        evt (wfCore q c && k.inService && !k.headland && decide (k.fallow ≤ 1) && !k.arr.testing && decide (k.cunits = r.cunits) &&
             (tfind k.seed.launch launch).isSome && decide (r.sheaves ≤ free.length) &&
             decide (blocks + r.sheaves * (r.regs / 8) ≤ 512)) s
          (startStook n launch idx st base (free.take r.sheaves) r s)
      | _, _ => .next s

/-- A request of a core's sheaf slots that writes. -/
def storeOf (n : Nat) (slots : List Nat) (r : GReq) : Bool :=
  match r.req, r.op with
  | .load m sl _, .atomic _ _ _ _ => m == n && slots.contains sl
  | .store m sl _, _ => m == n && slots.contains sl
  | _, _ => false
/-- A request that meets a condition still waits somewhere. -/
def reqDue (p : GReq → Bool) (s : State) : Bool :=
  (List.range 8).any (fun h => let hf := s.half h
    hf.reqs.any p || hf.fills.any (fun f => f.waiters.any p) || hf.reds.any (fun r => p r.req)) || s.pel.retries.any p
/-- Whether a stook has ended (R110), or its kill may free it (R149). -/
def stookOver (s : State) (n st : Nat) (t : Stook) : Bool :=
  let k := s.core n
  if t.killed.isSome then !reqDue (storeOf n t.slots) s
  else
    t.slots.all (fun sl => (k.sheaf sl).ended) &&
    !((k.arr.queue ++ k.arr.waiting).any (fun x => x.stook == st)) && !(k.arr.run.toList.any (fun x => x.cmd.stook == st)) &&
    !((k.bulk ++ k.pfr).any (fun b => b.stook == st)) && !(k.samples.any (fun x => x.stook == st))
/-- STOOK_END (R110, R149): the stook's resources are freed; of one that was not killed the core reports the staging to the tally (Table 9-1, log 14). -/
def execStookEnd (q c st : Nat) (s : State) : Out :=
  let n := 64 * q + c
  match tfind (s.core n).stooks st with
  | none => .next s
  | some t => evt (wfCore q c && stookOver s n st t) s
      (let s1 := freeStook n st s; if t.killed.isNone then signal (srcCore n) 0 4 s1 else s1)

/-! ## Faults (R146 to R150) -/

/-- Mark the threads of lanes as poisoned: a thread's column is its lane (R377). -/
def markThreads (n launch : Nat) (lanes : List Nat) (s : State) : State :=
  lanes.foldl (fun a i => modRun launch (fun r => match columnAt r n i with
    | some x => putColumn r { x with marked := true }
    | none => { r with poisonedThreads := r.poisonedThreads + 1 }) a) s
/-- The sheaf returns to its scheduler with its record cleared: it counts as arrived again at its barrier (R141), and its held PFRs may bind. -/
def replay (n sl : Nat) (s : State) : State :=
  let c := s.core n
  let c1 := { c.setSheaf sl { c.sheaf sl with parked := false } with
                faults := tdel c.faults sl, pfr := c.pfr.map (fun b => if b.sheaf = sl then { b with held := false } else b) }
  s.setCore n (barsDone c1 (c.sheaf sl).stook)
/-- The outstanding load that a record names, once its data is back with poison. -/
def faultLoad (f : Sheaf) (r : FaultRec) : Option Nat :=
  (f.loads.find? (fun e => e.2.pc == r.pc && e.2.instr == r.instr && !e.2.atomic &&
    e.2.lanes.any (fun y => match y.data with | some (_, d) => d != 0 | none => false))).map Prod.fst
/-- POISON_POLICY = 1: zero in the lanes of LANES, their threads marked, and the sheaf goes on after the load (Table 4-10). -/
def zeroPoison (n sl launch : Nat) (r : FaultRec) (s : State) : State :=
  let f := s.sheaf n sl
  let w := r.instr.toNat
  let lanes := lanesOf r.lanes
  let g (x : Sheaf) : Sheaf := wrN x (bits w 32 24) r.lanes (dataRegs (memSize w)) (lanes.map (fun i => (i, 0)))
  let s1 := match faultLoad f r with
    | some id => s.setSheaf n sl (g { f with loads := tdel f.loads id })
    | none => advance n sl (nextPc w f.pc) (s.setSheaf n sl (g f))
  markThreads n launch lanes (replay n sl s1)
/-- The launch's context maps the address of a TRANSLATION record with the needed permission (Table 4-10); for a fetch, which has INSTR 0, every
word of the instruction (log 17). -/
def faultMapped (s : State) (g : Nat) (r : FaultRec) : Bool :=
  let ok (va : Nat) (k : Acc2) : Bool := match translate s g va k with | .ok _ => true | .error _ => false
  if r.instr = 0 then ok r.pc.toNat .exec && (!wExt (wordAt s g r.pc) || ok (r.pc + 8).toNat .exec)
  else ok r.addr.toNat (if r.detail.testBit 2 then .write else .read)
/-- A fault record as Pelseso resolves it (Table 4-10). A poisoned instruction word has no destination to take zeros, so that its stook is killed
under either policy (log 17). -/
def resolveFault (n sl : Nat) (t : Stook) (r : FaultRec) (run : Run) (s : State) : State :=
  let st := (s.sheaf n sl).stook
  let launch := t.launch.toNat
  let kill (status detail : Nat) : State := killStook n st status detail r.stamp s
  match r.cause with
  | 1 => if faultMapped s run.group r then replay n sl s else kill 0x20 0
  | 2 => if run.poisonPolicy && r.instr != 0 then zeroPoison n sl launch r s else kill 0x21 0
  | 3 => kill 0x22 0
  | 4 => kill 0x23 r.detail
  | 5 => kill 0x24 0
  | 6 => kill 0x25 0
  | _ => abandonRun launch true s
/-- One record of a core comes before another: by stamp, then in the order of emission (R32). -/
def recFirst (a b : FaultRec) : Bool := decide (a.stamp < b.stamp) || (a.stamp == b.stamp && decide (a.seq < b.seq))
/-- FAULT_RESOLVE (R147, R148): Pelseso takes the oldest record of the core, logs it and replays the sheaf or kills the stook. -/
def execFaultResolve (q c sl : Nat) (s : State) : Out :=
  let n := 64 * q + c
  let k := s.core n
  match tfind k.faults sl, tfind k.stooks (k.sheaf sl).stook with
  | some r, some t =>
    match runOf s t.launch with
    | some run =>
      evt (wfSheaf q c sl && k.faults.all (fun e => e.1 == sl || recFirst r e.2) && t.killed.isNone) s
        (resolveFault n sl t r run (logFault n r (s.setCore n { k with faults := tdel k.faults sl })))
    | none => .next s
  | _, _ => .next s

end Sys2Proof.Machine
end

