-- ==== Sys2Proof/Machine/Sampler.lean ====
section
/-! DEFINITION. The sampler and the seedbox's keys (06 R195, R196, R201 to R210). -/
namespace Sys2Proof.Machine

/-! ## The row (R201, R208) -/

/-- How a sample ends: STATUS, token, TAIL_CUT, GREEDY, PROB and COUNTER (Tables 6-4, 6-5). -/
structure SampleEnd where
  status : Nat
  token : Nat
  tail : Bool
  greedy : Bool
  prob : Nat
  counter : W64
  deriving DecidableEq, Repr

/-- SFMT's format. -/
def scoreFmt (d : List Byte) : Fmt := match bits (fld d 0 4) 1 0 with | 0 => f32 | 1 => bf16 | _ => f16
/-- SPACE, COMMIT, STREAM, LEN. -/
def smpGlobal (d : List Byte) : Bool := bit (fld d 0 4) 2
/-- COMMIT. -/
def smpCommit (d : List Byte) : Bool := bit (fld d 0 4) 3
/-- STREAM. -/
def smpStream (d : List Byte) : Nat := fld d 1 1
/-- LEN. -/
def smpLen (d : List Byte) : Nat := fld d 4 4
/-- Why pass 1 goes no further: a status (1 POISONED, 2 NAN_ROW: R209), a score in a fenced quarter (R381), one whose quarter returns the read
retry-later (R464), or one whose channel retrains. -/
inductive RowEnd where
  | ends (status : Nat)
  | lost
  | held
  | stalls
  deriving DecidableEq, Repr
/-- Address of score i of a global row. -/
def scorePa (j : SampleJob) (i : Nat) : Nat :=
  let o := fld j.desc 8 8 % 65536 + i * scoreBytes j.desc
  j.pages.getD (o / 65536) 0 + o % 65536
/-- One score's bytes: scratch, or global memory as a load of the core sees it: its own copy, else its run's view under its key slot. -/
def scoreAt (s : State) (n : Nat) (stage : Option Nat) (slot base : Nat) (j : SampleJob) (i : Nat) : Except RowEnd Nat :=
  let sb := scoreBytes j.desc
  let out (d : List Byte × Bool) : Except RowEnd Nat := if d.2 then .error (.ends 1) else .ok (leNat d.1)
  if smpGlobal j.desc then
    let pa := scorePa j i
    match tcFind (s.core n) (tcTag pa) with
    | some x => .ok (leNat (slice x.bytes (pa % 64) sb))
    | none =>
      if fencedAddr s pa then .error .lost
      else if retryAddr s pa then .error .held
      else if burstStalls s pa then .error .stalls
      else if mismatch s stage slot pa then .ok 0
      else out (cohRead s stage pa sb)
  else out (scrRead s n (base + fld j.desc 8 4 + i * sb) sb)
/-- Pass 1's reading, in ascending index, up to the first score that stops it (R209): no score beyond it is read. -/
def readRow (rd : Nat → Except RowEnd Nat) (fm : Fmt) : List Nat → Except RowEnd (List Num)
  | [] => .ok []
  | i :: t =>
    match rd i with
    | .error e => .error e
    | .ok x =>
      if fdec fm x = .nan then .error (.ends 2)
      else match readRow rd fm t with | .ok l => .ok (fdec fm x :: l) | .error e => .error e
/-- The indices that pass 1 reads. -/
def rowSeen (rd : Nat → Except RowEnd Nat) (fm : Fmt) : List Nat → List Nat
  | [] => []
  | i :: t => match rd i with | .ok x => if fdec fm x = .nan then [i] else i :: rowSeen rd fm t | .error _ => [i]
/-- The sectors of a global row that pass 1 reads outside the core's copies, each with its first address. -/
def rowSectors (s : State) (n : Nat) (stage : Option Nat) (slot base : Nat) (j : SampleJob) : List Nat :=
  if smpGlobal j.desc then
    (((rowSeen (scoreAt s n stage slot base j) (scoreFmt j.desc) (List.range (smpLen j.desc))).map (fun i => scorePa j i / 64 * 64)).eraseDups).filter
      (fun pa => (tcFind (s.core n) (tcTag pa)).isNone)
  else []

/-- The accesses of a row's sectors: each in its page's class, by the core's master (R240). -/
def noteRow (n g : Nat) (stage : Option Nat) (j : SampleJob) (l : List Nat) (s : State) : State :=
  let cls (pa : Nat) : Nat := match j.pages.findIdx? (fun b => b == pa / 65536 * 65536) with
    | some k => (match mapAt s g ((fld j.desc 8 8 / 65536 + k) * 65536) with | some m => m.cls | none => 0)
    | none => 0
  l.foldl (fun a pa => noteView stage (cls pa) (coreMaster a n pa) pa a) s

/-! ## The choice (R206, R207) -/

/-- exp of a difference that is not positive, within the accuracy of EXP2 (log 2); exp 0 is 1. -/
def expW (y : Num) : Num :=
  match y with
  | .fin s m e =>
    if m = 0 then .fin false 1 0
    else if e + Nat.log2 m > 9 then .fin false 0 0
    else
      let t := toFix m e * 2 ^ fpB / ln2
      fdec f32 (approxUlp (Config.approxExp (BitVec.ofNat 32 (to32 y))).toNat .rne (hpExp2 s t (-(fpB : Int))) 2).1
  | .inf _ => .fin false 0 0
  | .nan => .nan
/-- Difference of two products, exact. -/
def fsub (a b : Num) : Num := fadd false a (fneg b)
/-- Running m and z of pass 1 over the finite products. -/
def passOne : List Num → Num → Num → Num × Num
  | [], m, z => (m, z)
  | x :: t, m, z =>
    match x with
    | .fin _ _ _ =>
      if flt m x then passOne t x (rnd32 (fadd false (rnd32 (fmul z (expW (fsub m x)))) (.fin false 1 0)))
      else passOne t m (rnd32 (fadd false z (expW (fsub x m))))
    | _ => passOne t m z
/-- Whether candidate a goes before b: larger value first, lower index among equals. -/
def candBefore (a b : Nat × Num) : Bool := flt b.2 a.2 || (!flt a.2 b.2 && decide (a.1 < b.1))
/-- Insert a candidate. -/
def candInsert (x : Nat × Num) : List (Nat × Num) → List (Nat × Num)
  | [] => [x]
  | y :: t => if candBefore x y then x :: y :: t else y :: candInsert x t
/-- Keep the k first candidates of a list. -/
def candSort (k : Nat) (l : List (Nat × Num)) : List (Nat × Num) := l.foldl (fun a x => (candInsert x a).take k) []
/-- The shortest prefix whose sum of w reaches a target. -/
def prefixReach (target : Num) : List (Nat × Num) → Num → Option (List (Nat × Num))
  | [], _ => none
  | x :: t, z =>
    let z1 := rnd32 (fadd false z x.2)
    if !flt z1 target then some [x] else (prefixReach target t z1).map (fun r => x :: r)
/-- Sum of weights in order. -/
def sumW (l : List (Nat × Num)) : Num := l.foldl (fun a x => rnd32 (fadd false a x.2)) (.fin false 0 0)
/-- First candidate whose running sum exceeds a bound; the last one when none does. -/
def pickOver (bound : Num) : List (Nat × Num) → Num → Nat × Num → Nat × Num
  | [], _, last => last
  | x :: t, z, _ =>
    let z1 := rnd32 (fadd false z x.2)
    if flt bound z1 then x else pickOver bound t z1 x
/-- Index of the largest score, the lowest among equals. -/
def argMax (l : List Num) : Nat :=
  match l with
  | [] => 0
  | x :: t => ((t.zip (idxFrom 1 t.length)).foldl (fun (b : Nat × Num) e => if flt b.2 e.1 then (e.2, e.1) else b) (0, x)).1
/-- Candidates in ascending index with weights, and TAIL_CUT; none for an EMPTY row (R206). -/
def candidates (xs : List Num) (topk : Nat) (topp : Num) : Option (List (Nat × Num) × Bool) :=
  let ix := xs.zip (List.range xs.length)
  let kc := if 0 < topk then topk else if flt topp (.fin false 1 0) then 1024 else 0
  if xs.any (fun x => x == .inf false) then
    some ((ix.filter (fun e => e.1 == .inf false)).map (fun e => (e.2, .fin false 1 0)), false)
  else if xs.all (fun x => x == .inf true) then none
  else
    let mz := passOne xs (.inf true) (.fin false 0 0)
    let w (x : Num) : Num := match x with | .fin _ _ _ => expW (fsub x mz.1) | _ => .fin false 0 0
    if kc = 0 then some (ix.map (fun e => (e.2, w e.1)), false)
    else
      let kept := candSort kc ((candSort kc (ix.map (fun e => (e.2, e.1)))).map (fun e => (e.1, w e.2)))
      if flt topp (.fin false 1 0) then
        match prefixReach (rnd32 (fmul topp mz.2)) kept (.fin false 0 0) with
        | some l => some (l, false)
        | none => some (kept, decide (kc < xs.length))
      else some (kept, false)
/-- Candidates in ascending index. -/
def byIndex (l : List (Nat × Num)) : List (Nat × Num) := l.foldl (fun t e => tput t e.1 e.2) ([] : Tab Num)
/-- The drawn candidate and its probability. -/
def drawToken (l : List (Nat × Num)) (r : Nat) : Nat × Nat :=
  let c := byIndex l
  let zc := sumW c
  let x := pickOver (fmul (.fin false r (-32)) zc) c (.fin false 0 0) (0, .fin false 0 0)
  (x.1, to32 (fdiv x.2 zc).1)
/-- Check 4 of R202. -/
def fieldsOk (r : Run) (n : Nat) (d : List Byte) : Bool :=
  let w := fld d 0 4
  let temp := fdec f32 (fld d 0x10 4)
  let topp := fdec f32 (fld d 0x18 4)
  let st := smpStream d
  let normal := decide (1 ≤ bits (fld d 0x10 4) 30 23)
  decide (bits w 1 0 ≠ 3) && decide (bits w 7 4 = 0) && decide (bits w 31 16 = 0) &&
  (decide (st = 0xFF) || (decide (st < 32) && (columnAt r n st).isSome)) &&
  decide (1 ≤ smpLen d) && decide (smpLen d ≤ 262144) && (smpGlobal d || decide (fld d 12 4 = 0)) &&
  (decide (fld d 0x10 4 = 0) || (normal && !nneg temp && !flt temp (.fin false 1 (-6)) && !flt (.fin false 1 6) temp && temp != .nan)) &&
  decide (fld d 0x14 4 ≤ 1024) && flt (.fin false 0 0) topp && !flt (.fin false 1 0) topp
/-- The counter of the stream that a descriptor names: zero where it names none (R204). -/
def smpCounter (s : State) (r : Run) (n launch : Nat) (d : List Byte) : W64 :=
  let st := smpStream d
  if st = 0xFF then (match tfind (s.core n).seed.launch launch with | some x => x.ctr | none => 0)
  else if st < 32 then (match columnAt r n st with | some x => x.counter | none => 0)
  else 0
/-- A sample that ends without a result. -/
def smpFail (status : Nat) (ctr : W64) : SampleEnd :=
  { status := status, token := 0, tail := false, greedy := false, prob := 0, counter := ctr }
/-- The choice over the scores of a row: its end, and the state after its draw (R206, R207). -/
def sampleDraw (s : State) (n launch : Nat) (d : List Byte) (ctr : W64) (scores : List Num) : SampleEnd × State :=
  if fld d 0x10 4 = 0 then
    ({ status := 0, token := argMax scores, tail := false, greedy := true, prob := 0x3F80_0000, counter := ctr }, s)
  else
    let inv := rnd32 (fdiv (.fin false 1 0) (fdec f32 (fld d 0x10 4))).1
    match candidates (scores.map (fun x => rnd32 (fmul x inv))) (fld d 0x14 4) (fdec f32 (fld d 0x18 4)) with
    | none => (smpFail 3 ctr, s)
    | some (cs, tail) =>
      let dr := drawStream n launch (smpStream d) 32 s
      match dr.1 with
      | none => (smpFail 5 dr.2.1, dr.2.2)
      | some k =>
        let x := drawToken cs k
        ({ status := 0, token := x.1, tail := tail, greedy := false, prob := x.2, counter := dr.2.1 }, dr.2.2)
/-- The sample of a descriptor: its end and the state after it, or why its row keeps it. BAD_FIELD reads no row (check 4 of R202, R211). -/
def sampleRun (s : State) (n launch : Nat) (r : Run) (base : Nat) (j : SampleJob) : Except RowEnd (SampleEnd × State) :=
  let d := j.desc
  let ctr := smpCounter s r n launch d
  let slot := groupSlot s r.group
  let l := rowSectors s n r.stage slot base j
  let s1 := noteRow n r.group r.stage j l ((l.filter (mismatch s r.stage slot)).foldl (fun a pa => logMismatch slot pa a) s)
  if !fieldsOk r n d then .ok (smpFail 8 ctr, s)
  else match readRow (scoreAt s n r.stage slot base j) (scoreFmt d) (List.range (smpLen d)) with
    | .error (.ends e) => .ok (smpFail e ctr, s1)
    | .error e => .error e
    | .ok scores => .ok (sampleDraw s1 n launch d ctr scores)
/-- The result word (Table 6-4). -/
def smpWord (x : SampleEnd) : Nat :=
  (if x.status = 0 then x.token % 2 ^ 18 else 0x3_FFFF) + 2 ^ 20 * x.status + (if x.tail then 2 ^ 24 else 0) + (if x.greedy then 2 ^ 25 else 0)
/-- The result record (Table 6-5). -/
def smpRec (x : SampleEnd) : List Byte :=
  natLE 4 (if x.status = 0 then x.token else 0xFFFF_FFFF) ++ natLE 4 x.prob ++ bvLE 8 x.counter
/-- What the end of a committing sample does to its column (R205, R209). -/
def smpStage (x : SampleEnd) (c : Column) : Column :=
  if x.status = 0 then
    { c with tokens := some { token := BitVec.ofNat 32 x.token, prob := BitVec.ofNat 32 x.prob, counter := x.counter }, staged := c.staged + 1 }
  else if x.status = 1 then { c with marked := true } else c
/-- The sample at the head of the queue ends: record, column, result word (R204). -/
def smpDone (n launch base : Nat) (j : SampleJob) (x : SampleEnd) (s : State) : State :=
  let s1 := scrWrite n (base + fld j.desc 0x1C 4) (smpRec x) false s
  let st := smpStream j.desc
  let s2 := if smpCommit j.desc && decide (st < 32) then
      modRun launch (fun r => match columnAt r n st with | some c => putColumn r (smpStage x c) | none => r) s1 else s1
  let c := s2.core n
  let f := c.sheaf j.sheaf
  s2.setCore n { c.setSheaf j.sheaf { wr32 f j.dst 0xFFFF_FFFF [(0, smpWord x)] with sample := none } with samples := c.samples.drop 1 }
/-- The head sample keeps the sampler, its read waiting from a moment on. -/
def holdRow (n : Nat) (j : SampleJob) (t : Option W64) (s : State) : State :=
  let c := s.core n
  s.setCore n { c with samples := { j with since := t } :: c.samples.drop 1 }
/-- SAMPLE_SERVICE (R203 to R210): the head descriptor is served whole; a score whose home returns retry-later, or whose channel retrains, keeps
the sampler, and one homed in a fenced quarter is lost input. The limit of R208 counts no time in which the reads return retry-later (R464). -/
def execSampleService (q c : Nat) (s : State) : Out :=
  let n := 64 * q + c
  let k := s.core n
  match k.samples with
  | [] => .next s
  | j :: _ =>
    match tfind k.stooks j.stook with
    | none => .next s
    | some t =>
      match runOf s t.launch with
      | none => .next s
      | some r =>
        let launch := t.launch.toNat
        evt (wfCore q c) s
          (match sampleRun s n launch r t.base j with
           | .ok x => smpDone n launch t.base j x.1 x.2
           | .error .lost => failRun launch 0x02 1 s
           | .error .held => holdRow n j none (bump 0x00D0_0218 1 s)
           | .error _ => holdRow n j (some (j.since.getD (now s))) s)
/-- ROW_TIMEOUT (R208): the row read of the head sample has not completed within 100 µs. -/
def execRowTimeout (q c : Nat) (s : State) : Out :=
  let n := 64 * q + c
  let k := s.core n
  match k.samples with
  | [] => .next s
  | j :: _ =>
    match tfind k.stooks j.stook with
    | none => .next s
    | some t =>
      match runOf s t.launch with
      | none => .next s
      | some r =>
        evt (wfCore q c && smpGlobal j.desc && heldFor s j.since (100 * us)) s
          (smpDone n t.launch.toNat t.base j (smpFail 4 (smpCounter s r n t.launch.toNat j.desc)) s)

/-! ## Keys (R195, R196) -/

/-- Change the seedbox of a core. -/
def modSeed (n : Nat) (f : Seedbox → Seedbox) (s : State) : State := let c := s.core n; s.setCore n { c with seed := f c.seed }
/-- ROUNDING_KEY_FETCH (R195): a core without a key, or whose next key has not been fetched, requests one. -/
def execRoundingKeyFetch (q c : Nat) (s : State) : Out :=
  let n := 64 * q + c
  let x := (s.core n).seed
  evt (wfCore q c && coreFitted s n && x.roundReq.isNone && x.roundFail.isNone && (x.roundKey.isNone || x.nextKey.isNone)) s (askRound n s)
/-- A core that takes work: its rounding key is there, and no test, fence or deep fallow keeps it away. -/
def enterService (n : Nat) (s : State) : State :=
  let c := s.core n
  if !c.arr.testing && !c.fenced && decide (c.fallow ≤ 1) && c.waking.isNone && c.seed.roundKey.isSome && c.seed.roundFail.isNone then
    syncRing (n / 64) (s.setCore n { c with inService := true }) else s
/-- The rounding key arrives: the first one serves from the present block on, a later one waits for 2^48 blocks. -/
def roundKeyIn (k : W256) (x : Seedbox) : Seedbox :=
  if x.roundKey.isNone || x.roundFail.isSome then
    { x with roundKey := some k, keyBase := cdiv x.roundBits 128, roundBits := cdiv x.roundBits 128 * 128, roundReq := none, roundFail := none }
  else { x with nextKey := some k, roundReq := none }
/-- KEY_DELIVERY (R195): the passing entropy source answers a request that is not yet 20 µs old. -/
def execKeyDelivery (q c : Nat) (launch : Option Nat) (s : State) : Out :=
  let n := 64 * q + c
  let x := (s.core n).seed
  let k := drawEntropy s
  match launch with
  | none =>
    match x.roundReq with
    | some t => evt (wfCore q c && s.sec.entropyOk && !aged s t (20 * us)) s (enterService n (modSeed n (roundKeyIn k.1) k.2))
    | none => .next s
  | some l =>
    match tfind x.launchReq l with
    | some t => evt (wfCore q c && s.sec.entropyOk && !aged s t (20 * us)) s
        (modSeed n (fun x => { x with launch := tput x.launch l { key := k.1, ctr := 0 }, launchReq := tdel x.launchReq l }) k.2)
    | none => .next s
/-- KEY_REQUEST_TIMEOUT (R196): a request has gone 20 µs without an answer. -/
def execKeyRequestTimeout (q c : Nat) (launch : Option Nat) (s : State) : Out :=
  let n := 64 * q + c
  let x := (s.core n).seed
  match launch with
  | none => evt (wfCore q c && heldFor s x.roundReq (20 * us)) s (roundKeyFail n s)
  | some l => evt (wfCore q c && heldFor s (tfind x.launchReq l) (20 * us)) s (launchKeyFail n l s)
/-- ROUNDING_KEY_RETRY (R196): 1 ms after a failure Pelseso requests again. -/
def execRoundingKeyRetry (q c : Nat) (s : State) : Out :=
  let n := 64 * q + c
  let x := (s.core n).seed
  evt (wfCore q c && heldFor s x.roundFail ms && x.roundReq.isNone) s
    (askRound n (modSeed n (fun x => { x with roundFail := some (now s) }) s))
/-- Every pending key request fails (R196, R479). -/
def failKeys (s : State) : State :=
  s.cores.foldl (fun (a : State) e =>
    let x := e.2.seed
    let a1 := if x.roundReq.isSome then roundKeyFail e.1 a else a
    x.launchReq.foldl (fun b r => launchKeyFail e.1 r.1 b) a1) s

end Sys2Proof.Machine
end

