-- ==== Sys2Proof/Machine/Windrow.lean ====
section
/-! DEFINITION. The windrow: log ring, alarm table, management scheduler, telemetry, traces and the counter mirror (19 R501 to R513). -/
namespace Sys2Proof.Machine

/-! ## Log records (R501 to R503) -/

/-- Severity and payload length that Table 19-3 fixes for a code; a storage error's severity goes by its KIND (CORRECTED 1, REFETCHED 3,
STATE_FIXED 4). -/
def logCodeOk (code sev : Nat) (payload : List Byte) : Bool :=
  payload.length == (match code with | 0x8100 => 64 | 0x8200 => 32 | 0x8400 => 96 | 0x8800 => 64 | 0x8F00 => 24 | _ => 16) &&
  match code with
  | 0x8100 => sev == 3 | 0x8200 => sev == (if [1, 3, 4].contains (fld payload 0 1) then 2 else 4) | 0x8300 => sev == 3 | 0x8400 => sev == 2 | 0x8500 => sev == 3
  | 0x8600 => sev == 3 | 0x8700 => sev == 1 | 0x8800 => sev == 5 | 0x8900 => sev == 2 | 0x8F00 => sev == 4 | _ => false
/-- LOG_RECORD (R501, R503): a unit's record reaches the staging queue. Records of other codes are not written. -/
def execLogRecord (sev src code : Nat) (payload : List Byte) (s : State) : Out :=
  evt (logCodeOk code sev payload) s (logRec sev src code payload s)

/-- A record as bytes: the header of Table 19-2 and the payload, filled to a multiple of 16. -/
def logBytes (r : LogRec) : List Byte :=
  let n := 1 + cdiv r.payload.length 16
  natLE 1 n ++ natLE 1 (r.sev % 8) ++ natLE 2 r.src ++ natLE 2 r.code ++ natLE 2 0 ++ bvLE 8 r.stamp ++ padTo (16 * (n - 1)) r.payload
/-- Bytes of a block. -/
def blockSize : Nat := 0x80_0000
/-- A block in use. -/
def blockOf (s : State) (i : Nat) : Option Block := tfind s.wdr.blocks i
/-- The lowest free block of a range of directory indexes. -/
def freeBlock (s : State) (lo n : Nat) : Option Nat := (idxFrom lo n).find? (fun i => (blockOf s i).isNone)
/-- The log block to free: oldest first record among the blocks of the lowest severity present. -/
def victimBlock (s : State) : Option Nat :=
  let l := s.wdr.blocks.filter (fun e => decide (e.1 < 128))
  let lo := l.foldl (fun a e => min a e.2.sev) 7
  match l.filter (fun e => e.2.sev == lo) with
  | [] => none
  | e :: t => some (t.foldl (fun b x => if x.2.firstStamp < b.2.firstStamp then x else b) e).1
/-- Free a log block: its records are counted as lost. -/
def freeLog (i : Nat) (s : State) : State :=
  match blockOf s i with
  | none => s
  | some b =>
    let t := { s with wdr := { s.wdr with blocks := tdel s.wdr.blocks i, openBlk := s.wdr.openBlk.filter (fun e => e.2 != i) } }
    alarmW 0x0C01 0 [] (countDrop b.sev b.records t)
/-- Open a block: the module-wide sequence number rises by 1. -/
def openBlock (i sev : Nat) (stamp : W64) (s : State) : State :=
  let b : Block := { seq := s.wdr.blkSeq + 1, sev := sev, used := 0, firstStamp := stamp, bytes := [], records := 0 }
  { s with wdr := { s.wdr with blkSeq := s.wdr.blkSeq + 1, blocks := tput s.wdr.blocks i b } }
/-- Append bytes to a block. -/
def appendBlock (i : Nat) (l : List Byte) (s : State) : State :=
  match blockOf s i with
  | none => s
  | some b => { s with wdr := { s.wdr with blocks := tput s.wdr.blocks i { b with used := b.used + l.length, bytes := b.bytes ++ l, records := b.records + 1 } } }
/-- The block of a severity with room for n bytes, opened where needed. -/
def logBlock (sev n : Nat) (stamp : W64) (s : State) : Option Nat × State :=
  let fits : Option Nat := (tfind s.wdr.openBlk sev).filter (fun i => match blockOf s i with | some b => decide (b.used + n ≤ blockSize) | none => false)
  match fits with
  | some i => (some i, s)
  | none =>
    let s1 := if (freeBlock s 0 128).isSome then s else match victimBlock s with | some v => freeLog v s | none => s
    match freeBlock s1 0 128 with
    | none => (none, s1)
    | some i =>
      let s2 := openBlock i sev stamp s1
      (some i, { s2 with wdr := { s2.wdr with openBlk := tput s2.wdr.openBlk sev i } })
/-- Write one record into the log ring; severities 3 and above also go to the telemetry stream while it can be served. -/
def writeLog (r : LogRec) (s : State) : State :=
  let l := logBytes r
  match logBlock r.sev l.length r.stamp s with
  | (none, s1) => s1
  | (some i, s1) =>
    let s2 := bump 0x00F0_0100 1 (appendBlock i l s1)
    if 3 ≤ r.sev ∧ !alarmUnserved s2 then { s2 with wdr := { s2.wdr with stream := s2.wdr.stream ++ [l] } } else s2
/-- The loss record of the drops since the previous one. -/
def lossRec (s : State) : LogRec :=
  { sev := 4, src := 0, code := 0x8F00, stamp := now s, payload := ((List.range 6).map (fun i => natLE 4 (tget 0 s.wdr.lossSince i))).flatten }
/-- Pelseso runs. -/
def pelsesoRuns (s : State) : Bool := (s.boot.step == 5 || s.boot.step == 6) && !s.boot.lost
/-- LOG_WRITE (R501, R502, R503): Pelseso writes the loss record that is due, else the oldest staged record. -/
def execLogWrite (s : State) : Out :=
  evt (pelsesoRuns s && (!s.wdr.staging.isEmpty || !s.wdr.lossSince.isEmpty)) s
    (if !s.wdr.lossSince.isEmpty then writeLog (lossRec s) { s with wdr := { s.wdr with lossSince := [] } }
     else match s.wdr.staging with
       | [] => s
       | r :: t => writeLog r { s with wdr := { s.wdr with staging := t } })

/-! ## Alarms (R504 to R506) -/

/-- Events of each class of Table 19-4. -/
def alarmEvents (cls : Nat) : Nat :=
  match cls with
  | 1 => 9 | 2 => 12 | 3 => 9 | 4 => 8 | 5 => 5 | 6 => 5 | 7 => 3 | 8 => 3 | 9 => 1 | 10 => 6 | 11 => 3 | 12 => 2 | _ => 0
/-- ALARM_RAISE (R505). -/
def execAlarmRaise (code src : Nat) (detail : List Byte) (s : State) : Out :=
  evt (decide (1 ≤ code % 256) && decide (code % 256 ≤ alarmEvents (code / 256))) s (raiseAlarm code src detail s)
/-- A whole second of time base has begun since a stamp. -/
def newSecond (s : State) (t : W64) : Bool := decide (t.toNat / sec1 < (now s).toNat / sec1)
/-- ALARM_RESEND (R506): at a whole second, open entries whose COUNT has changed since their last send are queued again. -/
def execAlarmResend (s : State) : Out :=
  evt (newSecond s s.wdr.resendAt) s
    (((openAlarms s).filter (fun e => e.2.count != e.2.sentCount)).foldl (fun a e => queueSend e.1 a) { s with wdr := { s.wdr with resendAt := now s } })
/-- ALARM_CLOSE (R506): 10 s have passed without a raise. -/
def execAlarmClose (i : Nat) (s : State) : Out :=
  match tfind s.wdr.alarms i with
  | none => .next s
  | some a => evt (!a.closed && aged s a.last (10 * sec1)) s (closeAlarm i s)

/-! ## Telemetry and the management scheduler (R407, R507, R508) -/

/-- Telemetry datagram: KIND, RECORDS, DGRAM_SEQ (this one included), STAMP and body. -/
def datagram (kind records : Nat) (body : List Byte) (s : State) : List Byte × State :=
  let n := tget 0 s.wdr.dgramSeq kind + 1
  (natLE 1 kind ++ natLE 1 0 ++ natLE 2 records ++ bvLE 4 n ++ bvLE 8 (now s) ++ body,
   { s with wdr := { s.wdr with dgramSeq := tput s.wdr.dgramSeq kind n } })
/-- A frame leaves the management port. -/
def mgmtSend (b : List Byte) (s : State) : State :=
  bump (portBlk 8 + 0x108) 1 { s with mgmt := { s.mgmt with sent := b :: s.mgmt.sent } }
/-- Bytes of a datagram on the wire: Ethernet, IPv4 and UDP headers and the FCS (log 23). -/
def wireLen (b : List Byte) : Nat := b.length + 46
/-- A tenth of the port's bytes in 1 ms. -/
def alarmShare (s : State) : Nat := if (s.port 8).rate = 1 then 125000 else 312500
/-- Alarm bytes sent in the present ms. -/
def shareNow (s : State) : Nat := if s.mgmt.shareMs = (now s).toNat / ms then s.mgmt.shareUsed else 0
/-- An alarm record of a queued send. -/
def sendBytes (a : AlarmSend) : List Byte :=
  natLE 2 a.code ++ natLE 2 a.src ++ natLE 2 (a.entry % 4096 + (if a.closed then 0x8000 else 0)) ++ natLE 2 0 ++ bvLE 4 a.count ++ bvLE 4 a.seq ++
  bvLE 8 a.first ++ bvLE 8 a.last ++ padTo 32 a.detail
/-- Send an alarm frame: up to 22 records. -/
def alarmFrame (s : State) : State :=
  let l := s.wdr.sends.take 22
  let (d, s1) := datagram 1 l.length ((l.map sendBytes).flatten) s
  let s2 := bump 0x00F0_0150 l.length (mgmtSend d { s1 with wdr := { s1.wdr with sends := s1.wdr.sends.drop 22 } })
  { s2 with mgmt := { s2.mgmt with shareUsed := shareNow s + wireLen d, shareMs := (now s).toNat / ms } }
/-- An alarm frame waits and may be sent. -/
def alarmWaits (s : State) : Bool := !s.wdr.sends.isEmpty && !alarmUnserved s
/-- What input i of the scheduler holds: alarm, module and OS-core frames. -/
def mgmtWaits (s : State) (i : Nat) : Bool := match i with | 0 => alarmWaits s | 1 => !s.mgmt.modQ.isEmpty | _ => !s.mgmt.osQ.isEmpty
/-- Serve one input. -/
def mgmtServe (i : Nat) (s : State) : State :=
  match i with
  | 0 => alarmFrame s
  | 1 => (match s.mgmt.modQ with | b :: t => mgmtSend b { s with mgmt := { s.mgmt with modQ := t } } | [] => s)
  | _ => (match s.mgmt.osQ with | b :: t => mgmtSend b { s with mgmt := { s.mgmt with osQ := t } } | [] => s)
/-- The first waiting input at or after the pointer (R30). -/
def mgmtPick (s : State) : Option Nat := ([0, 1, 2].map (fun k => (s.mgmt.ptr + k) % 3)).find? (mgmtWaits s)
/-- MGMT_TRANSMIT (R508): an alarm frame within the share goes first, then the inputs in rotation. -/
def execMgmtTransmit (s : State) : Out :=
  evt ((s.port 8).st == 1) s
    (if alarmWaits s && decide (shareNow s < alarmShare s) then alarmFrame s
     else match mgmtPick s with
       | some i => let s1 := mgmtServe i s; { s1 with mgmt := { s1.mgmt with ptr := (i + 1) % 3 } }
       | none => s)
/-- Queue a module frame. -/
def modFrame (b : List Byte) (s : State) : State := { s with mgmt := { s.mgmt with modQ := s.mgmt.modQ ++ [b] } }
/-- The snapshot datagrams: up to 121 pairs each of the counters that the mirror shows as other than zero (log 23). -/
def snapFrames : Nat → Tab W64 → State → State
  | 0, _, s => s
  | f + 1, l, s =>
    let p := l.take 121
    let (d, s1) := datagram 2 p.length ((p.map (fun e => natLE 4 e.1 ++ bvLE 8 e.2)).flatten) s
    let s2 := modFrame d s1
    if (l.drop 121).isEmpty then s2 else snapFrames f (l.drop 121) s2
/-- The records that fit in a datagram: how many. -/
def fitCount : Nat → List (List Byte) → Nat
  | _, [] => 0
  | room, r :: t => if r.length ≤ room then 1 + fitCount (room - r.length) t else 0
/-- TELEMETRY_SEND (R407, R507): a datagram of alarms (1), the counter snapshot (2), OS core 0's console (3) or the Pelseso log (4). -/
def execTelemetrySend (kind : Nat) (s : State) : Out :=
  evt (pelsesoRuns s && s.mgmt.collector.isSome) s
    (match kind with
     | 1 => if alarmWaits s && decide (shareNow s < alarmShare s) then alarmFrame s else s
     | 2 => snapFrames (s.wdr.mirror.length + 1) s.wdr.mirror s
     | 3 => let (d, s1) := datagram 3 0 ((Config.consoleOut s.free).take 1456) s; modFrame d { s1 with free := s1.free + 1 }
     | 4 =>
       let k := fitCount 1456 s.wdr.stream
       let (d, s1) := datagram 4 k ((s.wdr.stream.take k).flatten) s
       modFrame d { s1 with wdr := { s1.wdr with stream := s1.wdr.stream.drop k } }
     | _ => s)

/-! ## Traces (R509, R510) -/

/-- An empty collector. -/
def Collector.dflt : Collector := { recs := [], lost := 0, at_ := 0 }
/-- The block of the trace ring with room for a record: in MODE 1 a full ring stops tracing. -/
def traceBlock (s : State) : Option Nat × State :=
  let fits : Option Nat := s.wdr.traceOpen.filter (fun i => match blockOf s i with | some b => decide (b.used + 32 ≤ blockSize) | none => false)
  match fits with
  | some i => (some i, s)
  | none =>
    let put (i : Nat) (a : State) : Option Nat × State :=
      let a1 := openBlock i 0 (now a) a
      (some i, { a1 with wdr := { a1.wdr with traceOpen := some i } })
    match freeBlock s 128 32 with
    | some i => put i s
    | none =>
      if bit s.wdr.traceCfg.toNat 20 then (none, { s with wdr := { s.wdr with traceStopped := true, traceOpen := none } })
      else match s.wdr.blocks.filter (fun e => decide (128 ≤ e.1)) with
        | [] => (none, s)
        | e :: t => put (t.foldl (fun b x => if x.2.seq < b.2.seq then x else b) e).1 s
/-- Write one 32-byte record to the trace ring. -/
def writeTrace (b : List Byte) (s : State) : State :=
  if s.wdr.traceStopped then s
  else match traceBlock s with
    | (some i, s1) => bump 0x00F0_0138 1 (appendBlock i b s1)
    | (none, s1) => s1
/-- A trace record (Table 19-6). -/
def traceBytes (typ lost src : Nat) (stamp : W64) (data : List Byte) : List Byte :=
  natLE 1 typ ++ natLE 1 lost ++ natLE 2 src ++ natLE 4 0 ++ bvLE 8 stamp ++ padTo 16 data
/-- Write a held record: LOST saturates at 255, and a loss record precedes it beyond that. -/
def writeHeld (e : Nat × List Byte) (s : State) : State :=
  let s1 := if 255 < e.1 then writeTrace (traceBytes 0xFF 0 0 (now s) (natLE 4 e.1)) s else s
  writeTrace (splice e.2 1 (natLE 1 (min 255 e.1))) s1
/-- Collectors that hold records. -/
def busyColl (s : State) : Nat := (s.wdr.coll.filter (fun e => !e.2.recs.isEmpty)).length
/-- A collector writes what its share of 2 GB/s has allowed since its last accounting: 16 ns a record and busy collector (log 23). -/
def drainColl (k : Nat) (s : State) : State :=
  let c := tget Collector.dflt s.wdr.coll k
  let n := since s c.at_ / (16 * max 1 (busyColl s))
  (c.recs.take n).foldl (fun a e => writeHeld e a)
    { s with wdr := { s.wdr with coll := tput s.wdr.coll k { c with recs := c.recs.drop n, at_ := if c.recs.isEmpty ∨ 0 < n then now s else c.at_ } } }
/-- A sampled record reaches its collector, which drops it when full. -/
def collect (k typ src : Nat) (data : BitVec 128) (s : State) : State :=
  let s1 := drainColl k s
  let c := tget Collector.dflt s1.wdr.coll k
  if 256 ≤ c.recs.length then
    alarmW 0x0C02 0 [] (bump 0x00F0_0140 1 { s1 with wdr := { s1.wdr with coll := tput s1.wdr.coll k { c with lost := c.lost + 1 } } })
  else
    let r := traceBytes typ 0 src (now s) (bvLE 16 data)
    { s1 with wdr := { s1.wdr with coll := tput s1.wdr.coll k { c with recs := c.recs ++ [(c.lost, r)], lost := 0 } } }
/-- TRACE_RECORD (R509, R510): an event of an enabled type is counted at its source, and every Nth one is recorded. -/
def execTraceRecord (coll typ src : Nat) (data : BitVec 128) (s : State) : Out :=
  let key := 16 * src + typ
  let n := tget 0 s.wdr.traceCount key
  let s1 := { s with wdr := { s.wdr with traceCount := tset 0 s.wdr.traceCount key (n + 1) } }
  evt (decide (coll < 5) && decide (1 ≤ typ) && decide (typ ≤ 8) && bit s.wdr.traceCfg.toNat (typ - 1) && !s.wdr.traceStopped) s
    (if n % 2 ^ bits s.wdr.traceCfg.toNat 19 16 = 0 then collect coll typ src data s1 else s1)
/-- WDR_TRACE_CFG takes a value: types newly enabled count from the start, and tracing goes on. -/
def traceCfgWrite (v : W32) (s : State) : State :=
  let fresh (typ : Nat) : Bool := bit v.toNat (typ - 1) && !bit s.wdr.traceCfg.toNat (typ - 1)
  { s with wdr := { s.wdr with traceCfg := v &&& 0x001F_00FF, traceStopped := false
                               traceCount := s.wdr.traceCount.filter (fun e => !fresh (e.1 % 16)) } }
/-- WDR_TRACE_CFG_WRITE (R510, R513): an OS core's write. -/
def execWdrTraceCfgWrite (v : BitVec 32) (s : State) : Out := evt (s.boot.step == 6 && !s.boot.lost) s (traceCfgWrite v s)

/-! ## The mirror (R512) -/

/-- COUNTER_SNAPSHOT (R512): at a whole second every counter bank is captured into the idle buffer, and the mirror switches to it. -/
def execCounterSnapshot (s : State) : Out :=
  evt (newSecond s s.wdr.snapStamp) s { s with wdr := { s.wdr with idle := s.wdr.mirror, mirror := s.counters, snapStamp := now s } }

/-- Directory entry b (R511), 16 bytes. -/
def dirEntry (s : State) (b : Nat) : List Byte :=
  match blockOf s b with
  | some x => bvLE 8 x.seq ++ natLE 1 x.sev ++ natLE 3 0 ++ natLE 4 x.used
  | none => List.replicate 16 0
/-- An alarm table entry as the readout shows it: unused or closed with COUNT 0 (R506). SEQ is that of its last send. -/
def alarmEntry (s : State) (i : Nat) : List Byte :=
  match tfind s.wdr.alarms i with
  | some a => if a.closed then alarmBytes i { a with count := 0 } a.seq else alarmBytes i a a.seq
  | none => List.replicate 64 0

end Sys2Proof.Machine
end

