-- ==== Sys2Proof/Machine/Power.lean ====
section
/-! DEFINITION. The 48 V input, converters, tines and domains, power limits and pacing, fallow states and wakes (15 R411 to R435; 20 R518). Voltages
are in mV, currents in mA and powers in W; readings of the physical world are operands (log 26). -/
namespace Sys2Proof.Machine

/-! ## The module off and on (01 R35, 15 R412, R413) -/

/-- What a loss of power leaves: fuses, flash, the identity store, the supply's own readings and the record of the wire. -/
def coldState (s : State) : State :=
  { State.reset with
    fuse := { s.fuse with loaded := false, curveDefault := false }
    boot := { State.reset.boot with step := 0, modReset := s.boot.modReset.map (fun _ => 0), fwRecover := s.boot.fwRecover, lost := true }
    fab := { State.reset.fab with out := s.fab.out }
    mgmt := { State.reset.mgmt with sent := s.mgmt.sent }
    pwr := { State.reset.pwr with mv := s.pwr.mv, band := s.pwr.band, input := s.pwr.input, aux := s.pwr.aux, stopped := s.pwr.stopped
                                  precharge := s.pwr.precharge, brake := s.pwr.brake.map (fun _ => 0) }
    sec := { State.reset.sec with image := s.sec.image, flashIndex := s.sec.flashIndex, cert := s.sec.cert, fabMode := s.sec.fabMode
                                  fuseRetry := s.sec.fuseRetry }
    idst := s.idst
    readData := s.readData
    readErr := s.readErr
    free := s.free
    pending := s.pending }
/-- The module stops with a status code of Table 20-9: everything on the dies is lost. -/
def loseModule (code : Nat) (s : State) : State :=
  let t := coldState s
  { t with boot := { t.boot with stopCode := code } }
/-- The alarm of a power fail leaves on the management port at once: the newest queued record. -/
def sendLast (s : State) : State :=
  match s.wdr.sends.reverse with
  | a :: t =>
    let (d, s1) := datagram 1 1 (sendBytes a) s
    if alarmUnserved s then s else mgmtSend d { s1 with wdr := { s1.wdr with sends := t.reverse } }
  | [] => s

/-- Insert a number into a rising list, keeping repeats. -/
def insertNat (a : Nat) : List Nat → List Nat
  | [] => [a]
  | b :: t => if a ≤ b then a :: b :: t else b :: insertNat a t
/-- Median; of an even number the mean of the middle two (log 26). -/
def median (l : List Nat) : Option Nat :=
  let m := l.foldr insertNat []
  if m.isEmpty then none else some ((m.getD ((m.length - 1) / 2) 0 + m.getD (m.length / 2) 0) / 2)
/-- Band of Table 15-2: 0 normal, 1 low, 2 fail, 3 high, 4 over. -/
def inputBand (mv : Nat) : Nat :=
  if mv < 36000 then 2 else if mv < 40000 then 1 else if mv ≤ 58000 then 0 else if mv ≤ 60000 then 3 else 4
/-- Converters that have not been switched off. -/
def liveConverters (s : State) : List Nat := (List.range 24).filter (fun i => !s.pwr.scFailed.contains i)
/-- A converter that reported within 50 µs. -/
def reporting (s : State) (i : Nat) : Bool := match tfind s.pwr.reports i with | some r => decide (since s r.2 ≤ 50 * us) | none => false
/-- Reports within 0 V to 80 V replace the earlier ones. -/
def takeReports (l : List (Nat × Nat)) (s : State) : State :=
  let good := l.filter (fun (e : Nat × Nat) => decide (e.1 < 24) && decide (e.2 ≤ 80000))
  let t := good.foldl (fun (a : Tab (Nat × W64)) (e : Nat × Nat) => tput a e.1 (e.2, now s)) s.pwr.reports
  { s with pwr := { s.pwr with reports := t } }
/-- The input voltage and current of R412: a silent converter counts at 125 A. -/
def takeInput (current : Nat) (s : State) : State :=
  let live := liveConverters s
  let mv := (median ((live.filter (reporting s)).map (fun i => (tget (0, 0) s.pwr.reports i).1))).getD s.pwr.mv
  let ma := current + 125000 * (live.filter (fun i => !reporting s i)).length
  let b := inputBand mv
  { s with pwr := { s.pwr with mv := mv, ma := ma, band := b, bandSince := if b = s.pwr.band then s.pwr.bandSince else now s } }
/-- Act on the condition that has held (Table 15-2). -/
def inputAct (s : State) : State :=
  let held (ns : Nat) : Bool := aged s s.pwr.bandSince ns
  match s.pwr.band with
  | 1 => if held (100 * us) && s.pwr.input != 1 then alarmW 0x0101 0 [s.pwr.mv] { s with pwr := { s.pwr with input := 1 } } else s
  | 2 => if held (10 * us) then
           let s1 := sendLast (alarmW 0x0102 0 [s.pwr.mv] s)
           loseModule 0xB { s1 with pwr := { s1.pwr with stopped := true } }
         else s
  | 3 => if held (100 * us) && s.pwr.input != 2 then alarmW 0x0103 0 [s.pwr.mv] { s with pwr := { s.pwr with input := 2 } } else s
  | 4 => if held (10 * us) then loseModule 0xB { s with pwr := { s.pwr with stopped := true } } else s
  | _ => s
/-- INPUT_VOLTAGE_SAMPLE (R412): the reports of converters (number, mV) since the last sample and their input current. A stopped module's carrier
only watches the voltage. -/
def execInputVoltageSample (reports : List (Nat × Nat)) (current : Nat) (s : State) : Out :=
  let s1 := takeInput current (takeReports reports s)
  .next (if s.boot.lost then s1 else inputAct s1)
/-- INPUT_RESTORED (R412, R413): 40 V to 58 V for 100 ms clears the condition; a stopped module starts from precharge. -/
def execInputRestored (s : State) : Out :=
  evt (s.pwr.aux && s.pwr.band == 0 && (s.boot.lost || (s.pwr.input != 0 && aged s s.pwr.bandSince (100 * ms)))) s
    (if s.boot.lost then { s with pwr := { s.pwr with input := 0, stopped := false, precharge := true } }
     else { s with pwr := { s.pwr with input := 0 } })
/-- POWER_GOOD (R413): every bus, in mV, holds within 1.75 V to 1.85 V; a cold start begins (R473). -/
def execPowerGood (buses : List Nat) (s : State) : Out :=
  let t := coldState s
  evt (s.pwr.precharge && buses.length == 5 && buses.all (fun b => decide (1750 ≤ b) && decide (b ≤ 1850))) s
    { t with boot := { t.boot with step := 1, lost := false, fwSampled := t.boot.fwRecover }, pwr := { t.pwr with precharge := false } }
/-- AUXILIARY_SUPPLY_CHANGE (20 R518, R524): it runs within 30 V to 60 V; down, the sideband inputs read as open and the identity store loses
its offset (log 8). -/
def execAuxiliarySupplyChange (mv : Nat) (s : State) : Out :=
  let up := decide (30000 ≤ mv) && decide (mv ≤ 60000)
  evt (up != s.pwr.aux) s
    (if up then { s with pwr := { s.pwr with aux := true } }
     else { s with pwr := { s.pwr with aux := false, precharge := false, brake := none }
                   boot := { s.boot with modReset := none, fwRecover := false }
                   idst := { s.idst with offset := 0, last := [] } })

/-! ## Stage one (R414, R415) -/

/-- Bus of a converter: a quarter, or 4 for the hub. -/
def busOf (sc : Nat) : Nat := min 4 (sc / 5)
/-- Failed converters of a bus. -/
def busFailed (s : State) (b : Nat) : Nat := (s.pwr.scFailed.filter (fun i => busOf i == b)).length
/-- A quarter's granary rails and stacks go off: it is fenced, and its stacks fail. -/
def quarterRailsOff (q : Nat) (s : State) : State :=
  let s1 := ((stackList s).filter (fun m => stackQuarter m == q)).foldl (fun a m => stackFail m a) (fenceQuarter q s)
  s1.setQuarter q { s1.quarter q with railsOff := true }
/-- The effect of a bus's failed converters. -/
def busAct (b : Nat) (s : State) : State :=
  let n := busFailed s b
  let lim (a : Nat) (x : State) : State := { x with pwr := { x.pwr with quarterLimit := tset 625 x.pwr.quarterLimit b a } }
  if b = 4 then (if n = 2 then loseModule 0xC s else s)
  else if n = 1 then lim 500 s
  else if n = 2 then quarterFault b true (lim 375 s)
  else if n = 3 ∧ (s.quarter b).st < 2 then
    quarterRailsOff b (alarmW 0x0109 (srcQuarter b) [] { s with pwr := { s.pwr with busOff := ladd s.pwr.busOff b } })
  else s
/-- CONVERTER_FAIL (R415). -/
def execConverterFail (sc : Nat) (s : State) : Out :=
  evt (decide (sc < 24) && !s.boot.lost && !s.pwr.scFailed.contains sc) s
    (busAct (busOf sc) (bump 0x00B4_0140 1 (alarmW 0x0104 0 [sc] { s with pwr := { s.pwr with scFailed := ladd s.pwr.scFailed sc } })))

/-! ## Domains, caps and set points (R416 to R422) -/

/-- Tines of a domain (Table 15-4). -/
def domainTines (d : Nat) : Nat := if d < 64 then 8 else if d < 66 then 48 else 32
/-- Current limit: 2.5 A times the working tines. -/
def domainLimit (d : Nat) (x : Domain) : Nat := 2500 * (domainTines d - x.failed.length)
/-- The quarter cap and the stamp of its last change. -/
def quarterCapOf (s : State) (q : Nat) : Nat × W64 := tget (64, 0) s.pwr.quarterCap q
/-- A step of the quarter cap, for the current of the quarter's bus in mA, by the rule of the domain cap against the limit of Table 15-3 (log 26). -/
def quarterCapAdjust (q ma : Nat) (s : State) : State :=
  let x := quarterCapOf s q
  let lim := 1000 * tget 625 s.pwr.quarterLimit q
  if lim < ma ∧ aged s x.2 100 ∧ 1 < x.1 then { s with pwr := { s.pwr with quarterCap := tput s.pwr.quarterCap q (x.1 - 1, now s) } }
  else if ma + 1000 < lim ∧ aged s x.2 us ∧ x.1 < 64 then { s with pwr := { s.pwr with quarterCap := tput s.pwr.quarterCap q (x.1 + 1, now s) } }
  else s
/-- DOMAIN_CAP_ADJUST (R418): the domain current in mA; only core domains have a pace gate. Domain 67 names the quarter's bus, whose cap acts on its
cores (log 26). -/
def execDomainCapAdjust (q d ma : Nat) (s : State) : Out :=
  let x := s.domain q d
  let down := decide (domainLimit d x < ma) && aged s x.capAt 100 && decide (1 < x.cap)
  let up := decide (ma + 1000 < domainLimit d x) && aged s x.capAt us && decide (x.cap < 64)
  evt (decide (q < 4) && ((decide (d < 64) && (down || up)) || d == 67)) s
    (if d = 67 then quarterCapAdjust q ma s else s.setDomain q d { x with cap := if down then x.cap - 1 else x.cap + 1, capAt := now s })
/-- The segment cap in force on a cluster: that of a forced wake during its window. -/
def segCap (s : State) (k : Nat) : Nat :=
  match tfind s.pwr.segCap k with
  | some (c, a, b) => if a ≤ now s ∧ now s < b then c else 64
  | none => 64
/-- CAP of a core's pace gate: the lowest of its four caps. -/
def paceCap (s : State) (n : Nat) : Nat :=
  min (s.domain (n / 64) (n % 64)).cap (min (segCap s (n / 4)) (min (quarterCapOf s (n / 64)).1 s.pwr.moduleCap))
/-- FALLOW of a core domain (Table 15-5): an awake core handshakes (F0) while a stage has work, and else sits in F1. -/
def fallowOf (s : State) (n : Nat) : Nat :=
  let c := s.core n
  if c.fallow ≤ 1 then (if drained c && c.waiting.isEmpty && !c.arr.testing then 1 else 0) else c.fallow
/-- Pelseso sets every core domain. -/
def setPoints (s : State) : State := (coreList s).foldl (fun a n => setPoint n a) s
/-- Set points of the granary and uncore domains of a powered quarter: 0.80 V. -/
def quarterRails (q : Nat) (s : State) : State :=
  [64, 65, 66].foldl (fun (a : State) d => a.setDomain q d { a.domain q d with vset := 800 }) s

/-! ## The minimum-voltage record (R419, R420) -/

/-- Sensors of a domain (Table 15-4). -/
def domainSensors (d : Nat) : Nat := if d = 64 ∨ d = 65 then 32 else 16
/-- A record as the register shows it. -/
def minvWord (m : MinV) : W64 := BitVec.ofNat 64 (m.mv % 1024 + 2 ^ 10 + 2 ^ 15 * (m.sensor % 32) + 2 ^ 20 * (m.stamp.toNat % 2 ^ 44))
/-- DROOP_SENSOR_READING (R420): a reading below the held minimum replaces it; an equal one leaves it. -/
def execDroopSensorReading (q d sensor mv : Nat) (s : State) : Out :=
  let x := s.domain q d
  let m : MinV := { mv := mv, sensor := sensor, stamp := now s }
  let lower := match x.minv with | some y => decide (mv < y.mv) | none => true
  evt (decide (q < 4) && decide (d < 67) && decide (sensor < domainSensors d) && decide (mv < 1024) && decide (x.vset ≠ 0) && lower) s
    (s.setDomain q d { x with minv := some m })
/-- TIN_MINV_STAMP_READ (R420): the read returns the record and clears it. -/
def execTinMinvStampRead (q d : Nat) (s : State) : Out :=
  let x := s.domain q d
  evt (decide (q < 4) && decide (d < 67)) s
    { s.setDomain q d { x with minv := none } with readData := match x.minv with | some m => minvWord m | none => 0, readErr := false }

/-! ## Power limits (R423 to R427) -/

/-- Plim in W (R412, R426). -/
def plim (s : State) : Nat :=
  let a := if s.pwr.sustained then 3700 else 4300
  let b := if s.pwr.brake.isSome then min a 2000 else a
  if s.pwr.input = 1 then min b (s.pwr.mv * 95 / 1000) else b
/-- The account B and the sustained limit after 10 µs at an input power. -/
def account (power : Nat) (s : State) : State :=
  let b := s.pwr.bucket + power - 3800
  let since := if 3800 < power then some (s.pwr.overSince.getD (now s)) else none
  let enter := !s.pwr.sustained && (decide (400000 ≤ b) || heldFor s since (9 * ms))
  let s1 := { s with pwr := { s.pwr with bucket := b, overSince := since, sustained := if s.pwr.sustained then decide (b ≠ 0) else enter } }
  if enter then bump 0x00B4_0118 1 s1 else s1
/-- Count energy in mJ from units of 10 µJ. -/
def energy (power ballast : Nat) (s : State) : State :=
  let e := s.pwr.energyAcc + power
  let b := s.pwr.ballastAcc + ballast
  bumps [(0x00B4_0100, e / 100), (0x00B4_0108, b / 100)] { s with pwr := { s.pwr with energyAcc := e % 100, ballastAcc := b % 100 } }
/-- r after one interval. -/
def nextR (s : State) (demand : Nat) : Nat :=
  let target : Int := min (demand + s.pwr.harrowDemand : Int) (plim s - 50)
  (s.pwr.r + max (-54) (min 54 (target - s.pwr.r)) : Int).toNat
/-- The caps and ballast that an input power calls for; a cap that is not lowered rises by one (log 26). -/
def pace (power : Nat) (s : State) : State :=
  let low := decide (s.pwr.r + 6 < power)
  let cap := if low then max 1 (s.pwr.moduleCap - 1) else min 64 (s.pwr.moduleCap + 1)
  let ball := decide (power + 6 < s.pwr.r)
  let s1 := { s with pwr := { s.pwr with moduleCap := cap, paced := low, ballast := ball, w := power } }
  energy power (if ball then s.pwr.r - power else 0) (if low then bump 0x00B4_0110 10 s1 else s1)
/-- The first part of a tick (R426): the demand is noted, and the input power enters the account. -/
def tickAccount (power demand : Nat) (s : State) : State := account power { s with pwr := { s.pwr with demand := demand } }
/-- The second part (R423 to R425): r follows the demand, and the limits follow the power. -/
def tickPace (power demand : Nat) (s : State) : State := pace power { s with pwr := { s.pwr with r := nextR s demand } }
/-- The third part: an asserted brake is counted for 10 µs. -/
def tickBrake (s : State) : State := if s.pwr.brake.isSome then bump 0x00B4_0148 10 s else s
/-- The last part (R427): a limit below 4.30 kW, or a paced module, notes the action. -/
def tickActed (s : State) : State := if plim s < 4300 ∨ s.pwr.paced then { s with pwr := { s.pwr with actedAt := some (now s) } } else s
/-- POWER_MANAGER_TICK (R423 to R426): every 10 µs, with the input power and the demand in W. -/
def execPowerManagerTick (power demand : Nat) (s : State) : Out :=
  evt (!s.boot.lost && s.clk.pllLocked) s (tickActed (tickBrake (tickPace power demand (tickAccount power demand s))))
/-- A stamp within the last ns. -/
def inLast (s : State) (t : Option W64) (ns : Nat) : Bool := match t with | some x => !aged s x ns | none => false
/-- The offset after R427, in steps of 10 mV downward. -/
def nextOffset (s : State) (avg : Nat) : Nat :=
  let o := s.pwr.offset
  if inLast s s.pwr.actedAt (10 * ms) then min 30 (o + 1)
  else if 3750 < avg ∧ !inLast s s.pwr.offsetAt (100 * ms) then min 30 (o + 1)
  else if avg < 3600 ∧ !inLast s s.pwr.actedAt sec1 ∧ 0 < o then o - 1
  else o
/-- OFFSET_UPDATE (R427): every 10 ms, with the 100 ms average of input power. -/
def execOffsetUpdate (avg : Nat) (s : State) : Out :=
  let o := nextOffset s avg
  evt (pelsesoRuns s) s
    (setPoints { s with pwr := { s.pwr with offset := o, offsetAt := if o = s.pwr.offset then s.pwr.offsetAt else some (now s) } })
/-- BRAKE_INPUT (R426): a level that has held for 50 µs. -/
def execBrakeInput (asserted : Bool) (s : State) : Out :=
  evt (s.pwr.aux && asserted != s.pwr.brake.isSome) s
    { s with pwr := { s.pwr with brake := if asserted then some (now s) else none, brakeAlarmed := false } }
/-- BRAKE_HELD_ALARM (R426): asserted for 60 s without a break. -/
def execBrakeHeldAlarm (s : State) : Out :=
  evt (!s.boot.lost && heldFor s s.pwr.brake (60 * sec1) && !s.pwr.brakeAlarmed) s
    (alarmW 0x0108 0 [] { s with pwr := { s.pwr with brakeAlarmed := true } })

/-! ## Fallow states and wakes (R357, R425, R428 to R432) -/

/-- W(q) of R357 in µs: the smallest WAKE_US among groups of the quarter that hold a queue. -/
def wakeBudget (s : State) (q : Nat) : Option Nat :=
  ((s.pel.groups.filter (fun g => bit g.2.qmask q && s.pel.queues.any (fun k => decide (32 ≤ k.1) && k.2.group == g.1))).map (fun g => g.2.wakeUs)).min?
/-- Wake time of a state in µs (Table 15-5). -/
def wakeTime (f : Nat) : Nat := if f = 3 then 70 else if f = 2 then 3 else 0
/-- The deepest state that W(q) allows. -/
def deepest (s : State) (q : Nat) : Nat := match wakeBudget s q with | none => 3 | some w => if 70 ≤ w then 3 else if 3 ≤ w then 2 else 1
/-- What a core keeps in F2 (Table 15-5). -/
def fallowTwo (c : Core) : Core :=
  { c with sheaves := (c.sheaves.map (fun e => (e.1, { Sheaf.dflt with gen := e.2.gen }))).filter (fun e => e.2 != Sheaf.dflt)
           faults := [], sched := [], issues := 0, issued := [], icache := []
           arr := { Array2.dflt with rowMap := c.arr.rowMap, lastPass := c.arr.lastPass, lastTest := c.arr.lastTest }, fallow := 2 }
/-- What a core keeps in F3: nothing of its own. -/
def fallowThree (c : Core) : Core :=
  let f := coreFresh c
  { f with fallow := 3, inService := c.inService, arr := { f.arr with testing := false } }
/-- A core enters F2 or F3. -/
def enterFallow (n fs : Nat) (s : State) : State :=
  let c := s.core n
  setPoint n (if fs = 2 then s.setCore n (fallowTwo c) else clearTilth n (s.setCore n (fallowThree c)))
/-- FALLOW_ENTRY (R357, R425, R429): an idle core takes the deepest state that W(q) allows, once the power manager permits the drop. -/
def execFallowEntry (q c fs : Nat) (s : State) : Out :=
  let n := 64 * q + c
  let k := s.core n
  evt (wfCore q c && coreFitted s n && pelsesoRuns s && (fs == 2 || fs == 3) && decide (k.fallow < fs) && fs == deepest s q && drained k &&
       k.waiting.isEmpty && k.waking.isNone && !k.arr.testing) s (syncRoles [n] (enterFallow n fs s))
/-- Put a wake into a queue: by stamp, and by core number within one instant (R30). -/
def queueWake (w : Wake) : List Wake → List Wake
  | [] => [w]
  | x :: t => if x.since = w.since ∧ w.core < x.core then w :: x :: t else x :: queueWake w t
/-- A core that sleeps and may be woken. -/
def mayWake (s : State) (n : Nat) : Bool :=
  let k := s.core n
  coreFitted s n && decide (2 ≤ k.fallow) && !k.away && !(s.domain (n / 64) (n % 64)).dark && k.waking.isNone && !k.therm.tripped
/-- Request the wake of a core. -/
def requestWake (n : Nat) (s : State) : State :=
  let l := tget [] s.pwr.wakes (n / 64)
  if mayWake s n && !(l.any (fun w => w.core == n)) then
    { s with pwr := { s.pwr with wakes := tset [] s.pwr.wakes (n / 64) (queueWake { core := n, since := now s } l) } }
  else s
/-- WAKE_REQUEST (R430). -/
def execWakeRequest (q c : Nat) (s : State) : Out := evt (wfCore q c && (s.quarter q).st == 0) s (requestWake (64 * q + c) s)
/-- Wake peak of a state in mA (Table 15-5). -/
def wakePeak (f : Nat) : Nat := if f = 3 then 3000 else 2000
/-- A wake begins: a core from F3 requests its rounding key as it reloads (R195). -/
def beginWake (n : Nat) (s : State) : State :=
  let c := s.core n
  let s1 := bump 0x00B4_0120 1 (s.setCore n { c with waking := some (now s) })
  if c.fallow = 3 then askRound n s1 else s1
/-- The wake that is granted next: of those that came with the oldest, the first at or after the arbiter's pointer (R30). -/
def nextWake (s : State) (q : Nat) : Option Wake :=
  let l := tget [] s.pwr.wakes q
  match l with
  | [] => none
  | w :: _ =>
    let ptr := tget 0 s.pwr.wakePtr q
    firstBy (fun a b => decide (behindPtr 64 ptr (a.core % 64) < behindPtr 64 ptr (b.core % 64))) (l.filter (fun x => x.since == w.since))
/-- Take a wake from its queue and grant it; one that waited is counted. -/
def grantWake (w : Wake) (s : State) : State :=
  let q := w.core / 64
  let s1 := { s with pwr := { s.pwr with wakes := tset [] s.pwr.wakes q ((tget [] s.pwr.wakes q).filter (fun x => x.core != w.core)) } }
  beginWake w.core (if w.since = now s then s1 else bump 0x00B4_0128 1 s1)
/-- WAKE_GRANT (R430): ma is the highest 1 µs average of the current of the next wake's segment over the last 4 µs. -/
def execWakeGrant (q ma : Nat) (s : State) : Out :=
  match nextWake s q with
  | none => .next s
  | some w =>
    evt (decide (q < 4) && decide (ma + wakePeak (s.core w.core).fallow + 1000 ≤ 36000)) s
      (let s1 := grantWake w s
       { s1 with pwr := { s1.pwr with wakePtr := tset 0 s1.pwr.wakePtr q (pastGrant 64 (w.core % 64)) } })
/-- Waiting budget of a wake in ns (R431). -/
def waitBudget (s : State) (n : Nat) : Nat :=
  match wakeBudget s (n / 64) with | none => 100 * us | some w => (w - wakeTime (s.core n).fallow) * us
/-- WAKE_FORCED (R431): the wake has waited its budget; `cap` is the segment cap at which the cluster's other cores draw what the wake allows. It
holds for the 2 µs wake window (log 26). -/
def execWakeForced (q c cap : Nat) (s : State) : Out :=
  let n := 64 * q + c
  match (tget [] s.pwr.wakes q).find? (fun w => w.core == n) with
  | none => .next s
  | some w =>
    let a := now s + (if (s.core n).fallow = 3 then 38000 else 0)
    let s1 := { s with pwr := { s.pwr with segCap := tput s.pwr.segCap (n / 4) (cap, a, a + 2000) } }
    evt (wfCore q c && decide (1 ≤ cap) && decide (cap ≤ 64) && aged s w.since (waitBudget s n)) s (bump 0x00B4_0130 1 (grantWake w s1))
/-- GROUP_SET commands that wait for wakes end once no core of their quarters sits deeper than W(q) allows (R357). -/
def wakesDone (s : State) : State :=
  let deep (q : Nat) : Bool := (List.range 64).any (fun c =>
    let n := 64 * q + c
    decide (deepest s q < (s.core n).fallow) && (mayWake s n || (s.core n).waking.isSome))
  (s.pel.cmds.filter (fun x => decide (x.st = .wait) && x.desc.headD 0 == 0x03)).foldl (fun (a : State) x =>
    if (setBits 4 (fld x.desc 0x0B 1)).any deep then a else endCmd x.queue x.seq 0 0 a) s
/-- A core reaches VSET: from F2 it handshakes; from F3 it has run its reset steps, whose self-test gives the row map or a fence. -/
def wakeDone (n : Nat) (rows : List Nat) (other : Bool) (s : State) : State :=
  let c := s.core n
  if c.fallow = 2 then setPoint n (s.setCore n { c with fallow := 1, waking := none })
  else setPoint n (testResult n rows other (clearTilth n (s.setCore n { c with fallow := 1, waking := none, inService := false })))
/-- WAKE_COMPLETE (R429, Table 15-6): 3 µs from F2, 70 µs from F3. -/
def execWakeComplete (q c : Nat) (rows : List Nat) (other : Bool) (s : State) : Out :=
  let n := 64 * q + c
  evt (wfCore q c && coreFitted s n && heldFor s (s.core n).waking (wakeTime (s.core n).fallow * us)) s (wakesDone (syncRoles [n] (wakeDone n rows other s)))

/-! ## Tine failure (R432 to R434) -/

/-- Domain of a tine. -/
def tineDomain (t : Nat) : Nat := if t < 512 then t / 8 else if t < 560 then 64 else if t < 608 then 65 else 66
/-- Failed tines that a domain tolerates. -/
def tolerated (d : Nat) : Nat := if d < 64 then 1 else if d < 66 then 4 else 2
/-- A core domain goes dark: its core is fenced in F3 and its wake stops. -/
def domainDark (q d : Nat) (s : State) : State :=
  let n := 64 * q + d
  let s1 := { s with pwr := { s.pwr with wakes := tset [] s.pwr.wakes q ((tget [] s.pwr.wakes q).filter (fun w => w.core != n)) } }
  setPoint n (fenceCore n (alarmW 0x0106 (srcCore n) [] (s1.setDomain q d { s1.domain q d with dark := true })))
/-- TINE_FAIL (R433, R434). -/
def execTineFail (q t : Nat) (s : State) : Out :=
  let d := tineDomain t
  let x := s.domain q d
  let y := { x with failed := ladd x.failed t }
  let s1 := bump 0x00B4_0138 1 (alarmW 0x0105 (srcTine q t) [d, y.failed.length] (s.setDomain q d y))
  evt (decide (q < 4) && decide (t < 640) && !s.boot.lost && !x.failed.contains t && !x.dark) s
    (if y.failed.length ≤ tolerated d then s1 else if d < 64 then domainDark q d s1 else quarterFault q true s1)

end Sys2Proof.Machine
end

