-- ==== Sys2Proof/Machine/Admin.lean ====
section
/-! DEFINITION. Admin commands: the order in which they start, the checks that every command meets, memory that Pelseso reads and writes for a
command, and the commands on mailboxes, groups, queues, mappings and contexts (12 R337 to R361; 13 R365; 18 R494). Readings in log 27. -/
namespace Sys2Proof.Machine

/-! ## Fuse and reset registers that reports carry (00 R6; 17 RST_CAUSE; 18 R478) -/

/-- FUS_PART. -/
def fusPart (s : State) : Nat :=
  if !s.fuse.loaded then 0 else match s.fuse.part with | .a4 => 0x0F10_FF01 | .b4 => 0x0E08_7702 | .g4 => 0x0F30_FF03
/-- Bits of ROOT_PRESENT. -/
def rootMask (s : State) : Nat := (s.fuse.roots.filter (fun e => decide (e.1 < 4))).foldl (fun a e => a + 2 ^ e.1) 0
/-- FUS_SEC. -/
def fusSec (s : State) : Nat :=
  if !s.fuse.loaded then 0
  else s.fuse.lifecycle % 4 + 2 ^ 4 * b2n s.fuse.debugOff + 2 ^ 5 * b2n s.fuse.hdgDeny + 2 ^ 6 * b2n s.fuse.partition + 2 ^ 8 * rootMask s +
    2 ^ 12 * s.fuse.revoked.toNat + 2 ^ 16 * (s.fuse.svnFloor % 128)
/-- FUS_EPOCH. -/
def fusEpoch (s : State) : Nat := if !s.fuse.loaded then 0 else s.fuse.epochUsed % 2 ^ 15 + 2 ^ 16 * (s.fuse.epochSpoiled % 2 ^ 15)
/-- RST_CAUSE. -/
def rstCause (s : State) : Nat := s.boot.kind % 8 + 2 ^ 8 * b2n s.boot.recovered + 2 ^ 16 * (s.boot.count % 2 ^ 16)

/-! ## Checks that every command meets (R347 to R349, R364) -/

/-- OPCODE. -/
def opOf (x : Cmd) : Nat := fld x.desc 0 1
/-- Version of a command, major in the high byte: the one its mailbox had negotiated, or 1.0 when it had negotiated none (R348, log 27). -/
def verOf (x : Cmd) : Nat := max 0x100 (256 * x.verMajor + x.verMinor)
/-- First version of an opcode (Table 12-8). -/
def firstVer (op : Nat) : Option Nat :=
  if op = 0x0A ∨ (0x16 ≤ op ∧ op ≤ 0x19) then some 0x101
  else if 0x1A ≤ op ∧ op ≤ 0x1D then some 0x200
  else if (1 ≤ op ∧ op ≤ 0x0B) ∨ (0x10 ≤ op ∧ op ≤ 0x15) ∨ (0x40 ≤ op ∧ op ≤ 0x42) then some 0x100
  else none
/-- Default timeout in ms (Table 12-8). -/
def defaultMs (op : Nat) : Nat :=
  if op = 0x05 ∨ op = 0x09 ∨ op = 0x40 then 10000
  else if op = 0x14 then 60000
  else if op = 0x06 ∨ op = 0x07 ∨ op = 0x11 ∨ op = 0x19 ∨ op = 0x1B ∨ op = 0x1D ∨ op = 0x41 then 1000
  else 100
/-- Timeout of a command in ns. -/
def timeoutNs (x : Cmd) : Nat := (if fld x.desc 2 2 = 0 then defaultMs (opOf x) else fld x.desc 2 2) * ms
/-- FENCE. -/
def fenced (x : Cmd) : Bool := bit (fld x.desc 1 1) 0
/-- A command may start: with FENCE, every earlier command of its queue has completed. -/
def fenceClear (s : State) (x : Cmd) : Bool := !fenced x || !(s.pel.cmds.any (fun y => y.queue == x.queue && decide (y.order < x.order)))
/-- Status and DETAIL with which the checks of every command end it, if they do; HELLO has the same layout in every version. -/
def commonCheck (s : State) (x : Cmd) : Option (Nat × Nat) :=
  let op := opOf x
  let known := match firstVer op with | some v => op == 1 || decide (v ≤ verOf x) | none => false
  if x.bad = (true, true) then some (0x02, 3)
  else if x.queue < 32 ∧ (s.mb x.queue).st = 0 ∧ op ≠ 1 then some (0x1D, 0)
  else if !known then some (0x10, 0)
  else if decide (0x40 ≤ op) != decide (32 ≤ x.queue) then some (0x12, 0)
  else if 2 ≤ fld x.desc 1 1 then some (0x11, 0)
  else none
/-- The bytes of a descriptor after its header that no field covers are zero. -/
def onlyAt (d : List Byte) (l : List (Nat × Nat)) : Bool :=
  (List.range 56).all (fun i => l.any (fun e => decide (e.1 ≤ i + 8) && decide (i + 8 < e.1 + e.2)) || d.getD (i + 8) 0 == 0)

/-! ## The start of admin commands (R350, R199) -/

/-- A GROUP_SET waits for the cores that it wakes: it is none of the commands that go on in the background (R350). -/
def groupWaits (s : State) : Bool := s.pel.cmds.any (fun x => decide (x.queue < 32) && decide (x.st = .wait) && opOf x == 0x03)
/-- The admin command that starts next: they start one at a time, in the order of acceptance. -/
def adminNext (s : State) : Option Cmd :=
  if groupWaits s then none else s.pel.cmds.find? (fun x => decide (x.queue < 32) && decide (x.st = .accepted))
/-- End a command. -/
def done (x : Cmd) (status : Nat) (s : State) : State := endCmd x.queue x.seq status 0 s
/-- An entry of the accepted-command store, copy 0 or 1, was read and found uncorrectable (R325, R364; its place is log 28). -/
def copyFails (x : Cmd) (copy : Nat) (s : State) : State :=
  let off := 0x80_0000 * copy + 64 * (x.order % 131072)
  reportUe 0x0084_0128 7 6 0 (hubBase + off) off s
/-- The start of a command reads its descriptor: the other copy is used where one is uncorrectable, and the failed one is rewritten (R364). -/
def readCopies (x : Cmd) (s : State) : State :=
  match x.bad with
  | (false, false) => s
  | (true, false) => modCmd x.queue x.seq (fun y => { y with bad := (false, false) }) (copyFails x 0 s)
  | (false, true) => modCmd x.queue x.seq (fun y => { y with bad := (false, false) }) (copyFails x 1 s)
  | (true, true) => copyFails x 1 (copyFails x 0 s)
/-- A command starts, whatever its common checks find: its descriptor is read, and its timeout runs. -/
def started (x : Cmd) (s : State) : State :=
  modCmd x.queue x.seq (fun y => { y with first := some (y.first.getD (now s)), start := some (y.start.getD (now s)) }) (readCopies x s)
/-- A command that goes on in the background. -/
def waits (x : Cmd) (s : State) : State := modCmd x.queue x.seq (fun y => { y with st := .wait }) s
/-- A command whose memory request was returned retry-later issues it again after 5 µs (R464). -/
def retryDue (s : State) (x : Cmd) : Bool := match x.retry with | some t => aged s t (5 * us) | none => true
/-- A row of the opcode table starts the next admin command when it is that row's; a command that fails the common checks ends. -/
def adminRow (qu op : Nat) (mine : Cmd → Bool) (body : Cmd → State → State) (s : State) : Out :=
  match adminNext s with
  | none => .next s
  | some x =>
    evt (decide (x.queue = qu) && inService s && fenceClear s x && retryDue s x) s
      (match commonCheck s x with
       | some (st, dt) => endCmd x.queue x.seq st dt (started x s)
       | none => if opOf x = op ∧ mine x then body x (started x s) else s)
/-- Every command of an opcode. -/
def anyCmd (_ : Cmd) : Bool := true
/-- A body whose checks end the command at the first that fails: BAD_FIELD for its fields, then others with their status. -/
def checks (x : Cmd) (l : List (Bool × Nat)) (f : State → State) (s : State) : State :=
  match l.find? (fun e => !e.1) with | some e => done x e.2 s | none => f s

/-! ## Memory of a command (R351, R494) -/

/-- What a read of memory for a command brings. -/
inductive Fetched where
  | got (bytes : List Byte)
  /-- it cannot complete now -/
  | stalled
  /-- `k` requests were returned retry-later -/
  | held (k : Nat)
  | failed (status detail : Nat)
  deriving DecidableEq, Repr
/-- Physical pieces of a virtual range by pages of 64 KiB, or none where it does not translate. -/
def vPieces (s : State) (g : Nat) (k : Acc2) : Nat → Nat → Nat → Option (List (Nat × Nat))
  | 0, _, _ => some []
  | f + 1, va, n =>
    if n = 0 then some []
    else
      let m := min n (65536 - va % 65536)
      match translate s g va k, vPieces s g k f (va + m) (n - m) with
      | .ok (pa, _), some l => some ((pa, m) :: l)
      | _, _ => none
/-- Pieces of a virtual range. -/
def virt (s : State) (g : Nat) (k : Acc2) (va n : Nat) : Option (List (Nat × Nat)) := vPieces s g k (n / 65536 + 2) va n
/-- Sectors of pieces. -/
def cuts (l : List (Nat × Nat)) : List (Nat × Nat) := (l.map (fun e => sectorCuts (e.2 / 64 + 2) e.1 e.2)).flatten
/-- Sectors whose quarter returns them retry-later: it is in headland or reset (R464). -/
def heldCuts (s : State) (l : List (Nat × Nat)) : List (Nat × Nat) := (cuts l).filter (fun e => retryAddr s e.1)
/-- `k` requests of a command were returned retry-later: it goes on 5 µs later, and this time does not count toward the 1 ms of a read. -/
def holdCmd (x : Cmd) (k : Nat) (s : State) : State :=
  bump 0x00D0_0218 k (modCmd x.queue x.seq (fun y => { y with retry := some (now s), readAt := none }) s)
/-- One of the sectors is homed in a fenced quarter. -/
def lost (s : State) (l : List (Nat × Nat)) : Bool := (cuts l).any (fun e => fencedAddr s e.1)
/-- A run's own shadow serves a sector. -/
def shadowed (s : State) (stage : Option Nat) (pa : Nat) : Bool :=
  match stage with | some st => (shadowSector s st pa).isSome || (hubShadow s st pa).isSome | none => false
/-- Bytes of one cut sector, a mismatch reading zero. -/
def cutBytes (s : State) (stage : Option Nat) (slot : Nat) (e : Nat × Nat) : List Byte :=
  if mismatch s stage slot e.1 then List.replicate e.2 0 else ((sectorView s stage e.1).1.drop (e.1 % 64)).take e.2
/-- A cut sector delivers poison. -/
def cutPoison (s : State) (stage : Option Nat) (slot : Nat) (e : Nat × Nat) : Bool := !mismatch s stage slot e.1 && sectorPoison s stage e.1 e.2
/-- Count and log the mismatches among sectors. -/
def noteMismatch (stage : Option Nat) (slot : Nat) (l : List (Nat × Nat)) (s : State) : State :=
  (l.filter (fun e => mismatch s stage slot e.1)).foldl (fun a e => logMismatch slot e.1 a) s
/-- The accesses of a command to cut sectors, in one step (R240, log 21): EXTERNAL, by HUB_ENG. -/
def noteCuts (stage : Option Nat) (l : List (Nat × Nat)) (s : State) : State := l.foldl (fun a e => noteView stage 3 3 e.1 a) s
/-- Read pieces for a command under a slot. -/
def cmdRead (stage : Option Nat) (slot : Nat) (l : List (Nat × Nat)) (s : State) : Fetched × State :=
  let c := cuts l
  let h := (heldCuts s l).filter (fun e => match stage with | some st => (hubShadow s st e.1).isNone | none => true)
  if lost s l then (.failed 0x02 1, s)
  else if !h.isEmpty then (.held h.length, s)
  else if c.any (fun e => burstStalls s e.1 && !shadowed s stage e.1) then (.stalled, s)
  else
    let s1 := noteCuts stage c (noteMismatch stage slot c s)
    if c.any (cutPoison s stage slot) then (.failed 0x21 0, s1) else (.got ((c.map (cutBytes s stage slot)).flatten), s1)
/-- Go on with what a read brings: a read that stalls is tried again. -/
def onRead (x : Cmd) (r : Fetched × State) (f : List Byte → State → State) : State :=
  match r.1 with
  | .got b => f b (modCmd x.queue x.seq (fun y => { y with readAt := none, retry := none }) r.2)
  | .stalled => modCmd x.queue x.seq (fun y => { y with readAt := some (y.readAt.getD (now r.2)) }) r.2
  | .held k => holdCmd x k r.2
  | .failed st dt => endCmd x.queue x.seq st dt r.2
/-- A whole sector written under another slot: the line's dirty sectors are written back, and it is installed under the writer's slot. -/
def reslot (slot pa : Nat) (b : List Byte) (psn : Bool) (s : State) : State :=
  match findLine (s.half (homeHalf s pa)) (pa / 256) with
  | some l =>
    let s1 := writeBack l 3 s
    let sec := pa / 64 % 4
    let l1 := { setSector { l with bytes := [], psn := [], slot := slot } sec b (if psn then [0, 1] else []) with
                  present := setBit4 0 sec, dirty := setBit4 0 sec }
    let hf := s1.half (homeHalf s pa)
    s1.setHalf (homeHalf s pa) { putLine hf l1 with merge := hf.merge.filter (fun x => x.sector / 4 != l.num) }
  | none => burstWrite s pa 3 slot b psn
/-- Write part of one sector under a slot. -/
def slotPut (stage : Option Nat) (slot pa : Nat) (b : List Byte) (psn : Bool) (s : State) : State :=
  if !mismatch s stage slot pa then sectorWrite s stage 3 slot pa b psn
  else
    let s1 := logMismatch slot pa s
    if place s pa = .lpddr ∧ pa % 64 = 0 ∧ b.length = 64 then
      (if stage.isSome then sectorWrite s1 stage 3 slot pa b psn else reslot slot pa b psn s1)
    else s1
/-- Write bytes over cut sectors under a slot. -/
def putCuts (stage : Option Nat) (slot : Nat) : List (Nat × Nat) → List Byte → State → State
  | [], _, s => s
  | e :: t, b, s => putCuts stage slot t (b.drop e.2) (slotPut stage slot e.1 (b.take e.2) false s)
/-- Write bytes over pieces. -/
def cmdWrite (stage : Option Nat) (slot : Nat) (l : List (Nat × Nat)) (b : List Byte) (s : State) : State :=
  putCuts stage slot (cuts l) b (noteCuts stage (cuts l) s)
/-- Write for a command that then ends with its change of state `t`, unless the place is homed in a fenced quarter, or its quarter returns the
write retry-later. -/
def writeDone (x : Cmd) (slot : Nat) (l : List (Nat × Nat)) (b : List Byte) (s t : State) : State :=
  if lost s l then endCmd x.queue x.seq 0x02 1 s
  else if !(heldCuts s l).isEmpty then holdCmd x (heldCuts s l).length s
  else done x 0 (cmdWrite none slot l b t)
/-- Bytes wholly in the LPDDR range outside region 79. -/
def lpArea (s : State) (a n : Nat) : Bool := decide (a + n ≤ 79 * regionSize s)
/-- Bytes wholly in the upper 32 MiB of hub SRAM. -/
def hubArea (a n : Nat) : Bool := decide (hubBase + 0x200_0000 ≤ a) && decide (a + n ≤ hubBase + 0x400_0000)
/-- Bytes that a physical address of a command may name. -/
def cmdArea (s : State) (a n : Nat) : Bool := lpArea s a n || hubArea a n

/-! ## Mailboxes (R347, R348) -/

/-- Highest common version of VERSIONS. -/
def pickVersion (v : Nat) : Option (Nat × Nat) := if bit v 2 then some (2, 0) else if bit v 1 then some (1, 1) else if bit v 0 then some (1, 0) else none
/-- Cores in service. -/
def coresInService (s : State) : Nat := ((coreList s).filter (fun n => (s.core n).inService)).length
/-- The HELLO information block (Table 12-5). -/
def helloInfo (x : Cmd) (v : Nat × Nat) (s : State) : List Byte :=
  natLE 1 v.1 ++ natLE 1 v.2 ++ natLE 1 x.queue ++ natLE 1 0 ++ natLE 4 (fusPart s) ++ bvLE 4 s.pel.fwVersion ++ natLE 4 (coresInService s) ++
  bvLE 8 (now s) ++ List.replicate 40 0
/-- HELLO attaches the mailbox. -/
def helloBody (x : Cmd) (s : State) : State :=
  let d := x.desc
  let a := fld d 0x10 8
  checks x [(onlyAt d [(8, 1), (0xC, 4), (0x10, 8)] && decide (fld d 8 1 < 8) && a % 64 == 0 && cmdArea s a 64, 0x11), ((s.mb x.queue).st == 0, 0x18)]
    (fun s => match pickVersion (fld d 8 1) with
      | none => done x 0x1E s
      | some v =>
        let m := s.mb x.queue
        writeDone x 0 [(a, 64)] (helloInfo x v s) s
          (s.setMb x.queue { m with verMajor := v.1, verMinor := v.2, client := BitVec.ofNat 32 (fld d 0xC 4), st := 1 })) s
/-- HELLO (R347). -/
def execHello (qu : Nat) (s : State) : Out := adminRow qu 0x01 anyCmd helloBody s
/-- GOODBYE (R348): the mailbox detaches once the record is posted. -/
def execGoodbye (qu : Nat) (s : State) : Out :=
  adminRow qu 0x02 anyCmd (fun x s => checks x [(onlyAt x.desc [], 0x11)]
    (fun s => done x 0 (s.setMb x.queue { s.mb x.queue with st := 2 })) s) s

/-! ## Groups (R353, R357, R490, R495) -/

/-- A group that exists. -/
def groupUp (s : State) (g : Nat) : Bool := (tfind s.pel.groups g).isSome
/-- A work queue, context or mapping of a group exists. -/
def groupHolds (s : State) (g : Nat) : Bool :=
  s.pel.queues.any (fun k => decide (32 ≤ k.1) && k.2.group == g) || s.pel.ctxs.any (fun c => c.2.group == g) || s.pel.maps.any (fun m => m.group == g)
/-- A live drill connection of a group. -/
def groupDrill (s : State) (g : Nat) : Bool := s.fab.conns.any (fun e => e.2.group == some g && e.2.pending.isNone)
/-- A tenant slot that holds a key. -/
def slotLoaded (s : State) (k : Nat) : Bool := decide (1 ≤ k) && decide (k < 64) && (tfind s.sec.slots k).isSome
/-- Wake the cores that sit deeper than W(q) allows. -/
def wakeDeep (s : State) : State :=
  (coreList s).foldl (fun a n => if deepest a (n / 64) < (a.core n).fallow then requestWake n a else a) s
/-- Whether W of some quarter is lower after a change. -/
def budgetFell (old new : State) : Bool :=
  (List.range 4).any (fun q => match wakeBudget old q, wakeBudget new q with | none, some _ => true | some a, some b => decide (b < a) | _, none => false)
/-- GROUP_SET creates or changes a group; it completes once the cores that a lower W(q) wakes are up. -/
def groupSetBody (x : Cmd) (s : State) : State :=
  let d := x.desc
  let g := fld d 8 1
  let ks := fld d 0xA 1
  let slot := if ks = 0xFF then 0 else ks
  let n : GroupS := { keySlot := slot, qmask := fld d 0xB 1, wakeUs := fld d 0xC 4 }
  checks x [(onlyAt d [(8, 8)] && fld d 9 1 == 1 && (ks == 0xFF || slotLoaded s ks) && decide (1 ≤ n.qmask) && decide (n.qmask < 16) &&
             decide (n.wakeUs ≤ 1000000) && (decide (0x101 ≤ verOf x) || n.wakeUs == 0), 0x11),
            (!(groupUp s g && groupSlot s g != slot && (groupHolds s g || groupDrill s g)), 0x18)]
    (fun s =>
      let t := { s with pel := { s.pel with groups := tput s.pel.groups g n } }
      if budgetFell s t then wakesDone (waits x (wakeDeep t)) else done x 0 t) s
/-- GROUP_SET with VALID = 1 (R353). -/
def execGroupSet (qu : Nat) (s : State) : Out := adminRow qu 0x03 (fun x => bit (fld x.desc 9 1) 0) groupSetBody s
/-- GROUP_SET with VALID = 0 (R353): the values of its other fields are not checked (log 27). -/
def execGroupSetDelete (qu : Nat) (s : State) : Out :=
  adminRow qu 0x03 (fun x => !bit (fld x.desc 9 1) 0) (fun x s =>
    let g := fld x.desc 8 1
    let plain := onlyAt x.desc [(8, 8)] && fld x.desc 9 1 == 0 && decide (fld x.desc 0xB 1 < 16) && (decide (0x101 ≤ verOf x) || fld x.desc 0xC 4 == 0)
    checks x [(plain, 0x11), (groupUp s g, 0x15), (!groupHolds s g, 0x18)]
      (fun s => done x 0 { s with pel := { s.pel with groups := tdel s.pel.groups g } }) s) s

/-! ## Queues (R354, R355) -/

/-- QUEUE_CREATE creates a work queue and writes its control block. -/
def queueCreateBody (x : Cmd) (s : State) : State :=
  let d := x.desc
  let w := fld d 8 4
  let v := fld d 0xC 4
  let g := bits v 7 0
  let dl := bits v 12 8
  let a := fld d 0x18 8
  let fs := fld d 0x20 8
  let n := 64 + 32 * 2 ^ dl
  let k : Queue := { group := g, depthLog2 := dl, mbMask := BitVec.ofNat 32 (fld d 0x10 4), cqAddr := a, nextSeq := BitVec.ofNat 64 fs
                     posted := BitVec.ofNat 64 fs, consumed := BitVec.ofNat 64 fs, st := 0, delCmd := none, ptr := 0 }
  checks x [(onlyAt d [(8, 12), (0x18, 16)] && decide (0x20 ≤ w) && decide (w < 2 ^ 20) && decide (v < 2 ^ 13) && decide (6 ≤ dl) && decide (dl ≤ 16) &&
             decide (fld d 0x10 4 ≠ 0) && a % 64 == 0 && cmdArea s a n && (decide (0x200 ≤ verOf x) || fs == 0) &&
             !(groupSlot s g != 0 && hubArea a n), 0x11),
            (groupUp s g, 0x15), ((s.queue? w).isNone, 0x16)]
    (fun s => writeDone x (groupSlot s g) [(a, 64)] (natLE 8 fs ++ natLE 8 fs ++ List.replicate 48 0) s (s.setQueue w k)) s
/-- QUEUE_CREATE (R354). -/
def execQueueCreate (qu : Nat) (s : State) : Out := adminRow qu 0x04 anyCmd queueCreateBody s
/-- The checks of QUEUE_STATE, and its action. -/
def queueStateBody (f : Nat → Queue → Cmd → State → State) (x : Cmd) (s : State) : State :=
  let d := x.desc
  let w := fld d 8 4
  let ok := onlyAt d [(8, 5)] && decide (0x20 ≤ w) && decide (w < 2 ^ 20) && decide (fld d 0xC 1 ≤ 2)
  match s.queue? w with
  | some k => checks x [(ok, 0x11)] (f w k x) s
  | none => checks x [(ok, 0x11), (false, 0x14)] id s
/-- ACTION. -/
def actionOf (x : Cmd) : Nat := fld x.desc 0xC 1
/-- QUEUE_STATE with ACTION 0 (R355): a queue being deleted is BUSY; a queue that R382 paused stays so. An ACTION above 2 ends here. -/
def execQueueResume (qu : Nat) (s : State) : Out :=
  adminRow qu 0x05 (fun x => actionOf x != 1 && actionOf x != 2) (queueStateBody (fun w k x s =>
    if k.st = 2 then done x 0x18 s else done x 0 (s.setQueue w { k with st := if k.st = 1 then 0 else k.st }))) s
/-- QUEUE_STATE with ACTION 1 (R355). -/
def execQueuePause (qu : Nat) (s : State) : Out :=
  adminRow qu 0x05 (fun x => actionOf x == 1) (queueStateBody (fun w k x s =>
    done x 0 (s.setQueue w { k with st := if k.st = 0 then 1 else k.st, ptr := pastGrant 33 32 }))) s
/-- Waiting deletes of a queue. -/
def deletesOf (s : State) (w : Nat) : List Cmd :=
  s.pel.cmds.filter (fun y => decide (y.st = .wait) && opOf y == 0x05 && fld y.desc 8 4 == w)
/-- A queue being deleted whose commands have all been posted goes, and its deletes complete. -/
def queueGone (w : Nat) (s : State) : State :=
  match s.queue? w with
  | some k =>
    if k.st = 2 ∧ (queueCmds s w).isEmpty then
      (deletesOf s w).foldl (fun a y => done y 0 a)
        { s with pel := { s.pel with queues := tdel s.pel.queues w, cache := s.pel.cache.filter (fun y => y != w) } }
    else s
  | none => s
/-- QUEUE_STATE with ACTION 2 (R355). -/
def execQueueDelete (qu : Nat) (s : State) : Out :=
  adminRow qu 0x05 (fun x => actionOf x == 2) (queueStateBody (fun w k x s =>
    queueGone w (waits x (s.setQueue w { k with st := 2, delCmd := some (x.queue, x.seq), ptr := pastGrant 33 32 })))) s

/-! ## Mappings (R356, R494, R495) -/

/-- A range lies wholly in existing plots. -/
def plotsCover (s : State) : Nat → Nat → Nat → Bool
  | 0, _, _ => false
  | f + 1, pa, n =>
    match place s pa with
    | .plot h off =>
      match (s.half h).plots.find? (fun p => decide (p.2.1 ≤ off) && decide (off < p.2.1 + p.2.2.1)) with
      | some p => let k := p.2.1 + p.2.2.1 - off
                  if n ≤ k then true else plotsCover s f (pa + k) (n - k)
      | none => false
    | _ => false
/-- Physical base of a plot of a half. -/
def plotAddr (h off : Nat) : Nat := 0x0100_0000_0000 + 0x8000_0000 * h + off
/-- A plot that a physical range touches. -/
def touchesPlot (h pa n : Nat) (p : Nat × Nat × Nat × Option Nat) : Bool := overlaps (plotAddr h p.2.1) p.2.2.1 pa n
/-- Some plot in a range carries another slot. -/
def plotSlotDiffers (s : State) (pa n slot : Nat) : Bool :=
  (List.range 8).any (fun h => (s.half h).plots.any (fun p => touchesPlot h pa n p && (match p.2.2.2 with | some k => k != slot | none => false)))
/-- The first group that maps a plot gives it its slot. -/
def claimPlots (pa n slot : Nat) (s : State) : State :=
  (List.range 8).foldl (fun (a : State) h =>
    let hf := a.half h
    a.setHalf h { hf with plots := hf.plots.map (fun p => if touchesPlot h pa n p then (p.1, p.2.1, p.2.2.1, some (p.2.2.2.getD slot)) else p) }) s
/-- Bytes of a page. -/
def pageBytes (p : Nat) : Nat := if p = 0 then 0x1_0000 else 0x20_0000
/-- Page entries of all mappings. -/
def pageEntries (s : State) : Nat := s.pel.maps.foldl (fun a m => a + m.size / pageBytes m.page) 0
/-- MAP enters a mapping. -/
def mapBody (x : Cmd) (s : State) : State :=
  let d := x.desc
  let g := fld d 8 1
  let w := fld d 9 1
  let pg := bits w 0 0
  let va := fld d 0x10 8
  let pa := fld d 0x18 8
  let n := fld d 0x20 8
  let z := pageBytes pg
  let m : Mapping := { group := g, va := va, pa := pa, size := n, page := pg, read := bit w 1, write := bit w 2, exec := bit w 3, cls := bits w 5 4 }
  let slot := groupSlot s g
  checks x [(onlyAt d [(8, 2), (0x10, 24)] && decide (w < 64) && decide (bits w 3 1 ≠ 0) && decide (bits w 5 4 ≤ 2) && va % z == 0 && pa % z == 0 &&
             n % z == 0 && decide (0 < n) && decide (n ≤ 2 ^ 40) && decide (va + n ≤ 2 ^ 47) && (cmdArea s pa n || plotsCover s 1024 pa n) &&
             !(slot != 0 && hubArea pa n), 0x11),
            (groupUp s g, 0x15), (!(plotSlotDiffers s pa n slot), 0x16),
            (!(s.pel.maps.any (fun y => y.group == g && overlaps y.va y.size va n)), 0x16), (decide (pageEntries s + n / z ≤ 4194304), 0x17)]
    (fun s => done x 0 (claimPlots pa n slot { s with pel := { s.pel with maps := s.pel.maps ++ [m] } })) s
/-- MAP (R356). -/
def execMap (qu : Nat) (s : State) : Out := adminRow qu 0x06 anyCmd mapBody s
/-- What remains of a mapping when a range is removed: pages that it touches go whole (log 27). -/
def cutMapping (g va n : Nat) (m : Mapping) : List Mapping :=
  let z := pageBytes m.page
  if m.group ≠ g ∨ !overlaps m.va m.size va n then [m]
  else
    let lo := va / z * z
    let hi := cdiv (va + n) z * z
    (if m.va < lo then [{ m with size := lo - m.va }] else []) ++
    (if hi < m.va + m.size then [{ m with va := hi, pa := m.pa + (hi - m.va), size := m.va + m.size - hi }] else [])
/-- UNMAP (R356). -/
def execUnmap (qu : Nat) (s : State) : Out :=
  adminRow qu 0x07 anyCmd (fun x s =>
    let d := x.desc
    let g := fld d 8 1
    let va := fld d 0x10 8
    let n := fld d 0x20 8
    checks x [(onlyAt d [(8, 1), (0x10, 8), (0x20, 8)] && va % 0x1_0000 == 0 && n % 0x1_0000 == 0 && decide (0 < n) && decide (n ≤ 2 ^ 40), 0x11),
              (groupUp s g, 0x15)]
      (fun s => done x 0 { s with pel := { s.pel with maps := (s.pel.maps.map (cutMapping g va n)).flatten } }) s) s

/-! ## Contexts (R197, R199, R358) -/

/-- Context numbers that a LAUNCH lists in memory. -/
def listedCtxs (s : State) (x : Cmd) : List Nat :=
  let g := match s.queue? x.queue with | some k => k.group | none => 0
  let n := fld x.desc 0x24 2
  if n = 0 ∨ 7680 < n then []
  else match virt s g .read (fld x.desc 0x18 8) (2 * n) with
    | none => []
    | some l => let b := ((cuts l).map (cutBytes s none (groupSlot s g))).flatten
                (List.range n).map (fun i => fld b (2 * i) 2)
/-- Contexts that a command names. -/
def ctxNames (s : State) (x : Cmd) : List Nat :=
  let op := opOf x
  if 0x08 ≤ op ∧ op ≤ 0x0B then [fld x.desc 8 2]
  else if op = 0x40 then
    match s.pel.runs.find? (fun e => e.2.queue == x.queue && e.2.seq == x.seq) with
    | some e => e.2.cols.map (fun c => c.ctx)
    | none => listedCtxs s x
  else []
/-- An earlier accepted command that names a context of this one has not posted its record (R199). -/
def earlierNames (s : State) (x : Cmd) : Bool :=
  let l := ctxNames s x
  !l.isEmpty && s.pel.cmds.any (fun y => decide (y.order < x.order) && (ctxNames s y).any (fun c => l.contains c))
/-- Start only when no earlier command names the context: until then the command stays where it is. -/
def afterNames (x : Cmd) (f : State → State) (s : State) : State := if earlierNames s x then s else f s
/-- Default sampling parameters in the ranges of Table 6-3. -/
def samplingOk (temp topk topp : Nat) : Bool :=
  (temp == 0 || (decide (0x3C80_0000 ≤ temp) && decide (temp ≤ 0x4280_0000))) && decide (topk ≤ 1024) && decide (1 ≤ topp) && decide (topp ≤ 0x3F80_0000)
/-- A stream key: the submitted one, or a draw of the passing entropy source. -/
def streamKey (kind : Nat) (key : Nat) (s : State) : Option W256 × State :=
  if kind = 1 then (some (BitVec.ofNat 256 key), s)
  else if s.sec.entropyOk then let r := drawEntropy s; (some r.1, r.2) else (none, s)
/-- CONTEXT_CREATE creates a context. -/
def contextCreateBody (x : Cmd) (s : State) : State :=
  let d := x.desc
  let c := fld d 8 2
  let g := fld d 0xA 1
  let kk := fld d 0xB 1
  let key := fld d 0x20 32
  checks x [(decide (c ≤ 10239) && decide (kk ≤ 1) && samplingOk (fld d 0xC 4) (fld d 0x18 4) (fld d 0x1C 4) && (kk == 1 || key == 0), 0x11),
            (groupUp s g, 0x15), ((tfind s.pel.ctxs c).isNone, 0x16)]
    (fun s => match streamKey kk key s with
      | (none, t) => done x 0x27 (alarmW 0x0803 0x0002 [] t)
      | (some k, t) =>
        let n : Context := { group := g, key := k, counter := 0, kvRoot := BitVec.ofNat 64 (fld d 0x10 8), kvLen := 0
                             temp := BitVec.ofNat 32 (fld d 0xC 4), topK := BitVec.ofNat 32 (fld d 0x18 4)
                             topP := BitVec.ofNat 32 (fld d 0x1C 4), token := none }
        done x 0 { t with pel := { t.pel with ctxs := tput t.pel.ctxs c n } }) s
/-- CONTEXT_CREATE (R358). -/
def execContextCreate (qu : Nat) (s : State) : Out := adminRow qu 0x08 anyCmd (fun x s => afterNames x (contextCreateBody x) s) s
/-- The waiting destroys that no earlier command holds back complete, in order. -/
def destroysDone (s : State) : State :=
  (s.pel.cmds.filter (fun y => decide (y.st = .wait) && opOf y == 0x09)).foldl (fun (a : State) y =>
    let c := fld y.desc 8 2
    if earlierNames a y then a
    else if (tfind a.pel.ctxs c).isNone then done y 0x15 a
    else done y 0 { a with pel := { a.pel with ctxs := tdel a.pel.ctxs c } }) s
/-- CONTEXT_DESTROY (R358, R350): it waits in the background until every earlier command that names the context has posted its record. -/
def execContextDestroy (qu : Nat) (s : State) : Out :=
  adminRow qu 0x09 anyCmd (fun x s => checks x [(onlyAt x.desc [(8, 2)] && decide (fld x.desc 8 2 ≤ 10239), 0x11),
      ((tfind s.pel.ctxs (fld x.desc 8 2)).isSome, 0x15)] (fun s => destroysDone (waits x s)) s) s
/-- CONTEXT_RESEED (R358, R197). -/
def execContextReseed (qu : Nat) (s : State) : Out :=
  adminRow qu 0x0A anyCmd (fun x s => afterNames x (fun s =>
    let d := x.desc
    let c := fld d 8 2
    let kk := fld d 0xB 1
    let key := fld d 0x20 32
    match tfind s.pel.ctxs c with
    | none => checks x [(onlyAt d [(8, 2), (0xB, 1), (0x20, 32)] && decide (c ≤ 10239) && decide (kk ≤ 1) && (kk == 1 || key == 0), 0x11)] (done x 0x15) s
    | some n =>
      checks x [(onlyAt d [(8, 2), (0xB, 1), (0x20, 32)] && decide (kk ≤ 1) && (kk == 1 || key == 0), 0x11)]
        (fun s => match streamKey kk key s with
          | (none, t) => done x 0x27 (alarmW 0x0803 0x0002 [] t)
          | (some k, t) => done x 0 { t with pel := { t.pel with ctxs := tput t.pel.ctxs c { n with key := k, counter := 0 } } }) s) s) s
/-- The 64 bytes that CONTEXT_QUERY writes. -/
def contextBytes (c : Nat) (n : Context) : List Byte :=
  natLE 2 c ++ natLE 1 n.group ++ natLE 5 0 ++ bvLE 8 n.kvRoot ++ bvLE 4 n.kvLen ++ natLE 4 0 ++ bvLE 8 n.counter ++ bvLE 4 n.temp ++ bvLE 4 n.topK ++
  bvLE 4 n.topP ++ List.replicate 20 0
/-- CONTEXT_QUERY (R358). -/
def execContextQuery (qu : Nat) (s : State) : Out :=
  adminRow qu 0x0B anyCmd (fun x s => afterNames x (fun s =>
    let d := x.desc
    let c := fld d 8 2
    let a := fld d 0x10 8
    checks x [(onlyAt d [(8, 2), (0x10, 8)] && decide (c ≤ 10239) && a % 64 == 0, 0x11), ((tfind s.pel.ctxs c).isSome, 0x15)]
      (fun s => match tfind s.pel.ctxs c with
        | none => s
        | some n => match virt s n.group .write a 64 with
          | none => done x 0x20 s
          | some l => writeDone x (groupSlot s n.group) l (contextBytes c n) s s) s) s) s

end Sys2Proof.Machine
end

