-- ==== Sys2Proof/Machine/Carve.lean ====
section
/-! DEFINITION. The admin commands on homing regions, granary halves, plots, pins, memory QoS, walkers, self-tests and the guest port (01 R21;
02 R70, R72; 07 R218 to R229; 09 R288, R290; 10 R311; 11 R331; 12 R361). Readings in log 27. -/
namespace Sys2Proof.Machine

/-! ## Homing (R21) -/

/-- A mapping, completion ring or plot lies in a physical range (R356). -/
def rangeInUse (s : State) (pa n : Nat) : Bool :=
  s.pel.maps.any (fun m => overlaps m.pa m.size pa n) ||
  s.pel.queues.any (fun k => decide (32 ≤ k.1) && overlaps k.2.cqAddr (64 + 32 * 2 ^ k.2.depthLog2) pa n)
/-- Move the entries of a region to the addresses that the stored bits have after a change of mode; `unit` is the bytes of one index. -/
def moveTab {α : Type} (old new : State) (k unit : Nat) (t : Tab α) : Tab α :=
  t.foldl (fun a e =>
    let pa := e.1 * unit
    let p := lpLoc old pa
    tput a (if pa / regionSize old = k then lpInv new p.1 p.2 / unit else e.1) e.2) []
/-- A region's mode changes: lines of the region are written back and dropped first, and pins that touch it stay, and are asked for again in their new
home halves; the bits stored in the stacks stay where they are (log 27). -/
def setMode (k mode : Nat) (s : State) : State :=
  let rs := regionSize s
  let hit := s.pel.pins.filter (fun e => overlaps e.2.base e.2.size (k * rs) rs)
  let s1 := hit.foldl (fun (a : State) e => e.2.accepted.foldl (fun (b : State) h => unpinRange h e.1 e.2.base e.2.size b) (unask e.1 a)) s
  let drop (a : State) (h : Nat) : State :=
    let inR (l : Line) : Bool := (lineAddr l.num) / rs == k && decide (lineAddr l.num < lpddrSize s) && l.shadow.isNone
    let a1 := ((a.half h).lines.filter inR).foldl (fun b l => writeBack l 3 b) a
    a1.setHalf h { a1.half h with lines := (a1.half h).lines.filter (fun l => !inR l)
                                  merge := (a1.half h).merge.filter (fun m => m.sector * 64 / rs != k) }
  let s2 := (List.range 8).foldl drop s1
  let s3 := { s2 with pel := { s2.pel with local_ := if mode = 1 then ladd s2.pel.local_ k else ldel s2.pel.local_ k } }
  let s4 := { s3 with mem := { s3.mem with lpddr := moveTab s2 s3 k 1 s3.mem.lpddr, lpSide := moveTab s2 s3 k 64 s3.mem.lpSide } }
  hit.foldl (fun (a : State) e =>
    let a1 := { a with pel := { a.pel with pins := tput a.pel.pins e.1 { e.2 with accepted := [] } } }
    (rangeHalves a1 e.2.base e.2.size).foldl (fun (b : State) h =>
      b.setHalf h { b.half h with pinq := (b.half h).pinq ++ [{ kind := if e.2.cmd.isSome then 0 else 4, pin := e.1, base := e.2.base, size := e.2.size }] }) a1) s4
/-- HOMING_SET (R21, R356). -/
def execHomingSet (qu : Nat) (s : State) : Out :=
  adminRow qu 0x10 anyCmd (fun x s =>
    let k := fld x.desc 8 1
    let m := fld x.desc 9 1
    checks x [(onlyAt x.desc [(8, 2)] && decide (k ≤ 78) && decide (m ≤ 1), 0x11), (!rangeInUse s (k * regionSize s) (regionSize s), 0x18)]
      (fun s => done x 0 (if (s.pel.local_.contains k) = decide (m = 1) then s else setMode k m s)) s) s

/-! ## The carve and plots (R218 to R220, R227) -/

/-- The half that a HALF field names: bits 1:0 quarter, bit 2 half. -/
def halfOf (v : Nat) : Nat := 2 * (v % 4) + bits v 2 2
/-- A GRN_THRASH_CFG value within its fields. -/
def thrashOk (v : Nat) : Bool :=
  bits v 31 29 == 0 && decide (10 ≤ bits v 28 24) && decide (bits v 28 24 ≤ 30) && decide (10 ≤ bits v 23 8) && decide (bits v 23 8 ≤ 50000)
/-- LIMIT as the fenced cache ways of a half allow it (R227, R283). -/
def limitFor (s : State) (h p limit : Nat) : Nat :=
  let v := waysFitted s - 2 - ((s.half h).fenced.filter (fun w => decide (p ≤ w))).length
  if p ≤ v then min limit v else p
/-- Pins and reservations of some set, with p plot ways, exceed a LIMIT. -/
def pinsOver (hf : Half) (p limit : Nat) : Bool :=
  ((hf.lines.filter (fun l => l.pinned)).map (fun l => l.set) ++ hf.reserved.map Prod.fst).any (fun x =>
    decide (limit < p + (pinCount hf x - hf.plotWays)))
/-- GRANARY_CARVE sets P, LIMIT and the thrash configuration, and the walk begins. Its check waits for a carve of the half, and for the pin or unpin that
the half's engine serves (R221, log 27). -/
def carveBody (x : Cmd) (s : State) : State :=
  let d := x.desc
  let h := halfOf (fld d 8 1)
  let p := fld d 9 1
  let lim := fld d 0xA 1
  let th := fld d 0xC 4
  let hf := s.half h
  let l2 := limitFor s h p lim
  checks x [(onlyAt d [(8, 3), (0xC, 4)] && decide (fld d 8 1 < 8) && decide (p < 32) && decide (lim ≤ s.limit0) && thrashOk th, 0x11)]
    (fun s =>
      if hf.carve.isSome || pinServing s h then s
      else checks x [(hf.plots.isEmpty, 0x19), (decide (p ≤ lim) && !pinsOver hf p l2, 0x1A)]
        (fun s =>
          let s1 := s.setHalf h { hf with plotWays := p, limit := l2, thrashCfg := BitVec.ofNat 32 th
                                          carve := some { set := 0, oldP := hf.plotWays, qu := x.queue, seq := x.seq } }
          if (s.quarter (h / 2)).st = 4 then endCmd x.queue x.seq 0x02 1 (s1.setHalf h { s1.half h with carve := none }) else waits x s1) s) s
/-- GRANARY_CARVE (R220, R221). -/
def execGranaryCarve (qu : Nat) (s : State) : Out := adminRow qu 0x11 anyCmd carveBody s
/-- PLOT_CREATE (R218, R219). -/
def execPlotCreate (qu : Nat) (s : State) : Out :=
  adminRow qu 0x12 anyCmd (fun x s =>
    let d := x.desc
    let h := halfOf (fld d 8 1)
    let i := fld d 9 1
    let o := fld d 0x10 8
    let n := fld d 0x18 8
    let hf := s.half h
    checks x [(onlyAt d [(8, 2), (0x10, 16)] && decide (fld d 8 1 < 8) && decide (i < 64) && o % 0x20_0000 == 0 && n % 0x20_0000 == 0 && decide (0 < n) &&
               decide (o + n ≤ hf.plotWays * 2 ^ 27), 0x11),
              ((tfind hf.plots i).isNone && !(hf.plots.any (fun p => overlaps p.2.1 p.2.2.1 o n)), 0x16)]
      (fun s =>
        let s1 := { s with mem := { s.mem with plots := stClear 32 s.mem.plots (plotAddr h o) n } }
        done x 0 (s1.setHalf h { s1.half h with plots := tput (s1.half h).plots i (o, n, none) })) s) s
/-- PLOT_DELETE (R219, R356, R361). -/
def execPlotDelete (qu : Nat) (s : State) : Out :=
  adminRow qu 0x13 anyCmd (fun x s =>
    let d := x.desc
    let h := halfOf (fld d 8 1)
    let i := fld d 9 1
    let hf := s.half h
    let p := (tfind hf.plots i).getD (0, 0, none)
    checks x [(onlyAt d [(8, 2)] && decide (fld d 8 1 < 8) && (tfind hf.plots i).isSome, 0x11), (!rangeInUse s (plotAddr h p.1) p.2.1, 0x18)]
      (fun s =>
        let s1 := { s with mem := { s.mem with plots := stClear 32 s.mem.plots (plotAddr h p.1) p.2.1 } }
        done x 0 (s1.setHalf h { s1.half h with plots := tdel (s1.half h).plots i })) s) s

/-! ## Pins (R228, R229) -/

/-- GRANARY_PIN sends its request to the engine of every half that is home to a line of the range. -/
def pinBody (x : Cmd) (s : State) : State :=
  let d := x.desc
  let v := fld d 8 2
  let n := bits v 11 0
  let b := fld d 0x10 8
  let z := fld d 0x18 8
  checks x [(onlyAt d [(8, 2), (0x10, 16)] && decide (v < 2 ^ 15) && b % 0x1_0000 == 0 && z % 0x1_0000 == 0 && decide (0x1_0000 ≤ z) &&
             decide (z ≤ 2 ^ 36), 0x11),
            (decide (b + z ≤ lpddrSize s), 0x1C), ((tfind s.pel.pins n).isNone, 0x16),
            (!(s.pel.pins.any (fun e => overlaps e.2.base e.2.size b z)), 0x1B)]
    (fun s =>
      let hs := rangeHalves s b z
      if hs.any (fun h => (s.quarter (h / 2)).st == 4) then endCmd x.queue x.seq 0x02 1 s
      else
        let p : Pin := { priority := bits v 14 12, base := b, size := z, order := s.pel.pinOrder, accepted := [], cmd := some (x.queue, x.seq) }
        let s1 := { s with pel := { s.pel with pins := tput s.pel.pins n p, pinOrder := s.pel.pinOrder + 1 } }
        waits x (hs.foldl (fun (a : State) h =>
          signal 0 (srcHalf h) 2 (a.setHalf h { a.half h with pinq := (a.half h).pinq ++ [{ kind := 0, pin := n, base := b, size := z }] })) s1)) s
/-- GRANARY_PIN (R228). -/
def execGranaryPin (qu : Nat) (s : State) : Out := adminRow qu 0x14 anyCmd pinBody s
/-- GRANARY_UNPIN (R229): of a pin whose command still waits, it waits for that command (log 27). -/
def execGranaryUnpin (qu : Nat) (s : State) : Out :=
  adminRow qu 0x15 anyCmd (fun x s =>
    let n := fld x.desc 8 2
    checks x [(onlyAt x.desc [(8, 2)] && decide (n < 4096) && (tfind s.pel.pins n).isSome, 0x11)]
      (fun s =>
        if ((tfind s.pel.pins n).bind (fun p => p.cmd)).isSome then s else done x 0 (releasePin n 1 s)) s) s

/-! ## Memory QoS, walkers, self-tests (R311, R331, R70, R72) -/

/-- A field of n bits at index i. -/
def qosField (n v i : Nat) : Nat := bits v (n * i + n - 1) (n * i)
/-- Sum of eight fields. -/
def qosSum (n v : Nat) : Nat := ((List.range 8).map (qosField n v)).foldl (· + ·) 0
/-- MEM_QOS (R311): shares and limits of every stack of a home quarter. -/
def execMemQos (qu : Nat) (s : State) : Out :=
  adminRow qu 0x16 anyCmd (fun x s =>
    let d := x.desc
    let q := fld d 8 1
    let sh := fld d 0x10 8
    let li := fld d 0x18 8
    checks x [(onlyAt d [(8, 1), (0x10, 16)] && decide (q < 4) && decide (sh < 2 ^ 48) && decide (qosSum 6 sh ≤ 48) &&
               (List.range 8).all (fun i => decide (1 ≤ qosField 8 li i)) && decide (8 * qosSum 8 li ≤ 4096), 0x11)]
      (fun s => done x 0 (((stackList s).filter (fun m => stackQuarter m == q)).foldl (fun (a : State) m =>
        a.setStack m { a.stack m with share := BitVec.ofNat 64 sh, limit := BitVec.ofNat 64 li }) s)) s) s
/-- GLEANER_SET (R331). -/
def execGleanerSet (qu : Nat) (s : State) : Out :=
  adminRow qu 0x17 anyCmd (fun x s =>
    let v := fld x.desc 8 4
    checks x [(onlyAt x.desc [(8, 4)] && decide (1 ≤ bits v 31 24) && decide (bits v 31 24 ≤ 168) && decide (1 ≤ bits v 23 10) &&
               decide (bits v 23 10 ≤ 8640) && decide (1 ≤ bits v 9 0) && decide (bits v 9 0 ≤ 1000), 0x11)]
      (fun s => done x 0 { s with pel := { s.pel with glnCfg := BitVec.ofNat 32 v } }) s) s
/-- SELFTEST_SET (R70). -/
def execSelftestSet (qu : Nat) (s : State) : Out :=
  adminRow qu 0x18 anyCmd (fun x s =>
    let v := fld x.desc 8 2
    checks x [(onlyAt x.desc [(8, 2)] && decide (1 ≤ v) && decide (v ≤ 3600), 0x11)]
      (fun s => done x 0 { s with pel := { s.pel with testInterval := v } }) s) s
/-- A core that is fenced, or treated as fenced for want of a rounding key (R72, R196). -/
def coreFencedUp (s : State) (n : Nat) : Bool := coreFitted s n && (s.core n).away
/-- A fenced core that no retest returns: its domain is dark, it was fenced by its third trip, or its quarter is not in service. -/
def heldFenced (s : State) (n : Nat) : Bool :=
  (s.domain (n / 64) (n % 64)).dark || ((s.core n).fenced && (s.core n).therm.tripped) || (s.quarter (n / 64)).st != 0
/-- CORE_RETEST (R72): the core resets and its self-test, whose failing rows and other fault are given, decides. -/
def execCoreRetest (qu : Nat) (rows : List Nat) (other : Bool) (s : State) : Out :=
  adminRow qu 0x19 anyCmd (fun x s =>
    let n := 64 * fld x.desc 8 1 + fld x.desc 9 1
    checks x [(onlyAt x.desc [(8, 2)] && decide (fld x.desc 8 1 < 4) && decide (fld x.desc 9 1 < 64) && coreFencedUp s n, 0x11),
              (!heldFenced s n, 0x1F)]
      (fun s =>
        let s1 := testResult n rows other (resetCore n s)
        done x (if (s1.core n).fenced then 0x1F else 0) (setPoint n s1)) s) s

/-! ## The guest port (R288, R290) -/

/-- Field checks of a rule (Table 9-11). -/
def ruleOk (s : State) (r : List Byte) : Bool :=
  let ks := fld r 1 1
  let gb := fld r 8 8
  let mb := fld r 0x10 8
  let z := fld r 0x18 8
  decide (fld r 0 1 < 16) && decide (fld r 2 6 = 0) && decide (gb < 2 ^ 40) && decide (mb < 2 ^ 48) && decide (z < 2 ^ 40) &&
  (!bit (fld r 0 1) 0 ||
   ((ks == 0 || slotLoaded s ks) && gb % 0x1_0000 == 0 && mb % 0x1_0000 == 0 && z % 0x1_0000 == 0 && decide (0x1_0000 ≤ z) && decide (z ≤ 2 ^ 36) &&
    decide (gb + z ≤ 2 ^ 40) &&
    (decide (mb + z ≤ lpddrSize s) || (decide (0x0100_0000_0000 ≤ mb) && decide (mb + z ≤ 0x0104_0000_0000)))))
/-- HEDGEROW_RULE (R288, R361): a rule is stored whole, in force or not. -/
def execHedgerowRule (qu : Nat) (s : State) : Out :=
  adminRow qu 0x1A anyCmd (fun x s =>
    let d := x.desc
    let i := fld d 8 1
    let r := slice d 0x20 32
    let valid := bit (fld r 0 1) 0
    let n : Rule := { valid := valid, read := bit (fld r 0 1) 1, write := bit (fld r 0 1) 2, atomic := bit (fld r 0 1) 3, keySlot := fld r 1 1, gbase := fld r 8 8
                      mbase := fld r 0x10 8, size := fld r 0x18 8 }
    checks x [(is4G s, 0x13), (onlyAt d [(8, 1), (0x20, 32)] && decide (i < 64) && ruleOk s r, 0x11),
              (!(valid && s.guest.rules.any (fun e => e.1 != i && e.2.valid && overlaps e.2.gbase e.2.size n.gbase n.size)), 0x16)]
      (fun s => done x 0 { s with guest := { s.guest with rules := tset Rule.dflt s.guest.rules i n } }) s) s
/-- GUEST_RETRAIN (R290): LG trains again and reopens; a guest die without supply stays down. -/
def execGuestRetrain (qu : Nat) (s : State) : Out :=
  adminRow qu 0x1B anyCmd (fun x s => checks x [(is4G s, 0x13), (onlyAt x.desc [], 0x11)]
    (fun s =>
      let k := s.link 8
      done x 0 (if s.guest.unpowered then s
                else { s.setLink 8 { k with st := 0 } with guest := { s.guest with closed := false, retrain := some (now s), events := [] } })) s) s

end Sys2Proof.Machine
end

