-- ==== Sys2Proof/Machine/Keys.lean ====
section
/-! DEFINITION. Tenant key slots, signatures and attestation reports (18 R485 to R492). -/
namespace Sys2Proof.Machine

/-! ## KEY_SLOT (R492) -/

/-- Whether a slot is named by a group or a hedgerow rule. -/
def slotUsed (s : State) (k : Nat) : Bool := s.pel.groups.any (fun g => g.2.keySlot == k) || s.guest.rules.any (fun r => r.2.valid && r.2.keySlot == k)
/-- The XTS key that a blob carries for a slot, if it opens under the boot key. -/
def openBlob (s : State) (slot : Nat) (b : List Byte) : Option W512 :=
  let ss := Config.mlkemDecaps (Config.entropy s.sec.dk) (slice b 0x10 1568)
  let wrap := shake256 (ascii "KY-SLOT" ++ nats (bvLE 32 ss)) 32
  let iv := List.replicate 12 0
  let ct := nats (slice b 0x630 64)
  let aad := nats (slice b 0 0x630) ++ [slot]
  let key := gcmCrypt wrap iv ct
  if s.sec.ek.isEmpty ∨ slice b 0 8 ≠ (ekDigest s).take 8 ∨ fld b 8 8 ≠ 0 ∨ gcmTag wrap iv aad ct ≠ nats (slice b 0x670 16) ∨ key.take 32 = key.drop 32 then none
  else some (BitVec.ofNat 512 (leNat (bytesOf key)))
/-- Field checks of KEY_SLOT. -/
def keySlotOk (s : State) (d : List Byte) : Bool :=
  onlyAt d [(8, 2), (0x10, 8)] && decide (1 ≤ fld d 8 1) && decide (fld d 8 1 < 64) && decide (fld d 9 1 ≤ 1) && fld d 0x10 8 % 64 == 0 &&
  cmdArea s (fld d 0x10 8) 1664
/-- KEY_SLOT with ACTION 0 (R492). An ACTION above 1 ends here. -/
def execKeySlotLoad (qu : Nat) (s : State) : Out :=
  adminRow qu 0x1C (fun x => fld x.desc 9 1 != 1) (fun x s => checks x [(keySlotOk s x.desc, 0x11)] (fun s =>
    let k := fld x.desc 8 1
    onRead x (cmdRead none 0 [(fld x.desc 0x10 8, 1664)] s) (fun b s =>
      match openBlob s k b with
      | none => done x 0x11 s
      | some key => checks x [((tfind s.sec.slots k).isNone, 0x18)]
          (fun s => done x 0 (bump 0x00E0_0110 1 { s with sec := { s.sec with slots := tput s.sec.slots k key } })) s)) s) s
/-- KEY_SLOT with ACTION 1 (R492): every controller zeroes the key. -/
def execKeySlotClear (qu : Nat) (s : State) : Out :=
  adminRow qu 0x1C (fun x => fld x.desc 9 1 == 1) (fun x s => checks x [(keySlotOk s x.desc, 0x11), (!slotUsed s (fld x.desc 8 1), 0x18)]
    (fun s => done x 0 { s with sec := { s.sec with slots := tdel s.sec.slots (fld x.desc 8 1) } }) s) s

/-! ## Signatures (R486, R487) -/

/-- Take a fresh epoch after `spoil` fuses that read partly blown: none when the fuses run out. -/
def takeEpoch (spoil : Nat) (s : State) : Bool × State :=
  let u := s.fuse.epochUsed + spoil
  if 16384 ≤ u then
    (false, { s with fuse := { s.fuse with epochUsed := max s.fuse.epochUsed 16384, epochSpoiled := s.fuse.epochSpoiled + (16384 - s.fuse.epochUsed) } })
  else
    (true, { s with fuse := { s.fuse with epochUsed := u + 1, epochSpoiled := s.fuse.epochSpoiled + spoil }
                    sec := { s.sec with nextLeaf := some (BitVec.ofNat 64 (u * 2 ^ 24)) } })
/-- The first signature of a boot reads the flash index and compares its epoch with the fuses. -/
def firstSign (s : State) : State :=
  let f := s.sec.flashIndex
  let behind := decide (f.toNat / 2 ^ 24 + 1 < s.fuse.epochUsed)
  let s1 := { s with sec := { s.sec with firstF := f, flashBehind := behind } }
  if behind then alarmW 0x0B02 0x0002 [f.toNat, s.fuse.epochUsed] s1 else s1
/-- The leaf of the next signature: a fresh epoch at the first one of a boot and at an epoch's end; the flash index is written before the leaf is
used, and a write that fails three times releases nothing. -/
def takeLeaf (spoil : Nat) (flashFail : Bool) (s : State) : Option Nat × State :=
  let r := match s.sec.nextLeaf with
    | none => takeEpoch spoil (firstSign s)
    | some n => if n.toNat % 2 ^ 24 = 0 then takeEpoch spoil s else (true, s)
  match r.1, r.2.sec.nextLeaf with
  | true, some n =>
    let s1 := bump 0x00E0_0100 1 { r.2 with sec := { r.2.sec with nextLeaf := some (n + 1) } }
    if flashFail then (none, alarmW 0x0B03 0x0002 [n.toNat] s1)
    else (some n.toNat, { s1 with sec := { s1.sec with flashIndex := n + 1 } })
  | _, _ => (none, r.2)

/-! ## The report (R489, Table 18-4) -/

/-- A hedgerow rule as its 32 bytes. -/
def ruleBytes (s : State) (i : Nat) : List Byte :=
  match tfind s.guest.rules i with
  | none => List.replicate 32 0
  | some r => natLE 1 (b2n r.valid + 2 * b2n r.read + 4 * b2n r.write + 8 * b2n r.atomic) ++ natLE 1 r.keySlot ++ natLE 6 0 ++ natLE 8 r.gbase ++ natLE 8 r.mbase ++
              natLE 8 r.size
/-- SHAKE256 with a 256-bit output. -/
def digest (b : List Byte) : List Byte := bytesOf (shake256 (nats b) 32)
/-- The key check value of a slot. -/
def kcv (s : State) (k : Nat) : List Byte :=
  match tfind s.sec.slots k with
  | some key => (bytesOf (shake256 (ascii "KY-KCV" ++ nats (bvLE 64 key)) 32)).take 8
  | none => List.replicate 8 0
/-- The security fuses but the device seed, as FUSE_DIGEST hashes them. -/
def fuseList (s : State) : List Nat :=
  [fusSec s, fusEpoch s] ++ (List.range 4).map (fun i => (tget 0 s.fuse.roots i).toNat)
/-- Loaded tenant slots. -/
def slotMap (s : State) : Nat := (s.sec.slots.filter (fun e => decide (1 ≤ e.1) && decide (e.1 < 64))).foldl (fun a e => a + 2 ^ e.1) 0
/-- Certificate bytes that a report appends. -/
def certOf (s : State) (cert : Bool) : List Byte := if cert then s.sec.cert.take 4096 else []
/-- Bytes 0x000 to 0x91F of a report of a configuration, with the leaf of its signature. -/
def reportHead (s : State) (nonce : List Byte) (cert : Bool) (f : W64) (behind : Bool) (leaf : Nat) : List Byte :=
  natLE 2 1 ++ natLE 2 (b2n cert + 2 * b2n s.boot.recovered + 4 * b2n behind) ++ natLE 4 (fusPart s) ++ natLE 4 (fusSec s) ++ bvLE 4 s.pel.fwVersion ++
  nonce ++ digest s.sec.header ++ digest (Config.fuseBytes (fuseList s)) ++ ekDigest s ++
  digest (((List.range 64).map (ruleBytes s)).flatten ++ mread s.fab.listen 0 2048 ++ mread s.fab.qpTab 0 65536) ++
  bvLE 8 (now s) ++ natLE 8 leaf ++ bvLE 8 f ++ natLE 8 (slotMap s) ++ natLE 4 (rstCause s) ++ natLE 4 (certOf s cert).length ++ List.replicate 40 0 ++
  ((List.range 64).map (kcv s)).flatten ++ padTo 1568 s.sec.ek
/-- A signature: the 5-byte leaf index and the rest, a free value of the device key, the leaf and the message. -/
def signature (s : State) (leaf : Nat) (msg : List Byte) : List Byte :=
  bytesOf (natBE 5 leaf) ++ padTo 9888 (Config.xmssSign s.fuse.seed leaf msg)
/-- ATTEST (R489): the report states the configuration at the command's start. -/
def execAttest (qu spoil : Nat) (flashFail : Bool) (s : State) : Out :=
  adminRow qu 0x1D anyCmd (fun x s =>
    let d := x.desc
    let a := fld d 0x10 8
    let cert := bit (fld d 8 4) 0
    checks x [(onlyAt d [(8, 4), (0x10, 8), (0x20, 32)] && decide (fld d 8 4 ≤ 1) && a % 4096 == 0 && cmdArea s a 16384, 0x11)]
      (fun s =>
        if lost s [(a, 16384)] then endCmd x.queue x.seq 0x02 1 s
        else if !(heldCuts s [(a, 16384)]).isEmpty then holdCmd x (heldCuts s [(a, 16384)]).length s
        else match takeLeaf spoil flashFail s with
          | (none, t) => done x 0x17 t
          | (some leaf, t) =>
            let h := reportHead s (slice d 0x20 32) cert t.sec.firstF t.sec.flashBehind leaf
            let t1 := cmdWrite none 0 [(a, 0x920 + 9893)] (h ++ signature s leaf h) t
            done x 0 (cmdWrite none 0 [(a + 0x3000, (certOf s cert).length)] (certOf s cert) t1)) s) s

end Sys2Proof.Machine
end

