-- ==== Sys2Proof/Machine/Ports.lean ====
section
/-! DEFINITION. The fabric and management ports: rates, frames, pause, host rings, the listen and queue-pair tables, time discipline (14 R385 to
R391, R395, R404, R408 to R410). -/
namespace Sys2Proof.Machine

/-! ## Port configuration (R385, Table 14-1) -/

/-- Mode in force. -/
def activeMode (s : State) : Nat := bits s.fab.cfg.toNat 9 8
/-- Lanes of each port of a mode. -/
def modeLanes (mode : Nat) : Nat := if mode = 0 then 8 else if mode = 1 then 4 else 2
/-- Enabled optical lanes (R5). -/
def lanesFitted (s : State) : Nat := if is4B s then 8 else 16
/-- A port is present when its mode forms it of enabled lanes; the management port always is. -/
def portPresent (s : State) (p : Nat) : Bool := p == 8 || decide ((p + 1) * modeLanes (activeMode s) ≤ lanesFitted s)
/-- FAB_PORT_STATE. -/
def portState (s : State) (p : Nat) : Nat :=
  let x := s.port p
  if portPresent s p then x.st + 4 * x.rate + 16 * (if p = 8 then 1 else modeLanes (activeMode s)) else 2
/-- The source identifier that a port's alarms carry: that of its first lane, or of the management port. -/
def srcPort (s : State) (p : Nat) : Nat := if p = 8 then srcMgmt else srcLane (p * modeLanes (activeMode s))
/-- The source identifiers of a port's lanes (Table 1-6). -/
def portLanes (s : State) (p : Nat) : List Nat :=
  if p = 8 then [srcMgmt] else (idxFrom (p * modeLanes (activeMode s)) (modeLanes (activeMode s))).map srcLane
/-- The hub runs, so that its ports do. -/
def hubRuns (s : State) : Bool := s.clk.pllLocked && !s.boot.lost && (decide (2 ≤ s.boot.step ∧ s.boot.step ≤ 6) || s.boot.step == 8)
/-- The management port runs from the hub's PLL lock, the fabric ports from Pelseso's start, which gives them their mode. -/
def portRuns (s : State) (p : Nat) : Bool := if p = 8 then hubRuns s else pelsesoRuns s
/-- A port in training. -/
def portTraining (s : State) (p : Nat) : Bool := portRuns s p && portPresent s p && (s.port p).st == 0
/-- A port that carries traffic. -/
def portUp (s : State) (p : Nat) : Bool := portRuns s p && portPresent s p && (s.port p).st == 1
/-- Try the other rate. -/
def alternate (p : Nat) (s : State) : State := s.setPort p { s.port p with trying := 3 - (s.port p).trying, trySince := now s }
/-- PORT_RATE_ALTERNATE (R386): 500 ms without alignment lock. -/
def execPortRateAlternate (p : Nat) (s : State) : Out :=
  evt (decide (p < 8) && portTraining s p && aged s (s.port p).trySince (500 * ms)) s (alternate p s)
/-- MGMT_RATE_ALTERNATE (R404): 1 s without block lock. -/
def execMgmtRateAlternate (s : State) : Out := evt (portTraining s 8 && aged s (s.port 8).trySince sec1) s (alternate 8 s)
/-- PORT_LOCK (R386): every lane of the port runs at the rate being tried. -/
def execPortLock (p : Nat) (s : State) : Out :=
  evt (decide (p < 9) && portTraining s p) s (s.setPort p { s.port p with st := 1, rate := (s.port p).trying })
/-- PORT_LOCK_ALARM (R386): 10 s of training without lock; the alarm carries the lanes' identifiers. -/
def execPortLockAlarm (p : Nat) (s : State) : Out :=
  let x := s.port p
  evt (decide (p < 9) && portTraining s p && !x.alarmed && aged s x.trainSince (10 * sec1)) s
    (raiseAlarm 0x0A01 (srcPort s p) ((portLanes s p).map (natLE 2)).flatten (s.setPort p { x with alarmed := true }))
/-- Resend the unacknowledged messages of a flow (R401). -/
def resendFlow (n flow : Nat) (s : State) : State :=
  match connOf s n with
  | none => s
  | some c =>
    ((c.flow flow).unacked.take 256).foldl (fun a m =>
      sendOn n (m.2.1 % 0x100) flow (decide (0x100 ≤ m.2.1)) 0 m.1.toNat 0 m.2.2.1 (bump (fabBlk + 0x100) 1 a)) s
/-- The flows whose frames leave on a port. -/
def flowsOn (s : State) (p : Nat) : List (Nat × Nat) :=
  (s.fab.conns.map (fun e => ((List.range e.2.flows).filter (fun f => flowPort s e.1 f == some p)).map (fun f => (e.1, f)))).flatten
/-- Restart the training of a port. -/
def retrainPort (p : Nat) (s : State) : State :=
  s.setPort p { s.port p with st := 0, rate := 0, trying := 2, trySince := now s, trainSince := now s, alarmed := false, paused := [],
                              ignored := [], released := [], pausing := false }
/-- PORT_DOWN (R387, R401): alignment lost for 1 ms (no count above 1,000), or more than 1,000 uncorrected codewords in 1 ms. -/
def execPortDown (p uncorr : Nat) (s : State) : Out :=
  evt (decide (p < 9) && portUp s p) s
    (let moved := flowsOn s p
     let s1 := alarmW 0x0A02 (srcPort s p) [p, uncorr] (retrainPort p (bump (portBlk p + 0x118) uncorr s))
     moved.foldl (fun a e => resendFlow e.1 e.2 a) s1)

/-! ## Priority flow control (R389) -/

/-- PFC_PAUSE_RECEIVE: an ignored priority is honoured again once the peer has released it for 10 µs. -/
def execPfcPauseReceive (p prio : Nat) (pause : Bool) (s : State) : Out :=
  let x := s.port p
  let y : Port :=
    if x.ignored.contains prio then
      match pause, tfind x.released prio with
      | false, none => { x with released := tput x.released prio (now s) }
      | false, some _ => x
      | true, none => x
      | true, some t =>
        if aged s t (10 * us) then
          { x with ignored := ldel x.ignored prio, released := tdel x.released prio, paused := tput x.paused prio (now s) }
        else { x with released := tdel x.released prio }
    else if pause then (if (tfind x.paused prio).isSome then x else { x with paused := tput x.paused prio (now s) })
    else { x with paused := tdel x.paused prio }
  evt (decide (p < 9) && decide (prio < 8) && portUp s p) s (s.setPort p y)
/-- PFC_PAUSE_TIMEOUT: a priority paused for 100 ms. -/
def execPfcPauseTimeout (p prio : Nat) (s : State) : Out :=
  let x := s.port p
  evt (decide (p < 9) && portUp s p && heldFor s (tfind x.paused prio) (100 * ms)) s
    (alarmW 0x0A03 (srcPort s p) [prio] (s.setPort p { x with paused := tdel x.paused prio, ignored := ladd x.ignored prio }))

/-! ## Frames (R388, R390, R391) -/

/-- Number that big-endian bytes of a frame spell. -/
def be (f : List Byte) (off n : Nat) : Nat := beNat (nats (slice f off n))
/-- MAC address of a port (R388). -/
def portMac (s : State) (p : Nat) : Nat := (s.fuse.macBase.toNat + p) % 2 ^ 48
/-- A frame addressed to the port: its own address, or a group address. -/
def addressed (s : State) (p : Nat) (f : List Byte) : Bool := be f 0 6 == portMac s p || be f 0 1 % 2 == 1
/-- Where the frame's EtherType stands: after one IEEE 802.1Q tag, if it has one. -/
def etherAt (f : List Byte) : Nat := if be f 12 2 = 0x8100 then 16 else 12
/-- EtherType. -/
def etherType (f : List Byte) : Nat := be f (etherAt f) 2
/-- Priority of a frame's tag; 0 without one. -/
def framePrio (f : List Byte) : Nat := if be f 12 2 = 0x8100 then be f 14 1 / 32 else 0
/-- Protocol and the offset of the transport header of an IP frame. -/
def ipProto (f : List Byte) : Option (Nat × Nat) :=
  let o := etherAt f + 2
  if etherType f = 0x0800 then some (be f (o + 9) 1, o + 4 * (be f o 1 % 16))
  else if etherType f = 0x86DD then some (be f (o + 6) 1, o + 40)
  else none
/-- UDP destination port. -/
def udpDest (f : List Byte) : Option Nat := match ipProto f with | some (17, o) => some (be f (o + 2) 2) | _ => none
/-- Bytes that choose a receive ring: IP addresses, then TCP or UDP ports. -/
def hashBytes (f : List Byte) : Option (List Byte) :=
  let o := etherAt f + 2
  match ipProto f with
  | none => none
  | some (pr, t) =>
    let addrs := if etherType f = 0x0800 then slice f (o + 12) 8 else slice f (o + 8) 32
    some (addrs ++ (if pr = 6 ∨ pr = 17 then slice f t 4 else []))
/-- Receive ring of a frame. -/
def ringOf (f : List Byte) : Nat := match hashBytes f with | some b => crc32c b % 8 | none => 0
/-- Where a good frame goes: 0 RoCE, 1 drill, 2 time engine, 3 the MAC itself (pause), 4 a host ring. -/
def classify (s : State) (f : List Byte) : Nat :=
  let u := udpDest f
  if u = some 4791 then 0
  else if u = some (bits s.fab.cfg.toNat 31 16) then 1
  else if etherType f = 0x88F7 ∨ u = some 319 ∨ u = some 320 then 2
  else if etherType f = 0x8808 then 3
  else 4
/-- CRC-32 of IEEE 802.3. -/
def fcsOk (f : List Byte) : Bool := decide (14 ≤ f.length) && fld f (f.length - 4) 4 == crc32 0xEDB8_8320 (f.take (f.length - 4))
/-- ECN bits of an IP frame. -/
def ecnOf (f : List Byte) : Nat :=
  let o := etherAt f + 2
  if etherType f = 0x0800 then be f (o + 1) 1 % 4 else be f (o + 1) 1 / 16 % 4
/-- Kinds of packet that the RoCE engine takes (Table 14-6), by their BTH opcode (log 29): SEND and RDMA WRITE without immediate data, RDMA READ
request, acknowledgment and CNP. -/
def roceKind (op : Nat) : Bool := [0, 1, 2, 4, 6, 7, 8, 10, 12, 17, 0x81].contains op
/-- A packet marked ECN-CE: a CNP goes to the peer, at most one per queue pair in 50 µs (kind 5). -/
def cnpSend (i : Nat) (s : State) : State :=
  let x := s.qp i
  let due : Bool := match x.cnpSent with | some t => aged s t (50 * us) | none => true
  if due then emit 5 i [] (rocePort s) (s.setQp i { x with cnpSent := some (now s) }) else s
/-- What the RoCE engine does with a packet before its own commands: its mark, and the NAK of an unsupported kind (R402). -/
def roceMeets (f : List Byte) (s : State) : State :=
  match ipProto f with
  | none => s
  | some (_, t) =>
    let op := be f (t + 8) 1
    let i := be f (t + 13) 3 - 0x100
    if be f (t + 13) 3 < 0x100 ∨ !qpReady s i then s
    else
      let s1 := if ecnOf f = 3 ∧ op ≠ 0x81 then cnpSend i s else s
      if roceKind op then s1 else roceNak i 1 (BitVec.ofNat 24 (be f (t + 17) 3)) s1
/-- A fabric port's pause request, for the fill of its RoCE receive buffer in 1/1024: it starts at three quarters, and ends at half (R389). -/
def pauseRequest (p fill : Nat) (s : State) : State :=
  let x := s.port p
  let on := if 768 ≤ fill then true else if fill ≤ 512 then false else x.pausing
  if p = 8 ∨ on = x.pausing then s else s.setPort p { x with pausing := on }
/-- FRAME_RECEIVE (R388 to R391, R402): a frame at port p.1, which leaves the RoCE receive buffer filled to p.2 / 1024. What an engine does with its
messages is in the engine's own commands. -/
def execFrameReceive (p : Nat × Nat) (frame : List Byte) (s : State) : Out :=
  evt (decide (p.1 < 9) && portUp s p.1 && decide (frame.length ≤ 9216)) s
    (pauseRequest p.1 p.2
      (if !fcsOk frame then bump (portBlk p.1 + 0x110) 1 s
       else
         let s1 := bump (portBlk p.1 + 0x100) 1 s
         if !addressed s p.1 frame then s1
         else if classify s frame = 0 ∧ p.1 < 8 then roceMeets frame s1
         else if classify s frame = 4 then ringPut p.1 (ringOf frame) 0 frame s1
         else s1))

/-- Address of a ring register in control space. -/
def hostqAddr (p r : Nat) (ptr : Bool) : Nat := ctrlBase + portBlk p + 0x200 + 0x10 * r + (if ptr then 8 else 0)
/-- A HEAD that R391 allows. -/
def headOk (x : Port) (r : Nat) (h : W16) : Bool :=
  if r < 8 then decide ((h - x.head r).toNat ≤ (x.tail r - x.head r).toNat)
  else decide ((x.head r - x.tail r).toNat ≤ (h - x.tail r).toNat) && decide ((h - x.tail r).toNat ≤ x.ringSize r)
/-- Write of FAB_HOSTQ_PTR_r: HEAD only. -/
def hostqPtrWrite (p r v : Nat) (s : State) : State :=
  let x := s.port p
  let h := BitVec.ofNat 16 v
  if headOk x r h then s.setPort p { x with ringHead := tset 0 x.ringHead r h } else logIgnored (hostqAddr p r true) v s
/-- FAB_HOSTQ_PTR_WRITE (R391). -/
def execFabHostqPtrWrite (p r : Nat) (v : BitVec 64) (s : State) : Out :=
  evt (inService s && decide (p < 9) && decide (r < 16)) s (hostqPtrWrite p r v.toNat s)
/-- A range that the OS cores' rings may use: the upper 32 MiB of hub SRAM, or LPDDR outside region 79. -/
def ringRange (s : State) (a n : Nat) : Bool :=
  (match place s a with | .hub off => decide (0x0200_0000 ≤ off) && decide (off + n ≤ 0x0400_0000) | _ => false) ||
  decide (a + n ≤ 79 * regionSize s)
/-- Write of FAB_HOSTQ_CFG_r: BASE and SIZE_LOG2 change only while ENABLE is 0; an ENABLE with a field out of range is not taken (log 29). -/
def hostqCfgWrite (p r v : Nat) (s : State) : State :=
  let x := s.port p
  let old := x.cfg r
  let w := if bit old 63 then old % 2 ^ 63 else v % 2 ^ 52
  let base := bits w 47 0
  let size := bits w 51 48
  let ok := base % 64 == 0 && decide (6 ≤ size) && decide (size ≤ 12) && ringRange s base (16 * 2 ^ size)
  let on := bit v 63 && (bit old 63 || ok)
  let s1 := s.setPort p { x with ringCfg := tset 0 x.ringCfg r (BitVec.ofNat 64 (w + (if on then 2 ^ 63 else 0))) }
  if bit v 63 && !on then logIgnored (hostqAddr p r false) v s1 else s1
/-- HOST_TX_SEND (R391): the engine sends the frame at TAIL of a transmit ring, marks its descriptor done and advances TAIL. On the management
port the frame joins the OS-core queue of R404. -/
def execHostTxSend (p r : Nat) (s : State) : Out :=
  let x := s.port p
  let a := x.descAt r (x.tail r)
  let d := (cohRead s none a 16).1
  let len := fld d 6 2
  let m := portMaster p
  let frame := (slotRead s 0 (fld d 0 6) (len / 64 + 2) len).1
  let prio := framePrio frame
  evt (inService s && decide (p < 9) && decide (8 ≤ r) && decide (r < 16) && portUp s p && x.ringOn r && x.tail r != x.head r &&
      (tfind x.paused prio).isNone) s
    (let s0 := noteRange m (fld d 0 6) len (noteRange m a 16 s)
     let s1 := cohWrite s0 none m 0 (a + 8) (natLE 8 (fld d 8 8 ||| 1)) false
     let y := s1.port p
     let s2 := s1.setPort p { y with ringTail := tset 0 y.ringTail r (y.tail r + 1) }
     if p = 8 then { s2 with mgmt := { s2.mgmt with osQ := s2.mgmt.osQ ++ [frame] } }
     else bump (portBlk p + 0x108) 1 (s2.setPort p { s2.port p with sent := frame :: (s2.port p).sent }))

/-! ## The listen table and the queue-pair table (R395, R403) -/

/-- Write a word of a table of entries of `size` bytes. -/
def tableMask (masks : List Nat) (w v : Nat) : Nat := v &&& masks.getD w 0
/-- Fields of a listen entry's words (Table 14-4). -/
def listenMasks : List Nat := [0xFF03_FFFF_1F07, 0, 0xFFFF_FFFF_FFFF_FFFF, 0xFFFF_FFFF_FFFF_FFFF]
/-- Fields of a queue-pair entry's words (Table 14-7); STATE is read-only. -/
def qpMasks : List Nat :=
  [0x00FF_FFFF_00FF_1F07, 0x00FF_FFFF_FFFF_FFFF, 0x00FF_FFFF, 0xFFFF_FFFF_FFFF_FFFF, 0xFFFF_FFFF_FFFF_FFFF, 0xFFFF_FFFF_FFFF,
   0xFFFF_FFFF_FFFF_FFFF, 0xFFFF_FFFF_FFFF_FFFF]
/-- Word 0 of a listen entry has every field in range. -/
def listenOk (w : Nat) : Bool :=
  decide (bits w 31 24 ≤ (if bit w 1 then 32 else 128)) && decide (1 ≤ bits w 47 40) && decide (bits w 47 40 ≤ 64)
/-- Write of an aligned word of the listen table. -/
def listenWrite (off v : Nat) (s : State) : State :=
  let i := off / 32
  let w := tableMask listenMasks (off % 32 / 8) v
  let put (n : Nat) (a : State) : State := { a with fab := { a.fab with listen := mwrite a.fab.listen off (natLE 8 n) } }
  let bad (a : State) : State := logIgnored (ctrlBase + 0x00A2_0000 + off) v a
  if off % 32 ≠ 0 then (if bit (lisFld s i 0 1) 0 then bad s else put w s)
  else if bit w 0 && !listenOk w then bad (put (w - 1) s)
  else put w s
/-- LISTEN_ENTRY_WRITE (R395): an offset in the table, 8-byte aligned. -/
def execListenEntryWrite (off : Nat) (v : BitVec 64) (s : State) : Out :=
  evt (inService s && decide (off < 2048) && off % 8 == 0) s (listenWrite off v.toNat s)
/-- A queue-pair entry may be put in force: the window's bounds, and a group with no tenant key. -/
def qpOk (s : State) (i w : Nat) : Bool :=
  let base := qpFld s i 0x18 8
  let size := qpFld s i 0x20 8
  base % 4096 == 0 && size % 4096 == 0 && decide (4096 ≤ size) && decide (size ≤ 2 ^ 40) &&
  (match tfind s.pel.groups (bits w 23 16) with | some g => g.keySlot == 0 | none => false)
/-- Write of an aligned word of the queue-pair table: setting VALID makes the pair ready, clearing it resets the pair. -/
def qpWrite (off v : Nat) (s : State) : State :=
  let i := off / 64
  let w := tableMask qpMasks (off % 64 / 8) v
  let put (n : Nat) (a : State) : State := { a with fab := { a.fab with qpTab := mwrite a.fab.qpTab off (natLE 8 n) } }
  let bad (a : State) : State := logIgnored (ctrlBase + 0x00A4_0000 + off) v a
  let was := bit (qpFld s i 0 1) 0
  if off % 64 ≠ 0 then (if was then bad s else put w s)
  else if !bit w 0 then (put w s).setQp i Qp.dflt
  else if !qpOk s i w then bad ((put (w - 1) s).setQp i Qp.dflt)
  else if was then put w s
  else (put w s).setQp i { Qp.dflt with st := 1, recvPsn := BitVec.ofNat 24 (qpFld s i 0x0C 3), sendPsn := BitVec.ofNat 24 (qpFld s i 0x10 3) }
/-- QP_ENTRY_WRITE (R395, R403). -/
def execQpEntryWrite (off : Nat) (v : BitVec 64) (s : State) : Out :=
  evt (inService s && decide (off < 65536) && off % 8 == 0) s (qpWrite off v.toNat s)

/-! ## Time discipline (R408, R409) -/

/-- SOURCE of FAB_TIME_CFG. -/
def timeSource (s : State) : Nat := bits s.fab.timeCfg.toNat 1 0
/-- SOURCE_PORT. -/
def timePort (s : State) : Nat := bits s.fab.timeCfg.toNat 6 3
/-- INC within 200 ppm of nominal. -/
def clampInc (rate : Int) : Nat := (2 ^ 32 + max (-858993) (min 858993 rate)).toNat
/-- PTP time minus time base at a message. -/
def ptpError (s : State) (ptp : W64) : Int := signed 64 (ptp - now s - s.fab.ptpOffset).toNat
/-- PTP_MESSAGE (R408): the message that reaches the port at PTP time `ptp` steers the rate. The clock acquires at its first message and locks at the next
(log 29); OFFSET is set at first lock and when the tracked error exceeds 1 ms. -/
def execPtpMessage (p : Nat) (ptp : BitVec 64) (rate : Int) (s : State) : Out :=
  let f := s.fab
  let st := if f.timeSt = 0 then 1 else 2
  let far := decide (1000000 < (ptpError s ptp).natAbs)
  let off := if f.timeSt = 1 ∨ (2 ≤ f.timeSt ∧ far) then ptp - now s else f.ptpOffset
  evt (hubRuns s && (timeSource s == 1 || timeSource s == 3) && p == timePort s && portUp s p) s
    { s with fab := { f with ptpLast := some (now s), timeSt := st, ptpOffset := off }, clk := { s.clk with inc := clampInc rate } }
/-- PTP_HOLDOVER (R409): a master silent for 10 s. -/
def execPtpHoldover (s : State) : Out :=
  evt ((timeSource s == 1 || timeSource s == 3) && (s.fab.timeSt == 1 || s.fab.timeSt == 2) && heldFor s s.fab.ptpLast (10 * sec1)) s
    (alarmW 0x0308 (srcPort s (timePort s)) [] { s with fab := { s.fab with timeSt := 3 } })
/-- An edge within 0.999 s to 1.001 s of the previous accepted one, or the first. -/
def ppsOkNow (s : State) : Bool :=
  match s.fab.ppsLast with | some t => decide (999000000 ≤ since s t) && decide (since s t ≤ 1001000000) | none => true
/-- Distance of PTP time from the nearest whole second, in ns. -/
def phase (s : State) : Int :=
  let r := (now s + s.fab.ptpOffset).toNat % sec1
  if 2 * r < sec1 then r else (r : Int) - sec1
/-- PPS_EDGE (R409): mode 2 steers the rate (a free value within 200 ppm); mode 3 aligns the whole-second phase of the published time. -/
def execPpsEdge (s : State) : Out :=
  let f := s.fab
  let s1 := { s with fab := { f with ppsLast := some (now s), ppsOk := true } }
  evt (hubRuns s) s
    (if !ppsOkNow s then { s with fab := { f with ppsIgnored := f.ppsIgnored + 1 } }
     else match timeSource s with
       | 2 => { s1 with clk := { s1.clk with inc := clampInc (Config.ppsRate s.free) }, free := s.free + 1
                        fab := { s1.fab with timeSt := if f.timeSt = 0 then 1 else 2 } }
       | 3 =>
         let e := phase s
         let s2 := { s1 with fab := { s1.fab with ptpOffset := f.ptpOffset - BitVec.ofInt 64 e } }
         if 1000 < e.natAbs then alarmW 0x0309 (srcPort s (timePort s)) [wrapInt 64 e] s2 else s2
       | _ => s1)
/-- PPS_LOST (R409): no accepted edge for 2 s. The next edge is then accepted as a first one (log 29). -/
def execPpsLost (s : State) : Out :=
  evt (s.fab.ppsOk && heldFor s s.fab.ppsLast (2 * sec1)) s
    (alarmW 0x0307 0x0000 [] { s with fab := { s.fab with ppsOk := false, ppsLast := none } })

end Sys2Proof.Machine
end

