-- ==== Sys2Proof/Machine/Boot.lean ====
section
/-! DEFINITION. The boot: the hub's PLL, the firmware image and its recovery, the management port's services, fuses, the boot key and the
entropy source's tests (14 R404 to R407; 17 R457, R473, R474; 18 R479 to R484, R491; 20 R526, R527). -/
namespace Sys2Proof.Machine

/-! ## The start of the boot (R473) -/

/-- Clock domains of the hub that the PLL and the hub's oscillator bring up: CD01 to CD08, CD10, CD15 to CD17, and CD09 on KY-ISO-4G. -/
def hubClocks (s : State) : BitVec 18 := if is4G s then 0x1C3FF else 0x1C2FF
/-- HUB_PLL_LOCK (R457, R473): the PLL locks within 1 ms of the start of the boot (ok), or the boot stops. Its first lock starts the time base. -/
def execHubPllLock (ok : Bool) (s : State) : Out :=
  let c := s.clk
  let c1 := if c.pllLocked then c else { c with tb := 0, frac := 0, pllLocked := true }
  let s1 := { s with clk := { c1 with locked := hubClocks s }, boot := { s.boot with step := 2 } }
  evt (s.boot.step == 1 && s.boot.modReset.isNone && !s.boot.lost) s (if ok then retrainPort 8 s1 else bootStop 5 s)
/-- FW_RECOVER_INPUT (R483, R526): a level that has held for 50 µs. It counts for this boot when it is asserted before fuse load. -/
def execFwRecoverInput (asserted : Bool) (s : State) : Out :=
  let win := !s.boot.lost && s.boot.modReset.isNone && (s.boot.step == 1 || s.boot.step == 2)
  evt (s.pwr.aux && asserted != s.boot.fwRecover) s
    { s with boot := { s.boot with fwRecover := asserted, fwSampled := s.boot.fwSampled || (asserted && win) } }

/-! ## The firmware image (R480, R481, Table 18-3) -/

/-- Body of an image. -/
def imageBody (img : List Byte) : List Byte := (img.drop 4096).take (fld img 0x10 4)
/-- Every byte of a range is zero. -/
def zeros (img : List Byte) (off n : Nat) : Bool := (slice img off n).all (fun b => b == 0)
/-- Check 1: magic, format, reserved fields and body length. -/
def headOkay (img : List Byte) : Bool :=
  let len := fld img 0x10 4
  fld img 0 4 == 0x4F53594B && fld img 4 2 == 1 && fld img 6 1 / 4 == 0 && fld img 7 1 / 16 == 0 && fld img 9 3 / 8 == 0 && zeros img 0x14 12 &&
  zeros img 0x80 128 && zeros img 0xC04 1020 && decide (4096 ≤ len) && decide (len ≤ 32 * 2 ^ 20) && len % 4096 == 0 &&
  decide (4096 + len ≤ img.length)
/-- Root slot of an image. -/
def imageRoot (img : List Byte) : Nat := fld img 6 1 % 4
/-- Check 3: the root is present and its digest is that of PUBKEY; it is unrevoked but in MANUFACTURE. -/
def rootOk (s : State) (img : List Byte) : Bool :=
  match tfind s.fuse.roots (imageRoot img) with
  | some d => d == w256 (shake256 (nats (slice img 0x40 64)) 32) && (s.fuse.lifecycle == 0 || !s.fuse.revoked.getLsbD (imageRoot img))
  | none => false
/-- Security version of an image. -/
def imageSvn (img : List Byte) : Nat := fld img 8 1 % 128
/-- BODY_DIGEST is the digest of the body. -/
def bodyOk (img : List Byte) : Bool := digest (imageBody img) == slice img 0x20 32
/-- The checks of R481. -/
def imageOk (s : State) (img : List Byte) : Bool :=
  headOkay img && bit (fld img 9 1) (fusPart s % 256 - 1) && rootOk s img && decide (s.fuse.svnFloor ≤ imageSvn img) &&
  Config.xmssVerify (slice img 0x40 64) (img.take 256) (slice img 0x100 2820) && bodyOk img
/-- Pelseso starts from a verified image: the fabric takes the mode kept in flash, and its ports begin to train. -/
def startPelseso (img : List Byte) (recovered : Bool) (s : State) : State :=
  let m := s.sec.fabMode % 4
  let cfg := (s.fab.cfg.toNat / 1024) * 1024 + 256 * m + (s.fab.cfg.toNat % 256) / 4 * 4 + m
  let s1 := { s with boot := { s.boot with step := 5, recovered := recovered }
                     sec := { s.sec with header := img.take 256 }
                     pel := { s.pel with fwVersion := BitVec.ofNat 32 (fld img 0x0C 4) }
                     fab := { s.fab with cfg := BitVec.ofNat 32 cfg } }
  (List.range 8).foldl (fun a p => retrainPort p a) s1
/-- FIRMWARE_VERIFY (R481, R483): the image in flash starts Pelseso; a failed check, or the recovery request, starts the recovery fetch. -/
def execFirmwareVerify (s : State) : Out :=
  evt (s.boot.step == 4) s
    (if !s.boot.fwSampled && imageOk s s.sec.image then startPelseso s.sec.image false s
     else { s with boot := { s.boot with step := 8 }, mgmt := { s.mgmt with fails := 0, restartAt := none, fetch := none, fetched := [] } })

/-! ## The recovery fetch (R406, R482, R483) -/

/-- Big-endian bytes. -/
def beBytes (n v : Nat) : List Byte := (natLE n v).reverse
/-- Read request of RFC 1350 with the block size of RFC 2348 (log 29: the file name is not stated). -/
def tftpRequest : List Byte := beBytes 2 1 ++ [0] ++ bytesOf (ascii "octet") ++ [0] ++ bytesOf (ascii "blksize") ++ [0] ++ bytesOf (ascii "1024") ++ [0]
/-- Acknowledgment of a block. -/
def tftpAck (n : Nat) : List Byte := beBytes 2 4 ++ beBytes 2 n
/-- Ask for block n: the first by the request, a later one by acknowledging the one before. -/
def tftpAsk (n : Nat) (s : State) : State := modFrame (if n = 1 then tftpRequest else tftpAck (n - 1)) s
/-- A fetch has failed: it restarts after 10 s, or, when the recovery input asked for it, the third failure boots a valid image in flash. -/
def fetchFail (s : State) : State :=
  let n := s.mgmt.fails + 1
  let s1 := { s with mgmt := { s.mgmt with fails := n, restartAt := some (now s + BitVec.ofNat 64 (10 * sec1)), fetch := none, fetched := [] } }
  let s2 := alarmW 0x0A06 srcMgmt [n] s1
  if s.boot.fwSampled && decide (3 ≤ n) && imageOk s s.sec.image then startPelseso s.sec.image false s2 else s2
/-- The whole image is here: verified, written to flash and read back (`wrong` lists the bytes that read back other than written). -/
def imageFetched (img : List Byte) (wrong : List (Nat × Byte)) (s : State) : State :=
  if !imageOk s img then fetchFail s
  else
    let held := wrong.foldl (fun l e => lmod l e.1 (fun _ => e.2)) img
    let s1 := { s with sec := { s.sec with image := held } }
    if digest (imageBody held) == slice img 0x20 32 then startPelseso img true { s1 with mgmt := { s1.mgmt with fetch := none, fetched := [] } }
    else fetchFail s1
/-- RECOVERY_FETCH (R406): a fetch starts, at once or 10 s after a failure. -/
def execRecoveryFetch (s : State) : Out :=
  let m := s.mgmt
  let due := match m.restartAt with | some t => decide (t ≤ now s) | none => true
  evt (s.boot.step == 8 && portUp s 8 && m.recovery.isSome && m.fetch.isNone && due) s
    (tftpAsk 1 { s with mgmt := { m with fetch := some (1, 1, now s), fetched := [], restartAt := none } })
/-- TFTP_BLOCK_RECEIVE (R406): the block asked for arrives; a block of less than 1,024 bytes is the last. -/
def execTftpBlockReceive (block : Nat) (data : List Byte) (wrong : List (Nat × BitVec 8)) (s : State) : Out :=
  let m := s.mgmt
  match m.fetch with
  | none => .next s
  | some (n, _, _) =>
    evt (s.boot.step == 8 && block == n % 65536 && decide (data.length ≤ 1024)) s
      (if data.length = 1024 then
         tftpAsk (n + 1) { s with mgmt := { m with fetch := some (n + 1, 1, now s), fetched := m.fetched ++ data } }
       else imageFetched (m.fetched ++ data) wrong (modFrame (tftpAck n) s))
/-- TFTP_BLOCK_TIMEOUT (R406): 1 s without the block; the fifth try fails the fetch. -/
def execTftpBlockTimeout (s : State) : Out :=
  let m := s.mgmt
  match m.fetch with
  | none => .next s
  | some (n, k, t) =>
    evt (s.boot.step == 8 && aged s t sec1) s
      (if 5 ≤ k then fetchFail s else tftpAsk n { s with mgmt := { m with fetch := some (n, k + 1, now s) } })

/-! ## The management port's services (R405, R407) -/

/-- A DHCP DISCOVER of RFC 2131 (transaction number and form PRESUMED from the RFC, log 29). -/
def dhcpDiscover (s : State) : List Byte :=
  let mac := portMac s 8
  bytesOf [1, 1, 6, 0] ++ beBytes 4 mac ++ List.replicate 20 0 ++ beBytes 6 mac ++ List.replicate 202 0 ++
  bytesOf [0x63, 0x82, 0x53, 0x63, 53, 1, 1, 255]
/-- The boot ROM or Pelseso runs. -/
def dhcpRuns (s : State) : Bool := (s.boot.step == 8 || pelsesoRuns s) && portUp s 8 && s.mgmt.addr.isNone
/-- DHCP_ATTEMPT (R405): 4 attempts 2 s apart, repeated every 10 s. -/
def execDhcpAttempt (s : State) : Out :=
  let m := s.mgmt
  let last := decide (3 ≤ m.attempts)
  evt (dhcpRuns s && decide (m.dhcpAt ≤ now s)) s
    (modFrame (dhcpDiscover s)
      { s with mgmt := { m with attempts := if last then 0 else m.attempts + 1
                                dhcpAt := now s + BitVec.ofNat 64 (if last then 4 * sec1 else 2 * sec1) } })
/-- Contents of a sub-option of option 43. -/
def subOption (code : Nat) : Nat → List Byte → Option (List Byte)
  | 0, _ => none
  | k + 1, l =>
    match l with
    | c :: n :: t => if c.toNat = code then some (t.take n.toNat) else subOption code k (t.drop n.toNat)
    | _ => none
/-- Address and UDP port of a 6-byte sub-option. -/
def endpointOf (code : Nat) (l : List Byte) : Option (W32 × Nat) :=
  match subOption code (l.length + 1) l with
  | some b => if b.length = 6 then some (BitVec.ofNat 32 (be b 0 4), be b 4 2) else none
  | none => none
/-- DHCP_OFFER (R405). -/
def execDhcpOffer (addr : BitVec 32) (opt43 : List Byte) (s : State) : Out :=
  evt (dhcpRuns s) s
    { s with mgmt := { s.mgmt with addr := some addr, recovery := endpointOf 1 opt43, collector := endpointOf 2 opt43 } }
/-- CONSOLE_INPUT (R407): from the collector's address only, and only after the OS cores have started. -/
def execConsoleInput (src : BitVec 32) (_port : Nat) (bytes : List Byte) (s : State) : Out :=
  let from_ := match s.mgmt.collector with | some c => c.1 == src | none => false
  evt (inService s && portUp s 8 && from_) s { s with mgmt := { s.mgmt with consoleIn := s.mgmt.consoleIn ++ bytes } }

/-! ## Fuses, the boot key and the entropy source (R479, R484, R491) -/

/-- Rollback-floor fuses that are to be blown: those below the image's SVN, and those that failed before. -/
def floorFuses (s : State) : List Nat :=
  let svn := fld s.sec.header 8 1 % 128
  let want := if bit (fld s.sec.header 8 1) 7 then min 64 svn else 0
  idxFrom s.fuse.svnFloor (max (want - s.fuse.svnFloor) (min (s.sec.fuseRetry.filter (fun i => decide (i < 64))).length (64 - s.fuse.svnFloor)))
/-- Revocation fuses (64 + root) that are to be blown: the roots that REVOKE marks but the image's own, and those that failed before. -/
def revokeFuses (s : State) : List Nat :=
  ((List.range 4).filter (fun j => (bit (fld s.sec.header 7 1) j && j != imageRoot s.sec.header) || s.sec.fuseRetry.contains (64 + j))).map (fun j => 64 + j)
/-- FUSE_BLOW (R484): `partly` lists the fuses (floor fuse i, 64 + root) that do not read blown: each raises an alarm and is retried at the next boot. -/
def execFuseBlow (partly : List Nat) (s : State) : Out :=
  let fl := floorFuses s
  let rv := revokeFuses s
  let bad := (fl ++ rv).filter (fun i => partly.contains i)
  let floor' := s.fuse.svnFloor + (fl.filter (fun i => !partly.contains i)).length
  let rev' := (rv.filter (fun i => !partly.contains i)).foldl (fun (v : BitVec 4) i => v ||| BitVec.ofNat 4 (2 ^ (i - 64))) s.fuse.revoked
  let s1 := { s with fuse := { s.fuse with svnFloor := floor', revoked := rev' }, sec := { s.sec with fuseRetry := bad, fusesBlown := true } }
  evt (pelsesoRuns s && !s.sec.fusesBlown) s (bad.foldl (fun a i => alarmW 0x0B01 0x0002 [i] a) s1)
/-- BOOT_KEY_GENERATE (R491). -/
def execBootKeyGenerate (s : State) : Out :=
  let d := drawEntropy s
  evt (pelsesoRuns s && s.sec.ek.isEmpty && s.sec.entropyOk) s
    { d.2 with sec := { d.2.sec with ek := padTo 1568 (Config.mlkemEk d.1), dk := s.free } }
/-- ENTROPY_TEST_FAIL (R196, R479): every pending and later request fails until a fresh start-up test passes. -/
def execEntropyTestFail (s : State) : Out :=
  evt (hubRuns s) s
    (failKeys { alarmW 0x0803 0x0002 [] (bump 0x00E0_0118 1 s) with sec := { s.sec with entropyOk := false, entropyFailed := true } })
/-- ENTROPY_START_UP_TEST (R479): 1,024 samples pass. -/
def execEntropyStartUpTest (s : State) : Out := evt (hubRuns s) s { s with sec := { s.sec with entropyOk := true, entropyFailed := false } }

/-- OS_CORE_RELEASE (R473, R474): every quarter is in service or fenced and every stack is up, degraded or failed; the queue engine and the tally
serve, the admin queues open and the OS cores leave reset. -/
def execOsCoreRelease (s : State) : Out :=
  let ready := (List.range 4).all (fun q => (s.quarter q).st == 0 || (s.quarter q).st == 4) && (stackList s).all (fun m => (s.stack m).st != 0)
  evt (s.boot.step == 5 && !s.boot.lost && ready) s { s with boot := { s.boot with step := 6 } }

end Sys2Proof.Machine
end

