-- ==== Sys2Proof/Machine/Links.lean ====
section
/-! DEFINITION. Substrate links, routes and vertical buses (09 R257 to R269, R282, R284). The model's accesses and messages travel without delay;
what the networks offer to a transmitter beside them comes with FLIT_RECEIVE (log 24). -/
namespace Sys2Proof.Machine

/-! ## Flits (R259) -/

/-- One bit into the CRC register of 13 bits. -/
def crc13Bit (c : Nat) (b : Bool) : Nat := if bit c 12 != b then ((2 * c) % 0x2000) ^^^ 0x1CF5 else (2 * c) % 0x2000
/-- CRC-13 over the n low bits of a number, bit 0 first (log 24). -/
def crc13 : Nat → Nat → Nat → Nat
  | 0, _, c => c
  | n + 1, v, c => crc13 n (v / 2) (crc13Bit c (v % 2 == 1))
/-- CRC of a flit: its 512 data bits, and VALID and KIND. -/
def flitCrc (data : W512) (low : Nat) : Nat := crc13 515 (data.toNat + 2 ^ 512 * low) 0x1FFF
/-- A flit passes its check. -/
def flitOk (data : W512) (ctl : W16) : Bool := flitCrc data (bits ctl.toNat 2 0) == bits ctl.toNat 15 3
/-- The control word that a transmitter sends with a flit; an idle one has VALID clear. -/
def flitCtl (f : Option Flit) : W16 :=
  match f with
  | some x => BitVec.ofNat 16 (1 + 2 * x.kind + 8 * flitCrc x.data (1 + 2 * x.kind))
  | none => BitVec.ofNat 16 (8 * flitCrc 0 0)
/-- Data of a flit: an idle one's is zero (log 24). -/
def flitData (f : Option Flit) : W512 := match f with | some x => x.data | none => 0
/-- Bit of a flit, its control word above its data, that lane p carries in unit interval t: a data lane's, or the valid lane's. -/
def laneBit (t p : Nat) : Nat := if p < 32 then 16 * p + t else 512 + t
/-- Wrong bits of a flit from the wrong levels on its lanes: bit 33t + p stands for lane p, 32 the valid lane, in unit interval t. -/
def laneErr (w : Nat) : Nat :=
  if w = 0 then 0 else ((List.range 528).filter (bit w)).foldl (fun a k => a ^^^ 2 ^ laneBit (k / 33) (k % 33)) 0
/-- Register block of a link. -/
def lnkBlk (l : Nat) : Nat := 0x0060_0000 + 0x1000 * l
/-- A link still moves flits: up, or down and not yet abandoned. -/
def linkMoves (k : Link) : Bool := k.st == 1 || (k.st == 2 && k.downSince.isSome && !k.abandoned)
/-- A group that still moves flits. -/
def groupMoves (s : State) (l dir g : Nat) : Bool :=
  decide (l < 8) && decide (dir < 2) && decide (g < 16) && linkMoves (s.link l) && decide (((s.link l).group dir g).st < 2)
/-- Change a group. -/
def modGroup (l dir g : Nat) (f : Group → Group) (s : State) : State := let k := s.link l; s.setLink l (k.setGroup dir g (f (k.group dir g)))
/-- An alarm of R266: direction, group and lane, the last margin measured, and the stamp. -/
def linkAlarm (code l dir g lane margin : Nat) (s : State) : State := alarmW code (srcLink l) [dir, g, lane, margin, (now s).toNat] s
/-- A record of an error that a link or a vertical bus corrected (R291): CORRECTED of no store of Table 11-6, with what names the place in LOC
(log 24). -/
def busRec (src n loc : Nat) (s : State) : State := errRec 1 0 src 0 (min n 0xFE) 0 loc s

/-! ## The transmitter of a group (R260, R261) -/

/-- Order of a flit within its group: link control, synchronisation, control, bulk. -/
def flitClass (f : Flit) : Nat := match f.cargo with | .ack _ _ => 0 | .sync _ => 1 | .control _ _ _ => 2 | .bulk _ _ _ _ => 3
/-- The number from which a control or synchronisation flit's group follows. -/
def flitKey (f : Flit) : Nat :=
  match f.cargo with | .control src dest _ => src ^^^ dest | .sync ((src, _, flag) :: _) => src ^^^ flag | _ => 0
/-- Groups of a direction that have not stopped, ascending. -/
def activeList (k : Link) (dir : Nat) : List Nat := (List.range 16).filter (fun g => decide ((k.group dir g).st < 2))
/-- Groups of a direction that have not stopped. -/
def activeGroups (k : Link) (dir : Nat) : Nat := (activeList k dir).length
/-- Put flits at the end of a group's queue. -/
def pushFlits (l dir g : Nat) (fs : List Flit) (s : State) : State := modGroup l dir g (fun x => { x with queue := x.queue ++ fs }) s
/-- A control or synchronisation flit takes the group of its pair, and waits while that group is retiring (R264). -/
def placeSmall (l dir : Nat) (s : State) (f : Flit) : State :=
  let k := s.link l
  let a := activeList k dir
  let g := a.getD (flitKey f % a.length) 0
  if (k.group dir g).st = 0 then pushFlits l dir g [f] s else s.setLink l { k with wait := k.wait ++ [(dir, f)] }
/-- The next group with free credit, in rotation: an active one that holds fewer than 512 flits not acknowledged or not sent (log 24). -/
def packetGroup (k : Link) (dir : Nat) : Option Nat :=
  ((List.range 16).map (fun i => (tget 0 k.turn dir + i) % 16)).find? (fun g =>
    let x := k.group dir g
    x.st == 0 && decide (x.unacked.length + x.queue.length < 512))
/-- A bulk packet takes the next group in rotation; it waits at its sender where none has credit. -/
def placePacket (l dir : Nat) (s : State) (fs : List Flit) : State :=
  match packetGroup (s.link l) dir with
  | some g => let k := s.link l; pushFlits l dir g fs (s.setLink l { k with turn := tset 0 k.turn dir ((g + 1) % 16) })
  | none => s
/-- The flits of a control message: one, or the two of a BOUNCE. -/
def messageFlits (m : CtlMsg) : List Flit :=
  let f (part : Nat) (b : List Byte) : Flit := { data := BitVec.ofNat 512 (leNat b), kind := 2, cargo := .control (msgSrc m) (msgDest m) part }
  if m.length = 128 then [f 1 (m.take 64), f 2 (m.drop 64)] else [f 0 m]
/-- The flits of a bulk packet: the header, then the data. -/
def packetFlits (src dest launch : Nat) (ds : List W512) : List Flit :=
  (ds.zip (List.range ds.length)).map (fun e =>
    { data := e.1, kind := if e.2 = 0 then 0 else 1, cargo := .bulk src dest launch (e.2 + 1 == ds.length) })
/-- The receiver of a group acknowledges its good flits, in a link-control flit on the same group of the reverse direction, or on the lowest active one
when that group is retired. -/
def sendAck (l dir g : Nat) (s : State) : State :=
  let k := s.link l
  let x := k.group dir g
  let back := if (k.group (1 - dir) g).st < 2 then g else (activeList k (1 - dir)).headD g
  if x.rxNext = 0 then s
  else pushFlits l (1 - dir) back [{ data := 0, kind := 3, cargo := .ack g (x.rxNext - 1) }] (modGroup l dir g (fun y => { y with good := 0 }) s)
/-- The link accepts what a network offers: on the route in force of its pair, and while it is up; a sender at its limit sends nothing. -/
def takeOffer (l dir : Nat) (s : State) (o : Offer) : State :=
  let up := (s.link l).st == 1
  match o with
  | .ack g => if decide (g < 16) then sendAck l (1 - dir) g s else s
  | .packet a b launch ds =>
    if up && onRoute s l dir a b && decide (1 ≤ ds.length) && decide (ds.length ≤ 65) then placePacket l dir s (packetFlits a b launch ds) else s
  | .message m =>
    let p := (asmOf (msgSrc m), asmOf (msgDest m))
    let e := s.ep (msgSrc m)
    if up && firstHop s p.1 p.2 == some (l, dir) && decide (m.length = 64) && sendable m && decide (e.out < outLimit (msgSrc m)) then
      (messageFlits m).foldl (placeSmall l dir) (s.setEp (msgSrc m) { e with out := e.out + 1 })
    else if up && firstHop s p.1 p.2 == some (l, dir) && decide (m.length = 128) && msgType m == 0xF2 then (messageFlits m).foldl (placeSmall l dir) s
    else s
  | .flagOp src q flag op =>
    if up && onRoute s l dir (asmOf src) q then
      placeSmall l dir s { data := BitVec.ofNat 512 op.toNat, kind := 2, cargo := .sync [(src, q, flag)] }
    else s

/-- Drop the first n flits of a class from a queue. -/
def dropOf (c : Nat) : List Flit → Nat → List Flit
  | [], _ => []
  | f :: t, n => if 0 < n ∧ flitClass f = c then dropOf c t (n - 1) else f :: dropOf c t n
/-- Up to four operations travel in one flit. -/
def packOps (l : List Flit) : Flit :=
  { data := BitVec.ofNat 512 ((l.zip (List.range 4)).foldl (fun a e => a + 2 ^ (128 * e.2) * e.1.data.toNat) 0), kind := 2
    cargo := .sync (l.map (fun f => match f.cargo with | .sync ops => ops | _ => [])).flatten }
/-- Synchronisation and control may take the next flit: no bulk flit waits, or they took fewer than 4 of the last 15. -/
def smallFits (x : Group) : Bool := !(x.queue.any (fun f => flitClass f == 3)) || decide ((x.small.filter (fun b => b)).length < 4)
/-- The class that the group sends next, if any. -/
def nextClass (x : Group) : Option Nat :=
  [0, 1, 2, 3].find? (fun c => x.queue.any (fun f => flitClass f == c) && (c == 0 || c == 3 || smallFits x))
/-- More flits of the same packet or message follow a flit. -/
def moreFollow (f : Flit) : Bool := match f.cargo with | .bulk _ _ _ last => !last | .control _ _ part => part == 1 | _ => false
/-- Send the next new flit of a class: it is kept until it is acknowledged. -/
def sendClass (c : Nat) (x : Group) : Flit × Group :=
  let l := (x.queue.filter (fun f => flitClass f == c)).take (if c = 1 then 4 else 1)
  let f := if c = 1 then packOps l else l.headD { data := 0, kind := 3, cargo := .ack 0 0 }
  (f, { x with queue := dropOf c x.queue l.length, txNext := x.txNext + 1, unacked := x.unacked ++ [(x.txNext, f)]
               small := ((c == 1 || c == 2) :: x.small).take 15
               midPacket := if c = 3 then moreFollow f else x.midPacket, midMessage := if c = 2 then moreFollow f else x.midMessage })
/-- What a group's transmitter sends next: a replay, a new flit, or an idle one; with 512 unacknowledged only idle ones. -/
def transmit (x : Group) : Option Flit × Group :=
  let idle := { x with small := (false :: x.small).take 15 }
  match x.replayAt with
  | some n =>
    match tfind x.unacked n with
    | some f => (some f, { x with replayAt := if n + 1 < x.txNext then some (n + 1) else none })
    | none => (none, { x with replayAt := none })
  | none =>
    if 512 ≤ x.unacked.length then (none, idle)
    else match nextClass x with
      | some c => let r := sendClass c x; (some r.1, r.2)
      | none => (none, idle)

/-! ## Lanes, spares and groups (R262 to R265) -/

/-- Last margin of a lane: 64/64 UI where none has been measured. -/
def laneMargin (x : Group) (lane : Nat) : Nat := tget 64 x.margin lane
/-- The state of spare i. -/
def spareSt (x : Group) (i : Nat) : Nat := if i = 0 then x.spares.1 else x.spares.2
/-- Change the state of spare i. -/
def setSpare (x : Group) (i v : Nat) : Group := { x with spares := if i = 0 then (v, x.spares.2) else (x.spares.1, v) }
/-- A data lane that a spare carries. -/
def replacedLane (x : Group) (lane : Nat) : Bool := x.replaced.any (fun e => e.2 == lane)
/-- Cut a queue into the flits that a retiring group still sends, those of a packet or message begun and acknowledgments, and the others. -/
def splitQueue (mp mm : Bool) : List Flit → List Flit × List Flit
  | [] => ([], [])
  | f :: t =>
    let c := flitClass f
    let stay := c == 0 || (c == 3 && mp) || (c == 2 && mm)
    let r := splitQueue (if c = 3 then mp && moreFollow f else mp) (if c = 2 then mm && moreFollow f else mm) t
    if stay then (f :: r.1, r.2) else (r.1, f :: r.2)
/-- Cut flits of whole bulk packets into their packets. -/
def packetsOf (acc : List Flit) : List Flit → List (List Flit)
  | [] => if acc.isEmpty then [] else [acc]
  | f :: t => if moreFollow f then packetsOf (acc ++ [f]) t else (acc ++ [f]) :: packetsOf [] t
/-- Retire a group: it takes no new packet. Bulk packets that it has not begun take other groups; control and synchronisation wait until it has
stopped (R264). -/
def retireGroup (l dir g lane : Nat) (s : State) : State :=
  let x := (s.link l).group dir g
  if x.st = 0 then
    let r := splitQueue x.midPacket x.midMessage x.queue
    let s1 := modGroup l dir g (fun y => { y with st := 1, lane := lane, queue := r.1 }) s
    let s2 := (r.2.filter (fun f => flitClass f != 3)).foldl (placeSmall l dir) s1
    linkAlarm 0x0402 l dir g lane (laneMargin x lane) ((packetsOf [] (r.2.filter (fun f => flitClass f == 3))).foldl (placePacket l dir) s2)
  else s
/-- Spare a data lane: the first good unused spare carries its bits, or the group retires. -/
def spareLane (l dir g lane : Nat) (s : State) : State :=
  let x := (s.link l).group dir g
  match [0, 1].find? (fun i => spareSt x i == 0) with
  | some i =>
    linkAlarm 0x0401 l dir g lane (laneMargin x lane)
      (modGroup l dir g (fun y => { setSpare y i 1 with replaced := tput y.replaced i lane, low := tdel y.low lane }) s)
  | none => retireGroup l dir g lane s
/-- A spare fails: an unused one is marked; the data lane of one in use needs a further spare. -/
def spareFails (l dir g i : Nat) (s : State) : State :=
  let x := (s.link l).group dir g
  let s1 := linkAlarm 0x0401 l dir g (32 + i) (laneMargin x (32 + i))
    (modGroup l dir g (fun y => { setSpare y i 2 with replaced := tdel y.replaced i, low := tdel y.low (32 + i) }) s)
  match tfind x.replaced i with
  | some lane => spareLane l dir g lane s1
  | none => s1
/-- A lane meets a margin condition of Table 9-3. -/
def laneLow (x : Group) (lane : Nat) : Bool := decide (3 ≤ tget 0 x.low lane) || decide (laneMargin x lane < 4)
/-- Act on the condition of one lane: data 0 to 31, spares 32 and 33, clock 34, valid 35. -/
def laneAct (l dir g : Nat) (s : State) (lane : Nat) : State :=
  let x := (s.link l).group dir g
  if x.st ≠ 0 ∨ !laneLow x lane then s
  else if lane < 32 then (if replacedLane x lane then s else spareLane l dir g lane s)
  else if lane < 34 then (if spareSt x (lane - 32) = 2 then s else spareFails l dir g (lane - 32) s)
  else retireGroup l dir g lane s
/-- The data lane in use of lowest margin; the lowest number on a tie. -/
def worstLane (x : Group) : Nat :=
  match (List.range 32).filter (fun i => !replacedLane x i) with
  | [] => 0
  | a :: t => t.foldl (fun b i => if laneMargin x i < laneMargin x b then i else b) a
/-- 16 CRC failures within 1 s spare the data lane of lowest margin. -/
def crcSpare (l dir g : Nat) (s : State) : State :=
  let x := (s.link l).group dir g
  if x.st = 0 ∧ 16 ≤ (recent s x.crc sec1).length then spareLane l dir g (worstLane x) (modGroup l dir g (fun y => { y with crc := [] }) s) else s
/-- Declare a link down in both directions, for the lane that retired a group. -/
def linkDown (l dir g : Nat) (s : State) : State :=
  let k := s.link l
  let x := k.group dir g
  if k.st = 1 ∨ k.st = 0 then
    linkAlarm 0x0403 l dir g x.lane (laneMargin x x.lane)
      (s.setLink l { k with st := 2, downSince := some (now s), abandoned := false, why := (dir, g, x.lane) })
  else s

/-! ## Receipt (R260) -/

/-- A message that has crossed a link: at its destination's assembly it arrives, a BOUNCE in its sender's return queue; elsewhere the switch sends it on,
or it waits while no route is open (R268, R269). -/
def messageCrossed (l dir : Nat) (m : CtlMsg) (s : State) : State :=
  let here := farEnd l dir
  if asmOf (msgDest m) = here then
    (if m.length = 128 then (let e := s.ep (msgDest m); s.setEp (msgDest m) { e with ret := e.ret ++ [m] }) else reach (msgDest m) m s)
  else match firstHop s here (asmOf (msgDest m)) with
    | some (l2, d2) => (messageFlits m).foldl (placeSmall l2 d2) s
    | none => bounceTo (msgDest m) 3 m s
/-- What a good flit brings to the far end: an acknowledgment for the transmitter of the other direction, or a message once it is whole. The effects of
bulk packets and of flag operations are those of the commands that issue them (log 24). -/
def deliverFlit (l dir g : Nat) (f : Flit) (data : W512) (s : State) : State :=
  match f.cargo with
  | .ack g1 seq => modGroup l (1 - dir) g1 (fun y => { y with ackIn := some seq }) s
  | .control _ _ 0 => messageCrossed l dir (bvLE 64 data) s
  | .control _ _ 1 => modGroup l dir g (fun y => { y with part := some data }) s
  | .control _ _ _ =>
    match ((s.link l).group dir g).part with
    | some a => messageCrossed l dir (bvLE 64 a ++ bvLE 64 data) (modGroup l dir g (fun y => { y with part := none }) s)
    | none => s
  | _ => s
/-- A flit arrives whole. A failed one and the later flits of its group are discarded, and a replay is requested; every 64 good flits are
acknowledged. -/
def receiveFlit (l dir g : Nat) (f : Option Flit) (data : W512) (ctl : W16) (s : State) : State :=
  let x := (s.link l).group dir g
  if !flitOk data ctl then
    crcSpare l dir g (busRec (srcLink l) 1 (16 * dir + g) (bump (lnkBlk l + 0x100 + 8 * dir) 1
      (modGroup l dir g (fun z => { z with crc := recent s z.crc sec1 ++ [now s], discarding := true }) s)))
  else if !bit ctl.toNat 0 then s
  else
    let s1 := bump (lnkBlk l + 0x120 + 8 * dir) 1 s
    match f with
    | none => s1
    | some y =>
      if x.discarding then s1
      else
        let s2 := deliverFlit l dir g y data (modGroup l dir g (fun z => { z with rxNext := z.rxNext + 1, good := z.good + 1 }) s1)
        if 64 ≤ ((s2.link l).group dir g).good then sendAck l dir g s2 else s2
/-- FLIT_RECEIVE (R259 to R261): the networks offer what they have, the group's transmitter sends its next flit, and it arrives with the wrong levels that
`wire` names on its lanes. -/
def execFlitReceive (l dir g : Nat) (offers : List Offer) (wire : BitVec 528) (s : State) : Out :=
  let s1 := offers.foldl (takeOffer l dir) s
  let r := transmit ((s1.link l).group dir g)
  let e := laneErr wire.toNat
  evt (groupMoves s l dir g) s
    (receiveFlit l dir g r.1 (flitData r.1 ^^^ BitVec.ofNat 512 e) (flitCtl r.1 ^^^ BitVec.ofNat 16 (e / 2 ^ 512)) (modGroup l dir g (fun _ => r.2) s1))
/-- REPLAY_REQUEST (R260): the transmitter resends from the failed flit, and the receiver takes flits again. -/
def execReplayRequest (l dir g seq : Nat) (s : State) : Out :=
  let x := (s.link l).group dir g
  evt (groupMoves s l dir g && x.discarding && seq == x.rxNext) s
    (bump (lnkBlk l + 0x110 + 8 * dir) 1
      (modGroup l dir g (fun y => { y with discarding := false, replayAt := if seq < y.txNext then some seq else none }) s))
/-- LINK_ACK (R260): the acknowledgment that has come back frees the flits up to its sequence number. -/
def execLinkAck (l dir g seq : Nat) (s : State) : Out :=
  let x := (s.link l).group dir g
  evt (groupMoves s l dir g && x.ackIn == some seq) s
    (modGroup l dir g (fun y => { y with unacked := y.unacked.filter (fun e => decide (seq < e.1)), ackIn := none }) s)
/-- MARGIN_MEASURE (R262, R263): the margins of the 36 lanes of a group in 1/64 UI; a lane that no longer toggles has margin 0. -/
def execMarginMeasure (l dir g : Nat) (margins : List Nat) (s : State) : Out :=
  let count (y : Group) (i : Nat) : Nat := if margins.getD i 64 < 12 then tget 0 y.low i + 1 else 0
  let s1 := modGroup l dir g (fun y => { y with margin := (List.range 36).foldl (fun t i => tset 64 t i (margins.getD i 64)) y.margin
                                                low := (List.range 36).foldl (fun t i => tset 0 t i (count y i)) y.low }) s
  evt (groupMoves s l dir g && (s.link l).st == 1) s
    (crcSpare l dir g ([34, 35, 32, 33].foldl (laneAct l dir g) s1 |> fun a => (List.range 32).foldl (laneAct l dir g) a))
/-- Take the control and synchronisation flits of a direction that no group has begun. -/
def takeSmall (l dir : Nat) (s : State) : List Flit × State :=
  let k := s.link l
  let small (x : Group) : List Flit := ((splitQueue true x.midMessage x.queue).2).filter (fun f => flitClass f != 3)
  let left (x : Group) : Group := { x with queue := x.queue.filter (fun f => !(small x).contains f) }
  (((activeList k dir).map (fun g => small (k.group dir g))).flatten ++ (k.wait.filter (fun e => e.1 == dir)).map Prod.snd,
   (activeList k dir).foldl (fun a g => modGroup l dir g left a) (s.setLink l { k with wait := k.wait.filter (fun e => e.1 != dir) }))
/-- GROUP_STOP (R264, R265): a retiring group that has sent all and whose flits are acknowledged stops, and the pairs move to their new groups; fewer
than 8 groups of a direction take the link down. -/
def execGroupStop (l dir g : Nat) (s : State) : Out :=
  let x := (s.link l).group dir g
  let r := takeSmall l dir (modGroup l dir g (fun y => { y with st := 2, discarding := false, replayAt := none }) s)
  let s1 := r.1.foldl (placeSmall l dir) r.2
  evt (groupMoves s l dir g && x.st == 1 && x.unacked.isEmpty && x.queue.isEmpty) s
    (if activeGroups (s1.link l) dir < 8 then linkDown l dir g s1 else s1)

/-! ## Abandonment and routes (R265, R268, R269) -/

/-- The flits of a link that have not been acknowledged or not been sent. -/
def linkFlits (k : Link) : List Flit := (k.groups.map (fun e => e.2.unacked.map Prod.snd ++ e.2.queue)).flatten ++ k.wait.map Prod.snd
/-- An abandoned control message returns to its sender with reason LINK. -/
def bounceFlit (s : State) (f : Flit) : State :=
  match f.cargo with
  | .control _ dest 0 => bounceTo dest 3 (bvLE 64 f.data) s
  | _ => s
/-- Launches whose commands issued bulk packets among flits. -/
def flitLaunches (l : List Flit) : List Nat :=
  l.foldl (fun a f => match f.cargo with | .bulk _ _ x _ => ladd a x | _ => a) []
/-- A group whose flits have been abandoned. -/
def emptied (x : Group) : Group :=
  { x with unacked := [], queue := [], replayAt := none, discarding := false, midPacket := false, midMessage := false, ackIn := none, part := none, good := 0 }
/-- Every flit of a link not yet acknowledged is abandoned: a bulk one is a link fault of the command that issued it, which is dispatched again; a control
message bounces. -/
def abandonLink (l : Nat) (s : State) : State :=
  let k := s.link l
  let fl := linkFlits k
  let s1 := s.setLink l { k with abandoned := true, wait := [], groups := k.groups.map (fun (e : Nat × Group) => (e.1, emptied e.2)) }
  (flitLaunches fl).foldl (fun a x => abandonRun x true a) (fl.foldl bounceFlit s1)
/-- Every group of a link has failed. -/
def allGone (k : Link) : Bool := [0, 1].all (fun d => (List.range 16).all (fun g => (k.group d g).st != 0))
/-- LINK_ABANDON (R265): 10 µs after the link went down, or at once when every group has failed. -/
def execLinkAbandon (l : Nat) (s : State) : Out :=
  let k := s.link l
  let late := k.st == 2 && heldFor s k.downSince (10 * us)
  evt (decide (l < 8) && !k.abandoned && (late || ((k.st == 1 || k.st == 2) && allGone k))) s
    (abandonLink l (if k.st = 1 then linkDown l 0 0 s else s))
/-- A flit belongs to the traffic between two assemblies. -/
def flitOfPair (a b : Nat) (f : Flit) : Bool :=
  let same (x y : Nat) : Bool := (x == a && y == b) || (x == b && y == a)
  match f.cargo with
  | .bulk x y _ _ => same x y
  | .control x y _ => same (asmOf x) (asmOf y)
  | .sync ops => ops.any (fun o => same (asmOf o.1) o.2.1)
  | .ack _ _ => false
/-- The pair's packets on its old path have been delivered or abandoned: no link of it holds a flit of the pair. -/
def pathClear (s : State) (a b : Nat) : Bool := (routeLinks s a b).all (fun l => !(linkFlits (s.link l)).any (flitOfPair a b))
/-- A quarter that is in headland or in reset takes no new route: its links retrain (Table 17-3). -/
def routable (s : State) (a : Nat) : Bool := a == 4 || (s.quarter a).st == 0 || (s.quarter a).st == 3
/-- Requests that wait for the route of a pair are issued, and its messages go on (R269). -/
def releasePair (a b : Nat) (s : State) : State :=
  let mine (r : GReq) : Bool := r.retry.isNone && (reqPair s r == (a, b) || reqPair s r == (b, a))
  sendReqs (s.pel.retries.filter mine) (releaseMsgs a b { s with pel := { s.pel with retries := s.pel.retries.filter (fun r => !mine r) } })
/-- ROUTE_CHANGE (R268, R269): the pair takes the first path that is open, and what waited for it goes on; a quarter with no path to the hub takes a
quarter fault and stays fenced. The alarm is that of the link whose loss changed the route (R266). -/
def execRouteChange (a b : Nat) (s : State) : Out :=
  let r := bestRoute s a b
  let old := tget 0 s.routes (5 * a + b)
  let bad := ((routeLinks s a b).find? (fun l => (s.link l).st != 1)).getD ((routeLinks s a b).headD 0)
  let w := (s.link bad).why
  let s1 := { s with routes := tset 0 (tset 0 s.routes (5 * a + b) r) (5 * b + a) r }
  let s2 := releasePair a b (linkAlarm 0x0404 bad w.1 w.2.1 w.2.2 (laneMargin ((s.link bad).group w.1 w.2.1) w.2.2) s1)
  evt (decide (a < 5) && decide (b < 5) && a != b && r != old && routable s a && routable s b && pathClear s a b) s
    (if r = 3 ∧ (a = 4 ∨ b = 4) then quarterFault (min a b) true s2 else s2)
/-- A link's map reapplied: the spares in use, the failed spares and the retired groups stay, and all else starts afresh (R267). -/
def mapOf (x : Group) : Group := { Group.dflt with st := if x.st = 0 then 0 else 2, spares := x.spares, replaced := x.replaced, lane := x.lane }
/-- The links of a quarter train again after its reset, from their maps; what they still held is abandoned. One that was down stays down. -/
def retrainLinks (q : Nat) (s : State) : State :=
  (quarterLinks q).foldl (fun (a : State) l =>
    if (a.link l).st = 1 then
      let b := abandonLink l a
      let k := b.link l
      b.setLink l { k with st := 0, abandoned := false, groups := k.groups.map (fun (e : Nat × Group) => (e.1, mapOf e.2)) }
    else a) s
/-- The groups of a direction after training: those that trained carry traffic, the others are retired. `fresh` discards the map (R267). -/
def trainDir (l dir : Nat) (fresh : Bool) (ok : W16) (s : State) : State :=
  (List.range 16).foldl (fun (a : State) g =>
    let x := if fresh then Group.dflt else (a.link l).group dir g
    if x.st = 2 ∨ ok.getLsbD g = true then modGroup l dir g (fun _ => x) a
    else linkAlarm 0x0402 l dir g 0 (laneMargin x 0) (modGroup l dir g (fun _ => { x with st := 2 }) a)) s
/-- A link is up after training, or down when a direction has fewer than 8 groups. -/
def linkUp (l : Nat) (s : State) : State :=
  let k := s.link l
  if 8 ≤ activeGroups k 0 ∧ 8 ≤ activeGroups k 1 then s.setLink l { k with st := 1, downSince := none, abandoned := false }
  else
    let d := if activeGroups k 0 < 8 then 0 else 1
    linkDown l d (((List.range 16).find? (fun g => (k.group d g).st == 2)).getD 0) s
/-- LG after training: the modules of a mask, 2 to 4 of them in service, else it is down (R286). What was not acknowledged is replayed, and what waited
is sent. -/
def guestTrained (n : Nat) (s : State) : State :=
  let k := s.link 8
  let s1 := { s with guest := { s.guest with modules := n, retrain := none } }
  if 2 ≤ (setBits 4 n).length then guestDrain 1024 (guestReplay (s1.setLink 8 { k with st := 1, downSince := none, abandoned := false })) else linkDown 8 0 0 s1
/-- A link trains again at the reset of a quarter in which it ends. -/
def retrainsNow (s : State) (l : Nat) : Bool := decide (l < 8) && (List.range 4).any (fun q => (quarterLinks q).contains l && (s.quarter q).st == 2)
/-- LINK_TRAINING (R267, R286): at a module reset or cold boot a link trains from a map with no spares in use, and at a quarter reset from its own map;
LG also for GUEST_RETRAIN or R286. fwd and rev name the groups that trained; on LG, fwd names the modules. -/
def execLinkTraining (l : Nat) (fwd rev : BitVec 16) (s : State) : Out :=
  let fresh := s.boot.step == 5
  evt (decide (l < 9) && (s.link l).st == 0 && (fresh || retrainsNow s l || (l == 8 && s.guest.retrain.isSome && !s.guest.unpowered)) &&
       (l != 8 || is4G s)) s
    (if l = 8 then guestTrained (fwd.toNat % 16) s else linkUp l (trainDir l 1 fresh rev (trainDir l 0 fresh fwd s)))

/-! ## Vertical buses (R282, R284) -/

/-- Source identifier of a bus: its core, half, way's half or quarter. -/
def vbusSrc (q bus i : Nat) : Nat :=
  match bus with | 0 => srcCore (64 * q + i) | 1 => srcHalf (2 * q + i / 16) | 2 => srcHalf (2 * q + i) | _ => srcQuarter q
/-- The data of a beat that a bus delivers poisoned (Table 9-8): what request i of half h reads, or what it stores. -/
def beatPoisoned (h i : Nat) (s : State) : State :=
  match (s.half h).reqs[i]? with
  | none => s
  | some r =>
    let s1 := takeReq h i s
    match r.op with
    | .read => answer r (sectorView s r.stage r.pa).1 [0, 1] 2 s1
    | .write m _ => answer r [] [] 0 (writeBytes r.stage r.master r.slot r.pa true m s1)
    | .atomic _ ty off lanes =>
      let k := if wide ty then 8 else 4
      let old := ((sectorView s r.stage r.pa).1.drop off).take k
      answerAtom r (lanes.map (fun e => (e.1, leNat old))) true (writeBytes r.stage r.master r.slot (r.pa + off) true ((List.range k).zip old) s1)
/-- A request whose beat crosses a bus: one of the core at its port, or one whose line lies in the way. -/
def beatOn (s : State) (q bus i : Nat) (beat : Nat × Nat) : Bool :=
  match (s.half beat.1).reqs[beat.2]? with
  | none => false
  | some r =>
    if bus = 0 then reqSrc r == srcCore (64 * q + i)
    else if bus = 1 then beat.1 == 2 * q + i / 16 && (s.half beat.1).lines.any (fun l => l.way == i % 16 && l.num == r.pa / 256)
    else false
/-- VBUS_UNCORRECTABLE (R282): a beat of a core port or way bus delivers its data poisoned, of the other buses not at all, and the region behind the bus is
fenced. -/
def execVbusUncorrectable (q bus : Nat) (at_ : Nat × Option (Nat × Nat)) (s : State) : Out :=
  let i := at_.1
  let s0 := match at_.2 with | some b => if beatOn s q bus i b then beatPoisoned b.1 b.2 s else s | none => s
  let s1 := alarmW 0x0405 (vbusSrc q bus i) [bus, i, (now s).toNat] s0
  evt (wfVbus q bus i && (bus != 0 || coreFitted s (64 * q + i)) && (bus != 1 || decide (i % 16 < waysFitted s))) s
    (match bus with
     | 0 => coreReset (64 * q + i) s1
     | 1 => fenceWay (2 * q + i / 16) (i % 16) s1
     | 2 => quarterFault q false s1
     | _ => quarterFault q false s1)
/-- VBUS_CE_RATE (R284): a bus has corrected n errors since its last report; more than 1,000 within 1 s raise an alarm. -/
def execVbusCeRate (q bus i n : Nat) (s : State) : Out :=
  let key := 1000 * q + 100 * bus + i
  let l := (tget [] s.vbus key).filter (fun e => decide (since s e.1 < sec1)) ++ [(now s, n)]
  let total : Nat := l.foldl (fun a e => a + e.2) 0
  let s1 := bump (ctlBlk + 0x40) n { s with vbus := tset [] s.vbus key l }
  let s2 := busRec (vbusSrc q bus i) n (256 * bus + i) s1
  evt (wfVbus q bus i) s (if 1000 < total then alarmW 0x0406 (vbusSrc q bus i) [bus, i, total] s2 else s2)

end Sys2Proof.Machine
end

