-- ==== Sys2Proof/Machine/Launch.lean ====
section
/-! DEFINITION. Work commands: their start, flags, runs, stages, view areas and timeouts (09 R278; 12 R349 to R361; 13 R366 to R379).
Readings in log 28. -/
namespace Sys2Proof.Machine

/-! ## The start of work commands (R350, R349) -/

/-- The command of a work queue that starts next. -/
def workNext (s : State) (qu : Nat) : Option Cmd :=
  s.pel.cmds.find? (fun x => x.queue == qu && decide (x.st = .accepted) && x.first.isNone)
/-- The hub is not at CRITICAL, at which Pelseso starts no new work command (16 Table 16-4). -/
def hubCool (s : State) : Bool := decide ((tget Region.dflt s.thm.regions 330).level < 3)
/-- A row starts the next command of a work queue when it is that row's; a command that fails the common checks ends. -/
def workRow (qu op : Nat) (body : Cmd → State → State) (s : State) : Out :=
  match workNext s qu with
  | none => .next s
  | some x =>
    evt (decide (32 ≤ qu) && inService s && fenceClear s x && hubCool s) s
      (match commonCheck s x with
       | some (st, dt) => endCmd x.queue x.seq st dt (started x s)
       | none => if opOf x = op then body x s else s)
/-- Group of a queue. -/
def queueGroup (s : State) (qu : Nat) : Nat := match s.queue? qu with | some k => k.group | none => 0
/-- The run of a command. -/
def runOfCmd (s : State) (x : Cmd) : Option (Nat × Run) := s.pel.runs.find? (fun e => e.2.queue == x.queue && e.2.seq == x.seq)

/-! ## LAUNCH: fields, placement, flags (R105, R278, R359) -/

/-- The run that a LAUNCH descriptor describes, before its placement. -/
def launchRun (x : Cmd) (g : Nat) : Run :=
  let d := x.desc
  let a := fld d 0x24 4
  let b := fld d 0x28 4
  let t := fld d 0x2C 4
  { queue := x.queue, seq := x.seq, group := g, opcode := opOf x, stage := none, cores := [], qmask := bits a 19 16
    entry := BitVec.ofNat 64 (fld d 8 8), arg := BitVec.ofNat 64 (fld d 0x10 8), viewAddr := BitVec.ofNat 64 (fld d 0x38 8), stooks := fld d 0x20 4
    regs := 8 * bits b 7 0, sheaves := bits b 15 8, scratch := 4096 * bits b 24 16, cunits := if bits b 29 25 = 0 then 7 else bits b 29 25
    trapMask := if bit t 4 then bits t 3 0 else 1, poisonPolicy := bit a 28, lockUs := if fld d 0x30 4 = 0 then 10000 else fld d 0x30 4
    limitUs := if fld d 0x34 4 = 0 then 1000000 else fld d 0x34 4, ring := bit a 20, cols := [], flags := (0, []), poisonedThreads := 0, kill := none
    left := fld d 0x20 4, begun := [], copyPoison := false }
/-- CTX_COUNT. -/
def ctxCount (x : Cmd) : Nat := fld x.desc 0x24 2
/-- Flags of a launch. -/
def flagCount (x : Cmd) : Nat := 2 ^ bits (fld x.desc 0x24 4) 27 24
/-- Field checks of Table 12-11, but for CTX_COUNT against the placement. -/
def launchOk (s : State) (x : Cmd) (r : Run) : Bool :=
  let d := x.desc
  let a := fld d 0x24 4
  let b := fld d 0x28 4
  let gq := match tfind s.pel.groups r.group with | some g => g.qmask | none => 0
  r.entry.toNat % 8 == 0 && decide (1 ≤ r.stooks) && decide (r.stooks ≤ 2 ^ 24) && decide (r.qmask ≠ 0) && r.qmask &&& gq == r.qmask &&
  bits a 23 21 == 0 && decide (bits a 27 24 ≤ 12) && bits a 31 29 == 0 && decide (2 ≤ bits b 7 0) && decide (bits b 7 0 ≤ 32) &&
  decide (1 ≤ r.sheaves) && decide (r.sheaves ≤ 32) && decide (bits b 24 16 ≤ 480) && decide (r.scratch ≤ 0x1F_0000 - 0x1_0000 * r.cunits) &&
  bits b 31 30 == 0 && decide (fld d 0x2C 4 < 32) && decide (r.lockUs ≤ 1000000) && decide (10 ≤ r.limitUs) && decide (r.limitUs ≤ 10000000) &&
  r.viewAddr.toNat % 64 == 0
/-- In-service cores of the quarters of a mask, in logical order (R359). -/
def placement (s : State) (qmask : Nat) : List Nat :=
  (coreList s).filter (fun n => bit qmask (n / 64) && (s.core n).inService && !(s.core n).headland)
/-- A core holds one stook of the run (R105). -/
def stookFits (r : Run) : Bool := decide (r.sheaves * (r.regs / 8) ≤ 512)
/-- The gaps between the pieces of a store that are given, from a flag on: first flag and count. -/
def flagGaps : Nat → List (Nat × Nat × Nat) → List (Nat × Nat)
  | a, [] => [(a, 4096 - a)]
  | a, o :: t => (a, o.1 - a) :: flagGaps (o.1 + o.2.1) t
/-- The first n flags of gaps, in pieces. -/
def takeGaps : Nat → List (Nat × Nat) → List (Nat × Nat)
  | _, [] => []
  | n, (a, k) :: t => if n ≤ k then [(a, n)] else (a, k) :: takeGaps (n - k) t
/-- The lowest n free flags of a store, in pieces, if it has them (R278; which of the free flags is log 28). -/
def flagRoom (s : State) (q n : Nat) : Option (List (Nat × Nat)) :=
  let g := (flagGaps 0 (s.flagStore q).owned).filter (fun e => decide (0 < e.2))
  if n ≤ (g.map Prod.snd).foldl (· + ·) 0 then some (takeGaps n g) else none
/-- The store that gives a launch its flags: of its quarters first, lowest number first (R278). -/
def flagPlace (s : State) (qmask n : Nat) : Option (Nat × List (Nat × Nat)) :=
  let qs := (List.range 4).filter (fun q => bit qmask q) ++ (List.range 4).filter (fun q => !bit qmask q)
  qs.findSome? (fun q => if (s.quarter q).st = 0 then (flagRoom s q n).map (fun a => (q, a)) else none)
/-- Put a piece in its place among those of a store. -/
def insPiece (o : Nat × Nat × Nat) : List (Nat × Nat × Nat) → List (Nat × Nat × Nat)
  | [] => [o]
  | p :: t => if o.1 < p.1 then o :: p :: t else p :: insPiece o t
/-- Give flags to a launch: they read 0. -/
def giveFlags (q launch : Nat) (l : List (Nat × Nat)) (s : State) : State :=
  let k := s.flagStore q
  s.setFlagStore q { k with owned := l.foldl (fun o e => insPiece (e.1, e.2, launch) o) k.owned
                            vals := k.vals.filter (fun x => !l.any (fun e => decide (e.1 ≤ x.1) && decide (x.1 < e.1 + e.2))) }
/-- A launch takes the next launch identifier and its flags; false when no store has room. -/
def takeFlags (x : Cmd) (s : State) : Bool × State :=
  match flagPlace s (bits (fld x.desc 0x24 4) 19 16) (flagCount x) with
  | none => (false, s)
  | some (q, a) =>
    let l := s.pel.launchCtr
    let s1 := giveFlags q l.toNat a { s with pel := { s.pel with launchCtr := l + 1 } }
    (true, modCmd x.queue x.seq (fun y => { y with launch := l, waitFlags := false }) s1)
/-- A launch that has started and finds no store with room waits for its flags, behind those that began to wait before it (R278). -/
def awaitFlags (x : Cmd) (s : State) : State :=
  modCmd x.queue x.seq (fun y => { y with waitFlags := true }) { s with pel := { s.pel with flagQueue := s.pel.flagQueue ++ [(x.queue, x.seq)] } }
/-- LAUNCH starts: it takes its flags, or waits for them. -/
def launchBody (x : Cmd) (s : State) : State :=
  let r := launchRun x (queueGroup s x.queue)
  let c := placement s r.qmask
  afterNames x (fun s =>
    checks x [(launchOk s x r, 0x11), (!c.isEmpty, 0x28), (decide (ctxCount x ≤ 32 * c.length), 0x11), (stookFits r, 0x28)]
      (fun s =>
        let t := takeFlags x s
        if t.1 then t.2 else awaitFlags x s)
      (started x s)) s
/-- LAUNCH (R359). -/
def execLaunch (qu : Nat) (s : State) : Out := workRow qu 0x40 launchBody s
/-- COPY (R361). -/
def execCopy (qu : Nat) (s : State) : Out :=
  workRow qu 0x41 (fun x s =>
    let d := x.desc
    checks x [(onlyAt d [(0x10, 24)] && fld d 0x10 8 % 64 == 0 && fld d 0x18 8 % 64 == 0 && fld d 0x20 8 % 64 == 0 && decide (fld d 0x20 8 ≤ 2 ^ 40), 0x11)]
      id (started x s)) s
/-- MARK (R352). -/
def execMark (qu : Nat) (s : State) : Out := workRow qu 0x42 (fun x s => checks x [(onlyAt x.desc [], 0x11)] id (started x s)) s
/-- LAUNCH_FLAGS_FREED (R278): the launch that has waited longest starts; one that has ended leaves the queue. -/
def execLaunchFlagsFreed (s : State) : Out :=
  match s.pel.flagQueue with
  | [] => .next s
  | (qu, seq) :: t =>
    let s1 := { s with pel := { s.pel with flagQueue := t } }
    match (findCmd s qu seq).filter (fun x => x.waitFlags) with
    | none => .next s1
    | some x => let r := takeFlags x s1
                evt (inService s && r.1) s r.2

/-! ## Writes under a stage (R367 to R371) -/

/-- One sector of a staged write: conflicts and room come first; none when the write waits. A run that ends here writes nothing more. -/
def stageOne (st slot pa : Nat) (b : List Byte) (psn : List Nat) (s : State) : Option State :=
  match resolveConflict (some st) pa s with
  | none => none
  | some s1 =>
    match (match place s1 pa with | .hub _ => some s1 | _ => spillRoom st pa s1) with
    | none => none
    | some s2 =>
      if (launchOfStage s2 st).isNone then some s2
      else some (psn.foldl (fun a w => slotPut (some st) slot (pa + 32 * w) (slice b (32 * w) 32) true a)
        (slotPut (some st) slot pa b false (noteCuts (some st) [(pa, b.length)] s2)))
/-- A staged write of several sectors. -/
def stageAll (st slot : Nat) : List (Nat × List Byte × List Nat) → State → Option State
  | [], s => some s
  | e :: t, s => match stageOne st slot e.1 e.2.1 e.2.2 s with | none => none | some s1 => stageAll st slot t s1
/-- Cut bytes over sectors. -/
def overCuts : List (Nat × Nat) → List Byte → List (Nat × List Byte × List Nat)
  | [], _ => []
  | e :: t, b => (e.1, b.take e.2, []) :: overCuts t (b.drop e.2)

/-! ## The view area (R252, R360) -/

/-- Index of a core in its quarter's ring, and the ring's member count. -/
def ringPos (s : State) (n : Nat) : Nat × Nat :=
  let l := ringMembers s (n / 64)
  if l.contains n then (l.idxOf n, l.length) else (0, 0)
/-- Entry of a core in the core table. -/
def coreEntry (s : State) (r : Run) (n : Nat) : List Byte :=
  let p := if r.ring then ringPos s n else (0, 0)
  let k := r.cores.idxOf n
  natLE 1 p.1 ++ natLE 1 p.2 ++ natLE 2 (b2n (r.cores.contains n)) ++
  natLE 4 (if r.cores.contains n && decide (32 * k < r.cols.length) then 32 * k else 0xFFFF_FFFF)
/-- A context view (Table 12-12). -/
def viewBytes (s : State) (y : Column) : List Byte :=
  match tfind s.pel.ctxs y.ctx with
  | none => List.replicate 32 0
  | some c => natLE 2 y.ctx ++ natLE 1 y.col ++ natLE 1 0 ++ natLE 2 (logCore s y.core) ++ natLE 2 0 ++ bvLE 8 c.kvRoot ++ bvLE 4 c.kvLen ++
              bvLE 4 c.temp ++ bvLE 4 c.topK ++ bvLE 4 c.topP
/-- The view area of a run. -/
def viewArea (s : State) (r : Run) : List Byte :=
  padTo 2048 ((coreList s).map (coreEntry s r)).flatten ++ (r.cols.map (viewBytes s)).flatten
/-- Columns of a placement for listed contexts: the counter begins at the committed one (R198). -/
def columnsFor (s : State) (cores ctxs : List Nat) : List Column :=
  (ctxs.zip (List.range ctxs.length)).map (fun e =>
    { ctx := e.1, core := cores.getD (e.2 / 32) 0, col := e.2 % 32, counter := (match tfind s.pel.ctxs e.1 with | some c => c.counter | none => 0)
      tokens := none, staged := 0, marked := false, streamEnd := false })
/-- Deliver the stooks of a run over the control network: stook i to core i mod c, and a launch key request on each core that gets one (R195, R359), which fails
at once while the entropy source fails its tests (R196). -/
def deliver (launch : Nat) (r : Run) (s : State) : State :=
  let c := r.cores.length
  (r.cores.zip (List.range c)).foldl (fun (a : State) e =>
    if e.2 < r.stooks then
      let k := a.core e.1
      let w := (List.range (cdiv (r.stooks - e.2) c)).map (fun j => (launch, e.2 + j * c))
      let b := a.setCore e.1 { k with waiting := k.waiting ++ w, seed := { k.seed with launchReq := tput k.seed.launchReq launch (now a) } }
      let d := signal 0 (srcCore e.1) 3 b
      if s.sec.entropyFailed then launchKeyFail e.1 launch d else d
    else a) s

/-! ## The start of a run (R366, R379) -/

/-- The lowest free stage number. -/
def freeStage (s : State) : Option Nat := (List.range 4096).find? (fun i => !s.pel.stages.contains i)
/-- Quarters of a placement. -/
def quartersOf (cores : List Nat) : Nat := ((List.range 4).filter (fun q => cores.any (fun n => n / 64 == q))).foldl (fun a q => a + 2 ^ q) 0
/-- A run exists: it holds its stage, and its command is RUNNING. -/
def openRun (x : Cmd) (launch st : Nat) (r : Run) (s : State) : State :=
  let s1 := { s with pel := { s.pel with runs := tput s.pel.runs launch { r with stage := some st }, stages := ladd s.pel.stages st } }
  modCmd x.queue x.seq (fun y => { y with st := .running, start := some (y.start.getD (now s)), runs := y.runs + 1, quarters := quartersOf r.cores
                                          launch := BitVec.ofNat 32 launch }) (syncRoles r.cores s1)
/-- Flags that a launch holds: their store, and their pieces. -/
def flagsOf (s : State) (launch : Nat) : Nat × List (Nat × Nat) :=
  let l (q : Nat) : List (Nat × Nat) := ((s.flagStore q).owned.filter (fun o => o.2.2 == launch)).map (fun o => (o.1, o.2.1))
  match (List.range 4).find? (fun q => !(l q).isEmpty) with | some q => (q, l q) | none => (0, [])
/-- A run of a LAUNCH begins with its contexts read: checks of R360, the view area, and the stooks. -/
def beginViews (x : Cmd) (launch st : Nat) (r0 : Run) (ctxs : List Nat) (s : State) : State :=
  let mine (c : Nat) : Bool := match tfind s.pel.ctxs c with | some k => k.group == r0.group | none => false
  checks x [(ctxs.all mine, 0x15), (decide ctxs.Nodup, 0x11)]
    (fun s =>
      match virt s r0.group .write r0.viewAddr.toNat (2048 + 32 * ctxs.length) with
      | none => done x 0x20 s
      | some v =>
        if lost s v then endCmd x.queue x.seq 0x02 1 s
        else if !(heldCuts s v).isEmpty then holdCmd x (heldCuts s v).length s
        else
          let r := { r0 with cols := columnsFor s r0.cores ctxs, flags := flagsOf s launch }
          let s1 := openRun x launch st r s
          match stageAll st (groupSlot s r.group) (overCuts (cuts v) (viewArea s r)) s1 with
          | none => s
          | some s2 => if (tfind s2.pel.runs launch).isSome then deliver launch r s2 else s2) s
/-- A context that CTX_LIST now names is named by an earlier command without a record, or held by another run: two runs never draw from one
counter (R199). -/
def namesBusy (s : State) (x : Cmd) (launch : Nat) : Bool :=
  let l := listedCtxs s x
  earlierNames s x || s.pel.runs.any (fun e => e.1 != launch && e.2.cols.any (fun c => l.contains c.ctx))
/-- A run of a LAUNCH on a placement: CTX_LIST is read first. -/
def beginLaunch (x : Cmd) (launch st : Nat) (cores : List Nat) (s : State) : State :=
  let r := { launchRun x (queueGroup s x.queue) with cores := cores }
  let n := ctxCount x
  if namesBusy s x launch then s
  else match virt s r.group .read (fld x.desc 0x18 8) (2 * n) with
  | none => done x 0x20 s
  | some l => onRead x (cmdRead none (groupSlot s r.group) l s) (fun b s => beginViews x launch st r ((List.range n).map (fun i => fld b (2 * i) 2)) s)
/-- Number under which a run of a COPY or MARK is kept: none is a launch identifier. -/
def plainRun (x : Cmd) : Nat := 2 ^ 32 + x.order
/-- A command that ended as its run began gives its flags back. -/
def tidyFlags (x : Cmd) (launch : Nat) (s : State) : State :=
  match findCmd s x.queue x.seq with
  | some y => if y.st = .ended ∧ (tfind s.pel.runs launch).isNone then freeFlags (BitVec.ofNat 32 launch) s else s
  | none => s
/-- A run of a command begins, if its placement has the cores it needs. -/
def beginRun (x : Cmd) (launch st : Nat) (s : State) : State :=
  if x.bad = (true, true) then tidyFlags x launch (endCmd x.queue x.seq 0x02 3 s)
  else if opOf x = 0x40 then
    let cores := placement s (bits (fld x.desc 0x24 4) 19 16)
    if cores.length < cdiv (ctxCount x) 32 then s
    else tidyFlags x launch (if cores.isEmpty then done x 0x28 s else beginLaunch x launch st cores s)
  else openRun x (plainRun x) st { launchRun x (queueGroup s x.queue) with left := 0 } s
/-- RUN_START (R366): a started command takes a free stage and its run is dispatched. -/
def execRunStart (qu seq : Nat) (s : State) : Out :=
  match findCmd s qu seq, freeStage s with
  | some x, some st =>
    evt (inService s && decide (32 ≤ qu) && decide (x.st = .accepted) && x.start.isSome && !x.waitFlags && retryDue s x) s (beginRun x x.launch.toNat st s)
  | _, _ => .next s
/-- REDISPATCH (R379): an abandoned command runs again with a new stage, launch identifier and flags; the timeout runs from this start.
A LAUNCH for which no store has room waits for its flags. -/
def execRedispatch (qu seq : Nat) (s : State) : Out :=
  match findCmd s qu seq, freeStage s with
  | some x, some st =>
    let t := if opOf x = 0x40 then takeFlags x s else (true, s)
    let l := if opOf x = 0x40 then s.pel.launchCtr.toNat else 0
    let s1 := modCmd qu seq (fun y => { y with start := some (now s) }) t.2
    let s2 := beginRun x l st s1
    let begun : Bool := match findCmd s2 qu seq with | some y => decide (y.st ≠ .accepted) | none => false
    evt (inService s && decide (32 ≤ qu) && decide (x.st = .accepted) && x.first.isSome && x.start.isNone && retryDue s x) s
      (if !t.1 then awaitFlags x (modCmd qu seq (fun y => { y with start := some (now s) }) s)
       else if begun then s2 else
        match findCmd s2 qu seq with
        | some y =>
          if y.retry != x.retry then holdCmd x (tget 0 s2.counters 0x00D0_0218 - tget 0 s.counters 0x00D0_0218).toNat s
          else if y.readAt.isSome then modCmd qu seq (fun z => { z with readAt := y.readAt }) s else s
        | none => s)
  | _, _ => .next s

/-! ## The end of a run (R126, R361, R364) -/

/-- Poisoned 32-byte words of a source sector of a copy. -/
def srcWords (s : State) (slot pa : Nat) : List Nat :=
  if mismatch s none slot pa then [] else [0, 1].filter (fun w => sectorPoison s none (pa + 32 * w) 32)
/-- A COPY moves its bytes: the source is read whole before the first write, and poison marks travel with the data. -/
def copyRun (x : Cmd) (launch st : Nat) (r : Run) (s : State) : State :=
  let d := x.desc
  let n := fld d 0x20 8
  let slot := groupSlot s r.group
  match virt s r.group .read (fld d 0x10 8) n, virt s r.group .write (fld d 0x18 8) n with
  | some a, some b =>
    if lost s a || lost s b then failRun launch 0x02 1 s
    else if !(heldCuts s (a ++ b)).isEmpty then holdCmd x (heldCuts s (a ++ b)).length s
    else if (cuts a).any (fun e => burstStalls s e.1) then modCmd x.queue x.seq (fun y => { y with readAt := some (y.readAt.getD (now s)) }) s
    else
      let src := (cuts a).map (fun e => (cutBytes s none slot e, srcWords s slot e.1))
      let w := ((cuts b).zip src).map (fun e => (e.1.1, e.2.1, e.2.2))
      match stageAll st slot w (noteCuts none (cuts a) (noteMismatch none slot (cuts a) s)) with
      | none => s
      | some s1 => modCmd x.queue x.seq (fun y => if y.st = .running then { y with st := .ended, readAt := none } else y)
          (modRun launch (fun r => { r with copyPoison := src.any (fun e => !e.2.isEmpty) }) s1)
  | _, _ => failRun launch 0x20 0 s
/-- RUN_ENDED (R364, R126): every stook has ended and every store is acknowledged. -/
def execRunEnded (qu seq : Nat) (s : State) : Out :=
  match findCmd s qu seq with
  | none => .next s
  | some x =>
    match runOfCmd s x with
    | none => .next s
    | some (launch, r) =>
      match r.stage with
      | none => .next s
      | some st =>
        evt (inService s && decide (x.st = .running) && r.left == 0 && !reqDue (ofStage st) s && retryDue s x) s
          (if r.opcode = 0x41 then copyRun x launch st r s else modCmd qu seq (fun y => { y with st := .ended }) s)

/-! ## Timeouts (R351) -/

/-- A command ends early, with its run and its flags. -/
def stopCmd (x : Cmd) (status : Nat) (s : State) : State :=
  match runOfCmd s x with
  | some (launch, _) => failRun launch status 0 s
  | none => done x status (if 32 ≤ x.queue ∧ opOf x = 0x40 ∧ x.start.isSome ∧ !x.waitFlags then freeFlags x.launch s else s)
/-- The pin whose command times out is released. -/
def dropPinOf (x : Cmd) (s : State) : State :=
  match s.pel.pins.find? (fun e => e.2.cmd == some (x.queue, x.seq)) with
  | some e => releasePin e.1 1 s
  | none => s
/-- COMMAND_TIMEOUT (R351). -/
def execCommandTimeout (qu seq : Nat) (s : State) : Out :=
  match findCmd s qu seq with
  | none => .next s
  | some x =>
    evt (inService s && decide (x.st ≠ .ended) && heldFor s x.start (timeoutNs x)) s
      (stopCmd x 0x26 (dropPinOf x { s with pel := { s.pel with flagQueue := s.pel.flagQueue.filter (fun e => e != (qu, seq)) } }))
/-- COMMAND_READ_TIMEOUT (R351). -/
def execCommandReadTimeout (qu seq : Nat) (s : State) : Out :=
  match findCmd s qu seq with
  | none => .next s
  | some x => evt (inService s && heldFor s x.readAt ms) s
      (match runOfCmd s x with
       | some (launch, _) => failRun launch 0x02 0 (modCmd qu seq (fun y => { y with readAt := none }) s)
       | none => stopCmd x 0x02 (modCmd qu seq (fun y => { y with readAt := none }) s))

end Sys2Proof.Machine
end

