-- ==== Sys2Proof/Machine/Tally.lean ====
section
/-! DEFINITION. The tally: the decision of a command, the commit of its stage and contexts, the completion record and what follows it
(12 R348, R354, R355; 13 R372 to R382; 14 R399). -/
namespace Sys2Proof.Machine

/-! ## The fold of a stage (R368, R373) -/

/-- Write a whole sector with its poisoned 32-byte words into committed memory. -/
def putWords (slot pa : Nat) (b : List Byte) (psn : List Nat) (s : State) : State :=
  psn.foldl (fun a w => slotPut none slot (pa + 32 * w) (slice b (32 * w) 32) true a) (slotPut none slot pa b false s)
/-- Write the present sectors of a shadow line into committed memory. -/
def putSectors (slot : Nat) (l : Line) (s : State) : State :=
  ([0, 1, 2, 3].filter (fun i => l.present.getLsbD i)).foldl (fun a i =>
    putWords slot (lineAddr l.num + 64 * i) (lineSector l i).1 (lineWords l i) a) s
/-- Fold a shadow line: it becomes the committed line where the half holds none and awaits none, else its sectors are written; those of NOALLOC
stores go to LPDDR where the line is absent. -/
def foldLine (h slot : Nat) (l : Line) (s : State) : State :=
  let hf := s.half h
  if place s (lineAddr l.num) = .lpddr ∧ l.age < 4 ∧ (findLine hf l.num).isNone ∧ !(hf.fills.any (fun f => f.install && f.num == l.num)) then
    let up (x : Line) : Line := if x.num = l.num ∧ x.shadow = l.shadow then { x with shadow := none, dirty := x.present, slot := slot, age := if l.age = 0 then 2 else l.age } else x
    s.setHalf h { hf with lines := hf.lines.map up, merge := hf.merge.filter (fun m => m.sector / 4 != l.num) }
  else putSectors slot l s
/-- Fold the shadow lines of a stage in a half. -/
def foldHalf (st slot : Nat) (s : State) (h : Nat) : State :=
  ((s.half h).lines.filter (fun l => l.shadow == some st)).foldl (fun a l => foldLine h slot l a) s
/-- Fold the spilled sectors of a stage. -/
def foldSpills (st slot : Nat) (s : State) (q : Nat) : State :=
  ((tget [] s.pel.spills q).filter (fun x => x.stage == st)).foldl (fun a x => putWords slot x.pa x.bytes x.psn a) s
/-- Every holder of a stage folds its shadows into committed copies. -/
def foldStage (st slot : Nat) (s : State) : State :=
  (List.range 5).foldl (foldSpills st slot) ((List.range 8).foldl (foldHalf st slot) s)

/-! ## Contexts at commit (R374, R376, R377) -/

/-- A view as the kernel left it: KV_ROOT and KV_LEN. -/
def viewRoot (b : List Byte) (i : Nat) : W64 := BitVec.ofNat 64 (fld b (32 * i + 8) 8)
/-- KV_LEN. -/
def viewLen (b : List Byte) (i : Nat) : W32 := BitVec.ofNat 32 (fld b (32 * i + 16) 4)
/-- A column with its view index. -/
def indexed (r : Run) : List (Column × Nat) := r.cols.zip (List.range r.cols.length)
/-- Every view passes its check. -/
def viewsOk (s : State) (r : Run) (b : List Byte) : Bool :=
  (indexed r).all (fun e => match tfind s.pel.ctxs e.1.ctx with
    | some c => decide (c.kvLen ≤ viewLen b e.2) && (viewRoot b e.2).toNat % 64 == 0 && decide ((viewRoot b e.2).toNat < 2 ^ 47)
    | none => false)
/-- A column whose context commits. -/
def commits (y : Column) : Bool := !y.marked && !y.streamEnd
/-- Commit the contexts that neither poison nor a stream end holds back. -/
def commitCtxs (r : Run) (b : List Byte) (s : State) : State :=
  ((indexed r).filter (fun e => commits e.1)).foldl (fun (a : State) e =>
    match tfind a.pel.ctxs e.1.ctx with
    | none => a
    | some c =>
      let tok := match e.1.tokens with | some t => some (t.token, t.prob, t.counter) | none => c.token
      let n := { c with kvRoot := viewRoot b e.2, kvLen := viewLen b e.2, counter := e.1.counter, token := tok }
      { a with pel := { a.pel with ctxs := tput a.pel.ctxs e.1.ctx n } }) s
/-- The commit record of a column (Table 13-3), after its context was committed. -/
def commitRec (s : State) (y : Column) : List Byte :=
  let out := if y.streamEnd then 3 else if y.marked then 2 else if y.tokens.isSome then 0 else 1
  match tfind s.pel.ctxs y.ctx with
  | none => List.replicate 32 0
  | some c =>
    let t : Staged := match commits y, y.tokens with | true, some t => t | _, _ => { token := 0xFFFF_FFFF, prob := 0, counter := c.counter }
    natLE 2 y.ctx ++ natLE 1 out ++ natLE 1 (b2n (y.streamEnd && y.marked)) ++ bvLE 4 t.token ++ bvLE 8 t.counter ++ bvLE 4 c.kvLen ++ bvLE 4 t.prob ++
    bvLE 8 c.kvRoot

/-! ## The completion record (R378) -/

/-- What a run gives its record: AUDIT and the words at 0x10, 0x14 and 0x18. -/
def recInfo (r : Option Run) (commit : Bool) : Bool × Nat × Nat × Nat :=
  match r with
  | none => (false, 0, 0, 0xFFFF_FFFF)
  | some r =>
    let toks := r.cols.filter (fun y => y.tokens.isSome)
    let marked := (indexed r).filter (fun e => e.1.marked)
    let first := match marked with | e :: _ => e.2 | [] => 0xFFFF_FFFF
    match toks with
    | [y] =>
      (match commit && commits y, y.tokens with
       | true, some t => (true, t.token.toNat, t.prob.toNat, t.counter.toNat)
       | _, _ => (false, if commit then (r.cols.filter commits).length else 0, marked.length, first + 2 ^ 32 * (r.poisonedThreads % 2 ^ 32)))
    | _ => (false, if commit then (r.cols.filter commits).length else 0, marked.length, first + 2 ^ 32 * (r.poisonedThreads % 2 ^ 32))
/-- A completion record (Table 13-4). -/
def recordOf (x : Cmd) (status detail : Nat) (i : Bool × Nat × Nat × Nat) : List Byte :=
  natLE 8 x.seq ++ natLE 4 (fld x.desc 4 4) ++ natLE 1 status ++ natLE 1 detail ++ natLE 1 (min x.runs 15 + 16 * b2n i.1) ++
  natLE 1 (if 32 ≤ x.queue then x.quarters else 0) ++ natLE 4 i.2.1 ++ natLE 4 i.2.2.1 ++ natLE 8 i.2.2.2
/-- The record's place, or the ring's control block, cannot be written: its channel or stack has failed, or its quarter is fenced (R382). -/
def ringLost (s : State) (k : Queue) (a : Nat) : Bool :=
  let dead (pa : Nat) : Bool :=
    match place s pa with | .lpddr => fencedAddr s pa || chanDead s (lpLoc s pa).1 (lpChan (lpLoc s pa).2) | _ => false
  dead a || dead k.cqAddr
/-- The record's place, or the ring's control block, lies in a quarter that returns the tally's write retry-later (R464). -/
def ringHeld (s : State) (x : Cmd) : Bool :=
  match s.queue? x.queue with
  | some k =>
    decide (32 ≤ x.queue) && decide (k.st ≠ 3) && !ringLost s k (k.cqAddr + 64 + 32 * (x.seq % 2 ^ k.depthLog2)) &&
    (retryAddr s (k.cqAddr + 64 + 32 * (x.seq % 2 ^ k.depthLog2)) || retryAddr s k.cqAddr)
  | none => false
/-- The notices of a record: to every mailbox that may ring the queue (R399). -/
def noticeRec (k : Queue) (qu : Nat) (rec : List Byte) (s : State) : State :=
  (setBits 32 k.mbMask.toNat).foldl (fun a b => notifyMb b 2 qu 0 rec a) s
/-- Write a record to the admin completion ring, then advance CPL_TAIL. -/
def postAdmin (qu seq : Nat) (k : Queue) (rec : List Byte) (s : State) : State :=
  let m := s.mb qu
  let s1 := s.setMb qu { m with cpl := mwrite m.cpl (32 * (seq % 64)) rec, cplTail := m.cplTail + 1 }
  noticeRec k qu rec (bump 0x0090_0108 1 (s1.setQueue qu { k with posted := k.posted + 1 }))
/-- Write a record to a work queue's ring, then advance POSTED; a ring that cannot be written pauses the queue for good. -/
def postWork (qu seq : Nat) (k : Queue) (rec : List Byte) (s : State) : State :=
  let a := k.cqAddr + 64 + 32 * (seq % 2 ^ k.depthLog2)
  let slot := groupSlot s k.group
  if k.st = 3 then bump 0x0090_0130 1 s
  else if ringLost s k a then
    bump 0x0090_0130 1 (alarmW 0x0901 0x0005 [qu, seq] (s.setQueue qu { k with st := if k.st = 2 then 2 else 3 }))
  else
    let s1 := cmdWrite none slot [(k.cqAddr + 8, 8)] (bvLE 8 (k.posted + 1)) (cmdWrite none slot [(a, 32)] rec s)
    noticeRec k qu rec (bump 0x0090_0108 1 (s1.setQueue qu { k with posted := k.posted + 1 }))
/-- What a posted record lets happen: a mailbox detaches, a queue being deleted goes, and waiting destroys complete (R348, R355, R358). -/
def afterPost (x : Cmd) (s : State) : State :=
  let m := s.mb x.queue
  let s1 := if opOf x = 0x02 ∧ x.queue < 32 ∧ m.st = 2 then s.setMb x.queue { m with st := 0, verMajor := 0, verMinor := 0, client := 0 } else s
  destroysDone (queueGone x.queue s1)
/-- Post a command's record and free its entry. -/
def post (x : Cmd) (status detail : Nat) (i : Bool × Nat × Nat × Nat) (s : State) : State :=
  match s.queue? x.queue with
  | none => s
  | some k =>
    let rec_ := recordOf x status detail i
    let s1 := if x.queue < 32 then postAdmin x.queue x.seq k rec_ s else postWork x.queue x.seq k rec_ s
    afterPost x { s1 with pel := { s1.pel with cmds := s1.pel.cmds.filter (fun y => !(y.queue == x.queue && y.seq == x.seq)) } }

/-! ## The decision (R372 to R376) -/

/-- Abandon a run's effects, and post. -/
def decideAbandon (x : Cmd) (launch : Nat) (r : Run) (status detail : Nat) (s : State) : State :=
  post x status detail (recInfo (some r) false) (stopRun launch s)
/-- Commit a run's effects, contexts and commit records, and post. -/
def decideCommit (x : Cmd) (launch st : Nat) (r : Run) (status : Nat) (views : List Byte) (v : List (Nat × Nat)) (s : State) : State :=
  let slot := groupSlot s r.group
  let s1 := commitCtxs r views (foldStage st slot s)
  let s2 := cmdWrite none slot v ((r.cols.map (commitRec s1)).flatten) s1
  post x status 0 (recInfo (some r) true) (stopRun launch s2)
/-- Status of a run that nothing killed. -/
def runStatus (r : Run) : Nat :=
  if r.cols.any (fun y => y.streamEnd) then 0x03
  else if r.cols.any (fun y => y.marked) || decide (0 < r.poisonedThreads) || r.copyPoison then 0x01 else 0
/-- Shadows of a stage lie in a quarter whose base die is in reset: they can be applied once it is back (R380). -/
def stageHeld (s : State) (st : Nat) : Bool :=
  (List.range 4).any (fun q => (s.quarter q).st == 2 &&
    ([2 * q, 2 * q + 1].any (fun h => (s.half h).lines.any (fun l => l.shadow == some st)) || (tget [] s.pel.spills q).any (fun y => y.stage == st)))
/-- Decide a command whose run has ended: views are read from the stage first. -/
def decideRun (x : Cmd) (launch st : Nat) (r : Run) (s : State) : State :=
  let n := r.cols.length
  match r.kill with
  | some (_, _, status, detail) => decideAbandon x launch r status detail s
  | none =>
    if stageHeld s st then holdCmd x 1 s
    else if 65536 < ((tget [] s.pel.spills 4).filter (fun y => y.stage == st)).length then decideAbandon x launch r 0x28 2 s
    else if n = 0 then decideCommit x launch st r (runStatus r) [] [] s
    else match virt s r.group .write (r.viewAddr.toNat + 2048) (32 * n) with
      | none => decideAbandon x launch r 0x20 0 s
      | some v =>
        match cmdRead (some st) (groupSlot s r.group) v s with
        | (.stalled, t) => modCmd x.queue x.seq (fun y => { y with readAt := some (y.readAt.getD (now s)) }) t
        | (.held k, t) => holdCmd x k t
        | (.failed e dt, t) => decideAbandon x launch r e dt t
        | (.got b, t) => if viewsOk t r b then decideCommit x launch st r (runStatus r) b v t else decideAbandon x launch r 0x11 0x80 t
/-- COMMAND_DECIDE (R372, R373): the first command of a queue that has not been posted is decided once it has ended, and its record posted. -/
def execCommandDecide (qu : Nat) (s : State) : Out :=
  match s.pel.cmds.find? (fun x => x.queue == qu) with
  | none => .next s
  | some x =>
    evt (inService s && decide (x.st = .ended) && retryDue s x) s
      (if ringHeld s x then holdCmd x 1 s
       else match runOfCmd s x with
       | some (launch, r) => (match r.stage with | some st => decideRun x launch st r s | none => post x x.status x.detail (recInfo none false) s)
       | none => post x x.status x.detail (recInfo none false) s)

end Sys2Proof.Machine
end

