-- ==== Sys2Proof/Machine/Resets.lean ====
section
/-! DEFINITION. Clocks, resets and the harrow (17 R453 to R472; 20 R526, R527). -/
namespace Sys2Proof.Machine

/-! ## Clocks and the time base (R454 to R458) -/

/-- REFERENCE_CHECK (R454, R440): every 10 µs, with the deviation of CD01 from the hub's housekeeping oscillator in ppm, before that oscillator's
correction, and the consecutive edges that CD01 has missed. -/
def execReferenceCheck (dev : Int) (missed : Nat) (s : State) : Out :=
  let c := s.clk
  let ppm := (dev + tget 0 s.thm.oscCorr 4).natAbs
  let due := decide (c.refAt.toNat / (10 * us) < (now s).toNat / (10 * us))
  let bad := decide (1000 < ppm) || decide (4 ≤ missed)
  let good := if decide (ppm ≤ 100) && missed == 0 then some (c.goodSince.getD (now s)) else none
  let c1 := { c with refAt := now s }
  evt (c.pllLocked && due) s
    (match c.holdover with
     | none =>
       if bad then alarmW 0x0301 0 [ppm, missed] { s with clk := { c1 with holdover := some (now s), goodSince := none } } else { s with clk := c1 }
     | some _ =>
       let s1 := bump 0x00D0_0238 10 s
       if heldFor s good (10 * ms) then { s1 with clk := { c1 with holdover := none, goodSince := none } }
       else { s1 with clk := { c1 with goodSince := good } })
/-- LOOP_UNLOCK (R455): loop `cd` (11 to 14) of a quarter loses lock for 1 µs. -/
def execLoopUnlock (q cd : Nat) (s : State) : Out :=
  evt (decide (q < 4) && decide (11 ≤ cd) && decide (cd ≤ 14) && pelsesoRuns s && !s.clk.unlocked.contains (4 * q + cd - 11)) s
    (quarterFault q false (alarmW 0x0302 (srcQuarter q) [cd] { s with clk := { s.clk with unlocked := ladd s.clk.unlocked (4 * q + cd - 11) } }))
/-- TIME_BASE_SYNC (R458): at a whole millisecond the copy of a base die moves toward the hub's value: one behind gains up to 1 ns per µs, one
ahead waits at half rate; none steps back. -/
def execTimeBaseSync (q : Nat) (s : State) : Out :=
  let lag := tget 0 s.clk.copies q
  let next : Int := if 0 < lag then max 0 (lag - 1000) else min 0 (lag + 500000)
  evt (decide (q < 4) && s.clk.pllLocked && decide ((s.quarter q).st ≤ 1) && (now s).toNat % ms == 0) s { s with clk := { s.clk with copies := tset 0 s.clk.copies q next } }

/-! ## Core and cluster resets (R459 to R461) -/

/-- CORE_RESET (R460): of a core that is awake; in a quarter in headland or reset it is absorbed (R467). -/
def execCoreReset (q c : Nat) (s : State) : Out :=
  let n := 64 * q + c
  evt (wfCore q c && coreFitted s n && pelsesoRuns s && !(s.core n).away && decide ((s.core n).fallow ≤ 1)) s (coreReset n s)
/-- CLUSTER_RESET (R460). -/
def execClusterReset (q k : Nat) (s : State) : Out :=
  evt (decide (q < 4) && decide (k < 16) && pelsesoRuns s && ((s.quarter q).st == 0 || (s.quarter q).st == 3)) s (clusterReset q k s)
/-- CORE_HEADLAND (R461): no new stook starts on the core until its role changes or it is reset. -/
def execCoreHeadland (q c : Nat) (s : State) : Out :=
  let n := 64 * q + c
  evt (wfCore q c && coreFitted s n && (s.core n).inService) s (s.setCore n { s.core n with headland := true })

/-! ## Quarter faults (R462 to R467) -/

/-- QUARTER_FAULT (R462). -/
def execQuarterFault (q : Nat) (stay : Bool) (s : State) : Out := evt (decide (q < 4) && pelsesoRuns s) s (quarterFault q stay s)
/-- Requests that still wait at a half or in its fill buffer. -/
def waitingReqs (hf : Half) : List GReq := hf.reqs ++ (hf.fills.map (fun f => f.waiters)).flatten
/-- A transfer that headland abandons: a run's ends the run, an external requester's returns to it for reissue (log 30). -/
def abandonReq (r : GReq) (s : State) : State :=
  match r.stage with
  | some st => (match launchOfStage s st with | some l => abandonRun l true s | none => s)
  | none =>
    match r.req with
    | .pin _ => { s with pel := { s.pel with retries := s.pel.retries ++ [{ r with retry := some (now s) }] } }
    | .load _ _ _ => s
    | .store _ _ _ => s
    | .bulk _ _ _ => s
    | _ => bump 0x00D0_0218 1 { s with pel := { s.pel with retries := s.pel.retries ++ [{ r with retry := some (now s) }] } }
/-- End the transfers of a half: its admitted reductions complete, and its fills are discarded whole (R246). -/
def closeHalf (h : Nat) (s : State) : State :=
  let s1 := settleReds h (fun _ => true) s
  let gone := waitingReqs (s1.half h)
  let s2 := s1.setHalf h { s1.half h with reqs := [], fills := [], merge := [] }
  gone.foldl (fun a r => abandonReq r a) (bump 0x00D0_0220 gone.length s2)
/-- Every held multicast of a quarter ends, with the targets not yet delivered marked blocked. -/
def closeMcasts (q : Nat) (s : State) : State :=
  (List.range 8).foldl (fun a sl =>
    mcastMod q sl (fun x => { x with blocked := x.blocked ||| (x.targets &&& ~~~ (x.delivered ||| x.bounced)) }) a) s
/-- A stack's controller completes the writes that it and its ports hold, and discards the reads (R304). -/
def flushStack (m : Nat) (s : State) : State :=
  let k := s.stack m
  let s1 := ((k.pool ++ k.port).filter (fun r => r.write)).foldl (lpWritten m) s
  s1.setStack m { s1.stack m with pool := [], port := [] }
/-- A stack's controller ends what it holds and places the stack in self-refresh (R304). -/
def stackSleep (m : Nat) (s0 : State) : State :=
  let s := flushStack m s0
  let k := s.stack m
  s.setStack m { k with pool := [], port := [], chans := [], st := if k.st = 1 ∨ k.st = 2 then 5 else k.st }
/-- Stacks of a quarter. -/
def quarterStacks (s : State) (q : Nat) : List Nat := (stackList s).filter (fun m => stackQuarter m == q)
/-- The end of a headland: its halves and multicasts close, and its stacks sleep. -/
def shutQuarter (q : Nat) (s : State) : State :=
  (quarterStacks s q).foldl (fun a m => stackSleep m a) (closeMcasts q (closeHalf (2 * q + 1) (closeHalf (2 * q) s)))
/-- HEADLAND_END (R463, R246, R304): 200 µs after headland entry. -/
def execHeadlandEnd (q : Nat) (s : State) : Out :=
  let k := s.quarter q
  let s2 := shutQuarter q s
  evt (decide (q < 4) && k.st == 1 && !k.headlandEnded && aged s k.stamp (200 * us)) s
    (s2.setQuarter q { s2.quarter q with headlandEnded := true, selfRefresh := true })

/-- A core loses everything and stands in F3. -/
def sleepCore (n : Nat) (s : State) : State :=
  if coreFitted s n then
    let s1 := clearTilth n (dropReqs (reqOfCore n) (resetEndpoint (srcCore n) s))
    let c := s1.core n
    let f := coreFresh c
    setPoint n (s1.setCore n { f with fallow := 3, inService := false, arr := { f.arr with testing := false } })
  else s
/-- The launches that hold flags of a store. -/
def flagRuns (s : State) (q : Nat) : List Nat := (s.flagStore q).owned.map (fun o => o.2.2)
/-- A launch loses its flags (R281): its run ends and its command runs again; one that has no run yet waits for flags again. -/
def loseFlags (s : State) (l : Nat) : State :=
  if (tfind s.pel.runs l).isSome then abandonRun l true s
  else match s.pel.cmds.find? (fun x => x.launch.toNat == l && decide (x.st = .accepted) && x.start.isSome && !x.waitFlags && opOf x == 0x40) with
    | some x =>
      modCmd x.queue x.seq (fun y => { y with launch := 0, waitFlags := true })
        { s with pel := { s.pel with flagQueue := s.pel.flagQueue ++ [(x.queue, x.seq)] } }
    | none => s
/-- The logic of the base die restarts; arrays, tags, plots and pins stay (R465, R246, R281, R304). -/
def baseDieReset (q : Nat) (s : State) : State :=
  let s1 := (flagRuns s q).foldl loseFlags s
  let s2 := quarterCores q sleepCore (s1.setFlagStore q FlagStore.dflt)
  let clean (h : Nat) (a : State) : State :=
    let hf := a.half h
    a.setHalf h { hf with reqs := [], fills := [], merge := [], reds := [], repair := [], lines := hf.lines.map (fun l => { l with red := 0 }) }
  let s3 := (quarterStacks s q).foldl (fun a m => flushStack m a) (clean (2 * q + 1) (clean (2 * q) s2))
  let mine (e : Nat × Mcast) : Bool := e.1 / 8 == q
  let s4 := { s3 with ctl := { s3.ctl with mcast := s3.ctl.mcast.filter (fun e => !mine e) }
                      pwr := { s3.pwr with wakes := tdel s3.pwr.wakes q }
                      clk := { s3.clk with unlocked := (idxFrom (4 * q) 4).foldl ladd s3.clk.unlocked }
                      urgent := s3.urgent.filter (fun e => e.1 / 8 != q), urgIgnored := s3.urgIgnored.filter (fun e => e.1 / 8 != q) }
  let s5 := retrainLinks q s4
  bump 0x00D0_0210 1 (s5.setQuarter q { s5.quarter q with st := 2, step := 0, wave := 0, raised := false, resetAt := now s })
/-- BASE_DIE_RESET (R465): headland has ended, the applies are done and the stacks sleep; `rise` is the quarter's draw above its reset level in W.
A quarter that a trip holds waits until it has read below 85 °C for 10 s (R450). -/
def execBaseDieReset (q rise : Nat) (s : State) : Out :=
  let k := s.quarter q
  let cool := k.tripHold.isNone || heldFor s k.tripHold (10 * sec1)
  evt (decide (q < 4) && k.st == 1 && k.headlandEnded && k.selfRefresh && decide (rise ≤ 54) && cool && !k.railsOff) s
    (let s1 := baseDieReset q s; s1.setQuarter q { s1.quarter q with tripHold := none })

/-- Listed time of a step of Table 17-3, from the base-die reset, in µs. -/
def stepTime (i : Nat) : Nat := [10, 30, 50, 150, 1030, 2010, 2050].getD i 2050
/-- Limit of a step: ten times its listed time (R466); 1 ms for the loops (R455). -/
def stepLimit (i : Nat) : Nat := if i = 1 then ms else 10 * stepTime i * us
/-- What a step waits for beyond the one before it: trained links, eight waves, trained stacks. -/
def stepReady (s : State) (q : Nat) (k : Quarter) : Bool :=
  match k.step with
  | 3 => (quarterLinks q).all (fun l => (s.link l).st != 0)
  | 4 => decide (8 ≤ k.wave)
  | 5 => k.st == 2 || (quarterStacks s q).all (fun m => (s.stack m).st != 0)
  | _ => true
/-- A stack leaves self-refresh and has retrained. -/
def stackWake (m : Nat) (s : State) : State :=
  let k := s.stack m
  s.setStack m { k with st := if k.st = 5 then (if k.failed = 0 then 1 else 2) else k.st }
/-- A step of the timeline completes. -/
def stepDone (q : Nat) (s : State) : State :=
  let k := s.quarter q
  let next (a : State) : State := a.setQuarter q { a.quarter q with step := k.step + 1 }
  match k.step with
  | 0 => next (quarterRails q s)
  | 1 => next { s with clk := { s.clk with unlocked := s.clk.unlocked.filter (fun i => i / 4 != q), copies := tdel s.clk.copies q } }
  | 5 => next ((quarterStacks s q).foldl (fun a m => stackWake m a) s)
  | 6 =>
    let s1 := s.setQuarter q { k with st := 0, step := 0, stay := false, headlandEnded := false, selfRefresh := false }
    if k.stay then fenceQuarter q s1 else s1
  | _ => next s
/-- QUARTER_RESET_STEP (R466): the next step of a quarter's reset or bring-up completes, or fails. -/
def execQuarterResetStep (q : Nat) (ok : Bool) (s : State) : Out :=
  let k := s.quarter q
  let late := k.st == 2 && decide (stepLimit k.step < since s k.resetAt)
  evt (decide (q < 4) && pelsesoRuns s && (k.st == 2 || k.st == 3) && decide (k.step ≤ 6)) s
    (if !ok || late then fenceQuarter q s else if stepReady s q k then stepDone q s else s)
/-- RETRY_LATER_REISSUE (R464): 5 µs after its return a request is issued again. -/
def execRetryLaterReissue (i : Nat) (s : State) : Out :=
  match s.pel.retries[i]? with
  | none => .next s
  | some r => evt (heldFor s r.retry (5 * us)) s (sendReq { r with retry := none } { s with pel := { s.pel with retries := s.pel.retries.eraseIdx i } })

/-! ## The harrow (R470 to R472, Table 17-4) -/

/-- Cores of a wave: enabled, and neither fenced, dark nor held by a trip. -/
def waveCores (s : State) (q wv : Nat) : List Nat :=
  ((List.range 8).map (fun j => 64 * q + 8 * j + wv)).filter (fun n =>
    coreFitted s n && !(s.core n).fenced && !(s.domain (n / 64) (n % 64)).dark && !(s.core n).therm.tripped)
/-- Minimum step rates of Table 1-2 in M steps/s, every 50 mV from 0.60 V. -/
def minRates : List Nat := [1100, 1380, 1640, 1920, 2200, 2420, 2600]
/-- The minimum at 0.60 V + i × 10 mV, interpolated between the rows of Table 1-2 (R13). -/
def minStep (i : Nat) : Nat := (minRates.getD (i / 5) 2600 * (5 - i % 5) + minRates.getD (i / 5 + 1) 2600 * (i % 5)) / 5
/-- Calibration fills a core's pace table: 31 points from 0.60 V to 0.90 V (free values; a step rate is no less than the minimum of R13). -/
def calibrate (n : Nat) (s : State) : State :=
  let c := s.core n
  let tab (f : Nat → Nat → Nat) : Tab Nat := (List.range 31).foldl (fun t i => tset 0 t i (f n i)) []
  s.setCore n { c with therm := { c.therm with step := tab (fun n i => max (minStep i) (Config.paceStep n i)), ring := tab Config.paceRing } }
/-- A core wakes, runs its reset steps and self-tests, and is calibrated after a module reset. Failing cells are (core, row); a row of 512 or more
stands for any other fault. -/
def waveCore (cal : Bool) (fails : List (Nat × Nat)) (n : Nat) (s : State) : State :=
  let mine := (fails.filter (fun e => e.1 == n % 64)).map Prod.snd
  let s1 := beginWake n s
  let s2 := wakeDone n mine (mine.any (fun r => decide (512 ≤ r))) (if cal then calibrate n s1 else s1)
  if mine.isEmpty then setPoint n s2 else bump 0x00D0_0230 1 (setPoint n s2)
/-- No core of a quarter can serve. -/
def noCore (s : State) (q : Nat) : Bool :=
  (coreList s).all (fun n => n / 64 != q || (s.core n).fenced || (s.domain (n / 64) (n % 64)).dark || (s.core n).therm.tripped)
/-- A wave runs. -/
def runWave (q wv : Nat) (fails : List (Nat × Nat)) (settled : Bool) (s : State) : State :=
  let k := s.quarter q
  let cs := waveCores s q wv
  let s1 := cs.foldl (fun a n => waveCore (k.st == 3) fails n a) s
  let s2 := bump 0x00D0_0228 1 (if settled then s1 else alarmW 0x0305 (srcQuarter q) [wv] s1)
  let s3 := { s2 with pwr := { s2.pwr with harrowDemand := s2.pwr.harrowDemand - 12 * cs.length } }
  let s4 := s3.setQuarter q { s3.quarter q with wave := wv + 1, raised := false }
  if 7 ≤ wv && noCore s4 q then fenceQuarter q s4 else s4
/-- r covers the demand that the harrow has raised. -/
def rCovers (s : State) : Bool := decide (min (s.pwr.demand + s.pwr.harrowDemand) (plim s - 50) ≤ s.pwr.r)
/-- HARROW_WAVE (R471): a quarter's next wave first raises the demand, and, sent again once r covers it, wakes, tests and calibrates its cores; the
bus has settled, or 200 µs have passed (settled false). -/
def execHarrowWave (q wv : Nat) (fails : List (Nat × Nat)) (settled : Bool) (s : State) : Out :=
  let k := s.quarter q
  evt (decide (q < 4) && decide (wv < 8) && pelsesoRuns s && (k.st == 2 || k.st == 3) && k.step == 4 && wv == k.wave) s
    (if !k.raised then
       let s1 := { s with pwr := { s.pwr with harrowDemand := s.pwr.harrowDemand + 12 * (waveCores s q wv).length } }
       s1.setQuarter q { s1.quarter q with raised := true }
     else if rCovers s then runWave q wv fails settled s else s)

/-! ## Module reset (R468, R469; 20 R526, R527) -/

/-- Every dirty sector of the granary is written back (R247), and the controllers complete the writes that they hold. -/
def writeBackAll (s : State) : State :=
  (stackList s).foldl (fun a m => flushStack m a)
    ((List.range 8).foldl (fun (a : State) h => ((a.half h).lines.filter (fun l => l.shadow.isNone)).foldl (fun b l => writeBack l 0 b) a) s)
/-- What a module reset leaves: the fuses, flash, identity store and pins, LPDDR contents, the time base, the input supply, and the record of the
wire. The boot starts again (R459, R468). -/
def restart (kind : Nat) (counted : Bool) (s : State) : State :=
  { State.reset with
    fuse := { s.fuse with loaded := false, curveDefault := false }
    clk := { State.reset.clk with tb := s.clk.tb, frac := s.clk.frac, pllLocked := s.clk.pllLocked, holdover := s.clk.holdover
                                  goodSince := s.clk.goodSince }
    boot := { State.reset.boot with kind := kind, count := if counted then min 65535 (s.boot.count + 1) else s.boot.count, since := now s
                                    modReset := s.boot.modReset, fwRecover := s.boot.fwRecover
                                    fwSampled := s.boot.fwRecover && s.boot.modReset.isNone }
    mem := { State.reset.mem with lpddr := s.mem.lpddr, lpSide := s.mem.lpSide }
    fab := { State.reset.fab with out := s.fab.out }
    mgmt := { State.reset.mgmt with sent := s.mgmt.sent }
    guest := { State.reset.guest with sent := s.guest.sent }
    pwr := { State.reset.pwr with mv := s.pwr.mv, ma := s.pwr.ma, w := s.pwr.w, reports := s.pwr.reports, band := s.pwr.band
                                  bandSince := s.pwr.bandSince, input := s.pwr.input, aux := s.pwr.aux, brake := s.pwr.brake
                                  brakeAlarmed := s.pwr.brakeAlarmed }
    sec := { State.reset.sec with image := s.sec.image, flashIndex := s.sec.flashIndex, cert := s.sec.cert, fabMode := s.sec.fabMode
                                  fuseRetry := s.sec.fuseRetry }
    idst := s.idst
    readData := s.readData
    readErr := s.readErr
    free := s.free
    pending := s.pending }
/-- A module reset of a kind of RST_CAUSE: a drained one writes the granary back first. -/
def resetModule (kind : Nat) (s : State) : State := restart kind true (if kind = 2 then writeBackAll s else s)
/-- The drain runs from now, unless it runs already. -/
def startDrain (s : State) : State := { s with boot := { s.boot with draining := some (s.boot.draining.getD (now s)) } }
/-- The drain has finished: every accepted command has posted its record. -/
def drainDone (s : State) : Bool := s.pel.cmds.isEmpty
/-- MODULE_RESET (R468): the drain starts; once every accepted command has posted its record, the module resets. -/
def execModuleReset (s : State) : Out :=
  let s1 := startDrain s
  evt (pelsesoRuns s) s (if drainDone s1 then resetModule 2 s1 else s1)
/-- MODULE_DRAIN_TIMEOUT (R468): 10 s of drain. -/
def execModuleDrainTimeout (s : State) : Out := evt (pelsesoRuns s && heldFor s s.boot.draining (10 * sec1)) s (resetModule 3 s)
/-- MOD_RESET_INPUT (R469, R527): a level that has held for 50 µs. Assertion drains a module that Pelseso runs; a boot or a recovery fetch starts
again, and holds while the pin is asserted. Deassertion lets the boot go on, with FW_RECOVER_N sampled from then. -/
def execModResetInput (asserted : Bool) (s : State) : Out :=
  let b := s.boot
  let s1 := { s with boot := { b with modReset := if asserted then some (now s) else none
                                      fwSampled := if b.step = 1 ∧ !asserted then b.fwRecover else b.fwSampled } }
  evt (s.pwr.aux && asserted != b.modReset.isSome) s
    (if !asserted || b.lost || b.step == 0 then s1
     else if pelsesoRuns s then (let s2 := startDrain s1; if drainDone s2 then resetModule 2 s2 else s2)
     else restart b.kind false s1)
/-- MOD_RESET_HELD (R469): asserted for 10 s before the drain has finished. -/
def execModResetHeld (s : State) : Out :=
  evt (pelsesoRuns s && s.boot.draining.isSome && heldFor s s.boot.modReset (10 * sec1)) s (resetModule 4 s)

end Sys2Proof.Machine
end

