-- ==== Sys2Proof/Machine/Identity.lean ====
section
/-! DEFINITION. The identity store and the status outputs of the module connector (20 R526, R528, R529). -/
namespace Sys2Proof.Machine

/-! ## The identity store (R529, Table 20-10) -/

/-- Text of n bytes, padded with 0x20. -/
def padText (n : Nat) (t : String) : List Byte := (bytesOf (ascii t) ++ List.replicate n 0x20).take n
/-- PART_NUMBER. -/
def partNumber (s : State) : List Byte := padText 16 (match s.fuse.part with | .a4 => "KY-ISO-4A" | .b4 => "KY-ISO-4B" | .g4 => "KY-ISO-4G")
/-- Bytes 0x00 to 0x1F: format, FUS_PART at manufacture, MAC base in transmission order, part number. -/
def idHead (s : State) : List Byte :=
  [1, 0, 0, 0] ++ natLE 4 (fusPart { s with fuse := { s.fuse with loaded := true } }) ++ bytesOf (natBE 6 s.fuse.macBase.toNat) ++ [0, 0] ++
  partNumber s
/-- Bytes 0x20 to 0xFB: serial number, date of final test, digest of the device certificate. -/
def idTail (s : State) : List Byte :=
  (List.range 16).map Config.serialByte ++ (List.range 4).map Config.dateByte ++ natLE 4 0 ++ digest s.sec.cert ++ List.replicate 164 0
/-- The 256 bytes fixed at manufacture: those given, or built from the fuses (log 9). -/
def idBytes (s : State) : List Byte :=
  if s.idst.bytes.isEmpty then idHead s ++ idTail s ++ natLE 4 (crc32c (idHead s ++ idTail s)) else padTo 256 s.idst.bytes
/-- ID_SET_OFFSET (R529): one data byte sets the offset; a longer write changes nothing. -/
def execIdSetOffset (bytes : List (BitVec 8)) (s : State) : Out :=
  evt s.pwr.aux s (match bytes with | [b] => { s with idst := { s.idst with offset := b.toNat } } | _ => s)
/-- ID_READ (R529): n bytes from the offset, wrapping from 0xFF to 0x00. The offset stays as the last write set it (log 31). -/
def execIdRead (n : Nat) (s : State) : Out :=
  evt s.pwr.aux s
    { s with idst := { s.idst with last := (List.range n).map (fun i => (idBytes s).getD ((s.idst.offset + i) % 256) 0) } }
/-- ID_SCL_TIMEOUT (R526): the store releases the bus and resets its interface: a transaction in progress, which is a command not yet sent here,
is dropped, and the offset stays. -/
def execIdSclTimeout (s : State) : Out := evt s.pwr.aux s { s with idst := { s.idst with last := [] } }

/-! ## Status outputs (R528, Table 20-9): functions of the state -/

/-- In service, degraded: a quarter fenced, a stack or channel failed, or a link down. -/
def degraded (s : State) : Bool :=
  (List.range 4).any (fun q => (s.quarter q).st == 4) ||
  (stackList s).any (fun m => (s.stack m).st == 3 || (s.stack m).failed != 0) ||
  (List.range 9).any (fun l => (s.link l).st == 2)
/-- Codes that apply, with their priority. -/
def statusCodes (s : State) : List (Nat × Nat) :=
  let b := s.boot
  let stopped := decide (b.stopCode = 0x5 ∨ b.stopCode = 0x6 ∨ b.stopCode = 0x7)
  [(decide (b.step = 0), 0x1, 1), (decide (1 ≤ b.step ∧ b.step ≤ 5), 0x2, 2), (decide (b.step = 8), 0x3, 3),
   (decide (b.step = 8) && s.mgmt.restartAt.isSome, 0x4, 4), (stopped, b.stopCode, 10), (decide (b.step = 6), 0x8, 2), (decide (b.step = 6) && degraded s, 0x9, 3),
   (b.draining.isSome || b.modReset.isSome, 0xA, 5), (s.pwr.stopped, 0xB, 12), (decide (b.stopCode = 0xC), 0xC, 11),
   (s.fuse.loaded && decide (s.fuse.lifecycle = 2), 0xD, 13)].filterMap (fun e => if e.1 then some e.2 else none)
/-- STAT_CODE3 to STAT_CODE0: the code of highest priority; 0 while the auxiliary supply is down. -/
def statCode (s : State) : Nat :=
  if s.pwr.aux then ((statusCodes s).foldl (fun (a : Nat × Nat) e => if a.2 < e.2 then e else a) (0, 0)).1 else 0
/-- MOD_OK. -/
def modOk (s : State) : Bool := statCode s == 8 || statCode s == 9
/-- MOD_ALERT_N is driven low. -/
def modAlert (s : State) : Bool :=
  let c := statCode s
  (decide (4 ≤ c) && decide (c ≤ 7)) || (decide (0xB ≤ c) && decide (c ≤ 0xD)) || !(openAlarms s).isEmpty

end Sys2Proof.Machine
end

