-- ==== Sys2Proof/Machine/Thermal.lean ====
section
/-! DEFINITION. The housekeeping round, temperature estimates, levels, thermal limits, pace counters and trips (16 R436 to R452). Temperatures are in
1/16 °C. Readings in log 30. -/
namespace Sys2Proof.Machine

/-! ## Readings (R436, R437, Table 16-1) -/

/-- A temperature of whole degrees. -/
def deg (t : Int) : Int := 16 * t
/-- A channel. -/
def State.chan (s : State) (i : Nat) : TChan := tget TChan.dflt s.thm.chans i
/-- Channels that a scanner samples: those of a quarter with its populated stacks, or the hub's and the coolant's. -/
def scanChans (s : State) (q : Nat) : List Nat :=
  if q = 4 then idxFrom 4000 26
  else idxFrom (1000 * q) 784 ++ ((quarterStacks s q).map (fun m => [1000 * q + 784 + 2 * (m % 2), 1000 * q + 785 + 2 * (m % 2)])).flatten
/-- A round's reading of a channel: the channel, whether the reading was discarded, and whether it is held as suspect. -/
def takeReading (x : TChan) (r : Option Int) : TChan × Bool × Bool :=
  let none_ : TChan := { x with suspect := none, miss := x.miss + 1 }
  match r with
  | none => (none_, false, false)
  | some t =>
    if t < deg (-40) ∨ deg 150 < t then (none_, true, false)
    else match x.last with
      | none => ({ x with last := some t, suspect := none, miss := 0 }, false, false)
      | some y =>
        if (t - y).natAbs ≤ 240 then ({ x with last := some t, suspect := none, miss := 0 }, false, false)
        else match x.suspect with
          | some z =>
            if (t - z).natAbs ≤ 48 then ({ x with last := some t, suspect := none, miss := 0 }, false, false)
            else ({ x with suspect := some t, miss := x.miss + 1 }, true, true)
          | none => ({ x with suspect := some t, miss := x.miss + 1 }, false, true)
/-- A reading of a channel with its sensor's offset and slope, or as it is with the default curve (R440, R441). -/
def calTemp (s : State) (i : Nat) (raw : Int) : Int :=
  if s.fuse.curveDefault then raw
  else let c := tget (0, 65536) s.fuse.tempCal i; raw * (c.2 : Int) / 65536 + c.1
/-- A curve's value at a temperature in 1/16 °C. -/
def Curve.at (c : Curve) (t : Int) : Int := (256 * c.c0 + 16 * c.c1 * t + c.c2 * t * t) / 256
/-- The temperature sensor nearest to a scanner's oscillator and voltage reference (log 30). -/
def nearSensor (q : Nat) : Nat := if q = 4 then 4000 else 1000 * q + 140
/-- A round corrects a scanner's oscillator and reference from their curves at the temperature of the nearest sensor (R440). -/
def correctScan (q : Nat) (s : State) : State :=
  match (s.chan (nearSensor q)).last with
  | none => s
  | some t =>
    let v (l : Tab Curve) : Int := if s.fuse.curveDefault then 0 else (tget Curve.dflt l q).at t
    { s with thm := { s.thm with oscCorr := tset 0 s.thm.oscCorr q (v s.fuse.oscCurve), refCorr := tset 0 s.thm.refCorr q (v s.fuse.refCurve) } }
/-- A rail voltage in mV that was measured against a quarter's reference, corrected. -/
def corrected (s : State) (q mv : Nat) : Nat := ((mv : Int) * (1000000 + tget 0 s.thm.refCorr q) / 1000000).toNat
/-- A channel after a round, its reading discarded or held as suspect; the fourth round without an accepted one fails it. -/
def putChan (i : Nat) (y : TChan) (disc susp : Bool) (s : State) : State :=
  let put (z : TChan) (a : State) : State := { a with thm := { a.thm with chans := tset TChan.dflt a.thm.chans i z } }
  let s1 := bumps ((if disc then [(0x00C0_0108, 1)] else []) ++ (if susp then [(0x00C0_0110, 1)] else [])) s
  if 4 ≤ y.miss then alarmW 0x0204 0x0004 [i] (put { y with failed := true } s1) else put y s1
/-- Take the round's reading of one temperature channel. -/
def takeChan (temps : List (Nat × Int)) (q i : Nat) (s : State) : State :=
  let x := s.chan i
  let r := takeReading x ((temps.find? (fun e => 1000 * q + e.1 == i)).map (fun e => calTemp s i e.2))
  if x.failed then s else putChan i r.1 r.2.1 r.2.2 s
/-- Take the round's reading of a voltage or current channel, accepted from 0 to a bound (R437). -/
def takeRange (top : Int) (i : Nat) (r : Option Int) (s : State) : State :=
  let x := s.chan i
  let ok := match r with | some v => decide (0 ≤ v) && decide (v ≤ top) | none => false
  if x.failed then s
  else if ok then putChan i { x with last := r, miss := 0 } false false s
  else putChan i { x with miss := x.miss + 1 } r.isSome false s
/-- Channels of a quarter's voltages in mV by domain 0 to 66, of its currents in mA by domain, then by the middle-die branch of each half, and of its
tines' currents (log 30). -/
def railChan (q : Nat) : Nat := 10000 + 2000 * q
/-- Current channels. -/
def ampChan (q : Nat) : Nat := railChan q + 100
/-- Tine current channels. -/
def tineChan (q : Nat) : Nat := railChan q + 200
/-- Rating in mA of a current channel: that of its domain's tines, for a branch that of the granary domain. -/
def ampRating (d : Nat) : Nat := 2500 * domainTines (if 67 ≤ d then 64 else d)
/-- A quarter's voltages, currents and tine currents of a round (R436, R437). -/
def takeRails (q : Nat) (volts amps tines : List Int) (s : State) : State :=
  let s1 := (List.range 67).foldl (fun a d => takeRange 1200 (railChan q + d) volts[d]? a) s
  let s2 := (List.range 69).foldl (fun a d => takeRange ((3 * ampRating d / 2 : Nat) : Int) (ampChan q + d) amps[d]? a) s1
  (List.range 640).foldl (fun a t => takeRange 3750 (tineChan q + t) tines[t]? a) s2
/-- Accepted readings of the channels of a list that work. -/
def readings (s : State) (l : List Nat) : List Int := (l.map s.chan).filterMap (fun x => if x.failed then none else x.last)
/-- The highest of a list. -/
def highest (l : List Int) : Option Int := l.max?
/-- Every channel of a list has failed. -/
def allFailed (s : State) (l : List Nat) : Bool := l.all (fun i => (s.chan i).failed)

/-! ## Estimates (R438, R444 to R446) -/

/-- Channels of the core sensors, the middle die and the base die of half h. -/
def coreChans (h : Nat) : List Nat := idxFrom (1000 * (h / 2) + 32 * (h % 2)) 32
/-- Middle-die sensors. -/
def midChans (h : Nat) : List Nat := idxFrom (1000 * (h / 2) + 64 + 20 * (h % 2)) 20
/-- Base-die sensors, with those of the nearer PHYs (log 30). -/
def baseChans (h : Nat) : List Nat :=
  idxFrom (1000 * (h / 2) + 104 + 16 * (h % 2)) 16 ++
  ([0, 1, 4, 5].map (fun i => 1000 * (h / 2) + 136 + 2 * (h % 2) + i))
/-- Sensors of a stack. -/
def stackChans (m : Nat) : List Nat := idxFrom (1000 * (m / 2) + 784 + 2 * (m % 2)) 2
/-- A middle die. -/
def State.mid (s : State) (h : Nat) : Mid := tget Mid.dflt s.thm.mids h
/-- A region. -/
def State.region (s : State) (i : Nat) : Region := tget Region.dflt s.thm.regions i
/-- Sum. -/
def sumI (l : List Int) : Int := l.foldl (· + ·) 0
/-- The last accepted reading of a channel that works. -/
def accepted (s : State) (i : Nat) : Option Int := let x := s.chan i; if x.failed then none else x.last
/-- i_gran of R444 in mA: the current of the half's granary domain. -/
def granAmps (s : State) (h : Nat) : Option Int := accepted s (ampChan (h / 2) + 64 + h % 2)
/-- i_leak of R444 in mA: the middle-die branch current less the dynamic current, the accesses of the round times the fused energy, divided by 0.80 V
and 1 ms. -/
def leakAmps (s : State) (h : Nat) : Option Int :=
  let dyn := (s.half h).used.2 * tget 100 s.fuse.accessPj h / 800000
  (accepted s (ampChan (h / 2) + 67 + h % 2)).map (fun i => i - (dyn : Int))
/-- tm of R444: no channel of its inputs has failed. -/
def midModel (s : State) (h : Nat) : Option Int :=
  let a := readings s (coreChans h)
  let b := readings s (baseChans h)
  match granAmps s h with
  | none => none
  | some i =>
    if a.length = 32 ∧ b.length = 20 then
      some ((20 * sumI a + 32 * sumI b) / (2 * 20 * 32) + ((tget (8:Nat) s.fuse.thermK h : Nat) : Int) * i * 128 / 1000000)
    else none
/-- The whole part of 320 log2 (a / b). -/
def log320 (a b : Nat) : Int :=
  if b ≤ a then (Nat.log2 (a ^ 320 / b ^ 320) : Int) else -((Nat.log2 ((b ^ 320 - 1) / a ^ 320) : Int) + 1)
/-- tl of R444, when the leakage is positive. -/
def midLeak (s : State) (h : Nat) : Option Int :=
  match leakAmps s h with
  | some i => if 0 < i then some (deg 70 + log320 i.toNat (tget 6000 s.fuse.i70 h)) else none
  | none => none
/-- The middle die's governing estimate, and whether the witnesses disagree (R445); with no working sensor, tm plus 5 °C (R438). -/
def midEst (ts tm tl : Option Int) (dead : Bool) : Option Int × Bool :=
  let l := [ts, tm, tl].filterMap id
  match l.max?, l.min? with
  | some hi, some lo =>
    if hi - lo ≤ 128 then
      ((match ts with | some t => some t | none => if dead then tm.map (· + deg 5) else some hi), false)
    else (some hi, true)
  | _, _ => (none, false)
/-- DETAIL of a disagreement: the witnesses (bit 0 ts, 1 tm, 2 tl) and the sensors whose values lie more than 8 °C below the estimate. -/
def disagreeDetail (s : State) (h : Nat) (ts tm tl : Option Int) (e : Int) : List Nat :=
  let low (x : Option Int) : Bool := match x with | some t => decide (t < e - 128) | none => false
  [b2n (low ts) + 2 * b2n (low tm) + 4 * b2n (low tl),
   ((List.range 20).filter (fun i => let x := s.chan (midChans h |>.getD i 0); !x.failed && low x.last)).foldl (fun a i => a + 2 ^ i) 0]
/-- The error-rate witness (R446) after a second with n corrected words. -/
def ceWitness (m : Mid) (n : Nat) : Mid :=
  let l := (n :: m.ceSecs).take 3610
  let ten := (l.take 10).foldl (· + ·) 0
  let hour_ := (l.drop 10).foldl (· + ·) 0
  { m with ceSecs := l, ceWitness := if m.ceWitness then !decide (ten * 360 < 4 * hour_) else decide (10 ≤ n) && decide (16 * hour_ < ten * 360) }
/-- The middle die of a half takes a round: its estimate, alarms and counter. -/
def midRound (h : Nat) (s : State) : Option Int × State :=
  let ts := highest (readings s (midChans h))
  let tm := midModel s h
  let tl := midLeak s h
  let (e, dis) := midEst ts tm tl (allFailed s (midChans h))
  let m := s.mid h
  let m2 := { m with ts := ts, tm := tm, tl := tl, disagree := dis, agree := if dis then 10 else m.agree - 1 }
  let s1 := { s with thm := { s.thm with mids := tset Mid.dflt s.thm.mids h m2 } }
  let s2 := if dis then bump 0x00C0_0128 1 s1 else s1
  (e, if dis && m.agree == 0 then alarmW 0x0205 (srcHalf h) (disagreeDetail s h ts tm tl (e.getD 0)) s2 else s2)
/-- A second ends for a half: its corrected words go to the error-rate witness (R446). -/
def ceSecond (h : Nat) (s : State) : State :=
  let n := (s.half h).ceSec
  let m := s.mid h
  let m1 := ceWitness m n
  let s1 := { s.setHalf h { s.half h with ceSec := 0 } with thm := { s.thm with mids := tset Mid.dflt s.thm.mids h m1 } }
  if m1.ceWitness && !m.ceWitness then alarmW 0x0206 (srcHalf h) [n] s1 else s1
/-- A round ends for a half: the accesses of the round stand for R444. -/
def roundUse (h : Nat) (s : State) : State := let hf := s.half h; s.setHalf h { hf with used := (0, hf.used.1) }
/-- tm plus 5 °C for a region with no working sensor. -/
def modelFor (s : State) (h : Nat) : Option Int := (s.mid h).tm.map (· + deg 5)
/-- A core's estimate: its sensor, the substitutes of R438, or tp (R447). -/
def coreEst (s : State) (n : Nat) : Option Int :=
  let q := n / 64
  let c := n % 64
  let h := 2 * q + c / 32
  if (s.core n).therm.pace then some (s.core n).therm.tp
  else if !(s.chan (1000 * q + c)).failed then (s.chan (1000 * q + c)).last
  else if !allFailed s (idxFrom (1000 * q + c / 4 * 4) 4) then (highest (readings s (idxFrom (1000 * q + c / 4 * 4) 4))).map (· + deg 5)
  else if !allFailed s (coreChans h) then (highest (readings s (coreChans h))).map (· + deg 10)
  else modelFor s h
/-- The highest accepted reading of a region's sensors. -/
def dieEst (s : State) (h : Nat) (l : List Nat) : Option Int := if allFailed s l then modelFor s h else highest (readings s l)

/-! ## Levels (R442, R443, Table 16-2) -/

/-- Thresholds of WARN, THROTTLE, CRITICAL and TRIP; 5 °C lower with a default curve (R441). -/
def thresholds (s : State) (stack : Bool) : List Int :=
  (if stack then [85, 95, 100, 105] else [95, 105, 115, 125]).map (fun t => deg t - (if s.fuse.curveDefault then deg 5 else 0))
/-- Rounds at or above a threshold. -/
def countAbove (th e : Int) (n : Nat) : Nat := if th ≤ e then n + 1 else 0
/-- The highest level whose threshold has been met for its rounds. -/
def hitLevel (a : Nat × Nat × Nat × Nat) : Nat := if 2 ≤ a.2.2.2 then 4 else if 2 ≤ a.2.2.1 then 3 else if 2 ≤ a.2.1 then 2 else if 4 ≤ a.1 then 1 else 0
/-- A region after a round, and whether its rate of rise is an event. -/
def nextRegion (th : List Int) (r : Region) (e : Int) : Region × Bool :=
  let a := (countAbove (th.getD 0 0) e r.above.1, countAbove (th.getD 1 0) e r.above.2.1, countAbove (th.getD 2 0) e r.above.2.2.1,
            countAbove (th.getD 3 0) e r.above.2.2.2)
  let hit := hitLevel a
  let under := decide (0 < r.level) && decide (e < th.getD (r.level - 1) 0 - 48)
  let (lv, bl) : Nat × Nat :=
    if r.level = 4 then (4, 0)
    else if r.level < hit then (hit, 0)
    else if under then (if 9 ≤ r.below then (r.level - 1, 0) else (r.level, r.below + 1))
    else (r.level, 0)
  let rise : Int := match r.est with | some p => e - p | none => 0
  let up := decide (32 < rise)
  let ev := up && r.rises == 3
  let hold := if ev then 5 else if 1 < r.hold then r.hold - 1 else if r.hold = 1 ∧ !up then 0 else r.hold
  ({ level := lv, above := a, below := bl, est := some e, rises := if ev then 0 else if up then r.rises + 1 else 0, hold := hold }, ev)
/-- Level in force of a region: R443 and R446 hold it at THROTTLE or above. -/
def levelOf (s : State) (i : Nat) : Nat :=
  let r := s.region i
  let ce := decide (300 ≤ i ∧ i < 308) && (s.mid (i - 300)).ceWitness && (match r.est with | some e => decide (e < deg 105) | none => false)
  max r.level (if 0 < r.hold || ce then 2 else 0)
/-- Source identifier of a region. -/
def regionSrc (i : Nat) : Nat :=
  if i < 256 then srcCore i else if i < 308 then srcHalf (i - 300) else if i < 318 then srcHalf (i - 310) else if i < 328 then srcStack (i - 320) else 0
/-- Alarms of a change of level: entry, or return to NORMAL. -/
def levelAlarm (i old : Nat) (s : State) : State :=
  let new := levelOf s i
  let e := match (s.region i).est with | some e => wrapInt 64 e | none => 0
  if new = old then s
  else if new = 0 then alarmW 0x0202 (regionSrc i) [0, e] s
  else alarmW 0x0201 (regionSrc i) [new, e] s
/-- Replace a region. -/
def State.setRegion (s : State) (i : Nat) (r : Region) : State := { s with thm := { s.thm with regions := tset Region.dflt s.thm.regions i r } }
/-- A region takes its estimate. -/
def regionRound (i : Nat) (stack : Bool) (e : Option Int) (s : State) : State :=
  match e with
  | none => s
  | some t =>
    let old := levelOf s i
    let (r, ev) := nextRegion (thresholds s stack) (s.region i) t
    let s1 := s.setRegion i r
    levelAlarm i old (if ev then alarmW 0x0203 (regionSrc i) [wrapInt 64 t] s1 else s1)
/-- Regions of a quarter other than its cores: middle dies, base dies, stacks. -/
def dieRegions (s : State) (q : Nat) : List Nat := [300 + 2 * q, 301 + 2 * q, 310 + 2 * q, 311 + 2 * q] ++ (quarterStacks s q).map (fun m => 320 + m)
/-- A core's thermal level (R449, Table 16-3). -/
def coreLevel (s : State) (n : Nat) : Nat :=
  let q := n / 64
  let h := 2 * q + n % 64 / 32
  ([n, 300 + h, 310 + h] ++ (quarterStacks s q).map (fun m => 320 + m)).foldl (fun a i => max a (levelOf s i)) 0
/-- Level that sets a core's limit: a blind quarter's cores follow the CRITICAL rule (R439). -/
def limitLevel (s : State) (n : Nat) : Nat := if s.thm.blind.contains (n / 64) then max 3 (coreLevel s n) else coreLevel s n

/-! ## Trips (R450) -/

/-- A core trips: as an array fault, then held in F3; the third trip within an hour fences it. -/
def tripCore (n : Nat) (s : State) : State :=
  let l := recent s (s.core n).therm.trips hour ++ [now s]
  let s1 := coreReset n (alarmW 0x0208 (srcCore n) [l.length] (bump 0x00C0_0138 1 s))
  let c := s1.core n
  let s2 := setPoint n (s1.setCore n { c with fallow := 3, waking := none, inService := false, arr := { c.arr with testing := false }
                                              therm := { c.therm with trips := l, tripHold := some (now s), tripped := true } })
  if 3 ≤ l.length then fenceCore n s2 else s2
/-- A middle die, base die or stack trips: its quarter leaves service, and its cores are held in F3; the third trip within an hour fences it. -/
def tripQuarter (q : Nat) (s : State) : State :=
  let l := recent s (s.quarter q).trips hour ++ [now s]
  let s1 := quarterFault q (decide (3 ≤ l.length)) (alarmW 0x0208 (srcQuarter q) [l.length] (bump 0x00C0_0138 1 s))
  let s2 := quarterCores q sleepCore s1
  s2.setQuarter q { s2.quarter q with trips := l, tripHold := some (now s) }
/-- Trips of a round: regions that have entered TRIP. -/
def tripsOf (q : Nat) (before : List Nat) (s : State) : State :=
  let new (i : Nat) : Bool := (s.region i).level == 4 && !before.contains i
  let s1 := ((idxFrom (64 * q) 64).filter (fun n => coreFitted s n && new n)).foldl (fun a n => tripCore n a) s
  if (dieRegions s q).any new then tripQuarter q s1 else s1
/-- A tripped region reads NORMAL again. -/
def untrip (i : Nat) (s : State) : State :=
  let r := s.region i
  if r.level = 4 then levelAlarm i 4 (s.setRegion i { r with level := 0, above := (0, 0, 0, 0), below := 0 }) else s
/-- A held core returns once its sensor has read below 85 °C for 10 s. -/
def coreHold (n : Nat) (s : State) : State :=
  let c := s.core n
  let hot := match (s.region n).est with | some e => decide (deg 85 ≤ e) | none => true
  if !c.therm.tripped || c.away then s
  else if hot then s.setCore n { c with therm := { c.therm with tripHold := some (now s) } }
  else if heldFor s c.therm.tripHold (10 * sec1) then
    requestWake n (untrip n (s.setCore n { c with therm := { c.therm with tripped := false, tripHold := none } }))
  else s
/-- A held quarter: every region must read below 85 °C for 10 s. -/
def quarterHold (q : Nat) (s : State) : State :=
  let k := s.quarter q
  let ids := dieRegions s q ++ (idxFrom (64 * q) 64).filter (fun n => coreFitted s n)
  let hot := ids.any (fun i => match (s.region i).est with | some e => decide (deg 85 ≤ e) | none => false)
  match k.tripHold with
  | none => (if k.st = 0 then (dieRegions s q).foldl (fun a i => untrip i a) s else s)
  | some t =>
    if hot then s.setQuarter q { k with tripHold := some (now s) }
    else if aged s t (10 * sec1) then (dieRegions s q).foldl (fun a i => untrip i a) s
    else s

/-! ## The round (R436, R439, R449, R451) -/

/-- A round ends for a half: its use of the round's interval and, when a second ends, the second of R446. -/
def halfRound (second : Bool) (s : State) (h : Nat) : State :=
  let s1 := roundUse h s
  if second then ceSecond h s1 else s1
/-- The round that ends at t ns is over for every half; its results may now come. -/
def roundEnds (t : Nat) (s : State) : State :=
  let s1 := (List.range 8).foldl (halfRound (t / sec1 != s.thm.roundAt.toNat / sec1)) s
  bump 0x00C0_0100 1 { s1 with thm := { s1.thm with roundAt := BitVec.ofNat 64 t, arrived := [] } }
/-- HOUSEKEEPING_ROUND (R436, R440): a round of 1 ms ends, at a whole millisecond; its results come within 200 µs. The first round that ends in a new
second ends the second of R446. -/
def execHousekeepingRound (s : State) : Out :=
  let t := (now s).toNat / ms * ms
  evt (pelsesoRuns s && decide (s.thm.roundAt.toNat < t)) s (roundEnds t s)
/-- A core's limit after a round (Table 16-4). -/
def limitRound (n : Nat) (s : State) : State :=
  if !coreFitted s n then s
  else
    let lv := limitLevel s n
    let c := s.core n
    let t := c.therm
    let t1 : CoreTherm :=
      if lv = 2 then { t with limit := max 60 (t.limit - 1), rise := 0 }
      else if lv = 0 then (if t.limit = 90 then { t with rise := 0 } else if 9 ≤ t.rise then { t with limit := t.limit + 1, rise := 0 } else { t with rise := t.rise + 1 })
      else { t with rise := 0 }
    let s1 := setPoint n (s.setCore n { c with therm := { t1 with pace := false } })
    if 2 ≤ lv then bump 0x00C0_0120 1 s1 else s1
/-- Pelseso's own copy of a domain's minimum, and the alarm of a minimum more than 80 mV below the set point (R420). -/
def minRound (q : Nat) (e : Nat × BitVec 64) (s : State) : State :=
  let w := e.2.toNat
  let m : MinV := { mv := w % 1024, sensor := bits w 19 15, stamp := BitVec.ofNat 64 (w / 2 ^ 20) }
  let x := s.domain q e.1
  let lower := match x.roundMin with | some y => decide (m.mv < y.mv) | none => true
  let src := if e.1 < 64 then srcCore (64 * q + e.1) else if e.1 < 66 then srcHalf (2 * q + e.1 - 64) else srcQuarter q
  let s1 := if lower then s.setDomain q e.1 { x with roundMin := some m } else s
  if e.1 < 67 ∧ bit w 10 ∧ m.mv + 80 < x.vset then
    raiseAlarm 0x0107 src (natLE 8 w) (logRec 1 src 0x8700 (natLE 8 w ++ natLE 1 m.sensor ++ List.replicate 7 0) s1)
  else if e.1 < 67 then s1 else s
/-- The middle dies of a quarter: the estimates of their two halves and their regions. -/
def middleRound (q : Nat) (s : State) : State :=
  let (e0, s1) := midRound (2 * q) s
  let (e1, s2) := midRound (2 * q + 1) s1
  regionRound (301 + 2 * q) false e1 (regionRound (300 + 2 * q) false e0 s2)
/-- The base dies and the stacks of a quarter. -/
def dieRound (q : Nat) (s : State) : State :=
  let s1 := [2 * q, 2 * q + 1].foldl (fun a h => regionRound (310 + h) false (dieEst a h (baseChans h)) a) s
  (quarterStacks s q).foldl (fun a m => regionRound (320 + m) true (dieEst a m (stackChans m)) a) s1
/-- The fitted cores of a quarter. -/
def coreRound (q : Nat) (s : State) : State :=
  ((idxFrom (64 * q) 64).filter (fun n => coreFitted s n)).foldl (fun a n => regionRound n false (coreEst a n) a) s
/-- What follows from a quarter's new levels: holds, then the cores' limits. -/
def actRound (q : Nat) (s : State) : State :=
  (idxFrom (64 * q) 64).foldl (fun a n => limitRound n a) (quarterHold q ((idxFrom (64 * q) 64).foldl (fun a n => coreHold n a) s))
/-- A quarter's round. -/
def quarterRound (q : Nat) (temps : List (Nat × Int)) (minv : List (Nat × BitVec 64)) (volts amps tines : List Int) (s : State) : State :=
  let before := (s.thm.regions.filter (fun e => e.2.level == 4)).map Prod.fst
  let s1 := takeRails q volts amps tines (correctScan q ((scanChans s q).foldl (fun a i => takeChan temps q i a) s))
  let s2 := coreRound q (dieRound q (middleRound q s1))
  minv.foldl (fun a e => minRound q e a) (actRound q (tripsOf q before s2))
/-- OS-core clock and trip of the hub (Table 16-4, R450). -/
def hubActions (s : State) : State :=
  let lv := levelOf s 330
  let t := s.thm
  if lv = 4 then loseModule 0xC (alarmW 0x0208 0 [1] (bump 0x00C0_0138 1 s))
  else if lv = 3 then { s with thm := { t with osClk := 2, osNormal := 0 } }
  else if lv = 2 then { s with thm := { t with osClk := max 1 (if t.osClk = 2 then 1 else t.osClk), osNormal := 0 } }
  else if lv = 1 then { s with thm := { t with osNormal := 0 } }
  else { s with thm := { t with osNormal := min 10 (t.osNormal + 1), osClk := if 9 ≤ t.osNormal then 0 else t.osClk } }
/-- A coolant flag: 1,000 rounds set it, with its alarm, and 1,000 rounds below its condition clear it. -/
def coolFlag (on : Bool) (hot : Bool) (run clr : Nat) : Bool × Nat × Nat :=
  let r := if hot then min 1000 (run + 1) else 0
  let c := if hot then 0 else min 1000 (clr + 1)
  (if on then decide (c < 1000) else decide (1000 ≤ r), r, c)
/-- The coolant channels (R451). -/
def coolRound (s : State) : State :=
  let a := (readings s [4024]).head?
  let b := (readings s [4025]).head?
  let hot := match a with | some x => decide (deg 40 < x) | none => false
  let slow := match a, b with | some x, some y => decide (deg 15 < y - x) | _, _ => false
  let t := s.thm
  let h := coolFlag t.coolantHigh hot t.coolRuns.1 t.coolClr.1
  let f := coolFlag t.flowLow slow t.coolRuns.2 t.coolClr.2
  let s1 := { s with thm := { t with coolantHigh := h.1, flowLow := f.1, coolRuns := (h.2.1, f.2.1), coolClr := (h.2.2, f.2.2) } }
  let s2 := if h.1 && !t.coolantHigh then alarmW 0x0209 0x0004 [wrapInt 64 (a.getD 0)] s1 else s1
  if f.1 && !t.flowLow then alarmW 0x020A 0x0004 [wrapInt 64 (b.getD 0)] s2 else s2
/-- The hub's round. -/
def hubRound (temps : List (Nat × Int)) (s : State) : State :=
  let s1 := correctScan 4 ((scanChans s 4).foldl (fun a i => takeChan temps 4 i a) s)
  hubActions (coolRound (regionRound 330 false (highest (readings s1 (idxFrom 4000 24))) s1))
/-- A quarter's results are here: it leaves BLIND after 10 complete rounds. -/
def arrivedNow (q : Nat) (s : State) : State :=
  let t := s.thm
  let n := tget 0 t.complete q + 1
  { s with thm := { t with arrived := ladd t.arrived q, missed := tdel t.missed q, complete := tset 0 t.complete q (min 10 n)
                           blind := if 10 ≤ n then ldel t.blind q else t.blind } }
/-- ROUND_RESULTS (R437 to R451): the results of quarter q, or of the hub (q = 4), for the round that has just ended: (channel index, 1/16 °C), the
minimum-voltage reports, the rail voltages in mV, the currents in mA by domain and by middle-die branch, and the tines' currents in mA. -/
def execRoundResults (q : Nat) (temps : List (Nat × Int)) (minv : List (Nat × BitVec 64)) (volts amps tines : List Int) (s : State) : Out :=
  evt (decide (q < 5) && pelsesoRuns s && !s.thm.arrived.contains q && decide (since s s.thm.roundAt ≤ 200 * us)) s
    (if q = 4 then hubRound temps (arrivedNow 4 s) else quarterRound q temps minv volts amps tines (arrivedNow q s))
/-- ROUND_MISSING (R439): the second in a row makes the quarter blind, the tenth takes it out of service. -/
def execRoundMissing (q : Nat) (s : State) : Out :=
  let t := s.thm
  let n := tget 0 t.missed q + 1
  let s1 := bump 0x00C0_0118 1 { s with thm := { t with arrived := ladd t.arrived q, missed := tset 0 t.missed q n, complete := tdel t.complete q } }
  let s2 := if n = 2 then alarmW 0x020C (srcQuarter q) [n] { s1 with thm := { s1.thm with blind := ladd s1.thm.blind q } } else s1
  evt (decide (q < 4) && pelsesoRuns s && !t.arrived.contains q && decide (200 * us < since s t.roundAt) && (s.quarter q).st != 2 &&
       (s.quarter q).st != 4) s
    (if n = 10 then quarterFault q true s2 else s2)
/-- CRITICAL_LIMIT_STEP (R449, R439): every 100 µs at CRITICAL, or in a blind quarter. -/
def execCriticalLimitStep (q c : Nat) (s : State) : Out :=
  let n := 64 * q + c
  let k := s.core n
  evt (wfCore q c && coreFitted s n && pelsesoRuns s && decide (3 ≤ limitLevel s n) && decide (60 < k.therm.limit) && aged s k.therm.limitAt (100 * us)) s
    (setPoint n (s.setCore n { k with therm := { k.therm with limit := k.therm.limit - 1, rise := 0, limitAt := now s } }))
/-- TRIP_RECHECK (R450): 100 ms after a quarter's trip a middle or base die still reads 125 °C or more. -/
def execTripRecheck (q : Nat) (s : State) : Out :=
  let k := s.quarter q
  let hot := [300 + 2 * q, 301 + 2 * q, 310 + 2 * q, 311 + 2 * q].any (fun i => match (s.region i).est with | some e => decide (deg 125 ≤ e) | none => false)
  evt (decide (q < 4) && pelsesoRuns s && k.tripHold.isSome && heldFor s k.trips.getLast? (100 * ms) && hot && !k.railsOff) s (quarterRailsOff q s)

/-! ## Pace counters (R447, R448) -/

/-- p70 in tenths of a handshake at a rail voltage in mV: the table's entries, interpolated. -/
def pace70 (t : CoreTherm) (mv : Nat) : Nat :=
  let v := min 900 (max 600 mv) - 600
  let a := tget 0 t.ring (v / 10)
  let b := tget 0 t.ring (min 30 (v / 10 + 1))
  10 * a + (b * (v % 10)) - (a * (v % 10))
/-- tp of R447. -/
def paceEst (t : CoreTherm) (count mv : Nat) : Int :=
  let p : Int := pace70 t mv
  if p ≤ 0 then deg 70 else max (deg 70) (deg 70 + 16 * (p - 10 * count) * 10000 / (15 * p))
/-- Raise a core's region to a level at once. -/
def raiseLevel (n lv : Nat) (s : State) : State :=
  let r := s.region n
  if r.level < lv then levelAlarm n (levelOf s n) (s.setRegion n { r with level := lv, below := 0 }) else s
/-- What an estimate of a core's pace sensor does (R448): ten in a row more than 8 °C above the round's estimate pace the core, ten at 115 °C or more
make it CRITICAL, and ten at 125 °C or more trip it. -/
def paceNoted (n : Nat) (tp : Int) (s : State) : State :=
  let k := s.core n
  let t := k.therm
  let est := ((s.region n).est).getD (deg 70)
  let a := if est + deg 8 < tp then t.runs.1 + 1 else 0
  let b := if deg 115 ≤ tp then t.runs.2.1 + 1 else 0
  let d := if deg 125 ≤ tp then t.runs.2.2 + 1 else 0
  let s1 := s.setCore n { k with therm := { t with runs := (a, b, d), pace := t.pace || decide (10 ≤ a), tp := tp } }
  let s2 := if 10 ≤ a ∧ !t.pace then alarmW 0x0207 (srcCore n) [wrapInt 64 tp] (bump 0x00C0_0130 1 s1) else s1
  let s3 := if 10 ≤ b ∧ (s.region n).level < 3 then raiseLevel n 3 (bump 0x00C0_0130 1 s2) else s2
  if 10 ≤ d ∧ (s.region n).level < 4 then tripCore n (raiseLevel n 4 (bump 0x00C0_0130 1 s3)) else s3
/-- PACE_INTERVAL (R447, R448): 10 µs of pace-ring handshakes and the mean rail voltage in mV, as read against the quarter's reference. -/
def execPaceInterval (q c count mv : Nat) (s : State) : Out :=
  let n := 64 * q + c
  let t := (s.core n).therm
  evt (wfCore q c && coreFitted s n && pelsesoRuns s && decide ((s.core n).fallow ≤ 1) && !t.ring.isEmpty) s (paceNoted n (paceEst t count (corrected s q mv)) s)

end Sys2Proof.Machine
end

