-- ==== Sys2Proof/Machine/Regs.lean ====
section
/-! DEFINITION. Control space: the value of every register, the counter banks and their mirror, writes by access type, the windrow's readout,
the development port (00 R5, R9 to R11; the registers of 07, 09 to 19; 19 R500, R511, R512). -/
namespace Sys2Proof.Machine

/-! ## Counter banks (R248 and the rules that cite it) -/

/-- An offset is one of n consecutive 64-bit counters from a base. -/
def inBank (off base n : Nat) : Bool := decide (base ≤ off) && decide (off < base + 8 * n) && (off - base) % 8 == 0
/-- An offset is one of n counters from `first` in one of k blocks of `stride` bytes. -/
def inBlocks (off base stride k first n : Nat) : Bool :=
  decide (base ≤ off) && decide (off < base + stride * k) && inBank ((off - base) % stride) first n
/-- The counters of the manual (Tables 7-6, 9-12, 10-6, 11-7, 13-6, 14-8, 15-8, 16-5, 17-6, 18-7, 19-7). -/
def isCounter (off : Nat) : Bool :=
  inBlocks off 0x0050_0000 0x1000 8 0x100 16 || inBlocks off 0x0060_0000 0x1000 9 0x100 6 || inBank off 0x0068_0000 9 ||
  inBlocks off 0x0070_0000 0x1000 8 0x100 26 || inBlocks off 0x0080_0000 0x1000 4 0x100 10 || inBank off 0x0084_0100 10 ||
  inBank off 0x0090_0100 7 || inBank off 0x00A0_0100 6 || inBlocks off 0x00A1_0000 0x1000 9 0x100 5 || inBank off 0x00B4_0100 10 ||
  inBank off 0x00C0_0100 8 || inBank off 0x00D0_0200 8 || inBank off 0x00E0_0100 4 || inBank off 0x00F0_0100 13

/-! ## Granary, links, stacks -/

/-- GRN_WAYS. -/
def grnWays (s : State) (h : Nat) : Nat :=
  let x := s.half h
  waysFitted s + 2 ^ 8 * x.plotWays + 2 ^ 16 * x.plots.length + 2 ^ 23 * x.fenced.length
/-- Pinned lines of a half. -/
def pinnedLines (x : Half) : List Line := x.lines.filter (fun l => l.pinned && l.shadow == none)
/-- HIGH: the largest number of plot ways plus pinned lines in a set. -/
def grnHigh (x : Half) : Nat :=
  x.plotWays + (pinnedLines x).foldl (fun a l => max a ((pinnedLines x).filter (fun k => k.set == l.set)).length) 0
/-- GRN_PIN_LIMIT. -/
def grnPinLimit (s : State) (h : Nat) : Nat :=
  let x := s.half h
  x.limit + 2 ^ 8 * grnHigh x + 2 ^ 16 * (pinsOf s h).length
/-- GRN_STATUS. -/
def grnStatus (s : State) (h : Nat) : Nat :=
  let x := s.half h
  b2n x.thrash + 2 * b2n x.carve.isSome + 4 * b2n (pinServing s h) + 8 * b2n (x.fills.any (fun f => f.waiting))
/-- A granary register: zero before the fuse load. -/
def grnReg (s : State) (h r : Nat) : Option (Nat × Nat) :=
  let v (n : Nat) : Nat := if s.fuse.loaded then n else 0
  match r with
  | 0x000 => some (v (grnWays s h), 4)
  | 0x008 => some (v (grnPinLimit s h), 4)
  | 0x010 => some (v (s.half h).thrashCfg.toNat, 4)
  | 0x018 => some (v (grnStatus s h), 4)
  | _ => none

/-- Groups of a direction for which a condition holds, as a mask. -/
def groupMask (k : Link) (dir : Nat) (p : Group → Bool) : Nat := ((List.range 16).filter (fun g => p (k.group dir g))).foldl (fun a g => a + 2 ^ g) 0
/-- LNK_STATE: STATE 3 for LG without a guest die. -/
def lnkState (s : State) (l : Nat) : Nat :=
  let k := s.link l
  let act (dir : Nat) : Nat :=
    if k.st ≠ 1 then 0
    else if l = 8 then (setBits 4 s.guest.modules).length
    else ((List.range 16).filter (fun g => decide ((k.group dir g).st = 0))).length
  if l = 8 ∧ !is4G s then 3 else k.st + 2 ^ 8 * act 0 + 2 ^ 16 * act 1
/-- LNK_RETIRED: a group counts from its retirement (R264); on LG, a module that did not train. -/
def lnkRetired (s : State) (l : Nat) : Nat :=
  let k := s.link l
  let m := if k.st = 0 then 0 else 15 - s.guest.modules % 16
  if l = 8 then (if is4G s then m + 2 ^ 16 * m else 0)
  else groupMask k 0 (fun x => decide (x.st ≠ 0)) + 2 ^ 16 * groupMask k 1 (fun x => decide (x.st ≠ 0))
/-- LNK_SPARES. -/
def lnkSpares (s : State) (l : Nat) : Nat :=
  let used (x : Group) : Nat := b2n (x.spares.1 != 0) + b2n (x.spares.2 != 0)
  let dirv (dir : Nat) : Nat := (List.range 16).foldl (fun a g => a + 4 ^ g * used ((s.link l).group dir g)) 0
  if l = 8 then 0 else dirv 0 + 2 ^ 32 * dirv 1
/-- A link register. -/
def lnkReg (s : State) (l r : Nat) : Option (Nat × Nat) :=
  match r with
  | 0x000 => some (lnkState s l, 4)
  | 0x008 => some (lnkRetired s l, 4)
  | 0x010 => some (lnkSpares s l, 8)
  | _ => none
/-- A stack register: zero but for MEM_STATE where the stack is not populated. -/
def memReg (s : State) (m r : Nat) : Option (Nat × Nat) :=
  let k := s.stack m
  let v (n : W64) : Nat := if stackFitted s m then n.toNat else 0
  match r with
  | 0x000 => some (memState s m, 4)
  | 0x008 => some (v k.failed, 8)
  | 0x010 => some (v k.share, 8)
  | 0x018 => some (v k.limit, 8)
  | _ => none

/-! ## Ports, power, temperature, clocks -/

/-- A port register. -/
def portReg (s : State) (p r : Nat) : Option (Nat × Nat) :=
  let x := s.port p
  if r = 0 then some (portState s p, 4)
  else if 0x200 ≤ r ∧ r < 0x300 ∧ r % 16 = 0 then some (x.cfg ((r - 0x200) / 16), 8)
  else if 0x200 ≤ r ∧ r < 0x300 ∧ r % 16 = 8 then
    let i := (r - 0x200) / 16
    some ((x.head i).toNat + 2 ^ 16 * (x.tail i).toNat, 8)
  else none
/-- FAB_TIME_STATE. -/
def timeState (s : State) : Nat := s.fab.timeSt + 4 * b2n s.fab.ppsOk
/-- A word of the queue-pair table: STATE stands in bits 7:6 of word 0. -/
def qpWord (s : State) (off : Nat) : Nat :=
  leNat (mread s.fab.qpTab off 8) + (if off % 64 = 0 then 2 ^ 6 * ((s.qp (off / 64)).st % 4) else 0)
/-- PWR_INPUT. -/
def pwrInput (s : State) : Nat := s.pwr.mv / 10 % 2 ^ 16 + 2 ^ 16 * (s.pwr.ma / 10 % 2 ^ 16) + 2 ^ 32 * (s.pwr.w % 2 ^ 16)
/-- PWR_STATUS. -/
def pwrStatus (s : State) : Nat :=
  let p := s.pwr
  p.input + 4 * b2n p.brake.isSome + 8 * b2n (decide (plim s < 4300)) + 16 * b2n p.paced + 32 * b2n p.ballast +
  (p.scFailed.foldl (fun a i => a + 2 ^ (8 + i)) 0) + 2 ^ 32 * (p.bucket / 100 % 2 ^ 32)
/-- PWR_DOM_STATE. -/
def domState (s : State) (q d : Nat) : Nat :=
  let x := s.domain q d
  let f := if d < 64 then fallowOf s (64 * q + d) else if x.vset = 0 then 3 else 0
  x.vset % 1024 + 2 ^ 14 * b2n x.dark + 2 ^ 15 * b2n (decide (d < 64) && decide (paceCap s (64 * q + d) < 64)) + 2 ^ 16 * f + 2 ^ 24 * (x.failed.length % 256)
/-- A temperature field: 0x8000 for none. -/
def tempField (t : Option Int) : Nat := match t with | some x => wrapInt 16 x | none => 0x8000
/-- CLK_STATE.LOCKED: the hub's domains, and the base dies' where every loop in service, those of the quarters that are not fenced, is locked. -/
def lockedBits (s : State) : Nat :=
  let on (q : Nat) : Bool := (s.quarter q).st != 4
  let all_ (d : Nat) : Bool := ((List.range 4).filter on).all (fun q => !s.clk.unlocked.contains (4 * q + d)) && (List.range 4).any on
  s.clk.locked.toNat + (List.range 4).foldl (fun a d => a + 2 ^ (10 + d) * b2n (all_ d)) 0
/-- THM_STATUS. -/
def thmStatus (s : State) : Nat :=
  let lv (q : Nat) : Nat := (idxFrom (64 * q) 64 ++ dieRegions s q).foldl (fun a i => max a (levelOf s i)) 0
  (List.range 4).foldl (fun a q => a + 2 ^ (4 * q) * lv q) 0 + 2 ^ 16 * levelOf s 330 + 2 ^ 20 * b2n s.thm.coolantHigh +
  2 ^ 21 * b2n s.thm.flowLow + 2 ^ 22 * b2n (!s.thm.blind.isEmpty) + 2 ^ 23 * b2n s.fuse.curveDefault
/-- THM_CORE_c. -/
def thmCore (s : State) (n : Nat) : Nat :=
  let t := (s.core n).therm
  let e := if t.pace then some t.tp else (s.region n).est
  tempField e + 2 ^ 16 * coreLevel s n + 2 ^ 19 * b2n t.pace + 2 ^ 20 * b2n (s.chan (1000 * (n / 64) + n % 64)).failed + 2 ^ 24 * (t.limit % 128)
/-- THM_MID_W and THM_MID_E. -/
def thmMid (s : State) (h : Nat) : Nat :=
  let m := s.mid h
  tempField m.ts + 2 ^ 16 * tempField m.tm + 2 ^ 32 * tempField m.tl + 2 ^ 48 * levelOf s (300 + h) + 2 ^ 51 * b2n m.disagree +
  2 ^ 52 * b2n m.ceWitness
/-- THM_REGION. -/
def thmRegion (s : State) (q : Nat) : Nat :=
  let k (i : Nat) : Nat := match (quarterStacks s q)[i]? with | some m => tempField (s.region (320 + m)).est | none => 0x8000
  tempField (s.region (310 + 2 * q)).est + 2 ^ 16 * tempField (s.region (311 + 2 * q)).est + 2 ^ 32 * k 0 + 2 ^ 48 * k 1
/-- A register of a quarter's thermal block. -/
def thmReg (s : State) (q r : Nat) : Option (Nat × Nat) :=
  if r < 0x100 ∧ r % 4 = 0 then some (thmCore s (64 * q + r / 4), 4)
  else match r with
    | 0x100 => some (thmMid s (2 * q), 8)
    | 0x108 => some (thmMid s (2 * q + 1), 8)
    | 0x110 => some (thmRegion s q, 8)
    | _ => none
/-- QTR_STATE_n. -/
def qtrState (s : State) (q : Nat) : Nat :=
  let k := s.quarter q
  k.st + 2 ^ 8 * min (recent s k.faults hour).length 255 + 2 ^ 20 * (k.stamp.toNat % 2 ^ 44)

/-! ## Every register: its value and its width in bytes -/

/-- Registers that stand alone, by offset. -/
def plainReg (s : State) (off : Nat) : Option (Nat × Nat) :=
  match off with
  | 0x0030_0000 => some (fusPart s, 4)
  | 0x0030_0008 => some (fusSec s, 4)
  | 0x0030_000C => some (fusEpoch s, 4)
  | 0x0084_0000 => some (s.pel.glnCfg.toNat, 4)
  | 0x00A0_0000 => some (s.fab.cfg.toNat, 4)
  | 0x00A0_0010 => some (s.fab.timeCfg.toNat, 4)
  | 0x00A0_0014 => some (timeState s, 4)
  | 0x00A0_0018 => some (s.fab.ptpOffset.toNat, 8)
  | 0x00B4_0000 => some (pwrInput s, 8)
  | 0x00B4_0008 => some (pwrStatus s, 8)
  | 0x00C0_0000 => some (thmStatus s, 4)
  | 0x00C0_0008 => some (tempField (s.chan 4024).last + 2 ^ 16 * tempField (s.chan 4025).last, 4)
  | 0x00D0_0000 => some (lockedBits s + 2 ^ 18 * b2n s.clk.holdover.isSome, 4)
  | 0x00D0_0008 => some ((now s).toNat, 8)
  | 0x00D0_0010 => some (rstCause s, 4)
  | 0x00F0_0000 => some ((openAlarms s).length + 2 ^ 16 * b2n s.wdr.traceStopped, 4)
  | 0x00F0_0020 => some (s.wdr.traceCfg.toNat, 4)
  | 0x00F0_0028 => some (s.wdr.snapStamp.toNat, 8)
  | _ => none
/-- Registers of repeated blocks. -/
def blockReg (s : State) (off : Nat) : Option (Nat × Nat) :=
  let r := off % 0x1000
  let i := off / 0x1000
  if 0x500 ≤ i ∧ i < 0x508 then grnReg s (i - 0x500) r
  else if 0x600 ≤ i ∧ i < 0x609 then lnkReg s (i - 0x600) r
  else if 0x700 ≤ i ∧ i < 0x708 then memReg s (i - 0x700) r
  else if 0xA10 ≤ i ∧ i < 0xA19 then portReg s (i - 0xA10) r
  else if 0x00A2_0000 ≤ off ∧ off < 0x00A2_0800 ∧ off % 8 = 0 then some (leNat (mread s.fab.listen (off - 0x00A2_0000) 8), 8)
  else if 0x00A4_0000 ≤ off ∧ off < 0x00A5_0000 ∧ off % 8 = 0 then some (qpWord s (off - 0x00A4_0000), 8)
  else if 0x00B0_0000 ≤ off ∧ off < 0x00B4_0000 ∧ off % 0x10000 < 0x40 * 67 then
    let q := (off - 0x00B0_0000) / 0x10000
    let d := off % 0x10000 / 0x40
    (match off % 0x40 with
     | 0 => some (domState s q d, 4)
     | 8 => some ((match (s.domain q d).minv with | some m => (minvWord m).toNat | none => 0), 8)
     | _ => none)
  else if 0xC10 ≤ i ∧ i < 0xC14 then thmReg s (i - 0xC10) r
  else if 0x00D0_0100 ≤ off ∧ off < 0x00D0_0120 ∧ off % 8 = 0 then some (qtrState s ((off - 0x00D0_0100) / 8), 8)
  else if 0x00F0_0010 ≤ off ∧ off < 0x00F0_0020 ∧ off % 4 = 0 then some ((tget 0 s.wdr.winSel ((off - 0x00F0_0010) / 4)).toNat, 4)
  else none
/-- A counter of a stack that is not populated reads zero (file 10). -/
def counterReg (s : State) (off : Nat) : Nat :=
  if 0x0070_0000 ≤ off ∧ off < 0x0070_8000 ∧ !stackFitted s ((off - 0x0070_0000) / 0x1000) then 0 else (counter s off).toNat
/-- A register in the window of a unit that is fused off: of a stack that is not populated, or of a port with a fused-off lane, each but for
the register whose STATE reads absent (R5, files 10 and 14). -/
def absentReg (s : State) (off : Nat) : Bool :=
  let i := off / 0x1000
  off % 0x1000 != 0 &&
    ((decide (0x700 ≤ i) && decide (i < 0x708) && !stackFitted s (i - 0x700)) ||
     (decide (0xA10 ≤ i) && decide (i < 0xA18) && is4B s && !portPresent s (i - 0xA10)))
/-- The register at an offset, outside the mailboxes: its value and width. -/
def ctrlReg (s : State) (off : Nat) : Option (Nat × Nat) :=
  let r := if isCounter off then some (counterReg s off, 8)
    else match plainReg s off with
      | some x => some x
      | none => blockReg s off
  if absentReg s off then r.map (fun x => (0, x.2)) else r

/-! ## Readout areas (R505, R511, R512) -/

/-- Bytes of a readout window: the page of the block that WDR_WIN_SEL_k names; zeros beyond the directory. -/
def windowBytes (s : State) (k off n : Nat) : List Byte :=
  let sel := (tget 0 s.wdr.winSel k).toNat
  match blockOf s (bits sel 15 8) with
  | some b => if bits sel 15 8 < 160 then slice b.bytes (0x1_0000 * bits sel 6 0 + off) n else List.replicate n 0
  | none => List.replicate n 0
/-- Bytes of the directory, the alarm table and the windows, where a natural access falls into them. -/
def readout (s : State) (off n : Nat) : Option (List Byte) :=
  if 0x00F1_0000 ≤ off ∧ off < 0x00F1_0A00 then some (slice (dirEntry s ((off - 0x00F1_0000) / 16)) (off % 16) n)
  else if 0x00F2_0000 ≤ off ∧ off < 0x00F6_0000 then some (slice (alarmEntry s ((off - 0x00F2_0000) / 64)) (off % 64) n)
  else if 0x00F8_0000 ≤ off ∧ off < 0x00FC_0000 then some (windowBytes s ((off - 0x00F8_0000) / 0x1_0000) (off % 0x1_0000) n)
  else none
/-- The mirror (R512): a counter's value in the last capture; zero at any other offset of it. -/
def mirrorRead (s : State) (off width : Nat) : Nat × Bool :=
  let o := off - 0x0800_0000
  if isCounter o then (if width = 8 then ((tget 0 s.wdr.mirror o).toNat, false) else (0, true)) else (0, false)
/-- A read of control space: the value, and whether it is a stray access: of the wrong width, misaligned, where no register is (R10), or in the
window of a unit that is fused off (R5). -/
def ctrlRead (s : State) (off width : Nat) : Nat × Bool :=
  if off < 0x8_0000 then mbRead (s.mb (off / 0x4000)) (off % 0x4000) width
  else if 0x0800_0000 ≤ off then mirrorRead s off width
  else match readout s off width with
    | some b => if natural off width then (leNat b, false) else (0, true)
    | none =>
      match ctrlReg s off with
      | some (v, w) => if w = width then (v, absentReg s off) else (0, true)
      | none => (0, true)
/-- What a read does besides: TIN_MINV_STAMP is cleared by its read (R11, R420). -/
def readClears (off width : Nat) (s : State) : State :=
  if 0x00B0_0000 ≤ off ∧ off < 0x00B4_0000 ∧ off % 0x10000 < 0x40 * 67 ∧ off % 0x40 = 8 ∧ width = 8 then
    let q := (off - 0x00B0_0000) / 0x10000
    let d := off % 0x10000 / 0x40
    s.setDomain q d { s.domain q d with minv := none }
  else s

/-! ## Writes (R9, R11) -/

/-- FAB_CFG: DRILL_UDP, ROCE_PRIO and MODE; a MODE of 3, and a DRILL_UDP below 1,024, are ignored; MODE is kept in flash for the next module
reset. -/
def fabCfgWrite (v : Nat) (s : State) : State :=
  let old := s.fab.cfg.toNat
  let udp := if 1024 ≤ bits v 31 16 then bits v 31 16 else bits old 31 16
  let mode := if bits v 1 0 = 3 then bits old 1 0 else bits v 1 0
  let s1 := { s with fab := { s.fab with cfg := BitVec.ofNat 32 (mode + 2 ^ 4 * bits v 6 4 + 2 ^ 8 * bits old 9 8 + 2 ^ 16 * udp) }
                     sec := { s.sec with fabMode := mode } }
  if bits v 1 0 = 3 ∨ bits v 31 16 < 1024 then logIgnored (ctrlBase + 0x00A0_0000) v s1 else s1
/-- FAB_TIME_CFG: a new source or port starts from the free state. -/
def timeCfgWrite (v : Nat) (s : State) : State :=
  let w := BitVec.ofNat 32 (bits v 1 0 + 2 ^ 3 * bits v 6 3)
  if w = s.fab.timeCfg then s else { s with fab := { s.fab with timeCfg := w, timeSt := 0, ptpLast := none } }
/-- A write of full width to a register: writable ones take the value, the others ignore it. -/
def regWrite (off v : Nat) (s : State) : State :=
  let i := off / 0x1000
  let r := off % 0x1000
  if off = 0x00A0_0000 then fabCfgWrite v s
  else if off = 0x00A0_0010 then timeCfgWrite v s
  else if 0xA10 ≤ i ∧ i < 0xA19 ∧ 0x200 ≤ r ∧ r < 0x300 then
    (if r % 16 = 0 then hostqCfgWrite (i - 0xA10) ((r - 0x200) / 16) v s else hostqPtrWrite (i - 0xA10) ((r - 0x200) / 16) v s)
  else if 0x00A2_0000 ≤ off ∧ off < 0x00A2_0800 then listenWrite (off - 0x00A2_0000) v s
  else if 0x00A4_0000 ≤ off ∧ off < 0x00A5_0000 then qpWrite (off - 0x00A4_0000) v s
  else if 0x00F0_0010 ≤ off ∧ off < 0x00F0_0020 then
    { s with wdr := { s.wdr with winSel := tset 0 s.wdr.winSel ((off - 0x00F0_0010) / 4) (BitVec.ofNat 32 v &&& 0xFF7F) } }
  else if off = 0x00F0_0020 then traceCfgWrite (BitVec.ofNat 32 v) s
  else s
/-- A write of control space by an OS core, on behalf of a source: R10 for the width; R397 for a pair that a drill connection holds; the readout and the mirror
ignore writes. -/
def ctrlWrite (src off width v : Nat) (s : State) : State :=
  let stray := logStray src (ctrlBase + off) width true s
  if off < 0x8_0000 then (if mbBound s (off / 0x4000) then stray else mbWrite (off / 0x4000) 0 (off % 0x4000) width v s)
  else if 0x0800_0000 ≤ off then (if natural off width then s else stray)
  else if (readout s off width).isSome then (if natural off width then s else stray)
  else match ctrlReg s off with
    | some (_, w) => if w = width ∧ !absentReg s off then regWrite off (v % 2 ^ (8 * width)) s else stray
    | none => stray
/-- REGISTER_WRITE (R9 to R11). -/
def execRegisterWrite (off width : Nat) (v : BitVec 64) (s : State) : Out :=
  evt (inService s && decide (off < 0x1000_0000)) s (ctrlWrite 0 off width v.toNat s)

/-! ## The development port (R500, R530) -/

/-- Offsets that the development port reaches: Table 19-1 and the counter banks. -/
def devReach (off : Nat) : Bool :=
  (decide (0x00F0_0000 ≤ off) && decide (off < 0x00F0_0200)) || (decide (0x00F1_0000 ≤ off) && decide (off < 0x00F1_0A00)) ||
  (decide (0x00F2_0000 ≤ off) && decide (off < 0x00F6_0000)) || (decide (0x00F8_0000 ≤ off) && decide (off < 0x00FC_0000)) ||
  isCounter off || (decide (0x0800_0000 ≤ off) && isCounter (off - 0x0800_0000))
/-- DEV_READ (R500): the port exists in MANUFACTURE while the debug-disable fuse is intact; a read it does not serve is refused and counted. -/
def execDevRead (off width : Nat) (s : State) : Out :=
  let r := ctrlRead s off width
  let s1 := if r.2 then logStray 0 (ctrlBase + off) width false s else s
  evt (hubRuns s && s.fuse.loaded && !s.fuse.debugOff && s.fuse.lifecycle == 0) s
    (if (width == 4 || width == 8) && devReach off then { s1 with readData := BitVec.ofNat 64 r.1, readErr := false }
     else { bump 0x00F0_0160 1 s with readData := 0, readErr := true })

end Sys2Proof.Machine
end

