-- ==== Sys2Proof/Machine/Access.lean ====
section
/-! DEFINITION. Loads and stores of the OS cores through the physical address map (01 R17 to R19, R24; 00 R5, R10; 07 R222, R244; 09 R290;
12 R342; 14 R397; 18 R495, R498). -/
namespace Sys2Proof.Machine

/-- The parts of an access, each within one sector, or one 8-byte word of the guest window: address, length, place in the data. -/
def accessParts : Nat → Nat → Nat → Nat → Nat → List (Nat × Nat × Nat)
  | 0, _, _, _, _ => []
  | f + 1, unit, pa, n, at_ =>
    if n = 0 then []
    else let k := min n (unit - pa % unit); (pa, k, at_) :: accessParts f unit (pa + k) (n - k) (at_ + k)
/-- A core that holds a stook of a group with a tenant key (R495). -/
def holdsKeyed (s : State) (n : Nat) : Bool :=
  (s.core n).stooks.any (fun e => match tfind s.pel.runs e.2.launch.toNat with | some r => groupSlot s r.group != 0 | none => false)
/-- A tilth slot offset that an OS core reaches: scratchpad of a core that is not fused off and holds no keyed stook (R5, R18, R244, R495). -/
def tilthReach (s : State) (n off : Nat) : Bool := coreFitted s n && decide (off < padSize (s.core n)) && !holdsKeyed s n
/-- A part of a load or a store at an address that returns zero, or discards: reserved ranges (R342), and tilth that no OS core reaches. -/
def blocked (s : State) (pa : Nat) : Bool :=
  reservedPa s pa || (match place s pa with | .tilth n off => !tilthReach s n off | _ => false)
/-- A tilth slot of a quarter in headland or reset: the access returns retry-later, and the OS core issues it again (R464). -/
def tilthWaits (s : State) (pa : Nat) : Bool :=
  match place s pa with | .tilth n _ => decide ((s.quarter (n / 64)).st = 1 ∨ (s.quarter (n / 64)).st = 2) | _ => false
/-- Add loaded bytes to the data that the OS core receives. -/
def osData (k at_ : Nat) (b : List Byte) (psn : Bool) (s : State) : State :=
  let x := s.osCore k
  s.setOs k { x with data := x.data + BitVec.ofNat 512 (leNat b * 2 ^ (8 * at_)), poison := x.poison || psn }
/-- The OS core awaits a part of its load. -/
def osAwait (k key off n at_ : Nat) (s : State) : State :=
  let x := s.osCore k
  s.setOs k { x with await := x.await ++ [(key, off, n, at_)] }
/-- A request to the guest die for one 8-byte word (R290): the bytes of a WRITE that the store does not give are a free value. -/
def guestAsk (k off : Nat) (write : Bool) (b : List Byte) (n at_ : Nat) (s : State) : State :=
  let g := s.guest
  let o : GuestOut := { tag := g.nextTag, write := write, core := k, since := now s }
  let s1 := { s with guest := { g with outReqs := g.outReqs ++ [o], nextTag := (g.nextTag + 1) % 2 ^ 16 } }
  let w := off / 8 * 8
  if write then
    let full := decide (b.length = 8)
    let word := if full then b else splice (natLE 8 (Config.guestFill s.free)) (off % 8) b
    guestSend (flitBody 2 1 g.nextTag 0 false w word) { s1 with free := if full then s.free else s.free + 1 }
  else guestSend (flitBody 1 1 g.nextTag 0 false w []) (osAwait k (2 ^ 48 + g.nextTag) (off % 8) n at_ s1)
/-- One part of a load. -/
def osLoad (k : Nat) (p : Nat × Nat × Nat) (s : State) : State :=
  let (pa, n, at_) := p
  if blocked s pa then logStray (0x10 + k) pa n false s
  else match place s pa with
    | .hub off => let d := stRead 8 s.mem.hub off n; osData k at_ d.1 d.2 s
    | .tilth c off => let d := stRead 8 s.mem.tilth (c * 0x20_0000 + off) n; osData k at_ d.1 d.2 s
    | .guest off => guestAsk k off false [] n at_ s
    | _ => sendReqs (extReads s (.os k) 0 pa n) (osAwait k (pa / 64 * 64) (pa % 64) n at_ s)
/-- One part of a store. -/
def osStore (k : Nat) (v : Nat) (p : Nat × Nat × Nat) (s : State) : State :=
  let (pa, n, at_) := p
  let b := natLE n (v / 2 ^ (8 * at_))
  if blocked s pa then logStray (0x10 + k) pa n true s
  else match place s pa with
    | .hub _ => cohWrite s none 2 0 pa b false
    | .tilth _ _ => cohWrite s none 2 0 pa b false
    | .guest off => guestAsk k off true b n at_ s
    | _ => sendReqs (extWrites s (.os k) 0 pa b false) s
/-- The access to control space: one register, or a part of a readout. -/
def osCtrl (k : Nat) (write : Bool) (off width v : Nat) (s : State) : State :=
  if write then ctrlWrite (0x10 + k) off width v s
  else
    let r := ctrlRead s off width
    let s1 := if r.2 then logStray (0x10 + k) (ctrlBase + off) width false s else readClears off width s
    osData k 0 (natLE width r.1) false s1
/-- The access reads the stored word of its first byte, with the wrong bits that err gives, where that is a word of hub SRAM or of scratch that
it reaches; a store that writes the whole word reads none (log 19). -/
def osFound (write : Bool) (addr width err : Nat) (s : State) : State :=
  if blocked s addr || (write && decide (addr % 8 = 0) && decide (8 ≤ width)) then s
  else match place s addr with
    | .hub off => demandHub (off / 8) err s
    | .tilth n off => demandTilth (n * 0x4_0000 + off / 8) err s
    | _ => s
/-- A load that meets an uncorrectable word of hub SRAM (Table 11-3). -/
def osHubFault (write : Bool) (addr err : Nat) (s : State) : Bool :=
  !write && !blocked s addr && (match place s addr with
    | .hub off => s.mem.hub.wr.contains (off / 8) && !s.mem.hub.psn.contains (off / 8) && secdedRead (leNat (mread s.mem.hub.bytes (off / 8 * 8) 8)) (bits err 71 0) == .bad
    | _ => false)
/-- OS_CORE_ACCESS (R17 to R19): a load or a store of an OS core that awaits no earlier load. An address outside every range raises an access
fault, and so does a load that meets an uncorrectable word of hub SRAM (Table 11-3). The granary's parts, and the guest die's, are answered
later. With 256 requests to the guest die outstanding, the access waits (R290). -/
def execOsCoreAccess (core : Nat) (write : Bool) (addr width : Nat) (v : BitVec 512) (err : BitVec 78) (s : State) : Out :=
  let x := s.osCore core
  let unit := match place s addr with | .guest _ => 8 | _ => 64
  let ps := accessParts 9 unit addr width 0
  let s1 := s.setOs core { data := if write then x.data else 0, fault := false, poison := false, await := [] }
  let full := ps.any (fun p => match place s p.1 with | .guest _ => true | _ => false) && decide (256 < s.guest.outReqs.length + ps.length)
  evt (inService s && decide (core < 16) && x.await.isEmpty && !full && oneCopy (bits err.toNat 77 72)) s
    (match place s addr with
     | .ctrl off => osCtrl core write off width v.toNat s1
     | _ =>
       if ps.any (fun p => place s p.1 == .none) then s.setOs core { x with fault := true }
       else if ps.any (fun p => tilthWaits s p.1) then bump 0x00D0_0218 1 s
       else if osHubFault write addr err.toNat s then osFound write addr width err.toNat (s.setOs core { x with fault := true })
       else if write then ps.foldl (fun a p => osStore core v.toNat p a) (osFound write addr width err.toNat s1)
       else ps.foldl (fun a p => osLoad core p a) (osFound write addr width err.toNat s1))

end Sys2Proof.Machine
end

