-- ==== Sys2Proof/Machine/Alu.lean ====
section
/-! DEFINITION. Ordinary arithmetic of the sheaf engine (05 R162 to R167, Tables 5-5 and 5-6): one lane function an operation, one frame
for all. Results are written at once; the latency classes of Table 5-6 are timing (log 1). -/
namespace Sys2Proof.Machine

/-! ## Forms -/

/-- The format in which a word is a row of ALU3 and IMM: IMM when FMT = 1. -/
def aluFmt (w : W64) : Nat := if w.toNat % 16 = 1 then 1 else 0
/-- MOD of an ALU word. -/
def aluMod (w : Nat) : Nat := if w % 16 = 1 then bits w 45 42 else bits w 63 60
/-- The immediate of the IMM format (R164). -/
def aluImm (w e : Nat) : Nat :=
  let ty := wType w
  if wExt w then (if wide ty then imm60 e else imm60 e % 2 ^ 32)
  else if ty = 4 then bits w 63 46 <<< 14
  else wrapInt (if wide ty then 64 else 32) (sfield w 63 46)

/-- Form of an operation with `ar` sources; `immOk`: it exists in the IMM format. -/
def aluForm (ar : Nat) (types : List Nat) (okMod : Nat → Nat → Bool) (immOk : Bool) (w : Nat) : Form :=
  let imm := w % 16 == 1
  let ty := wType w
  let cnt := regsOf ty
  let src := (if imm then (if ar = 1 then [] else [33]) else (if ar = 1 then [33] else if ar = 2 then [33, 42] else [33, 42, 51]))
  { regs := if imm then [24, 33] else [24, 33, 42, 51]
    opds := ⟨24, 15, cnt, true⟩ :: src.map (fun lo => ⟨lo, 15, cnt, false⟩)
    used := if imm then fmask 42 4 ||| (if wExt w then 0 else fmask 46 18) else fmask 60 4
    types := types
    ok := okMod ty (aluMod w) && (!imm || immOk) && !(imm && (ty == 5 || ty == 6) && !wExt w)
    ext := imm
    guard := true
    lanewise := false }

/-- MOD of an operation that rounds its floating results and takes no other MOD (R166). DESIGN CHOICE (log 32): MIN, MAX, ABS and NEG are floating
operations of R166, so that MOD 1 to 3 is accepted there too, where no rounding occurs. -/
def modRound (ty mod : Nat) : Bool := if ty == 4 || ty == 5 || ty == 6 then decide (mod ≤ 3) else mod == 0
/-- MOD of ADD and SUB: bit 2 saturates integers. -/
def modSat (ty mod : Nat) : Bool := if ty == 4 || ty == 5 || ty == 6 then decide (mod ≤ 3) else mod == 0 || mod == 4
/-- MOD of an operation that takes none. -/
def modZero (_ty mod : Nat) : Bool := mod == 0

/-- A lane function: type, MOD and three operands to the result and its exceptions. -/
abbrev LaneFn := Nat → Nat → Nat → Nat → Nat → Nat × Exns

/-- Operand value in a lane: the register, or the immediate in its place. -/
def aluArg (v : Env) (ar i lane : Nat) : Nat :=
  let cnt := regsOf (wType v.w)
  if v.w % 16 = 1 ∧ i + 1 = ar then aluImm v.w v.e
  else if i < ar then rdN v.f (bits v.w (33 + 9 * i + 8) (33 + 9 * i)) cnt lane else 0

/-- Lanes that an instruction is computed for: every executing lane, or one for a u or p destination (R158). -/
def aluLanes (v : Env) : List Nat :=
  if regClass (bits v.w 32 24) = 2 ∨ regClass (bits v.w 32 24) = 4 then (lanesOf v.m).take 1 else lanesOf v.m

/-- The result and exceptions of each lane. -/
def aluResults (v : Env) (ar : Nat) (fn : LaneFn) : List (Nat × Nat × Exns) :=
  (aluLanes v).map (fun l => (l, fn (wType v.w) (aluMod v.w) (aluArg v ar 0 l) (aluArg v ar 1 l) (aluArg v ar 2 l)))

/-- The body of an ordinary operation: a trapped exception faults (R167), else the destination is written. -/
def aluBody (ar : Nat) (fn : LaneFn) (v : Env) (s : State) : Res :=
  let rs := aluResults v ar fn
  let dst := bits v.w 32 24
  match trapOf v.run.trapMask (rs.map (fun r => (r.1, r.2.2))) with
  | some (d, l) => .fault 3 d (if regClass dst = 2 ∨ regClass dst = 4 then v.m else l) 0
  | none => .go (v.write dst (regsOf (wType v.w)) (rs.map (fun r => (r.1, r.2.1))) s) none

/-! ## Lane functions -/

/-- Width of a type. -/
def tyW (ty : Nat) : Nat := if wide ty then 64 else 32
/-- Range of an integer type. -/
def tyRange (ty : Nat) : Int × Int :=
  if ty = 0 ∨ ty = 2 then (-((2 ^ (tyW ty - 1) : Nat) : Int), ((2 ^ (tyW ty - 1) - 1 : Nat) : Int)) else (0, ((2 ^ tyW ty - 1 : Nat) : Int))
/-- Apply a floating lane function to a scalar or to both halves of a packed type. -/
def perHalf (ty : Nat) (g : Fmt → Nat → Nat → Nat → Nat × Exns) (a b c : Nat) : Nat × Exns :=
  if ty = 4 then g f32 a b c
  else
    let fm := if ty = 5 then f16 else bf16
    let lo := g fm (a % 65536) (b % 65536) (c % 65536)
    let hi := g fm (a / 65536 % 65536) (b / 65536 % 65536) (c / 65536 % 65536)
    (lo.1 + 65536 * hi.1, lo.2 ++ hi.2)
/-- Round an exact floating result and collect its exceptions. -/
def finish (fm : Fmt) (mod : Nat) (ops : List Nat) (x : Num) (div0 : Bool) : Nat × Exns :=
  let r := fenc fm (rndOf mod) x 0
  (r.1, fpExns fm ops x r.2 div0)
/-- Whether rounding is toward −∞ (sign of an exact zero sum, IEEE 754). -/
def isRdn (mod : Nat) : Bool := mod % 4 == 3
/-- A floating type. -/
def isFl (ty : Nat) : Bool := ty == 4 || ty == 5 || ty == 6

/-- ADD: sum; integers wrap or saturate. -/
def lnAdd : LaneFn := fun ty mod a b _ =>
  if isFl ty then perHalf ty (fun fm a b _ => finish fm mod [a, b] (fadd (isRdn mod) (fdec fm a) (fdec fm b)) false) a b 0
  else
    let x := intOf ty a + intOf ty b
    (wrapInt (tyW ty) (if mod.testBit 2 then clampI (tyRange ty).1 (tyRange ty).2 x else x), [])
/-- SUB: difference. -/
def lnSub : LaneFn := fun ty mod a b _ =>
  if isFl ty then perHalf ty (fun fm a b _ => finish fm mod [a, b] (fadd (isRdn mod) (fdec fm a) (fneg (fdec fm b))) false) a b 0
  else
    let x := intOf ty a - intOf ty b
    (wrapInt (tyW ty) (if mod.testBit 2 then clampI (tyRange ty).1 (tyRange ty).2 x else x), [])
/-- MUL: product, the low half of an integer one. -/
def lnMul : LaneFn := fun ty mod a b _ =>
  if isFl ty then perHalf ty (fun fm a b _ => finish fm mod [a, b] (fmul (fdec fm a) (fdec fm b)) false) a b 0
  else (wrapInt (tyW ty) (intOf ty a * intOf ty b), [])
/-- MULHI: the high half. -/
def lnMulhi : LaneFn := fun ty _ a b _ => (wrapInt (tyW ty) ((intOf ty a * intOf ty b) / ((2 ^ tyW ty : Nat) : Int)), [])
/-- MAD: SA × SB + SC, fused with one rounding when floating. -/
def lnMad : LaneFn := fun ty mod a b c =>
  if isFl ty then
    perHalf ty (fun fm a b c => finish fm mod [a, b, c] (fadd (isRdn mod) (fmul (fdec fm a) (fdec fm b)) (fdec fm c)) false) a b c
  else (wrapInt (tyW ty) (intOf ty a * intOf ty b + intOf ty c), [])
/-- MIN or MAX of two codes of a format: a NaN yields to a number, two give the default NaN, −0 is below +0. -/
def fMinMax (mx : Bool) (fm : Fmt) (a b : Nat) : Nat :=
  let x := fdec fm a
  let y := fdec fm b
  if x = .nan ∧ y = .nan then nanCode fm
  else if x = .nan then b
  else if y = .nan then a
  else if mx then (if fbelow x y then b else a) else (if fbelow y x then b else a)
/-- MIN. -/
def lnMin : LaneFn := fun ty _ a b _ =>
  if isFl ty then perHalf ty (fun fm a b _ => (fMinMax false fm a b, [])) a b 0
  else (wrapInt (tyW ty) (if intOf ty b < intOf ty a then intOf ty b else intOf ty a), [])
/-- MAX. -/
def lnMax : LaneFn := fun ty _ a b _ =>
  if isFl ty then perHalf ty (fun fm a b _ => (fMinMax true fm a b, [])) a b 0
  else (wrapInt (tyW ty) (if intOf ty a < intOf ty b then intOf ty b else intOf ty a), [])
/-- ABS: the sign bit cleared, or the integer's magnitude (the most negative stays). -/
def lnAbs : LaneFn := fun ty _ a _ _ =>
  if isFl ty then perHalf ty (fun fm a _ _ => (a % 2 ^ (fm.eb + fm.mb), [])) a 0 0
  else (wrapInt (tyW ty) ((intOf ty a).natAbs : Int), [])
/-- NEG: the sign bit inverted, or the integer negated. -/
def lnNeg : LaneFn := fun ty _ a _ _ =>
  if isFl ty then perHalf ty (fun fm a _ _ => ((a % 2 ^ (fm.eb + fm.mb + 1)) ^^^ signBit fm true, [])) a 0 0
  else (wrapInt (tyW ty) (-(intOf ty a)), [])
/-- DIV: quotient toward zero, all ones by zero; f32 correctly rounded. -/
def lnDiv : LaneFn := fun ty mod a b _ =>
  if ty = 4 then
    let r := fdiv (fdec f32 a) (fdec f32 b)
    finish f32 mod [a, b] r.1 r.2
  else if intOf ty b = 0 then (2 ^ tyW ty - 1, [1])
  else (wrapInt (tyW ty) (Int.tdiv (intOf ty a) (intOf ty b)), [])
/-- REM: sign of the dividend; the dividend by zero. -/
def lnRem : LaneFn := fun ty _ a b _ =>
  if intOf ty b = 0 then (wrapInt (tyW ty) (intOf ty a), [1])
  else (wrapInt (tyW ty) (Int.tmod (intOf ty a) (intOf ty b)), [])
/-- SQRT. -/
def lnSqrt : LaneFn := fun _ mod a _ _ =>
  let x : Num := match fdec f32 a with
    | .nan => .nan
    | .inf s => if s then .nan else .inf false
    | .fin s m e => if m = 0 then .fin s 0 e else if s then .nan else fsqrt m e
  finish f32 mod [a] x false
/-- An approximate result: a free value within n units in the last place of x when x is finite (R165, log 2). -/
def approx (mod a : Nat) (free : Nat) (x : Num) (n : Nat) (div0 : Bool) : Nat × Exns :=
  let r := approxUlp free (rndOf mod) x n
  (r.1, fpExns f32 [a] x r.2 div0)
/-- RCP. -/
def lnRcp : LaneFn := fun _ mod a _ _ =>
  let r := fdiv (.fin false 1 0) (fdec f32 a)
  approx mod a (Config.approxRcp (BitVec.ofNat 32 a)).toNat r.1 1 r.2
/-- RSQRT. -/
def lnRsqrt : LaneFn := fun _ mod a _ _ =>
  match fdec f32 a with
  | .nan => approx mod a 0 .nan 1 false
  | .inf s => approx mod a 0 (if s then .nan else .fin false 0 0) 1 false
  | .fin s m e =>
    if m = 0 then approx mod a 0 (.inf s) 1 true
    else if s then approx mod a 0 .nan 1 false
    else
      -- 1 / sqrt(x) = sqrt(1 / x), the inner quotient carried far beyond the result's precision
      match (fdiv (.fin false 1 0) (.fin false m e)).1 with
      | .fin _ m2 e2 => approx mod a (Config.approxRsqrt (BitVec.ofNat 32 a)).toNat (fsqrt m2 e2) 1 false
      | x => approx mod a 0 x 1 false
/-- EXP2. -/
def lnExp2 : LaneFn := fun _ mod a _ _ =>
  let x : Num := match fdec f32 a with
    | .nan => .nan
    | .inf s => if s then .fin false 0 0 else .inf false
    | .fin s m e => hpExp2 s m e
  approx mod a (Config.approxExp2 (BitVec.ofNat 32 a)).toNat x 2 false
/-- LOG2. -/
def lnLog2 : LaneFn := fun _ mod a _ _ =>
  match fdec f32 a with
  | .nan => approx mod a 0 .nan 2 false
  | .inf s => approx mod a 0 (if s then .nan else .inf false) 2 false
  | .fin s m e =>
    if m = 0 then approx mod a 0 (.inf true) 2 true
    else if s then approx mod a 0 .nan 2 false
    else approx mod a (Config.approxLog2 (BitVec.ofNat 32 a)).toNat (hpLog2 m e) 2 false
/-- SIN and COS: |x| ≤ 1,024 π, else invalid with the default NaN. -/
def trigLane (cosine : Bool) (free : W32 → W32) (mod a : Nat) : Nat × Exns :=
  match fdec f32 a with
  | .fin s m e =>
    if trigInRange m e then (approxAbs (free (BitVec.ofNat 32 a)).toNat (rndOf mod) (hpTrig cosine s m e), [])
    else (nanCode f32, [2])
  | _ => (nanCode f32, [2])
/-- SIN. -/
def lnSin : LaneFn := fun _ mod a _ _ => trigLane false Config.approxSin mod a
/-- COS. -/
def lnCos : LaneFn := fun _ mod a _ _ => trigLane true Config.approxCos mod a
/-- Low bits of the type's width. -/
def tyTrunc (ty v : Nat) : Nat := v % 2 ^ tyW ty
/-- AND. -/
def lnAnd : LaneFn := fun ty _ a b _ => (tyTrunc ty (a &&& b), [])
/-- OR. -/
def lnOr : LaneFn := fun ty _ a b _ => (tyTrunc ty (a ||| b), [])
/-- XOR. -/
def lnXor : LaneFn := fun ty _ a b _ => (tyTrunc ty (a ^^^ b), [])
/-- NOT. -/
def lnNot : LaneFn := fun ty _ a _ _ => (2 ^ tyW ty - 1 - tyTrunc ty a, [])
/-- SHL: count modulo the width. -/
def lnShl : LaneFn := fun ty _ a b _ => (tyTrunc ty (a <<< (b % tyW ty)), [])
/-- SHR: arithmetic for i32 and i64. -/
def lnShr : LaneFn := fun ty _ a b _ => (wrapInt (tyW ty) (intOf ty a / ((2 ^ (b % tyW ty) : Nat) : Int)), [])
/-- ROTL. -/
def lnRotl : LaneFn := fun ty _ a b _ =>
  let x := tyTrunc ty a
  let k := b % tyW ty
  (tyTrunc ty (x <<< k) ||| (x >>> (tyW ty - k)), [])
/-- POPC. -/
def lnPopc : LaneFn := fun ty _ a _ _ => ((setBits (tyW ty) a).length, [])
/-- CLZ: the width for zero. -/
def lnClz : LaneFn := fun ty _ a _ _ => (if tyTrunc ty a = 0 then tyW ty else tyW ty - 1 - Nat.log2 (tyTrunc ty a), [])
/-- MOV: the operand's bits. -/
def lnMov : LaneFn := fun ty _ a _ _ => (tyTrunc ty a, [])

/-! ## CVT (R165, R166) -/

/-- Format of a floating type. -/
def tyFmt (ty : Nat) : Fmt := if ty = 4 then f32 else if ty = 5 then f16 else bf16
/-- One conversion of a scalar: source type, destination type, rounding, random bits. -/
def cvt1 (ty dty : Nat) (mode : Rnd) (r a : Nat) : Nat × Exns :=
  if isFl ty then
    let fm := tyFmt ty
    let x := fdec fm a
    let sn := if isSnan fm a then [2] else []
    if isFl dty then
      let y := fenc (tyFmt dty) mode x r
      (y.1, sn ++ (if y.2 then [4] else []))
    else
      let (lo, hi) := tyRange dty
      match x with
      | .nan => (0, [2])
      | .inf s => (wrapInt (tyW dty) (if s then lo else hi), [2])
      | _ =>
        match fint mode x r with
        | none => (0, [2])
        | some z => (wrapInt (tyW dty) (clampI lo hi z), if z < lo ∨ hi < z then [2] else [])
  else
    let y := fenc (tyFmt dty) mode (numOfInt (intOf ty a)) r
    (y.1, if y.2 then [4] else [])
/-- CVT of one lane: destination type `dty`, MOD, source and random operand (R166). -/
def cvtLane (ty dty mod a b : Nat) : Nat × Exns :=
  if !isFl ty && !isFl dty then
    -- integer to integer: MOD 0 wraps, MOD 1 saturates, no exception
    (wrapInt (tyW dty) (if mod = 1 then clampI (tyRange dty).1 (tyRange dty).2 (intOf ty a) else intOf ty a), [])
  else
    let packedD := dty == 5 || dty == 6
    let packedS := ty == 5 || ty == 6
    let mode := if mod = 4 then Rnd.sto (if packedD then 12 else 24) 0 else rndOf mod
    let rLo := if packedD then b % 4096 else b % 2 ^ 24
    let a0 := if packedS then a % 65536 else a
    let lo := cvt1 ty dty mode rLo a0
    if packedS && packedD then
      let hi := cvt1 ty dty mode (b / 4096 % 4096) (a / 65536 % 65536)
      (lo.1 + 65536 * hi.1, lo.2 ++ hi.2)
    else lo
/-- Destination type of CVT (SC bits 55:51). -/
def cvtDst (w : Nat) : Nat := bits w 55 51
/-- Form of CVT. -/
def cvtForm (w : Nat) : Form :=
  let ty := wType w
  let mod := aluMod w
  let base := aluForm 1 [0, 1, 2, 3, 4, 5, 6] (fun _ _ => true) false w
  { base with
    regs := [24, 33, 42]
    opds := [⟨24, 15, regsOf (cvtDst w), true⟩, ⟨33, 15, regsOf ty, false⟩] ++ (if mod = 4 then [⟨42, 15, 1, false⟩] else [])
    used := fmask 60 4 ||| fmask 51 5
    ok := (w % 16 != 1) && decide (cvtDst w ≤ 6) && decide (mod ≤ (if !isFl ty && !isFl (cvtDst w) then 1 else 4)) }
/-- The body of CVT. -/
def cvtBody (v : Env) (s : State) : Res :=
  let ty := wType v.w
  let dst := bits v.w 32 24
  let rs := (aluLanes v).map (fun l =>
    (l, cvtLane ty (cvtDst v.w) (aluMod v.w) (rdN v.f (bits v.w 41 33) (regsOf ty) l)
          (if aluMod v.w = 4 then rd32 v.f (bits v.w 50 42) l else 0)))
  match trapOf v.run.trapMask (rs.map (fun r => (r.1, r.2.2))) with
  | some (d, l) => .fault 3 d (if regClass dst = 2 ∨ regClass dst = 4 then v.m else l) 0
  | none => .go (v.write dst (regsOf (cvtDst v.w)) (rs.map (fun r => (r.1, r.2.1))) s) none

/-! ## SEL, SETP and the operations across lanes -/

/-- Form of SEL: SC names a p register. DESIGN CHOICE (log 32): SEL and MOV copy bits and are no floating operations of R166, so that their MOD is 0. -/
def selForm (w : Nat) : Form :=
  let cnt := regsOf (wType w)
  { aluForm 3 [0, 1, 2, 3, 4, 5, 6, 7, 8] modZero false w with
    opds := [⟨24, 15, cnt, true⟩, ⟨33, 15, cnt, false⟩, ⟨42, 15, cnt, false⟩, ⟨51, 4, 1, false⟩] }
/-- SEL: SA in the lanes whose bit of SC is 1, SB elsewhere. DESIGN CHOICE (log 32): with a u or p destination the bit of the lowest executing lane
selects. -/
def selBody (v : Env) (s : State) : Res :=
  let cnt := regsOf (wType v.w)
  let pm := v.f.preg (regNum (bits v.w 59 51))
  let rs := (aluLanes v).map (fun l => (l, if pm.getLsbD l then rdN v.f (bits v.w 41 33) cnt l else rdN v.f (bits v.w 50 42) cnt l))
  .go (v.write (bits v.w 32 24) cnt rs s) none
/-- Form of SETP: DST is a p register. -/
def setpForm (w : Nat) : Form :=
  let f := aluForm 2 [0, 1, 2, 3, 4, 7, 8] (fun _ mod => decide (mod ≤ 7)) true w
  { f with opds := ⟨24, 12, 1, true⟩ :: f.opds.drop 1, lanewise := true }
/-- SETP: the comparison of each executing lane in its bit of the destination (R157, R158). -/
def setpBody (v : Env) (s : State) : Res :=
  let hit := (lanesOf v.m).filter (fun l => setpOf (wType v.w) (aluMod v.w) (aluArg v 2 0 l) (aluArg v 2 1 l))
  .go (v.write (bits v.w 32 24) 1 [(0, (maskOf hit).toNat)] s) none
/-- Form of SHFL. -/
def shflForm (w : Nat) : Form := aluForm 2 [7] modZero true w
/-- SHFL: lane i receives SA of lane SB mod 32, whether or not that lane executes. -/
def shflBody (v : Env) (s : State) : Res :=
  let rs := (aluLanes v).map (fun l => (l, aluArg v 2 0 (aluArg v 2 1 l % 32)))
  .go (v.write (bits v.w 32 24) 1 rs s) none
/-- Form of REDU: DST is a u register. -/
def reduForm (w : Nat) : Form :=
  { aluForm 1 [0, 1, 4, 7] (fun _ mod => decide (mod ≤ 5)) false w with
    opds := [⟨24, 10, 1, true⟩, ⟨33, 15, 1, false⟩], lanewise := true }
/-- The value of REDU over the operands of the executing lanes in ascending order. -/
def reduVal (ty mod : Nat) (l : List Nat) : Nat :=
  match mod with
  | 0 => if ty = 4 then to32 (treeSum 6 (l.map (fdec f32))) else (l.foldl (· + ·) 0) % 2 ^ 32
  | 1 => if ty = 4 then l.foldl (fMinMax false f32) (l.headD 0)
         else wrapInt 32 (l.foldl (fun a x => if intOf ty x < a then intOf ty x else a) (intOf ty (l.headD 0)))
  | 2 => if ty = 4 then l.foldl (fMinMax true f32) (l.headD 0)
         else wrapInt 32 (l.foldl (fun a x => if a < intOf ty x then intOf ty x else a) (intOf ty (l.headD 0)))
  | 3 => l.foldl (fun a x => a &&& x) (2 ^ 32 - 1)
  | 4 => l.foldl (fun a x => a ||| x) 0
  | _ => l.foldl (fun a x => a ^^^ x) 0
/-- REDU over the executing lanes. -/
def reduBody (v : Env) (s : State) : Res :=
  .go (v.write (bits v.w 32 24) 1 [(0, reduVal (wType v.w) (aluMod v.w) ((lanesOf v.m).map (fun l => rd32 v.f (bits v.w 41 33) l)))] s) none
/-- Form of VOTE: DST is a u register and SA a p register. -/
def voteForm (w : Nat) : Form :=
  { aluForm 1 [7] (fun _ mod => decide (mod ≤ 2)) false w with opds := [⟨24, 10, 1, true⟩, ⟨33, 4, 1, false⟩], lanewise := true }
/-- VOTE: ANY, ALL or BALLOT of a predicate over the executing lanes. -/
def voteVal (mod : Nat) (p m : W32) : Nat :=
  match mod with
  | 0 => if p &&& m = 0 then 0 else 1
  | 1 => if p &&& m = m then 1 else 0
  | _ => (p &&& m).toNat
/-- The body of VOTE. -/
def voteBody (v : Env) (s : State) : Res :=
  .go (v.write (bits v.w 32 24) 1 [(0, voteVal (aluMod v.w) (v.f.preg (regNum (bits v.w 41 33))) v.m)] s) none

/-! ## The rows of Table 5-3 -/

/-- Row of an operation that is computed lane by lane. -/
def opRow (ar : Nat) (types : List Nat) (okMod : Nat → Nat → Bool) (immOk : Bool) (fn : LaneFn) : SheafRow :=
  { form := aluForm ar types okMod immOk, mem := false, hidden := fun _ => [], body := aluBody ar fn }

/-- Row of ADD. -/
def rowAdd : SheafRow := opRow 2 [0, 1, 2, 3, 4, 5, 6] modSat true lnAdd
/-- Row of SUB. -/
def rowSub : SheafRow := opRow 2 [0, 1, 2, 3, 4, 5, 6] modSat true lnSub
/-- Row of MUL. -/
def rowMul : SheafRow := opRow 2 [0, 1, 2, 3, 4, 5, 6] modRound true lnMul
/-- Row of MULHI. -/
def rowMulhi : SheafRow := opRow 2 [0, 1, 2, 3] modZero true lnMulhi
/-- Row of MAD. -/
def rowMad : SheafRow := opRow 3 [0, 1, 4, 5, 6] modRound false lnMad
/-- Row of MIN. -/
def rowMin : SheafRow := opRow 2 [0, 1, 2, 3, 4, 5, 6] modRound true lnMin
/-- Row of MAX. -/
def rowMax : SheafRow := opRow 2 [0, 1, 2, 3, 4, 5, 6] modRound true lnMax
/-- Row of ABS. -/
def rowAbs : SheafRow := opRow 1 [0, 2, 4, 5, 6] modRound true lnAbs
/-- Row of NEG. -/
def rowNeg : SheafRow := opRow 1 [0, 2, 4, 5, 6] modRound true lnNeg
/-- Row of DIV. -/
def rowDiv : SheafRow := opRow 2 [0, 1, 2, 3, 4] modRound true lnDiv
/-- Row of REM. -/
def rowRem : SheafRow := opRow 2 [0, 1, 2, 3] modZero true lnRem
/-- Row of SQRT. -/
def rowSqrt : SheafRow := opRow 1 [4] modRound true lnSqrt
/-- Row of RCP. -/
def rowRcp : SheafRow := opRow 1 [4] modRound true lnRcp
/-- Row of RSQRT. -/
def rowRsqrt : SheafRow := opRow 1 [4] modRound true lnRsqrt
/-- Row of EXP2. -/
def rowExp2 : SheafRow := opRow 1 [4] modRound true lnExp2
/-- Row of LOG2. -/
def rowLog2 : SheafRow := opRow 1 [4] modRound true lnLog2
/-- Row of SIN. -/
def rowSin : SheafRow := opRow 1 [4] modRound true lnSin
/-- Row of COS. -/
def rowCos : SheafRow := opRow 1 [4] modRound true lnCos
/-- Row of AND. -/
def rowAnd : SheafRow := opRow 2 [7, 8] modZero true lnAnd
/-- Row of OR. -/
def rowOr : SheafRow := opRow 2 [7, 8] modZero true lnOr
/-- Row of XOR. -/
def rowXor : SheafRow := opRow 2 [7, 8] modZero true lnXor
/-- Row of NOT. -/
def rowNot : SheafRow := opRow 1 [7, 8] modZero true lnNot
/-- Row of SHL. -/
def rowShl : SheafRow := opRow 2 [0, 1, 2, 3, 7, 8] modZero true lnShl
/-- Row of SHR. -/
def rowShr : SheafRow := opRow 2 [0, 1, 2, 3, 7, 8] modZero true lnShr
/-- Row of ROTL. -/
def rowRotl : SheafRow := opRow 2 [0, 1, 2, 3, 7, 8] modZero true lnRotl
/-- Row of POPC. -/
def rowPopc : SheafRow := opRow 1 [7, 8] modZero true lnPopc
/-- Row of CLZ. -/
def rowClz : SheafRow := opRow 1 [7, 8] modZero true lnClz
/-- Row of MOV. -/
def rowMov : SheafRow := opRow 1 [0, 1, 2, 3, 4, 5, 6, 7, 8] modZero true lnMov
/-- Row of SEL. -/
def rowSel : SheafRow := { form := selForm, mem := false, hidden := fun _ => [], body := selBody }
/-- Row of SETP. -/
def rowSetp : SheafRow := { form := setpForm, mem := false, hidden := fun _ => [], body := setpBody }
/-- Row of CVT. -/
def rowCvt : SheafRow := { form := cvtForm, mem := false, hidden := fun _ => [], body := cvtBody }
/-- Row of SHFL. -/
def rowShfl : SheafRow := { form := shflForm, mem := false, hidden := fun _ => [], body := shflBody }
/-- Row of REDU. -/
def rowRedu : SheafRow := { form := reduForm, mem := false, hidden := fun _ => [], body := reduBody }
/-- Row of VOTE. -/
def rowVote : SheafRow := { form := voteForm, mem := false, hidden := fun _ => [], body := voteBody }

end Sys2Proof.Machine
end

