-- ==== Sys2Proof/Machine/SheafRows.lean ====
section
/-! DEFINITION. The opcode map (05 Table 5-3), the readiness of sheaves and the pick of a scheduler (04 R111 to R113), the sheaf instructions as
commands, and the end of a stook's life (R110, R146). -/
namespace Sys2Proof.Machine

/-! ## The opcode map (R152, R162) -/

/-- Format ALU3 and IMM (MAD, SEL, CVT, REDU and VOTE, whose forms refuse IMM, in ALU3 only): OP and row. -/
def aluRows : Tab SheafRow :=
  [(0x0, rowAdd), (0x1, rowSub), (0x2, rowMul), (0x3, rowMulhi), (0x4, rowMad), (0x5, rowMin), (0x6, rowMax), (0x7, rowAbs), (0x8, rowNeg),
   (0x9, rowDiv), (0xa, rowRem), (0xb, rowSqrt), (0xc, rowRcp), (0xd, rowRsqrt), (0xe, rowExp2), (0xf, rowLog2), (0x10, rowSin),
   (0x11, rowCos), (0x12, rowAnd), (0x13, rowOr), (0x14, rowXor), (0x15, rowNot), (0x16, rowShl), (0x17, rowShr), (0x18, rowRotl),
   (0x19, rowPopc), (0x1a, rowClz), (0x1b, rowSel), (0x1c, rowSetp), (0x1d, rowCvt), (0x1e, rowMov), (0x1f, rowShfl), (0x20, rowRedu),
   (0x21, rowVote)]
/-- Format MEM: OP and row. -/
def memRows : Tab SheafRow :=
  [(0x00, rowLd), (0x01, rowSt), (0x10, rowPfs), (0x11, rowPwb), (0x12, rowPfr)]
/-- Format BRANCH: OP and row. -/
def branchRows : Tab SheafRow :=
  [(0, rowBra), (1, rowJmp), (2, rowCall), (3, rowJmpr), (4, rowRet), (5, rowExit)]
/-- Format ARRAY: OP and row. -/
def arrayRows : Tab SheafRow :=
  [(0x00, rowAissue), (0x01, rowAwait), (0x02, rowAquery)]
/-- Format SYNC: OP and row. -/
def syncRows : Tab SheafRow :=
  [(0, rowAtomAdd), (1, rowAtomMin), (2, rowAtomMax), (3, rowAtomAnd), (4, rowAtomOr), (5, rowAtomXor), (6, rowAtomXchg), (7, rowAtomCas),
   (0x10, rowLockAcq), (0x11, rowLockRel), (0x20, rowBar), (0x30, rowFlagSet), (0x31, rowFlagAdd), (0x32, rowFlagWait)]
/-- Format SPECIAL: OP and row. -/
def specialRows : Tab SheafRow :=
  [(0, rowNop), (1, rowFence), (2, rowInval), (0x10, rowRndU32), (0x11, rowRndF32), (0x20, rowSample), (0x30, rowRole), (0x40, rowStamp)]
/-- The row that FMT and OP of a word name; none for a reserved FMT or OP, and for an extension word (R153, R189). -/
def sheafRow (w : Nat) : Option SheafRow :=
  match w % 16 with
  | 0 => tfind aluRows (bits w 11 4)
  | 1 => tfind aluRows (bits w 11 4)
  | 2 => tfind memRows (bits w 11 4)
  | 3 => tfind branchRows (bits w 11 4)
  | 4 => tfind arrayRows (bits w 11 4)
  | 5 => tfind syncRows (bits w 11 4)
  | 6 => tfind specialRows (bits w 11 4)
  | _ => none
/-- A word that names no row: a reserved encoding wherever some lane executes it (R115, R189). -/
def rowReserved : SheafRow :=
  { form := fun _ => { regs := [], opds := [], used := 0, types := [], ok := false, ext := true, guard := true, lanewise := false }
    mem := false, hidden := fun _ => [], body := fun _ _ => .wait }

/-! ## The pick of a scheduler (R111 to R113) -/

/-- What a sheaf's next instruction meets, by its words in memory. -/
def nextEnv (s : State) (n sl : Nat) : Option Env :=
  let f := s.sheaf n sl
  match (stookOf s n f).bind (fun t => runOf s t.launch) with
  | none => none
  | some r =>
    let w := wordAt s r.group f.pc
    envAt s n sl w (if wExt w then wordAt s r.group (f.pc + 8) else 0)
/-- A sheaf is ready: it may issue, and its next instruction is fetched and waits for nothing (R112). A fault is an issue. -/
def sheafReady (s : State) (n sl : Nat) : Bool :=
  canIssue s n sl &&
  (match nextEnv s n sl with
   | none => false
   | some v =>
     v.f.dog || (!fetchHeld s n v.run.group v.w v.f.pc &&
       ((fetchFault s n v.run.group v.w v.f.pc).isSome ||
        (match sheafRow v.w with
         | none => true
         | some r => !notReady v.f v.w (r.form v.w) r.mem (r.hidden v.w) && (perform v (r.form v.w) r.body s).isSome))))
/-- A slot has waited longer than another of its scheduler, from the last issues; equal waits go to the lowest slot. -/
def waitedLonger (c : Core) (a b : Nat) : Bool :=
  decide (tget 0 c.issued a < tget 0 c.issued b) || (tget 0 c.issued a == tget 0 c.issued b && decide (a < b))
/-- The scheduler of a sheaf that is ready picks it: the last sheaf for up to eight issues, else the ready sheaf that has waited longest (R113). -/
def picked (s : State) (n sl : Nat) : Bool :=
  let c := s.core n
  let last := tget (64, 0) c.sched (sl % 4)
  if last.2 < 8 && (last.1 == sl || sheafReady s n last.1) then last.1 == sl
  else (List.range 16).all (fun i => let x := 4 * i + sl % 4; x == sl || waitedLonger c sl x || !sheafReady s n x)
/-- An instruction comes to a sheaf with its words: nothing happens where the sheaf may not issue, where the words' FMT and OP name another row, or
where its scheduler picks another sheaf; a fetch that does not come is counted (R381, R464). A word of no row is a reserved encoding (R189). -/
def issue (q c sl fmt op : Nat) (w0 e0 : W64) (form : Nat → Form) (mem : Bool) (hidden : Nat → List Nat) (body : Env → State → Res)
    (s : State) : State :=
  let n := 64 * q + c
  match envAt s n sl w0.toNat e0.toNat with
  | none => s
  | some v =>
    if !wfSheaf q c sl || !coreFitted s n || !canIssue s n sl then s
    else if !rowIs fmt op v.w && (sheafRow v.w).isSome then s
    else if !v.f.dog && fetchHeld s n v.run.group v.w v.f.pc then fetchWait n v.stook.launch.toNat v.run.group v.w v.f.pc s
    else if !picked s n sl then s
    else begins v (if rowIs fmt op v.w then { form := form, mem := mem, hidden := hidden, body := body } else rowReserved) s
/-- The issue of an instruction of a row. -/
def issueRow (q c sl fmt op : Nat) (w0 e0 : W64) (r : SheafRow) (s : State) : State :=
  issue q c sl fmt op w0 e0 r.form r.mem r.hidden r.body s

/-! ## The instructions -/

/-- AISSUE (R49, R55, R127, R178). -/
def execAissue (q c sl : Nat) (w ext : W64) (s : State) : Out := .next (issueRow q c sl 4 0x00 w ext rowAissue s)
/-- AWAIT (R51, R179). -/
def execAwait (q c sl : Nat) (w ext : W64) (s : State) : Out := .next (issueRow q c sl 4 0x01 w ext rowAwait s)
/-- AQUERY (R180). -/
def execAquery (q c sl : Nat) (w ext : W64) (s : State) : Out := .next (issueRow q c sl 4 0x02 w ext rowAquery s)
/-- ADD (Table 5-5, OP 0x0). -/
def execAdd (q c sl : Nat) (w ext : W64) (s : State) : Out := .next (issueRow q c sl (aluFmt w) 0x0 w ext rowAdd s)
/-- SUB (Table 5-5, OP 0x1). -/
def execSub (q c sl : Nat) (w ext : W64) (s : State) : Out := .next (issueRow q c sl (aluFmt w) 0x1 w ext rowSub s)
/-- MUL (Table 5-5, OP 0x2). -/
def execMul (q c sl : Nat) (w ext : W64) (s : State) : Out := .next (issueRow q c sl (aluFmt w) 0x2 w ext rowMul s)
/-- MULHI (Table 5-5, OP 0x3). -/
def execMulhi (q c sl : Nat) (w ext : W64) (s : State) : Out := .next (issueRow q c sl (aluFmt w) 0x3 w ext rowMulhi s)
/-- MAD (Table 5-5, OP 0x4). -/
def execMad (q c sl : Nat) (w ext : W64) (s : State) : Out := .next (issueRow q c sl (aluFmt w) 0x4 w ext rowMad s)
/-- MIN (Table 5-5, OP 0x5). -/
def execMin (q c sl : Nat) (w ext : W64) (s : State) : Out := .next (issueRow q c sl (aluFmt w) 0x5 w ext rowMin s)
/-- MAX (Table 5-5, OP 0x6). -/
def execMax (q c sl : Nat) (w ext : W64) (s : State) : Out := .next (issueRow q c sl (aluFmt w) 0x6 w ext rowMax s)
/-- ABS (Table 5-5, OP 0x7). -/
def execAbs (q c sl : Nat) (w ext : W64) (s : State) : Out := .next (issueRow q c sl (aluFmt w) 0x7 w ext rowAbs s)
/-- NEG (Table 5-5, OP 0x8). -/
def execNeg (q c sl : Nat) (w ext : W64) (s : State) : Out := .next (issueRow q c sl (aluFmt w) 0x8 w ext rowNeg s)
/-- DIV (Table 5-5, OP 0x9). -/
def execDiv (q c sl : Nat) (w ext : W64) (s : State) : Out := .next (issueRow q c sl (aluFmt w) 0x9 w ext rowDiv s)
/-- REM (Table 5-5, OP 0xa). -/
def execRem (q c sl : Nat) (w ext : W64) (s : State) : Out := .next (issueRow q c sl (aluFmt w) 0xa w ext rowRem s)
/-- SQRT (Table 5-5, OP 0xb). -/
def execSqrt (q c sl : Nat) (w ext : W64) (s : State) : Out := .next (issueRow q c sl (aluFmt w) 0xb w ext rowSqrt s)
/-- RCP (Table 5-5, OP 0xc). -/
def execRcp (q c sl : Nat) (w ext : W64) (s : State) : Out := .next (issueRow q c sl (aluFmt w) 0xc w ext rowRcp s)
/-- RSQRT (Table 5-5, OP 0xd). -/
def execRsqrt (q c sl : Nat) (w ext : W64) (s : State) : Out := .next (issueRow q c sl (aluFmt w) 0xd w ext rowRsqrt s)
/-- EXP2 (Table 5-5, OP 0xe). -/
def execExp2 (q c sl : Nat) (w ext : W64) (s : State) : Out := .next (issueRow q c sl (aluFmt w) 0xe w ext rowExp2 s)
/-- LOG2 (Table 5-5, OP 0xf). -/
def execLog2 (q c sl : Nat) (w ext : W64) (s : State) : Out := .next (issueRow q c sl (aluFmt w) 0xf w ext rowLog2 s)
/-- SIN (Table 5-5, OP 0x10). -/
def execSin (q c sl : Nat) (w ext : W64) (s : State) : Out := .next (issueRow q c sl (aluFmt w) 0x10 w ext rowSin s)
/-- COS (Table 5-5, OP 0x11). -/
def execCos (q c sl : Nat) (w ext : W64) (s : State) : Out := .next (issueRow q c sl (aluFmt w) 0x11 w ext rowCos s)
/-- AND (Table 5-5, OP 0x12). -/
def execAnd (q c sl : Nat) (w ext : W64) (s : State) : Out := .next (issueRow q c sl (aluFmt w) 0x12 w ext rowAnd s)
/-- OR (Table 5-5, OP 0x13). -/
def execOr (q c sl : Nat) (w ext : W64) (s : State) : Out := .next (issueRow q c sl (aluFmt w) 0x13 w ext rowOr s)
/-- XOR (Table 5-5, OP 0x14). -/
def execXor (q c sl : Nat) (w ext : W64) (s : State) : Out := .next (issueRow q c sl (aluFmt w) 0x14 w ext rowXor s)
/-- NOT (Table 5-5, OP 0x15). -/
def execNot (q c sl : Nat) (w ext : W64) (s : State) : Out := .next (issueRow q c sl (aluFmt w) 0x15 w ext rowNot s)
/-- SHL (Table 5-5, OP 0x16). -/
def execShl (q c sl : Nat) (w ext : W64) (s : State) : Out := .next (issueRow q c sl (aluFmt w) 0x16 w ext rowShl s)
/-- SHR (Table 5-5, OP 0x17). -/
def execShr (q c sl : Nat) (w ext : W64) (s : State) : Out := .next (issueRow q c sl (aluFmt w) 0x17 w ext rowShr s)
/-- ROTL (Table 5-5, OP 0x18). -/
def execRotl (q c sl : Nat) (w ext : W64) (s : State) : Out := .next (issueRow q c sl (aluFmt w) 0x18 w ext rowRotl s)
/-- POPC (Table 5-5, OP 0x19). -/
def execPopc (q c sl : Nat) (w ext : W64) (s : State) : Out := .next (issueRow q c sl (aluFmt w) 0x19 w ext rowPopc s)
/-- CLZ (Table 5-5, OP 0x1a). -/
def execClz (q c sl : Nat) (w ext : W64) (s : State) : Out := .next (issueRow q c sl (aluFmt w) 0x1a w ext rowClz s)
/-- MOV (Table 5-5, OP 0x1e). -/
def execMov (q c sl : Nat) (w ext : W64) (s : State) : Out := .next (issueRow q c sl (aluFmt w) 0x1e w ext rowMov s)
/-- SEL (Table 5-5, OP 0x1b). -/
def execSel (q c sl : Nat) (w ext : W64) (s : State) : Out := .next (issueRow q c sl (aluFmt w) 0x1b w ext rowSel s)
/-- SETP (Table 5-5, OP 0x1c). -/
def execSetp (q c sl : Nat) (w ext : W64) (s : State) : Out := .next (issueRow q c sl (aluFmt w) 0x1c w ext rowSetp s)
/-- CVT (Table 5-5, OP 0x1d). -/
def execCvt (q c sl : Nat) (w ext : W64) (s : State) : Out := .next (issueRow q c sl (aluFmt w) 0x1d w ext rowCvt s)
/-- SHFL (Table 5-5, OP 0x1f). -/
def execShfl (q c sl : Nat) (w ext : W64) (s : State) : Out := .next (issueRow q c sl (aluFmt w) 0x1f w ext rowShfl s)
/-- REDU (Table 5-5, OP 0x20). -/
def execRedu (q c sl : Nat) (w ext : W64) (s : State) : Out := .next (issueRow q c sl (aluFmt w) 0x20 w ext rowRedu s)
/-- VOTE (Table 5-5, OP 0x21). -/
def execVote (q c sl : Nat) (w ext : W64) (s : State) : Out := .next (issueRow q c sl (aluFmt w) 0x21 w ext rowVote s)
/-- LD (R168). -/
def execLd (q c sl : Nat) (w ext : W64) (s : State) : Out := .next (issueRow q c sl 2 0x00 w ext rowLd s)
/-- ST (R168). -/
def execSt (q c sl : Nat) (w ext : W64) (s : State) : Out := .next (issueRow q c sl 2 0x01 w ext rowSt s)
/-- PFS (R171, R172). -/
def execPfs (q c sl : Nat) (w ext : W64) (s : State) : Out := .next (issueRow q c sl 2 0x10 w ext rowPfs s)
/-- PWB (R171, R172). -/
def execPwb (q c sl : Nat) (w ext : W64) (s : State) : Out := .next (issueRow q c sl 2 0x11 w ext rowPwb s)
/-- PFR (R173). -/
def execPfr (q c sl : Nat) (w ext : W64) (s : State) : Out := .next (issueRow q c sl 2 0x12 w ext rowPfr s)
/-- ATOM.ADD (R129 to R132, R181). -/
def execAtomAdd (q c sl : Nat) (w ext : W64) (s : State) : Out := .next (issueRow q c sl 5 0 w ext rowAtomAdd s)
/-- ATOM.MIN. -/
def execAtomMin (q c sl : Nat) (w ext : W64) (s : State) : Out := .next (issueRow q c sl 5 1 w ext rowAtomMin s)
/-- ATOM.MAX. -/
def execAtomMax (q c sl : Nat) (w ext : W64) (s : State) : Out := .next (issueRow q c sl 5 2 w ext rowAtomMax s)
/-- ATOM.AND. -/
def execAtomAnd (q c sl : Nat) (w ext : W64) (s : State) : Out := .next (issueRow q c sl 5 3 w ext rowAtomAnd s)
/-- ATOM.OR. -/
def execAtomOr (q c sl : Nat) (w ext : W64) (s : State) : Out := .next (issueRow q c sl 5 4 w ext rowAtomOr s)
/-- ATOM.XOR. -/
def execAtomXor (q c sl : Nat) (w ext : W64) (s : State) : Out := .next (issueRow q c sl 5 5 w ext rowAtomXor s)
/-- ATOM.XCHG. -/
def execAtomXchg (q c sl : Nat) (w ext : W64) (s : State) : Out := .next (issueRow q c sl 5 6 w ext rowAtomXchg s)
/-- ATOM.CAS. -/
def execAtomCas (q c sl : Nat) (w ext : W64) (s : State) : Out := .next (issueRow q c sl 5 7 w ext rowAtomCas s)
/-- LOCK.ACQ (R133 to R137). -/
def execLockAcq (q c sl : Nat) (w ext : W64) (s : State) : Out := .next (issueRow q c sl 5 0x10 w ext rowLockAcq s)
/-- LOCK.REL (R138). -/
def execLockRel (q c sl : Nat) (w ext : W64) (s : State) : Out := .next (issueRow q c sl 5 0x11 w ext rowLockRel s)
/-- BRA (R174). -/
def execBra (q c sl : Nat) (w ext : W64) (s : State) : Out := .next (issueRow q c sl 3 0 w ext rowBra s)
/-- JMP (R174). -/
def execJmp (q c sl : Nat) (w ext : W64) (s : State) : Out := .next (issueRow q c sl 3 1 w ext rowJmp s)
/-- CALL (R174). -/
def execCall (q c sl : Nat) (w ext : W64) (s : State) : Out := .next (issueRow q c sl 3 2 w ext rowCall s)
/-- JMPR (R174). -/
def execJmpr (q c sl : Nat) (w ext : W64) (s : State) : Out := .next (issueRow q c sl 3 3 w ext rowJmpr s)
/-- RET (R174). -/
def execRet (q c sl : Nat) (w ext : W64) (s : State) : Out := .next (issueRow q c sl 3 4 w ext rowRet s)
/-- EXIT (R175). -/
def execExit (q c sl : Nat) (w ext : W64) (s : State) : Out := .next (issueRow q c sl 3 5 w ext rowExit s)
/-- BAR (R183). -/
def execBar (q c sl : Nat) (w ext : W64) (s : State) : Out := .next (issueRow q c sl 5 0x20 w ext rowBar s)
/-- FLAG.SET (R184). -/
def execFlagSet (q c sl : Nat) (w ext : W64) (s : State) : Out := .next (issueRow q c sl 5 0x30 w ext rowFlagSet s)
/-- FLAG.ADD (R184). -/
def execFlagAdd (q c sl : Nat) (w ext : W64) (s : State) : Out := .next (issueRow q c sl 5 0x31 w ext rowFlagAdd s)
/-- FLAG.WAIT (R184, R280). -/
def execFlagWait (q c sl : Nat) (w ext : W64) (s : State) : Out := .next (issueRow q c sl 5 0x32 w ext rowFlagWait s)
/-- NOP (R185). -/
def execNop (q c sl : Nat) (w ext : W64) (s : State) : Out := .next (issueRow q c sl 6 0 w ext rowNop s)
/-- FENCE (R124, R185). -/
def execFence (q c sl : Nat) (w ext : W64) (s : State) : Out := .next (issueRow q c sl 6 1 w ext rowFence s)
/-- INVAL (R125, R185). -/
def execInval (q c sl : Nat) (w ext : W64) (s : State) : Out := .next (issueRow q c sl 6 2 w ext rowInval s)
/-- RND.U32 (R186). -/
def execRndU32 (q c sl : Nat) (w ext : W64) (s : State) : Out := .next (issueRow q c sl 6 0x10 w ext rowRndU32 s)
/-- RND.F32 (R186). -/
def execRndF32 (q c sl : Nat) (w ext : W64) (s : State) : Out := .next (issueRow q c sl 6 0x11 w ext rowRndF32 s)
/-- SAMPLE (R187). -/
def execSample (q c sl : Nat) (w ext : W64) (s : State) : Out := .next (issueRow q c sl 6 0x20 w ext rowSample s)
/-- ROLE (R188). -/
def execRole (q c sl : Nat) (w ext : W64) (s : State) : Out := .next (issueRow q c sl 6 0x30 w ext rowRole s)
/-- STAMP (R188): the base die's copy of the time base. -/
def execStamp (q c sl : Nat) (w ext : W64) (s : State) : Out := .next (issueRow q c sl 6 0x40 w ext rowStamp s)

/-! ## The end of a stook's life (R110, R146) -/

/-- A sheaf meets the end of its stook's life: a ready one faults at its next instruction, another at once (R146). -/
def dogSheaf (n : Nat) (g : Nat) (s : State) (sl : Nat) : State :=
  let f := s.sheaf n sl
  if f.ended || f.parked || f.dog then s
  else if sheafReady s n sl then s.setSheaf n sl { f with dog := true }
  else raiseFault n sl 6 0 f.active 0 (wordAt s g f.pc) s
/-- STOOK_WATCHDOG (R146): STOOK_LIMIT has passed since the stook's start. A stook that only a PFR keeps alive is killed, and the PFR goes (R110). -/
def execStookWatchdog (q c st : Nat) (s : State) : Out :=
  let n := 64 * q + c
  let k := s.core n
  match tfind k.stooks st with
  | none => .next s
  | some t =>
    match runOf s t.launch with
    | none => .next s
    | some r =>
      evt (wfCore q c && t.killed.isNone && aged s t.start (r.limitUs * us)) s
        (if t.slots.all (fun sl => (k.sheaf sl).ended) then (if k.pfr.any (fun b => b.stook == st) then killStook n st 0x25 0 (now s) s else s)
         else t.slots.foldl (dogSheaf n r.group) s)

end Sys2Proof.Machine
end

