-- ==== Sys2Proof/Machine/Dispatch.lean ====
section
/-! DEFINITION. The one match from a command to its meaning. -/
namespace Sys2Proof.Machine

def exec (i : Instr) (s : State) : Host.Outcome State Fault Refusal :=
  match i with
  | .registerWrite off width v => Sys2Proof.Machine.execRegisterWrite off width v s
  | .osCoreAccess core write addr width v err => Sys2Proof.Machine.execOsCoreAccess core write addr width v err s
  | .mbDoorbell mb v => Sys2Proof.Machine.execMbDoorbell mb v s
  | .mbAckHeadWrite mb v => Sys2Proof.Machine.execMbAckHeadWrite mb v s
  | .mbCplHeadWrite mb v => Sys2Proof.Machine.execMbCplHeadWrite mb v s
  | .tinMinvStampRead q d => Sys2Proof.Machine.execTinMinvStampRead q d s
  | .aissue q c sl w ext => Sys2Proof.Machine.execAissue q c sl w ext s
  | .arrayQueueRoom q c => Sys2Proof.Machine.execArrayQueueRoom q c s
  | .await q c sl w ext => Sys2Proof.Machine.execAwait q c sl w ext s
  | .aquery q c sl w ext => Sys2Proof.Machine.execAquery q c sl w ext s
  | .arrayCommandStart q c => Sys2Proof.Machine.execArrayCommandStart q c s
  | .arrayTileEnd q c => Sys2Proof.Machine.execArrayTileEnd q c s
  | .arrayCommandDone q c => Sys2Proof.Machine.execArrayCommandDone q c s
  | .ringSlotForward q c k => Sys2Proof.Machine.execRingSlotForward q c k s
  | .ringPanelAccept q c => Sys2Proof.Machine.execRingPanelAccept q c s
  | .ringTimeout q c outbound => Sys2Proof.Machine.execRingTimeout q c outbound s
  | .arrayFault q c furrow => Sys2Proof.Machine.execArrayFault q c furrow s
  | .selfTestStart q c => Sys2Proof.Machine.execSelfTestStart q c s
  | .selfTestResult q c rows other => Sys2Proof.Machine.execSelfTestResult q c rows other s
  | .stookStart q c => Sys2Proof.Machine.execStookStart q c s
  | .stookEnd q c st => Sys2Proof.Machine.execStookEnd q c st s
  | .faultResolve q c sl => Sys2Proof.Machine.execFaultResolve q c sl s
  | .stookWatchdog q c st => Sys2Proof.Machine.execStookWatchdog q c st s
  | .lockTimeout q c sl => Sys2Proof.Machine.execLockTimeout q c sl s
  | .lockRepoll q c sl => Sys2Proof.Machine.execLockRepoll q c sl s
  | .loadDataReturn q c sl ld err => Sys2Proof.Machine.execLoadDataReturn q c sl ld err s
  | .add q c sl w ext => Sys2Proof.Machine.execAdd q c sl w ext s
  | .sub q c sl w ext => Sys2Proof.Machine.execSub q c sl w ext s
  | .mul q c sl w ext => Sys2Proof.Machine.execMul q c sl w ext s
  | .mulhi q c sl w ext => Sys2Proof.Machine.execMulhi q c sl w ext s
  | .mad q c sl w ext => Sys2Proof.Machine.execMad q c sl w ext s
  | .min q c sl w ext => Sys2Proof.Machine.execMin q c sl w ext s
  | .max q c sl w ext => Sys2Proof.Machine.execMax q c sl w ext s
  | .abs q c sl w ext => Sys2Proof.Machine.execAbs q c sl w ext s
  | .neg q c sl w ext => Sys2Proof.Machine.execNeg q c sl w ext s
  | .div q c sl w ext => Sys2Proof.Machine.execDiv q c sl w ext s
  | .rem q c sl w ext => Sys2Proof.Machine.execRem q c sl w ext s
  | .sqrt q c sl w ext => Sys2Proof.Machine.execSqrt q c sl w ext s
  | .rcp q c sl w ext => Sys2Proof.Machine.execRcp q c sl w ext s
  | .rsqrt q c sl w ext => Sys2Proof.Machine.execRsqrt q c sl w ext s
  | .exp2 q c sl w ext => Sys2Proof.Machine.execExp2 q c sl w ext s
  | .log2 q c sl w ext => Sys2Proof.Machine.execLog2 q c sl w ext s
  | .sin q c sl w ext => Sys2Proof.Machine.execSin q c sl w ext s
  | .cos q c sl w ext => Sys2Proof.Machine.execCos q c sl w ext s
  | .and q c sl w ext => Sys2Proof.Machine.execAnd q c sl w ext s
  | .or q c sl w ext => Sys2Proof.Machine.execOr q c sl w ext s
  | .xor q c sl w ext => Sys2Proof.Machine.execXor q c sl w ext s
  | .not q c sl w ext => Sys2Proof.Machine.execNot q c sl w ext s
  | .shl q c sl w ext => Sys2Proof.Machine.execShl q c sl w ext s
  | .shr q c sl w ext => Sys2Proof.Machine.execShr q c sl w ext s
  | .rotl q c sl w ext => Sys2Proof.Machine.execRotl q c sl w ext s
  | .popc q c sl w ext => Sys2Proof.Machine.execPopc q c sl w ext s
  | .clz q c sl w ext => Sys2Proof.Machine.execClz q c sl w ext s
  | .sel q c sl w ext => Sys2Proof.Machine.execSel q c sl w ext s
  | .setp q c sl w ext => Sys2Proof.Machine.execSetp q c sl w ext s
  | .cvt q c sl w ext => Sys2Proof.Machine.execCvt q c sl w ext s
  | .mov q c sl w ext => Sys2Proof.Machine.execMov q c sl w ext s
  | .shfl q c sl w ext => Sys2Proof.Machine.execShfl q c sl w ext s
  | .redu q c sl w ext => Sys2Proof.Machine.execRedu q c sl w ext s
  | .vote q c sl w ext => Sys2Proof.Machine.execVote q c sl w ext s
  | .ld q c sl w ext => Sys2Proof.Machine.execLd q c sl w ext s
  | .st q c sl w ext => Sys2Proof.Machine.execSt q c sl w ext s
  | .pfs q c sl w ext => Sys2Proof.Machine.execPfs q c sl w ext s
  | .pwb q c sl w ext => Sys2Proof.Machine.execPwb q c sl w ext s
  | .pfr q c sl w ext => Sys2Proof.Machine.execPfr q c sl w ext s
  | .pfrBind q c k => Sys2Proof.Machine.execPfrBind q c k s
  | .bulkOpStart q c => Sys2Proof.Machine.execBulkOpStart q c s
  | .bulkOpComplete q c k => Sys2Proof.Machine.execBulkOpComplete q c k s
  | .bra q c sl w ext => Sys2Proof.Machine.execBra q c sl w ext s
  | .jmp q c sl w ext => Sys2Proof.Machine.execJmp q c sl w ext s
  | .call q c sl w ext => Sys2Proof.Machine.execCall q c sl w ext s
  | .jmpr q c sl w ext => Sys2Proof.Machine.execJmpr q c sl w ext s
  | .ret q c sl w ext => Sys2Proof.Machine.execRet q c sl w ext s
  | .exit q c sl w ext => Sys2Proof.Machine.execExit q c sl w ext s
  | .atomAdd q c sl w ext => Sys2Proof.Machine.execAtomAdd q c sl w ext s
  | .atomMin q c sl w ext => Sys2Proof.Machine.execAtomMin q c sl w ext s
  | .atomMax q c sl w ext => Sys2Proof.Machine.execAtomMax q c sl w ext s
  | .atomAnd q c sl w ext => Sys2Proof.Machine.execAtomAnd q c sl w ext s
  | .atomOr q c sl w ext => Sys2Proof.Machine.execAtomOr q c sl w ext s
  | .atomXor q c sl w ext => Sys2Proof.Machine.execAtomXor q c sl w ext s
  | .atomXchg q c sl w ext => Sys2Proof.Machine.execAtomXchg q c sl w ext s
  | .atomCas q c sl w ext => Sys2Proof.Machine.execAtomCas q c sl w ext s
  | .lockAcq q c sl w ext => Sys2Proof.Machine.execLockAcq q c sl w ext s
  | .lockRel q c sl w ext => Sys2Proof.Machine.execLockRel q c sl w ext s
  | .bar q c sl w ext => Sys2Proof.Machine.execBar q c sl w ext s
  | .flagSet q c sl w ext => Sys2Proof.Machine.execFlagSet q c sl w ext s
  | .flagAdd q c sl w ext => Sys2Proof.Machine.execFlagAdd q c sl w ext s
  | .flagWait q c sl w ext => Sys2Proof.Machine.execFlagWait q c sl w ext s
  | .nop q c sl w ext => Sys2Proof.Machine.execNop q c sl w ext s
  | .fence q c sl w ext => Sys2Proof.Machine.execFence q c sl w ext s
  | .inval q c sl w ext => Sys2Proof.Machine.execInval q c sl w ext s
  | .rndU32 q c sl w ext => Sys2Proof.Machine.execRndU32 q c sl w ext s
  | .rndF32 q c sl w ext => Sys2Proof.Machine.execRndF32 q c sl w ext s
  | .sample q c sl w ext => Sys2Proof.Machine.execSample q c sl w ext s
  | .role q c sl w ext => Sys2Proof.Machine.execRole q c sl w ext s
  | .stamp q c sl w ext => Sys2Proof.Machine.execStamp q c sl w ext s
  | .sampleService q c => Sys2Proof.Machine.execSampleService q c s
  | .rowTimeout q c => Sys2Proof.Machine.execRowTimeout q c s
  | .roundingKeyFetch q c => Sys2Proof.Machine.execRoundingKeyFetch q c s
  | .keyDelivery q c launch => Sys2Proof.Machine.execKeyDelivery q c launch s
  | .keyRequestTimeout q c launch => Sys2Proof.Machine.execKeyRequestTimeout q c launch s
  | .roundingKeyRetry q c => Sys2Proof.Machine.execRoundingKeyRetry q c s
  | .granaryRead h k e0 e1 => Sys2Proof.Machine.execGranaryRead h k e0 e1 s
  | .granaryStore h k => Sys2Proof.Machine.execGranaryStore h k s
  | .fillReturn h k => Sys2Proof.Machine.execFillReturn h k s
  | .fillResume h k => Sys2Proof.Machine.execFillResume h k s
  | .reductionAdmit h k => Sys2Proof.Machine.execReductionAdmit h k s
  | .reductionComplete h k => Sys2Proof.Machine.execReductionComplete h k s
  | .mergeEntryExpire h k => Sys2Proof.Machine.execMergeEntryExpire h k s
  | .granaryCarve qu => Sys2Proof.Machine.execGranaryCarve qu s
  | .carveWalkSet h => Sys2Proof.Machine.execCarveWalkSet h s
  | .plotCreate qu => Sys2Proof.Machine.execPlotCreate qu s
  | .plotDelete qu => Sys2Proof.Machine.execPlotDelete qu s
  | .granaryPin qu => Sys2Proof.Machine.execGranaryPin qu s
  | .pinEngineRequest h => Sys2Proof.Machine.execPinEngineRequest h s
  | .pinComplete pin => Sys2Proof.Machine.execPinComplete pin s
  | .granaryUnpin qu => Sys2Proof.Machine.execGranaryUnpin qu s
  | .thrashWindowEnd h => Sys2Proof.Machine.execThrashWindowEnd h s
  | .thrashEvent h => Sys2Proof.Machine.execThrashEvent h s
  | .tilthSplitChange q c units => Sys2Proof.Machine.execTilthSplitChange q c units s
  | .flitReceive l dir g offers wire => Sys2Proof.Machine.execFlitReceive l dir g offers wire s
  | .replayRequest l dir g seq => Sys2Proof.Machine.execReplayRequest l dir g seq s
  | .linkAck l dir g seq => Sys2Proof.Machine.execLinkAck l dir g seq s
  | .marginMeasure l dir g margins => Sys2Proof.Machine.execMarginMeasure l dir g margins s
  | .groupStop l dir g => Sys2Proof.Machine.execGroupStop l dir g s
  | .linkAbandon l => Sys2Proof.Machine.execLinkAbandon l s
  | .routeChange a b => Sys2Proof.Machine.execRouteChange a b s
  | .controlMessage dest msg => Sys2Proof.Machine.execControlMessage dest msg s
  | .bounce sender => Sys2Proof.Machine.execBounce sender s
  | .roleSet sender dest role => Sys2Proof.Machine.execRoleSet sender dest role s
  | .inboxWaitTimeout k => Sys2Proof.Machine.execInboxWaitTimeout k s
  | .multicast q msg => Sys2Proof.Machine.execMulticast q msg s
  | .mcastRetry q slot c => Sys2Proof.Machine.execMcastRetry q slot c s
  | .mcastBlockTimeout q slot => Sys2Proof.Machine.execMcastBlockTimeout q slot s
  | .launchFlagsFreed => Sys2Proof.Machine.execLaunchFlagsFreed s
  | .vbusUncorrectable q bus k => Sys2Proof.Machine.execVbusUncorrectable q bus k s
  | .vbusCeRate q bus k n => Sys2Proof.Machine.execVbusCeRate q bus k n s
  | .guestVersionExchange v => Sys2Proof.Machine.execGuestVersionExchange v s
  | .guestFlit flit => Sys2Proof.Machine.execGuestFlit flit s
  | .guestReplayTimer => Sys2Proof.Machine.execGuestReplayTimer s
  | .guestCrcRetrain k => Sys2Proof.Machine.execGuestCrcRetrain k s
  | .guestRequest flit => Sys2Proof.Machine.execGuestRequest flit s
  | .guestResponse flit => Sys2Proof.Machine.execGuestResponse flit s
  | .guestResponseTimeout tag => Sys2Proof.Machine.execGuestResponseTimeout tag s
  | .guestOvercurrent => Sys2Proof.Machine.execGuestOvercurrent s
  | .lpddrRequest m write master y slot data poison => Sys2Proof.Machine.execLpddrRequest m write master y slot data poison s
  | .channelSlot m slot => Sys2Proof.Machine.execChannelSlot m slot s
  | .lpddrReadReturn m id err => Sys2Proof.Machine.execLpddrReadReturn m id err s
  | .crcRetry m burst => Sys2Proof.Machine.execCrcRetry m burst s
  | .channelRetrain m ch => Sys2Proof.Machine.execChannelRetrain m ch s
  | .channelRetrainDone m ch ok => Sys2Proof.Machine.execChannelRetrainDone m ch ok s
  | .lpddrRequestTimeout m id => Sys2Proof.Machine.execLpddrRequestTimeout m id s
  | .channelTimingAdjust m ch => Sys2Proof.Machine.execChannelTimingAdjust m ch s
  | .refreshDue m ch bank => Sys2Proof.Machine.execRefreshDue m ch bank s
  | .refreshRatePoll m die rate => Sys2Proof.Machine.execRefreshRatePoll m die rate s
  | .refreshRateTimeout m die => Sys2Proof.Machine.execRefreshRateTimeout m die s
  | .urgencyWireTimeout q master => Sys2Proof.Machine.execUrgencyWireTimeout q master s
  | .stackTraining m gen cmdOk eyes107 eyes96 => Sys2Proof.Machine.execStackTraining m gen cmdOk eyes107 eyes96 s
  | .stackZeroFillDone m => Sys2Proof.Machine.execStackZeroFillDone m s
  | .walkerRead kind unit err => Sys2Proof.Machine.execWalkerRead kind unit err s
  | .repairRewrite kind unit err => Sys2Proof.Machine.execRepairRewrite kind unit err s
  | .checkerSelfTest kind unit pass => Sys2Proof.Machine.execCheckerSelfTest kind unit pass s
  | .fuseLoad unit a b d => Sys2Proof.Machine.execFuseLoad unit a b d s
  | .hello qu => Sys2Proof.Machine.execHello qu s
  | .goodbye qu => Sys2Proof.Machine.execGoodbye qu s
  | .groupSet qu => Sys2Proof.Machine.execGroupSet qu s
  | .groupSetDelete qu => Sys2Proof.Machine.execGroupSetDelete qu s
  | .queueCreate qu => Sys2Proof.Machine.execQueueCreate qu s
  | .queueResume qu => Sys2Proof.Machine.execQueueResume qu s
  | .queuePause qu => Sys2Proof.Machine.execQueuePause qu s
  | .queueDelete qu => Sys2Proof.Machine.execQueueDelete qu s
  | .map qu => Sys2Proof.Machine.execMap qu s
  | .unmap qu => Sys2Proof.Machine.execUnmap qu s
  | .contextCreate qu => Sys2Proof.Machine.execContextCreate qu s
  | .contextDestroy qu => Sys2Proof.Machine.execContextDestroy qu s
  | .contextReseed qu => Sys2Proof.Machine.execContextReseed qu s
  | .contextQuery qu => Sys2Proof.Machine.execContextQuery qu s
  | .homingSet qu => Sys2Proof.Machine.execHomingSet qu s
  | .memQos qu => Sys2Proof.Machine.execMemQos qu s
  | .gleanerSet qu => Sys2Proof.Machine.execGleanerSet qu s
  | .selftestSet qu => Sys2Proof.Machine.execSelftestSet qu s
  | .coreRetest qu rows other => Sys2Proof.Machine.execCoreRetest qu rows other s
  | .hedgerowRule qu => Sys2Proof.Machine.execHedgerowRule qu s
  | .guestRetrain qu => Sys2Proof.Machine.execGuestRetrain qu s
  | .keySlotLoad qu => Sys2Proof.Machine.execKeySlotLoad qu s
  | .keySlotClear qu => Sys2Proof.Machine.execKeySlotClear qu s
  | .attest qu spoil flashFail => Sys2Proof.Machine.execAttest qu spoil flashFail s
  | .launch qu => Sys2Proof.Machine.execLaunch qu s
  | .copy qu => Sys2Proof.Machine.execCopy qu s
  | .mark qu => Sys2Proof.Machine.execMark qu s
  | .commandTimeout qu seq => Sys2Proof.Machine.execCommandTimeout qu seq s
  | .commandReadTimeout qu seq => Sys2Proof.Machine.execCommandReadTimeout qu seq s
  | .runStart qu seq => Sys2Proof.Machine.execRunStart qu seq s
  | .runEnded qu seq => Sys2Proof.Machine.execRunEnded qu seq s
  | .commandDecide qu => Sys2Proof.Machine.execCommandDecide qu s
  | .redispatch qu seq => Sys2Proof.Machine.execRedispatch qu seq s
  | .portRateAlternate p => Sys2Proof.Machine.execPortRateAlternate p s
  | .portLock p => Sys2Proof.Machine.execPortLock p s
  | .portLockAlarm p => Sys2Proof.Machine.execPortLockAlarm p s
  | .portDown p uncorr => Sys2Proof.Machine.execPortDown p uncorr s
  | .frameReceive p frame => Sys2Proof.Machine.execFrameReceive p frame s
  | .pfcPauseReceive p prio pause => Sys2Proof.Machine.execPfcPauseReceive p prio pause s
  | .pfcPauseTimeout p prio => Sys2Proof.Machine.execPfcPauseTimeout p prio s
  | .fabHostqPtrWrite p r v => Sys2Proof.Machine.execFabHostqPtrWrite p r v s
  | .hostTxSend p r => Sys2Proof.Machine.execHostTxSend p r s
  | .connect peer v4 msg => Sys2Proof.Machine.execConnect peer v4 msg s
  | .close frame => Sys2Proof.Machine.execClose frame s
  | .drillWrite frame => Sys2Proof.Machine.execDrillWrite frame s
  | .drillRead frame => Sys2Proof.Machine.execDrillRead frame s
  | .drillAck frame => Sys2Proof.Machine.execDrillAck frame s
  | .drillNak frame => Sys2Proof.Machine.execDrillNak frame s
  | .drillSack frame => Sys2Proof.Machine.execDrillSack frame s
  | .drillRetransmit conn flow => Sys2Proof.Machine.execDrillRetransmit conn flow s
  | .drillPendingTimeout conn => Sys2Proof.Machine.execDrillPendingTimeout conn s
  | .listenEntryWrite off v => Sys2Proof.Machine.execListenEntryWrite off v s
  | .qpEntryWrite off v => Sys2Proof.Machine.execQpEntryWrite off v s
  | .roceRdmaWrite qp psn rkey va data => Sys2Proof.Machine.execRoceRdmaWrite qp psn rkey va data s
  | .roceRdmaRead qp psn rkey va len => Sys2Proof.Machine.execRoceRdmaRead qp psn rkey va len s
  | .roceSend p qp psn data => Sys2Proof.Machine.execRoceSend p qp psn data s
  | .roceCnp qp => Sys2Proof.Machine.execRoceCnp qp s
  | .roceRateRecover qp => Sys2Proof.Machine.execRoceRateRecover qp s
  | .roceAckTimeout qp => Sys2Proof.Machine.execRoceAckTimeout qp s
  | .ptpMessage p ptp rate => Sys2Proof.Machine.execPtpMessage p ptp rate s
  | .ptpHoldover => Sys2Proof.Machine.execPtpHoldover s
  | .ppsEdge => Sys2Proof.Machine.execPpsEdge s
  | .ppsLost => Sys2Proof.Machine.execPpsLost s
  | .mgmtRateAlternate => Sys2Proof.Machine.execMgmtRateAlternate s
  | .dhcpAttempt => Sys2Proof.Machine.execDhcpAttempt s
  | .dhcpOffer addr opt43 => Sys2Proof.Machine.execDhcpOffer addr opt43 s
  | .recoveryFetch => Sys2Proof.Machine.execRecoveryFetch s
  | .tftpBlockTimeout => Sys2Proof.Machine.execTftpBlockTimeout s
  | .consoleInput src port bytes => Sys2Proof.Machine.execConsoleInput src port bytes s
  | .inputVoltageSample reports current => Sys2Proof.Machine.execInputVoltageSample reports current s
  | .inputRestored => Sys2Proof.Machine.execInputRestored s
  | .powerGood buses => Sys2Proof.Machine.execPowerGood buses s
  | .converterFail sc => Sys2Proof.Machine.execConverterFail sc s
  | .domainCapAdjust q d ma => Sys2Proof.Machine.execDomainCapAdjust q d ma s
  | .powerManagerTick power demand => Sys2Proof.Machine.execPowerManagerTick power demand s
  | .offsetUpdate avg => Sys2Proof.Machine.execOffsetUpdate avg s
  | .brakeInput asserted => Sys2Proof.Machine.execBrakeInput asserted s
  | .brakeHeldAlarm => Sys2Proof.Machine.execBrakeHeldAlarm s
  | .fallowEntry q c fs => Sys2Proof.Machine.execFallowEntry q c fs s
  | .wakeRequest q c => Sys2Proof.Machine.execWakeRequest q c s
  | .wakeGrant q ma => Sys2Proof.Machine.execWakeGrant q ma s
  | .wakeForced q c cap => Sys2Proof.Machine.execWakeForced q c cap s
  | .wakeComplete q c rows other => Sys2Proof.Machine.execWakeComplete q c rows other s
  | .tineFail q t => Sys2Proof.Machine.execTineFail q t s
  | .housekeepingRound => Sys2Proof.Machine.execHousekeepingRound s
  | .roundResults q temps minv volts amps tines => Sys2Proof.Machine.execRoundResults q temps minv volts amps tines s
  | .roundMissing q => Sys2Proof.Machine.execRoundMissing q s
  | .paceInterval q c count mv => Sys2Proof.Machine.execPaceInterval q c count mv s
  | .criticalLimitStep q c => Sys2Proof.Machine.execCriticalLimitStep q c s
  | .tripRecheck q => Sys2Proof.Machine.execTripRecheck q s
  | .referenceCheck dev missed => Sys2Proof.Machine.execReferenceCheck dev missed s
  | .loopUnlock q cd => Sys2Proof.Machine.execLoopUnlock q cd s
  | .timeBaseSync q => Sys2Proof.Machine.execTimeBaseSync q s
  | .coreReset q c => Sys2Proof.Machine.execCoreReset q c s
  | .clusterReset q k => Sys2Proof.Machine.execClusterReset q k s
  | .coreHeadland q c => Sys2Proof.Machine.execCoreHeadland q c s
  | .quarterFault q stay => Sys2Proof.Machine.execQuarterFault q stay s
  | .headlandEnd q => Sys2Proof.Machine.execHeadlandEnd q s
  | .baseDieReset q rise => Sys2Proof.Machine.execBaseDieReset q rise s
  | .quarterResetStep q ok => Sys2Proof.Machine.execQuarterResetStep q ok s
  | .retryLaterReissue k => Sys2Proof.Machine.execRetryLaterReissue k s
  | .moduleReset => Sys2Proof.Machine.execModuleReset s
  | .moduleDrainTimeout => Sys2Proof.Machine.execModuleDrainTimeout s
  | .modResetInput asserted => Sys2Proof.Machine.execModResetInput asserted s
  | .modResetHeld => Sys2Proof.Machine.execModResetHeld s
  | .harrowWave q wv fails settled => Sys2Proof.Machine.execHarrowWave q wv fails settled s
  | .hubPllLock ok => Sys2Proof.Machine.execHubPllLock ok s
  | .firmwareVerify => Sys2Proof.Machine.execFirmwareVerify s
  | .osCoreRelease => Sys2Proof.Machine.execOsCoreRelease s
  | .fwRecoverInput asserted => Sys2Proof.Machine.execFwRecoverInput asserted s
  | .fuseBlow partly => Sys2Proof.Machine.execFuseBlow partly s
  | .bootKeyGenerate => Sys2Proof.Machine.execBootKeyGenerate s
  | .entropyTestFail => Sys2Proof.Machine.execEntropyTestFail s
  | .logRecord sev src code payload => Sys2Proof.Machine.execLogRecord sev src code payload s
  | .logWrite => Sys2Proof.Machine.execLogWrite s
  | .alarmRaise code src detail => Sys2Proof.Machine.execAlarmRaise code src detail s
  | .alarmResend => Sys2Proof.Machine.execAlarmResend s
  | .alarmClose k => Sys2Proof.Machine.execAlarmClose k s
  | .mgmtTransmit => Sys2Proof.Machine.execMgmtTransmit s
  | .telemetrySend kind => Sys2Proof.Machine.execTelemetrySend kind s
  | .traceRecord coll typ src data => Sys2Proof.Machine.execTraceRecord coll typ src data s
  | .counterSnapshot => Sys2Proof.Machine.execCounterSnapshot s
  | .wdrTraceCfgWrite v => Sys2Proof.Machine.execWdrTraceCfgWrite v s
  | .devRead off width => Sys2Proof.Machine.execDevRead off width s
  | .idSetOffset bytes => Sys2Proof.Machine.execIdSetOffset bytes s
  | .idRead n => Sys2Proof.Machine.execIdRead n s
  | .idSclTimeout => Sys2Proof.Machine.execIdSclTimeout s
  | .linkTraining l fwd rev => Sys2Proof.Machine.execLinkTraining l fwd rev s
  | .entropyStartUpTest => Sys2Proof.Machine.execEntropyStartUpTest s
  | .droopSensorReading q d sensor mv => Sys2Proof.Machine.execDroopSensorReading q d sensor mv s
  | .auxiliarySupplyChange mv => Sys2Proof.Machine.execAuxiliarySupplyChange mv s
  | .roceAckReceive qp kind psn => Sys2Proof.Machine.execRoceAckReceive qp kind psn s
  | .tftpBlockReceive block data wrong => Sys2Proof.Machine.execTftpBlockReceive block data wrong s

end Sys2Proof.Machine
end

