-- ==== Sys2Proof/Machine/Step.lean ====
section
/-! DEFINITION. One step of the block: the command at the front of the queue, or the clock when no command waits. -/
namespace Sys2Proof.Machine

/-- Take the command at the front of the queue and carry it out with the queue's rest. With no command waiting, the time base advances
by INC (log 1): the table has no row for a tick. -/
def step (s : State) : Host.Outcome State Fault Refusal :=
  match s.pending with
  | c :: rest => exec c { s with pending := rest }
  | [] => .next (if s.clk.pllLocked then tick s else s)

/-- The command that a word spells put at the front of the queue; no word spells one (log 1). -/
def State.withFetchWord (s : State) (nbits w : Nat) : State :=
  match decodeTableWord nbits w with
  | some c => { s with pending := c :: s.pending }
  | none => s

end Sys2Proof.Machine
end

