-- ==== Sys2Proof/Safety.lean ====
section
/-! DEFINITION. What a safe run of the block is, in the terms that the statements use: a command completes, the fuses are only ever blown, every
table and memory keeps its one canonical form, and what no command changes. -/
namespace Sys2Proof.Machine

/-- A command that is carried out: it answers a next state. -/
def Completes (o : Out) : Prop := ∃ t, o = .next t

/-- A command that answers a next state with a property. -/
def Gives (o : Out) (p : State → Prop) : Prop := ∃ t, o = .next t ∧ p t

/-! ## Fuses (18 R476) -/

/-- Fuses are only ever blown (R476): from `a` to `b` no fuse that reads blown reads otherwise, and only epoch fuses, rollback-floor fuses and
root-revocation fuses change. The load flags are registers, no fuses. -/
structure Fuses.Le (a b : Fuses) : Prop where
  part : b.part = a.part
  offCores : b.offCores = a.offCores
  lifecycle : b.lifecycle = a.lifecycle
  roots : b.roots = a.roots
  revoked : a.revoked &&& b.revoked = a.revoked
  svnFloor : a.svnFloor ≤ b.svnFloor
  seed : b.seed = a.seed
  debugOff : b.debugOff = a.debugOff
  hdgDeny : b.hdgDeny = a.hdgDeny
  partition : b.partition = a.partition
  epochUsed : a.epochUsed ≤ b.epochUsed
  epochSpoiled : a.epochSpoiled ≤ b.epochSpoiled
  spoiledUsed : b.epochSpoiled + a.epochUsed ≤ a.epochSpoiled + b.epochUsed
  macBase : b.macBase = a.macBase
  thermK : b.thermK = a.thermK
  tempCal : b.tempCal = a.tempCal
  oscCurve : b.oscCurve = a.oscCurve
  refCurve : b.refCurve = a.refCurve
  i70 : b.i70 = a.i70
  accessPj : b.accessPj = a.accessPj

/-- The counts that the fuse banks allow: 64 rollback-floor fuses, 16,384 epoch fuses of which the spoiled ones are used (18 R486, FUS_SEC,
FUS_EPOCH); the identity store's offset within its 256 bytes (20 R529); and as many enabled cores in every half as the variant has (R3). -/
structure State.Legal (s : State) : Prop where
  svnFloor : s.fuse.svnFloor ≤ 64
  epochUsed : s.fuse.epochUsed ≤ 16384
  epochSpoiled : s.fuse.epochSpoiled ≤ s.fuse.epochUsed
  offset : s.idst.offset < 256
  cores : s.fuse.even = true

/-! ## The canonical form -/

/-- Every memory and every table of the units lists its entries in rising order, and a memory lists no zero byte: equal contents are
equal data. -/
def State.canonical (s : State) : Bool :=
  Memory.wf s.mem.lpddr && Memory.wf s.mem.plots.bytes && Memory.wf s.mem.tilth.bytes && Memory.wf s.mem.hub.bytes &&
  Memory.wf s.fab.listen && Memory.wf s.fab.qpTab && tRising s.counters && tRising s.cores && tRising s.halves && tRising s.stackTab &&
  tRising s.links && tRising s.quarters && tRising s.flags && tRising s.routes && tRising s.os && tRising s.pel.mbs && tRising s.pel.queues &&
  tRising s.fab.ports && tRising s.pwr.domains && tRising s.thm.regions

/-! ## What every command keeps -/

/-- From `s` to `t`: the queue of waiting commands is untouched, fuses are only blown, their counts and the identity store's offset stay within
their ranges, the time base stands still or has restarted at zero, and the canonical form is kept. -/
structure Keeps (s t : State) : Prop where
  pending : t.pending = s.pending
  fuse : s.fuse.Le t.fuse
  legal : s.Legal → t.Legal
  time : (t.clk.tb = s.clk.tb ∧ t.clk.frac = s.clk.frac) ∨ (t.clk.tb = 0 ∧ t.clk.frac = 0)
  canon : s.canonical = true → t.canonical = true

/-! ## A sheaf instruction that issues -/

/-- The instructions of a sheaf (files 02, 04, 05 and 06), each by its constructor: quarter, core, sheaf slot, word, extension word. -/
def sheafInstrs : List (Nat → Nat → Nat → W64 → W64 → Instr) :=
  [.aissue, .await, .aquery, .add, .sub, .mul, .mulhi, .mad, .min, .max, .abs, .neg, .div, .rem, .sqrt, .rcp, .rsqrt, .exp2,
   .log2, .sin, .cos, .and, .or, .xor, .not, .shl, .shr, .rotl, .popc, .clz, .sel, .setp, .cvt, .mov, .shfl, .redu, .vote, .ld,
   .st, .pfs, .pwb, .pfr, .bra, .jmp, .call, .jmpr, .ret, .exit, .atomAdd, .atomMin, .atomMax, .atomAnd, .atomOr, .atomXor,
   .atomXchg, .atomCas, .lockAcq, .lockRel, .bar, .flagSet, .flagAdd, .flagWait, .nop, .fence, .inval, .rndU32, .rndF32, .sample,
   .role, .stamp]

/-- An instruction of a sheaf comes to its turn with its words fetched: `v` is what it meets (place, word, extension word, sheaf, executing
lanes, stook, run); the words are of the row, the sheaf may issue, no register it touches awaits a result and its scheduler picks it (R108, R112,
R113), no watchdog fault is due, and its words are fetched (R176). -/
def fetched (fmt op : Nat) (w0 e0 : W64) (form : Nat → Form) (mem : Bool) (hidden : Nat → List Nat) (s : State) (v : Env) : Bool :=
  v.w == w0.toNat && rowIs fmt op v.w && v.e == e0.toNat && v.f == s.sheaf v.n v.sl && v.m == execLanes v.w v.f &&
  stookOf s v.n v.f == some v.stook && runOf s v.stook.launch == some v.run &&
  wfSheaf (v.n / 64) (v.n % 64) v.sl && coreFitted s v.n && canIssue s v.n v.sl && picked s v.n v.sl && !v.f.dog &&
  !fetchHeld s v.n v.run.group v.w v.f.pc && (fetchFault s v.n v.run.group v.w v.f.pc).isNone && !notReady v.f v.w (form v.w) mem (hidden v.w)

/-- An instruction of a sheaf meets nothing that delays or faults it before its own effect: it is fetched, some lane executes it (R160), its
encoding and its registers are valid (R104, R189) and the registers it reads hold no parity error (R143). -/
def issues (fmt op : Nat) (w0 e0 : W64) (form : Nat → Form) (mem : Bool) (hidden : Nat → List Nat) (s : State) (v : Env) : Bool :=
  fetched fmt op w0 e0 form mem hidden s v &&
  v.m != 0 && encOk v.w v.e (form v.w) && !beyond v.w v.run.regs (form v.w) &&
  (badRegs v.f v.m (vSources v.w (form v.w).opds)).isEmpty

/-- The state once the issue is noted: the granary accesses of its fetch, the scheduler's last sheaf and the lines of the instruction cache (R240,
R108, R113, R177). -/
def Env.noted (v : Env) (s : State) : State := noteIssue v.n v.sl (fetchLines s v.run.group v.w v.f.pc) (fetchCount v.n v.run.group v.w v.f.pc s)
/-- The sheaf has done its work and moves on to the next word. -/
def Env.moved (v : Env) (s : State) : State := advance v.n v.sl (nextPc v.w v.f.pc) s
/-- The sheaf writes a destination, register by register from a specifier, and moves on: lane and value. -/
def Env.wrote (v : Env) (sp cnt : Nat) (vals : List (Nat × Nat)) (s : State) : State := v.moved (v.write sp cnt vals (v.noted s))
/-- The lanes that an ordinary operation is computed for, each with a value. -/
def Env.each (v : Env) (g : Nat → Nat) : List (Nat × Nat) := (aluLanes v).map (fun l => (l, g l))
/-- DST of an ordinary operation. -/
def Env.dst (v : Env) : Nat := bits v.w 32 24
/-- The results of an ordinary operation with `ar` sources: lane and value. -/
def Env.results (v : Env) (ar : Nat) (fn : LaneFn) : List (Nat × Nat) := (aluResults v ar fn).map (fun r => (r.1, r.2.1))
/-- The exception of Table 5-5 that the run traps, if any lane raises one (R167): its DETAIL and the lanes. -/
def Env.traps (v : Env) (ar : Nat) (fn : LaneFn) : Option (Nat × W32) :=
  trapOf v.run.trapMask ((aluResults v ar fn).map (fun r => (r.1, r.2.2)))
/-- Registers of the type. -/
def Env.cnt (v : Env) : Nat := regsOf (wType v.w)

/-! ## A command of a queue that starts -/

/-- x is the next admin command, of queue `qu` and opcode `op`; no fence holds it, and it passes the checks that every command meets (R349, R350). -/
def adminStarts (s : State) (qu op : Nat) (x : Cmd) : Bool :=
  adminNext s == some x && x.queue == qu && inService s && fenceClear s x && retryDue s x && commonCheck s x == none && opOf x == op
/-- x is the next command of work queue `qu`, of opcode `op`; no fence holds it, the hub is below CRITICAL, and x passes the checks that every
command meets (R349, R350). -/
def workStarts (s : State) (qu op : Nat) (x : Cmd) : Bool :=
  workNext s qu == some x && decide (32 ≤ qu) && inService s && fenceClear s x && hubCool s && commonCheck s x == none && opOf x == op

end Sys2Proof.Machine
end

