-- ==== Sys2Proof/Certificates/Slice0/Obligations.lean ====
section
/-! DEFINITION. The statements about the block that the provers prove: each is a Prop with the name that OBLIGATIONS.json lists. -/
open Sys2Proof Sys2Proof.Machine

/-- An instruction of the sheaf engine that meets nothing before its own effect and raises no trapped exception writes, in every executing
lane (in one for a u or p destination), the result of its operation on the operands of its type, and the sheaf moves on to the next word.
Everything else stays: the next state is given whole. IntegerLanes and FloatLanes say what the operations' results are. -/
def Obligations.ArithmeticCompletes : Prop :=
  (∀ (v : Env) (w e : W64) (s : State),
     issues (aluFmt w) 0x0 w e (aluForm 2 [0, 1, 2, 3, 4, 5, 6] modSat true) false (fun _ => []) s v = true →
     v.traps 2 lnAdd = none →
     exec (.add (v.n / 64) (v.n % 64) v.sl w e) s = .next (v.wrote v.dst v.cnt (v.results 2 lnAdd) s)) ∧
  (∀ (v : Env) (w e : W64) (s : State),
     issues (aluFmt w) 0x1 w e (aluForm 2 [0, 1, 2, 3, 4, 5, 6] modSat true) false (fun _ => []) s v = true →
     v.traps 2 lnSub = none →
     exec (.sub (v.n / 64) (v.n % 64) v.sl w e) s = .next (v.wrote v.dst v.cnt (v.results 2 lnSub) s)) ∧
  (∀ (v : Env) (w e : W64) (s : State),
     issues (aluFmt w) 0x2 w e (aluForm 2 [0, 1, 2, 3, 4, 5, 6] modRound true) false (fun _ => []) s v = true →
     v.traps 2 lnMul = none →
     exec (.mul (v.n / 64) (v.n % 64) v.sl w e) s = .next (v.wrote v.dst v.cnt (v.results 2 lnMul) s)) ∧
  (∀ (v : Env) (w e : W64) (s : State),
     issues (aluFmt w) 0x3 w e (aluForm 2 [0, 1, 2, 3] modZero true) false (fun _ => []) s v = true →
     v.traps 2 lnMulhi = none →
     exec (.mulhi (v.n / 64) (v.n % 64) v.sl w e) s = .next (v.wrote v.dst v.cnt (v.results 2 lnMulhi) s)) ∧
  (∀ (v : Env) (w e : W64) (s : State),
     issues (aluFmt w) 0x4 w e (aluForm 3 [0, 1, 4, 5, 6] modRound false) false (fun _ => []) s v = true →
     v.traps 3 lnMad = none →
     exec (.mad (v.n / 64) (v.n % 64) v.sl w e) s = .next (v.wrote v.dst v.cnt (v.results 3 lnMad) s)) ∧
  (∀ (v : Env) (w e : W64) (s : State),
     issues (aluFmt w) 0x5 w e (aluForm 2 [0, 1, 2, 3, 4, 5, 6] modRound true) false (fun _ => []) s v = true →
     v.traps 2 lnMin = none →
     exec (.min (v.n / 64) (v.n % 64) v.sl w e) s = .next (v.wrote v.dst v.cnt (v.results 2 lnMin) s)) ∧
  (∀ (v : Env) (w e : W64) (s : State),
     issues (aluFmt w) 0x6 w e (aluForm 2 [0, 1, 2, 3, 4, 5, 6] modRound true) false (fun _ => []) s v = true →
     v.traps 2 lnMax = none →
     exec (.max (v.n / 64) (v.n % 64) v.sl w e) s = .next (v.wrote v.dst v.cnt (v.results 2 lnMax) s)) ∧
  (∀ (v : Env) (w e : W64) (s : State),
     issues (aluFmt w) 0x7 w e (aluForm 1 [0, 2, 4, 5, 6] modRound true) false (fun _ => []) s v = true →
     v.traps 1 lnAbs = none →
     exec (.abs (v.n / 64) (v.n % 64) v.sl w e) s = .next (v.wrote v.dst v.cnt (v.results 1 lnAbs) s)) ∧
  (∀ (v : Env) (w e : W64) (s : State),
     issues (aluFmt w) 0x8 w e (aluForm 1 [0, 2, 4, 5, 6] modRound true) false (fun _ => []) s v = true →
     v.traps 1 lnNeg = none →
     exec (.neg (v.n / 64) (v.n % 64) v.sl w e) s = .next (v.wrote v.dst v.cnt (v.results 1 lnNeg) s)) ∧
  (∀ (v : Env) (w e : W64) (s : State),
     issues (aluFmt w) 0x9 w e (aluForm 2 [0, 1, 2, 3, 4] modRound true) false (fun _ => []) s v = true →
     v.traps 2 lnDiv = none →
     exec (.div (v.n / 64) (v.n % 64) v.sl w e) s = .next (v.wrote v.dst v.cnt (v.results 2 lnDiv) s)) ∧
  (∀ (v : Env) (w e : W64) (s : State),
     issues (aluFmt w) 0xa w e (aluForm 2 [0, 1, 2, 3] modZero true) false (fun _ => []) s v = true →
     v.traps 2 lnRem = none →
     exec (.rem (v.n / 64) (v.n % 64) v.sl w e) s = .next (v.wrote v.dst v.cnt (v.results 2 lnRem) s))

/-- The binary32 functions write, in every executing lane, the result of the function, and the sheaf moves on. The approximate functions'
results lie within the bound that the spec gives and are otherwise free (log entry 2); the statement holds for every such value. -/
def Obligations.FunctionsComplete : Prop :=
  (∀ (v : Env) (w e : W64) (s : State),
     issues (aluFmt w) 0xb w e (aluForm 1 [4] modRound true) false (fun _ => []) s v = true → v.traps 1 lnSqrt = none →
     exec (.sqrt (v.n / 64) (v.n % 64) v.sl w e) s = .next (v.wrote v.dst v.cnt (v.results 1 lnSqrt) s)) ∧
  (∀ (v : Env) (w e : W64) (s : State),
     issues (aluFmt w) 0xc w e (aluForm 1 [4] modRound true) false (fun _ => []) s v = true → v.traps 1 lnRcp = none →
     exec (.rcp (v.n / 64) (v.n % 64) v.sl w e) s = .next (v.wrote v.dst v.cnt (v.results 1 lnRcp) s)) ∧
  (∀ (v : Env) (w e : W64) (s : State),
     issues (aluFmt w) 0xd w e (aluForm 1 [4] modRound true) false (fun _ => []) s v = true → v.traps 1 lnRsqrt = none →
     exec (.rsqrt (v.n / 64) (v.n % 64) v.sl w e) s = .next (v.wrote v.dst v.cnt (v.results 1 lnRsqrt) s)) ∧
  (∀ (v : Env) (w e : W64) (s : State),
     issues (aluFmt w) 0xe w e (aluForm 1 [4] modRound true) false (fun _ => []) s v = true → v.traps 1 lnExp2 = none →
     exec (.exp2 (v.n / 64) (v.n % 64) v.sl w e) s = .next (v.wrote v.dst v.cnt (v.results 1 lnExp2) s)) ∧
  (∀ (v : Env) (w e : W64) (s : State),
     issues (aluFmt w) 0xf w e (aluForm 1 [4] modRound true) false (fun _ => []) s v = true → v.traps 1 lnLog2 = none →
     exec (.log2 (v.n / 64) (v.n % 64) v.sl w e) s = .next (v.wrote v.dst v.cnt (v.results 1 lnLog2) s)) ∧
  (∀ (v : Env) (w e : W64) (s : State),
     issues (aluFmt w) 0x10 w e (aluForm 1 [4] modRound true) false (fun _ => []) s v = true → v.traps 1 lnSin = none →
     exec (.sin (v.n / 64) (v.n % 64) v.sl w e) s = .next (v.wrote v.dst v.cnt (v.results 1 lnSin) s)) ∧
  (∀ (v : Env) (w e : W64) (s : State),
     issues (aluFmt w) 0x11 w e (aluForm 1 [4] modRound true) false (fun _ => []) s v = true → v.traps 1 lnCos = none →
     exec (.cos (v.n / 64) (v.n % 64) v.sl w e) s = .next (v.wrote v.dst v.cnt (v.results 1 lnCos) s))

/-- The bit operations and MOV write, in every executing lane, the result of their operation on the operands' bits, and the sheaf moves
on. -/
def Obligations.BitsComplete : Prop :=
  (∀ (v : Env) (w e : W64) (s : State),
     issues (aluFmt w) 0x12 w e (aluForm 2 [7, 8] modZero true) false (fun _ => []) s v = true → v.traps 2 lnAnd = none →
     exec (.and (v.n / 64) (v.n % 64) v.sl w e) s = .next (v.wrote v.dst v.cnt (v.results 2 lnAnd) s)) ∧
  (∀ (v : Env) (w e : W64) (s : State),
     issues (aluFmt w) 0x13 w e (aluForm 2 [7, 8] modZero true) false (fun _ => []) s v = true → v.traps 2 lnOr = none →
     exec (.or (v.n / 64) (v.n % 64) v.sl w e) s = .next (v.wrote v.dst v.cnt (v.results 2 lnOr) s)) ∧
  (∀ (v : Env) (w e : W64) (s : State),
     issues (aluFmt w) 0x14 w e (aluForm 2 [7, 8] modZero true) false (fun _ => []) s v = true → v.traps 2 lnXor = none →
     exec (.xor (v.n / 64) (v.n % 64) v.sl w e) s = .next (v.wrote v.dst v.cnt (v.results 2 lnXor) s)) ∧
  (∀ (v : Env) (w e : W64) (s : State),
     issues (aluFmt w) 0x15 w e (aluForm 1 [7, 8] modZero true) false (fun _ => []) s v = true → v.traps 1 lnNot = none →
     exec (.not (v.n / 64) (v.n % 64) v.sl w e) s = .next (v.wrote v.dst v.cnt (v.results 1 lnNot) s)) ∧
  (∀ (v : Env) (w e : W64) (s : State),
     issues (aluFmt w) 0x16 w e (aluForm 2 [0, 1, 2, 3, 7, 8] modZero true) false (fun _ => []) s v = true →
     v.traps 2 lnShl = none →
     exec (.shl (v.n / 64) (v.n % 64) v.sl w e) s = .next (v.wrote v.dst v.cnt (v.results 2 lnShl) s)) ∧
  (∀ (v : Env) (w e : W64) (s : State),
     issues (aluFmt w) 0x17 w e (aluForm 2 [0, 1, 2, 3, 7, 8] modZero true) false (fun _ => []) s v = true →
     v.traps 2 lnShr = none →
     exec (.shr (v.n / 64) (v.n % 64) v.sl w e) s = .next (v.wrote v.dst v.cnt (v.results 2 lnShr) s)) ∧
  (∀ (v : Env) (w e : W64) (s : State),
     issues (aluFmt w) 0x18 w e (aluForm 2 [0, 1, 2, 3, 7, 8] modZero true) false (fun _ => []) s v = true →
     v.traps 2 lnRotl = none →
     exec (.rotl (v.n / 64) (v.n % 64) v.sl w e) s = .next (v.wrote v.dst v.cnt (v.results 2 lnRotl) s)) ∧
  (∀ (v : Env) (w e : W64) (s : State),
     issues (aluFmt w) 0x19 w e (aluForm 1 [7, 8] modZero true) false (fun _ => []) s v = true → v.traps 1 lnPopc = none →
     exec (.popc (v.n / 64) (v.n % 64) v.sl w e) s = .next (v.wrote v.dst v.cnt (v.results 1 lnPopc) s)) ∧
  (∀ (v : Env) (w e : W64) (s : State),
     issues (aluFmt w) 0x1a w e (aluForm 1 [7, 8] modZero true) false (fun _ => []) s v = true → v.traps 1 lnClz = none →
     exec (.clz (v.n / 64) (v.n % 64) v.sl w e) s = .next (v.wrote v.dst v.cnt (v.results 1 lnClz) s)) ∧
  (∀ (v : Env) (w e : W64) (s : State),
     issues (aluFmt w) 0x1e w e (aluForm 1 [0, 1, 2, 3, 4, 5, 6, 7, 8] modZero true) false (fun _ => []) s v = true →
     v.traps 1 lnMov = none →
     exec (.mov (v.n / 64) (v.n % 64) v.sl w e) s = .next (v.wrote v.dst v.cnt (v.results 1 lnMov) s))

/-- SEL writes SA in the lanes whose bit of the p register SC is 1 and SB elsewhere. SETP writes, in the bits of the executing lanes,
whether the comparison that MOD names holds. CVT writes each lane's conversion to the destination type. SHFL gives lane i the operand SA
of lane SB mod 32. REDU writes the reduction over the executing lanes, and VOTE whether any, all, or which executing lanes have their bit
of the p register set. The sheaf then moves on. -/
def Obligations.PredicatesAndLanesComplete : Prop :=
  (∀ (v : Env) (w e : W64) (s : State),
     issues (aluFmt w) 0x1b w e selForm false (fun _ => []) s v = true →
     exec (.sel (v.n / 64) (v.n % 64) v.sl w e) s = .next (v.wrote v.dst v.cnt (v.each (fun l =>
         if (v.f.preg (regNum (bits v.w 59 51))).getLsbD l then rdN v.f (bits v.w 41 33) v.cnt l else rdN v.f (bits v.w 50 42) v.cnt l)) s)) ∧
  (∀ (v : Env) (w e : W64) (s : State),
     issues (aluFmt w) 0x1c w e setpForm false (fun _ => []) s v = true →
     exec (.setp (v.n / 64) (v.n % 64) v.sl w e) s = .next (v.wrote v.dst 1 [(0, (maskOf ((lanesOf v.m).filter (fun l =>
         setpOf (wType v.w) (aluMod v.w) (aluArg v 2 0 l) (aluArg v 2 1 l)))).toNat)] s)) ∧
  (∀ (v : Env) (w e : W64) (s : State) (g : Nat → Nat × Exns),
     issues (aluFmt w) 0x1d w e cvtForm false (fun _ => []) s v = true →
     g = (fun l => cvtLane (wType v.w) (cvtDst v.w) (aluMod v.w) (rdN v.f (bits v.w 41 33) v.cnt l)
       (if aluMod v.w = 4 then rd32 v.f (bits v.w 50 42) l else 0)) →
     trapOf v.run.trapMask ((aluLanes v).map (fun l => (l, (g l).2))) = none →
     exec (.cvt (v.n / 64) (v.n % 64) v.sl w e) s = .next (v.wrote v.dst (regsOf (cvtDst v.w)) (v.each (fun l => (g l).1)) s)) ∧
  (∀ (v : Env) (w e : W64) (s : State),
     issues (aluFmt w) 0x1f w e shflForm false (fun _ => []) s v = true →
     exec (.shfl (v.n / 64) (v.n % 64) v.sl w e) s = .next (v.wrote v.dst 1 (v.each (fun l => aluArg v 2 0 (aluArg v 2 1 l % 32))) s)) ∧
  (∀ (v : Env) (w e : W64) (s : State),
     issues (aluFmt w) 0x20 w e reduForm false (fun _ => []) s v = true →
     exec (.redu (v.n / 64) (v.n % 64) v.sl w e) s = .next (v.wrote v.dst 1
         [(0, reduVal (wType v.w) (aluMod v.w) ((lanesOf v.m).map (fun l => rd32 v.f (bits v.w 41 33) l)))] s)) ∧
  (∀ (v : Env) (w e : W64) (s : State) (p : W32),
     issues (aluFmt w) 0x21 w e voteForm false (fun _ => []) s v = true → p = v.f.preg (regNum (bits v.w 41 33)) &&& v.m →
     exec (.vote (v.n / 64) (v.n % 64) v.sl w e) s = .next (v.wrote v.dst 1
         [(0, if aluMod v.w = 0 then (if p = 0 then 0 else 1) else if aluMod v.w = 1 then (if p = v.m then 1 else 0) else p.toNat)] s))

/-- On operands of an integer type's width, ADD, SUB, MUL, MAD and NEG wrap; ADD and SUB with MOD 4 clamp to the type's range; MULHI gives
the high half of the exact product, signed for i32 and i64; MIN, MAX and ABS compare in the type's signedness; DIV rounds toward zero,
gives all ones for a zero divisor and raises integer divide by zero, and REM gives the remainder with the dividend's sign, or the
dividend. AND, OR, XOR, NOT, SHL, SHR, ROTL, POPC and CLZ are the operations on words of 32 or 64 bits, a shift count taken modulo the
width, SHR arithmetic for i32 and i64. -/
def Obligations.IntegerLanes : Prop :=
  (∀ (ty c : Nat) (x y : BitVec (tyW ty)),
     ty ≤ 3 →
     lnAdd ty 0 x.toNat y.toNat c = ((x + y).toNat, []) ∧ lnSub ty 0 x.toNat y.toNat c = ((x - y).toNat, []) ∧
         lnMul ty 0 x.toNat y.toNat c = ((x * y).toNat, [])) ∧
  (∀ (ty : Nat) (x y z : BitVec (tyW ty)),
     ty ≤ 1 →
     lnMad ty 0 x.toNat y.toNat z.toNat = ((x * y + z).toNat, [])) ∧
  (∀ (ty c : Nat) (x y : BitVec (tyW ty)),
     ty = 0 ∨ ty = 2 →
     lnAdd ty 4 x.toNat y.toNat c = ((BitVec.ofInt (tyW ty) (max (-2 ^ (tyW ty - 1)) (min (2 ^ (tyW ty - 1) - 1) (x.toInt + y.toInt)))).toNat, []) ∧
         lnSub ty 4 x.toNat y.toNat c = ((BitVec.ofInt (tyW ty) (max (-2 ^ (tyW ty - 1)) (min (2 ^ (tyW ty - 1) - 1) (x.toInt - y.toInt)))).toNat, []) ∧
         lnMulhi ty 0 x.toNat y.toNat c = ((BitVec.ofInt (tyW ty) (x.toInt * y.toInt / 2 ^ tyW ty)).toNat, []) ∧
         lnNeg ty 0 x.toNat 0 c = ((-x).toNat, []) ∧ lnAbs ty 0 x.toNat 0 c = (x.abs.toNat, []) ∧
         lnMin ty 0 x.toNat y.toNat c = ((if y.slt x then y else x).toNat, []) ∧ lnMax ty 0 x.toNat y.toNat c = ((if x.slt y then y else x).toNat, []) ∧
         lnDiv ty 0 x.toNat y.toNat c = (if y = 0 then ((BitVec.allOnes (tyW ty)).toNat, [1]) else ((x.sdiv y).toNat, [])) ∧
         lnRem ty 0 x.toNat y.toNat c = (if y = 0 then (x.toNat, [1]) else ((x.srem y).toNat, []))) ∧
  (∀ (ty c : Nat) (x y : BitVec (tyW ty)),
     ty = 1 ∨ ty = 3 →
     lnAdd ty 4 x.toNat y.toNat c = (min (2 ^ tyW ty - 1) (x.toNat + y.toNat), []) ∧ lnSub ty 4 x.toNat y.toNat c = (x.toNat - y.toNat, []) ∧
         lnMulhi ty 0 x.toNat y.toNat c = (x.toNat * y.toNat / 2 ^ tyW ty, []) ∧
         lnMin ty 0 x.toNat y.toNat c = (min x.toNat y.toNat, []) ∧ lnMax ty 0 x.toNat y.toNat c = (max x.toNat y.toNat, []) ∧
         lnDiv ty 0 x.toNat y.toNat c = (if y = 0 then ((BitVec.allOnes (tyW ty)).toNat, [1]) else ((x / y).toNat, [])) ∧
         lnRem ty 0 x.toNat y.toNat c = (if y = 0 then (x.toNat, [1]) else ((x % y).toNat, []))) ∧
  (∀ (ty c : Nat) (x y : BitVec (tyW ty)),
     ty ∈ [0, 1, 2, 3, 7, 8] →
     lnShl ty 0 x.toNat y.toNat c = ((x <<< (y.toNat % tyW ty)).toNat, []) ∧
         lnShr ty 0 x.toNat y.toNat c = ((if ty = 0 ∨ ty = 2 then x.sshiftRight (y.toNat % tyW ty) else x >>> (y.toNat % tyW ty)).toNat, []) ∧
         lnRotl ty 0 x.toNat y.toNat c = ((x.rotateLeft y.toNat).toNat, [])) ∧
  (∀ (ty c : Nat) (x y : BitVec (tyW ty)),
     ty = 7 ∨ ty = 8 →
     lnAnd ty 0 x.toNat y.toNat c = ((x &&& y).toNat, []) ∧ lnOr ty 0 x.toNat y.toNat c = ((x ||| y).toNat, []) ∧
         lnXor ty 0 x.toNat y.toNat c = ((x ^^^ y).toNat, []) ∧ lnNot ty 0 x.toNat 0 c = ((~~~x).toNat, []) ∧
         lnPopc ty 0 x.toNat 0 c = (x.cpop.toNat, []) ∧ lnClz ty 0 x.toNat 0 c = (x.clz.toNat, []))

/-- For every binary32 operand and rounding mode: MIN and MAX give the other operand for one NaN and 0x7FC0_0000 for two; DIV of a finite
non-zero number by a zero is an infinity with the exclusive-or of the signs and raises divide by zero; SQRT of a negative non-zero number
raises invalid and gives 0x7FC0_0000; RCP, RSQRT and LOG2 of a zero raise divide by zero and give an infinity (−∞ for LOG2); RSQRT and
LOG2 of a negative non-zero number raise invalid; SIN and COS of an infinity, a NaN or an operand above 1,024π raise invalid and give
0x7FC0_0000; ABS clears and NEG inverts the sign bit. -/
def Obligations.FloatLanes : Prop :=
  (∀ (mod a b c : Nat),
     fdec f32 a = .nan → fdec f32 b ≠ .nan →
     lnMin 4 mod a b c = (b, []) ∧ lnMax 4 mod a b c = (b, []) ∧ lnMin 4 mod b a c = (b, []) ∧ lnMax 4 mod b a c = (b, []) ∧
         lnMin 4 mod a a c = (0x7FC0_0000, []) ∧ lnMax 4 mod a a c = (0x7FC0_0000, [])) ∧
  (∀ (mod a b c m : Nat) (s t : Bool) (e g : Int),
     fdec f32 a = .fin s (m + 1) e → fdec f32 b = .fin t 0 g →
     lnDiv 4 mod a b c = (if s = t then 0x7F80_0000 else 0xFF80_0000, [3])) ∧
  (∀ (mod a b c m : Nat) (e : Int),
     fdec f32 a = .fin true (m + 1) e →
     lnSqrt 4 mod a b c = (0x7FC0_0000, [2]) ∧ lnRsqrt 4 mod a b c = (0x7FC0_0000, [2]) ∧ lnLog2 4 mod a b c = (0x7FC0_0000, [2])) ∧
  (∀ (mod a b c : Nat) (s : Bool) (e : Int),
     fdec f32 a = .fin s 0 e →
     lnRcp 4 mod a b c = (if s then 0xFF80_0000 else 0x7F80_0000, [3]) ∧ lnRsqrt 4 mod a b c = (if s then 0xFF80_0000 else 0x7F80_0000, [3]) ∧
         lnLog2 4 mod a b c = (0xFF80_0000, [3])) ∧
  (∀ (mod a b c : Nat),
     (match fdec f32 a with | .fin _ m e => trigInRange m e | _ => false) = false →
     lnSin 4 mod a b c = (0x7FC0_0000, [2]) ∧ lnCos 4 mod a b c = (0x7FC0_0000, [2])) ∧
  (∀ (mod a b c : Nat),
     a < 2 ^ 32 →
     lnAbs 4 mod a b c = (a % 2 ^ 31, []) ∧ lnNeg 4 mod a b c = ((BitVec.ofNat 32 a ^^^ 0x8000_0000).toNat, []))

/-- BRA: a path that no lane takes or that all lanes take costs no stack entry; where the lanes disagree, the taken lanes are pushed with
their target and the reconvergence address, and the others go on. JMP and CALL go to the target, counted in words from the instruction,
and CALL leaves the address of the next instruction in the link pair u62:u63. JMPR and RET go to the address in their pair, a multiple of
8. EXIT ends the executing lanes. -/
def Obligations.BranchesComplete : Prop :=
  (∀ (v : Env) (w e : W64) (s : State),
     issues 3 0 w e braForm false (fun w => [0x140 + bits w 26 24]) s v = true →
     v.f.active &&& (if bit v.w 27 then ~~~v.f.preg (bits v.w 26 24) else v.f.preg (bits v.w 26 24)) = 0 →
     exec (.bra (v.n / 64) (v.n % 64) v.sl w e) s = .next (v.moved (v.noted s))) ∧
  (∀ (v : Env) (w e : W64) (s : State),
     issues 3 0 w e braForm false (fun w => [0x140 + bits w 26 24]) s v = true → v.f.active ≠ 0 →
     v.f.active &&& (if bit v.w 27 then ~~~v.f.preg (bits v.w 26 24) else v.f.preg (bits v.w 26 24)) = v.f.active →
     exec (.bra (v.n / 64) (v.n % 64) v.sl w e) s =
        .next (advance v.n v.sl (v.f.pc + BitVec.ofInt 64 (8 * sfield v.w 45 28)) (v.noted s))) ∧
  (∀ (v : Env) (w e : W64) (s : State) (t : W32),
     issues 3 0 w e braForm false (fun w => [0x140 + bits w 26 24]) s v = true →
     t = v.f.active &&& (if bit v.w 27 then ~~~v.f.preg (bits v.w 26 24) else v.f.preg (bits v.w 26 24)) → t ≠ 0 →
     v.f.active &&& ~~~t ≠ 0 → v.f.stack.length < 32 →
     exec (.bra (v.n / 64) (v.n % 64) v.sl w e) s = .next (v.moved (v.put { v.f with
        active := v.f.active &&& ~~~t
        stack := { kind := .branch, recon := v.f.pc + BitVec.ofInt 64 (8 * sfield v.w 63 46), mask := t
                   target := v.f.pc + BitVec.ofInt 64 (8 * sfield v.w 45 28) } :: v.f.stack } (v.noted s)))) ∧
  (∀ (v : Env) (w e : W64) (s : State),
     issues 3 1 w e jmpForm false (fun _ => []) s v = true →
     exec (.jmp (v.n / 64) (v.n % 64) v.sl w e) s =
        .next (advance v.n v.sl (v.f.pc + BitVec.ofInt 64 (8 * sfield v.w 45 28)) (v.noted s))) ∧
  (∀ (v : Env) (w e : W64) (s : State),
     issues 3 2 w e jmpForm false (fun _ => [0x13E, 0x13F]) s v = true →
     exec (.call (v.n / 64) (v.n % 64) v.sl w e) s =
        .next (advance v.n v.sl (v.f.pc + BitVec.ofInt 64 (8 * sfield v.w 45 28)) (v.write 0x13E 2 [(0, (v.f.pc + 8).toNat)] (v.noted s)))) ∧
  (∀ (v : Env) (w e : W64) (s : State) (a : Nat),
     issues 3 3 w e jmprForm false (fun _ => []) s v = true → a = rdN v.f (bits v.w 32 24) 2 0 → a % 8 = 0 →
     exec (.jmpr (v.n / 64) (v.n % 64) v.sl w e) s = .next (advance v.n v.sl (BitVec.ofNat 64 a) (v.noted s))) ∧
  (∀ (v : Env) (w e : W64) (s : State) (a : Nat),
     issues 3 4 w e retForm false (fun _ => [0x13E, 0x13F]) s v = true → a = rdN v.f 0x13E 2 0 → a % 8 = 0 →
     exec (.ret (v.n / 64) (v.n % 64) v.sl w e) s = .next (advance v.n v.sl (BitVec.ofNat 64 a) (v.noted s))) ∧
  (∀ (v : Env) (w e : W64) (s : State),
     issues 3 5 w e exitForm false (fun _ => []) s v = true →
     exec (.exit (v.n / 64) (v.n % 64) v.sl w e) s = .next (v.moved (v.put { v.f with
        exited := v.f.exited ||| v.m
        active := v.f.active &&& ~~~v.m } (v.noted s))))

/-- BAR moves past itself and arrives at its barrier of the stook once its scratch accesses are complete. FLAG.SET replaces and FLAG.ADD
adds to the flag that its identifier selects among the launch's, at the home store. FLAG.WAIT receives the flag at once when it has
reached the threshold, compared unsigned; else it is registered at the home store and its destination awaits the value. FlagUpdate and
BarrierCompletes say what the store and the barrier then do. -/
def Obligations.BarrierAndFlagInstructionsComplete : Prop :=
  (∀ (v : Env) (w e : W64) (s : State) (b : Nat) (a : State),
     issues 5 0x20 w e barForm false (fun _ => []) s v = true → fenceDone (v.noted s) v 0 = true → b = bits v.w 45 42 →
     a = advance v.n v.sl (v.f.pc + 8) (v.put { v.f with barWait := some b } (v.noted s)) →
     exec (.bar (v.n / 64) (v.n % 64) v.sl w e) s = .next (
        let c := a.core v.n
        let t := a.setCore v.n (barsDone { c with stooks := tput c.stooks v.f.stook { v.stook with
          bars := tput v.stook.bars b (ladd (tget [] v.stook.bars b) v.sl) } } v.f.stook)
        advance v.n v.sl (t.sheaf v.n v.sl).pc t)) ∧
  (∀ (v : Env) (w e : W64) (s : State) (x : W32),
     issues 5 0x30 w e (flagForm false) false (fun _ => []) s v = true →
     x = BitVec.ofNat 32 (rd32 v.f (bits v.w 50 42) 0) →
     exec (.flagSet (v.n / 64) (v.n % 64) v.sl w e) s = .next (v.moved (flagUpdate v.run.flags.1 (flagIndex v.run (rd32 v.f (bits v.w 41 33) 0)) (fun _ => x) (v.noted s)))) ∧
  (∀ (v : Env) (w e : W64) (s : State) (x : W32),
     issues 5 0x31 w e (flagForm false) false (fun _ => []) s v = true →
     x = BitVec.ofNat 32 (rd32 v.f (bits v.w 50 42) 0) →
     exec (.flagAdd (v.n / 64) (v.n % 64) v.sl w e) s = .next (v.moved (flagUpdate v.run.flags.1 (flagIndex v.run (rd32 v.f (bits v.w 41 33) 0)) (fun o => o + x) (v.noted s)))) ∧
  (∀ (v : Env) (w e : W64) (s : State) (x : W32),
     issues 5 0x32 w e (flagForm true) false (fun _ => []) s v = true → v.f.flagWait = none →
     x = (tget 0 ((v.noted s).flagStore v.run.flags.1).vals (flagIndex v.run (rd32 v.f (bits v.w 41 33) 0))) →
     BitVec.ofNat 32 (rd32 v.f (bits v.w 50 42) 0) ≤ x →
     exec (.flagWait (v.n / 64) (v.n % 64) v.sl w e) s = .next (v.wrote v.dst 1 [(0, x.toNat)] s)) ∧
  (∀ (v : Env) (w e : W64) (s : State) (x : W32) (k : FlagStore),
     issues 5 0x32 w e (flagForm true) false (fun _ => []) s v = true → v.f.flagWait = none →
     x = BitVec.ofNat 32 (rd32 v.f (bits v.w 50 42) 0) → k = (v.noted s).flagStore v.run.flags.1 →
     ¬ x ≤ tget 0 k.vals (flagIndex v.run (rd32 v.f (bits v.w 41 33) 0)) →
     exec (.flagWait (v.n / 64) (v.n % 64) v.sl w e) s = .next (v.moved (v.put { v.f with flagWait := some v.dst } ((v.noted s).setFlagStore v.run.flags.1 { k with
        waits := k.waits ++ [{ core := v.n, sheaf := v.sl, flag := flagIndex v.run (rd32 v.f (bits v.w 41 33) 0), threshold := x }] }))))

/-- NOP only moves the sheaf. FENCE with a release moves on once the accesses that its scope names are complete, and an acquire of scope
MODULE empties the core's tilth cache. INVAL drops the cached lines of the range, or every line for more than 2 MiB. RND.U32 and RND.F32
write fresh bits from the stream that each lane selects, ascending; RND.F32 gives k × 2^-24. ROLE writes the core's role code and role
epoch, STAMP the time base as the copy of the core's base die holds it. -/
def Obligations.SpecialInstructionsComplete : Prop :=
  (∀ (v : Env) (w e : W64) (s : State),
     issues 6 0 w e specForm false (fun _ => []) s v = true →
     exec (.nop (v.n / 64) (v.n % 64) v.sl w e) s = .next (v.moved (v.noted s))) ∧
  (∀ (v : Env) (w e : W64) (s : State),
     issues 6 1 w e fenceForm false (fun _ => []) s v = true →
     (bit v.w 53 && !fenceDone (v.noted s) v (bits v.w 52 51)) = false →
     exec (.fence (v.n / 64) (v.n % 64) v.sl w e) s =
        .next (v.moved (if bit v.w 54 && bits v.w 52 51 == 2 then invalAll v.n (v.noted s) else v.noted s))) ∧
  (∀ (v : Env) (w e : W64) (s : State),
     issues 6 2 w e invalForm false (fun _ => []) s v = true →
     exec (.inval (v.n / 64) (v.n % 64) v.sl w e) s = .next (v.moved (
        if 0x20_0000 < rd32 v.f (bits v.w 50 42) 0 then invalAll v.n (v.noted s)
        else (v.noted s).setCore v.n { (v.noted s).core v.n with tcache := ((v.noted s).core v.n).tcache.filter (fun x =>
          rd32 v.f (bits v.w 50 42) 0 == 0 || !lineInRange (v.noted s) v.run.group (rdN v.f (bits v.w 41 33) 2 0)
            (rd32 v.f (bits v.w 50 42) 0) (x.line * 64)) }))) ∧
  (∀ (v : Env) (w e : W64) (s : State) (r : List (Nat × Nat) × State),
     issues 6 0x10 w e rndForm false (fun _ => []) s v = true →
     ((tfind ((v.noted s).core v.n).seed.launch v.stook.launch.toNat).isSome) = true →
     r = rndLanes v 32 (memLanes v v.dst) (v.noted s) →
     exec (.rndU32 (v.n / 64) (v.n % 64) v.sl w e) s = .next (v.moved (v.write v.dst 1 r.1 r.2))) ∧
  (∀ (v : Env) (w e : W64) (s : State) (r : List (Nat × Nat) × State),
     issues 6 0x11 w e rndForm false (fun _ => []) s v = true →
     ((tfind ((v.noted s).core v.n).seed.launch v.stook.launch.toNat).isSome) = true →
     r = rndLanes v 24 (memLanes v v.dst) (v.noted s) →
     exec (.rndF32 (v.n / 64) (v.n % 64) v.sl w e) s = .next (v.moved (v.write v.dst 1 (r.1.map (fun e => (e.1, unitF32 e.2))) r.2))) ∧
  (∀ (v : Env) (w e : W64) (s : State),
     issues 6 0x30 w e pairForm false (fun _ => []) s v = true →
     exec (.role (v.n / 64) (v.n % 64) v.sl w e) s =
        .next (v.wrote v.dst 2 [(0, ((v.noted s).ep (srcCore v.n)).role + 2 ^ 32 * ((v.noted s).ep (srcCore v.n)).epoch.toNat)] s)) ∧
  (∀ (v : Env) (w e : W64) (s : State),
     issues 6 0x40 w e pairForm false (fun _ => []) s v = true →
     exec (.stamp (v.n / 64) (v.n % 64) v.sl w e) s = .next (v.wrote v.dst 2 [(0, (copyNow s (v.n / 64)).toNat)] s))

/-- LD whose addresses are aligned, inside the stook's scratch or translated, and that meets no poison at issue, leaves its sheaf with an
outstanding load that holds the bytes that scratch, hub SRAM or the tilth cache serve at once, and requests the other sectors from their
home halves. ST writes scratch and hub SRAM at once and sends the other sectors, bytes as the lanes give them, to their home halves. PFS
and PWB that move a whole number of 64-byte lines inside scratch between mapped pages are queued at the core's bulk engine; PFR waits for
a command of the array with its TAG. The sheaf moves on. -/
def Obligations.MemoryInstructionsComplete : Prop :=
  (∀ (v : Env) (w e : W64) (s : State),
     issues 2 0x00 w e (memForm true) true (fun _ => []) s v = true →
     addrFault (v.noted s) v (memSpace v.w) (sizeBytes (memSize v.w)) .read (memAddrs v (memLanes v v.dst)) = none →
     (ldRecord v (v.noted s)).lanes.all (fun x => match x.data with | some (_, d) => d == 0 | none => true) = true →
     exec (.ld (v.n / 64) (v.n % 64) v.sl w e) s = .next (v.moved (ldSend v (v.noted s)))) ∧
  (∀ (v : Env) (w e : W64) (s : State),
     issues 2 0x01 w e (memForm false) true (fun _ => []) s v = true →
     addrFault (v.noted s) v (memSpace v.w) (sizeBytes (memSize v.w)) .write (memAddrs v (lanesOf v.m)) = none →
     exec (.st (v.n / 64) (v.n % 64) v.sl w e) s = .next (v.moved (if memSpace v.w = 0 then stScr v (v.noted s) else stFar v (v.noted s)))) ∧
  (∀ (v : Env) (w e : W64) (s : State) (scr va len : Nat),
     issues 2 0x10 w e (bulkForm false) true (fun _ => []) s v = true → scr = rd32 v.f (bits v.w 32 24) 0 →
     va = rdN v.f (bits v.w 41 33) 2 0 → len = rd32 v.f (bits v.w 50 42) 0 → scr % 64 = 0 → va % 64 = 0 → len % 64 = 0 →
     len ≠ 0 → scr + len ≤ v.stook.size → rangeFault (v.noted s) v.run.group .read (len / 65536 + 2) va len = none →
     exec (.pfs (v.n / 64) (v.n % 64) v.sl w e) s = .next (v.moved (
        let c := (v.noted s).core v.n
        (v.noted s).setCore v.n { c.setSheaf v.sl { v.f with bulkOut := v.f.bulkOut + 1, memOut := tput v.f.memOut c.nextLoad 1 } with
          nextLoad := c.nextLoad + 1
          bulk := c.bulk ++ [{
            id := c.nextLoad, kind := 0, scr := v.stook.base + scr, lines := linesOf (v.noted s) v.run.group va len .read,
            stook := v.f.stook, sheaf := v.sl, tag := 0, panel := 0, slot := 0, begun := false, done := 0, poison := false,
            pc := 0, active := 0, instr := 0, held := false }] }))) ∧
  (∀ (v : Env) (w e : W64) (s : State) (scr va len : Nat),
     issues 2 0x11 w e (bulkForm false) true (fun _ => []) s v = true → scr = rd32 v.f (bits v.w 32 24) 0 →
     va = rdN v.f (bits v.w 41 33) 2 0 → len = rd32 v.f (bits v.w 50 42) 0 → scr % 64 = 0 → va % 64 = 0 → len % 64 = 0 →
     len ≠ 0 → scr + len ≤ v.stook.size → rangeFault (v.noted s) v.run.group .write (len / 65536 + 2) va len = none →
     exec (.pwb (v.n / 64) (v.n % 64) v.sl w e) s = .next (v.moved (
        let c := (v.noted s).core v.n
        (v.noted s).setCore v.n { c.setSheaf v.sl { v.f with bulkOut := v.f.bulkOut + 1, memOut := tput v.f.memOut c.nextLoad 1 } with
          nextLoad := c.nextLoad + 1
          bulk := c.bulk ++ [{
            id := c.nextLoad, kind := 1, scr := v.stook.base + scr, lines := linesOf (v.noted s) v.run.group va len .write,
            stook := v.f.stook, sheaf := v.sl, tag := 0, panel := 0, slot := 0, begun := false, done := 0, poison := false,
            pc := 0, active := 0, instr := 0, held := false }] }))) ∧
  (∀ (v : Env) (w e : W64) (s : State) (va len : Nat),
     issues 2 0x12 w e (bulkForm true) true (fun _ => []) s v = true → va = rdN v.f (bits v.w 41 33) 2 0 → va % 64 = 0 →
     len = (match (ringCmds ((v.noted s).core v.n).arr).find? (fun x => x.desc.tag == bits v.w 58 51) with
       | some x => panelK x.desc * panelB x.desc.afmt
       | none => 1) →
     rangeFault (v.noted s) v.run.group .read (len / 65536 + 2) va len = none →
     exec (.pfr (v.n / 64) (v.n % 64) v.sl w e) s = .next (v.moved (
        let c := (v.noted s).core v.n
        let op : BulkOp := {
            id := c.nextLoad, kind := 2, scr := 0, lines := [va], stook := v.f.stook, sheaf := v.sl, tag := bits v.w 58 51
            panel := rd32 v.f (bits v.w 50 42) 0, slot := 0, begun := false, done := 0, poison := false,
            pc := v.f.pc, active := v.f.active, instr := BitVec.ofNat 64 v.w, held := false }
        bindPfr v.n op ((v.noted s).setCore v.n { c.setSheaf v.sl { v.f with memOut := tput v.f.memOut c.nextLoad 1 } with
          nextLoad := c.nextLoad + 1
          pfr := c.pfr ++ [op] }))))

/-- LOAD_DATA_RETURN of a load whose every lane has its data reads the scratch word of its first lane with the wrong bits of its operand
(none changes nothing; log 19), then writes the destination and ends the load; a poisoned lane of a load (not of an atomic) faults
instead, a load whose lanes wait for a line that is fetched again (Table 11-3) stays, and a load that a fence of its core ended is gone;
then the register cell that its operand names begins to fail its parity check (R143, log 19), and the entry of a sheaf's slot state that
it names is corrected, or resets the core (R320). PFR_BIND gives a waiting PFR whose command is queued a free slot of the ring when its
payload's pages translate. BULK_OP_START begins the oldest operation that has not begun: its requests go to the home halves, and hub SRAM
lines move at once. BULK_OP_COMPLETE ends an operation whose every line has moved: its sheaf owes one less, and a PFR's ring slot receives
its header and is offered to the array. -/
def Obligations.LoadsAndBulkOperationsEnd : Prop :=
  (∀ (n sl ld : Nat) (s : State) (x : Load),
     loadFound n sl ld x 0 s = s) ∧
  (∀ (q c sl ld n : Nat) (err : BitVec 132) (s s1 : State) (x : Load),
     n = 64 * q + c → wfSheaf q c sl = true → tfind (s.sheaf n sl).loads ld = some x →
     x.lanes.all (fun y => y.data.isSome) = true → (s.sheaf n sl).parked = false → oneCopy (bits err.toNat 77 72) = true →
     s1 = loadFound n sl ld x (bits err.toNat 77 0) s →
     exec (.loadDataReturn q c sl ld err) s = .next (slotEntry n (bits err.toNat 131 93) (cellFails n sl (bits err.toNat 92 78) (match tfind (s1.sheaf n sl).loads ld with
         | none => s1
         | some y =>
           if y.lanes.any (fun z => z.data.isNone) then s1
           else if !y.atomic && y.lanes.any (fun z => match z.data with | some (_, d) => d != 0 | none => false) then poisonFault n sl y s1
           else s1.setSheaf n sl (loadWrite { s1.sheaf n sl with loads := tdel (s1.sheaf n sl).loads ld } y))))) ∧
  (∀ (q c i k n : Nat) (s : State) (op : BulkOp) (x : ArrCmd),
     n = 64 * q + c → wfCore q c = true → (s.core n).pfr[i]? = some op →
     (ringCmds (s.core n).arr).find? (fun y => y.desc.tag == op.tag) = some x → freeRing (s.core n).arr x.desc = some k →
     op.held = false →
     rangeFault s (match tfind (s.core n).stooks op.stook with | some t => groupOf s t.launch | none => 0) .read
       (panelK x.desc * panelB x.desc.afmt / 65536 + 2) (op.lines.headD 0) (panelK x.desc * panelB x.desc.afmt) = none →
     exec (.pfrBind q c i) s = .next (claimPfr n op x.desc k
        (match tfind (s.core n).stooks op.stook with | some t => groupOf s t.launch | none => 0) s)) ∧
  (∀ (q c n : Nat) (s : State) (op : BulkOp) (t : Stook) (r : Run),
     n = 64 * q + c → wfCore q c = true → (s.core n).bulk.find? (fun b => !b.begun) = some op →
     tfind (s.core n).stooks op.stook = some t → runOf s t.launch = some r →
     exec (.bulkOpStart q c) s = .next (
        sendReqs ((bulkReqs s n op r.stage r.group (groupSlot s r.group)).filter (fun x => !isHub s x.pa)) (bulkNow n op r.stage (s.setCore n { s.core n with
          bulk := (s.core n).bulk.map (fun b => if b.id = op.id then { b with
              begun := true
              done := (op.lines.filter (isHub s)).length
              poison := (op.lines.filter (isHub s)).any (fun pa => (cohRead s r.stage pa 64).2) } else b) })))) ∧
  (∀ (q c i n : Nat) (s : State) (op : BulkOp),
     n = 64 * q + c → wfCore q c = true → (s.core n).bulk[i]? = some op → op.begun = true → op.lines.length ≤ op.done →
     op.kind ≠ 2 →
     exec (.bulkOpComplete q c i) s = .next (s.setCore n { (s.core n).setSheaf op.sheaf { (s.core n).sheaf op.sheaf with
            memOut := tdel ((s.core n).sheaf op.sheaf).memOut op.id
            bulkOut := ((s.core n).sheaf op.sheaf).bulkOut - 1 } with
          bulk := (s.core n).bulk.filter (fun b => b.id != op.id) })) ∧
  (∀ (q c i n : Nat) (s : State) (op : BulkOp) (r : RingSlot),
     n = 64 * q + c → wfCore q c = true → (s.core n).bulk[i]? = some op → op.begun = true → op.lines.length ≤ op.done →
     op.kind = 2 → (s.core n).arr.ring.find? (fun y => y.tag == op.tag && y.slot == op.slot && !y.complete) = some r →
     exec (.bulkOpComplete q c i) s = .next (ringTake n 9 (tilWrite n op.scr (ringHeader op.tag r.visits op.panel op.poison) false
          (s.setCore n { (s.core n).setSheaf op.sheaf { (s.core n).sheaf op.sheaf with memOut := tdel ((s.core n).sheaf op.sheaf).memOut op.id } with
            bulk := (s.core n).bulk.filter (fun b => b.id != op.id)
            arr := { (s.core n).arr with ring := (s.core n).arr.ring.map (fun y =>
              if y.tag == op.tag && y.slot == op.slot && !y.complete then { y with complete := true, poison := op.poison } else y) } }))))

/-- An ATOM whose lanes' addresses are aligned and inside the scratch, or translated for reading and for writing, serves its words: words
of scratch and of hub SRAM at once, each with the operation on the lanes that name it in ascending order, the old values going to the
destination; other words become atomic requests at their home halves, and the core's own copies of their sectors go. AtomicWord says what
one word's operation is. -/
def Obligations.AtomicsComplete : Prop :=
  (∀ (v : Env) (w e : W64) (s : State),
     issues 5 0 w e (atomForm 0) true (fun _ => []) s v = true →
     rmwFault (v.noted s) v (atomSpace v) (atomBytes v) (atomLanes v) = none →
     exec (.atomAdd (v.n / 64) (v.n % 64) v.sl w e) s = .next (v.moved (if atomSpace v = 0 then atomScr 0 v (v.noted s) else atomFar 0 v (v.noted s)))) ∧
  (∀ (v : Env) (w e : W64) (s : State),
     issues 5 1 w e (atomForm 1) true (fun _ => []) s v = true →
     rmwFault (v.noted s) v (atomSpace v) (atomBytes v) (atomLanes v) = none →
     exec (.atomMin (v.n / 64) (v.n % 64) v.sl w e) s = .next (v.moved (if atomSpace v = 0 then atomScr 1 v (v.noted s) else atomFar 1 v (v.noted s)))) ∧
  (∀ (v : Env) (w e : W64) (s : State),
     issues 5 2 w e (atomForm 2) true (fun _ => []) s v = true →
     rmwFault (v.noted s) v (atomSpace v) (atomBytes v) (atomLanes v) = none →
     exec (.atomMax (v.n / 64) (v.n % 64) v.sl w e) s = .next (v.moved (if atomSpace v = 0 then atomScr 2 v (v.noted s) else atomFar 2 v (v.noted s)))) ∧
  (∀ (v : Env) (w e : W64) (s : State),
     issues 5 3 w e (atomForm 3) true (fun _ => []) s v = true →
     rmwFault (v.noted s) v (atomSpace v) (atomBytes v) (atomLanes v) = none →
     exec (.atomAnd (v.n / 64) (v.n % 64) v.sl w e) s = .next (v.moved (if atomSpace v = 0 then atomScr 3 v (v.noted s) else atomFar 3 v (v.noted s)))) ∧
  (∀ (v : Env) (w e : W64) (s : State),
     issues 5 4 w e (atomForm 4) true (fun _ => []) s v = true →
     rmwFault (v.noted s) v (atomSpace v) (atomBytes v) (atomLanes v) = none →
     exec (.atomOr (v.n / 64) (v.n % 64) v.sl w e) s = .next (v.moved (if atomSpace v = 0 then atomScr 4 v (v.noted s) else atomFar 4 v (v.noted s)))) ∧
  (∀ (v : Env) (w e : W64) (s : State),
     issues 5 5 w e (atomForm 5) true (fun _ => []) s v = true →
     rmwFault (v.noted s) v (atomSpace v) (atomBytes v) (atomLanes v) = none →
     exec (.atomXor (v.n / 64) (v.n % 64) v.sl w e) s = .next (v.moved (if atomSpace v = 0 then atomScr 5 v (v.noted s) else atomFar 5 v (v.noted s)))) ∧
  (∀ (v : Env) (w e : W64) (s : State),
     issues 5 6 w e (atomForm 6) true (fun _ => []) s v = true →
     rmwFault (v.noted s) v (atomSpace v) (atomBytes v) (atomLanes v) = none →
     exec (.atomXchg (v.n / 64) (v.n % 64) v.sl w e) s = .next (v.moved (if atomSpace v = 0 then atomScr 6 v (v.noted s) else atomFar 6 v (v.noted s)))) ∧
  (∀ (v : Env) (w e : W64) (s : State),
     issues 5 7 w e (atomForm 7) true (fun _ => []) s v = true →
     rmwFault (v.noted s) v (atomSpace v) (atomBytes v) (atomLanes v) = none →
     exec (.atomCas (v.n / 64) (v.n % 64) v.sl w e) s = .next (v.moved (if atomSpace v = 0 then atomScr 7 v (v.noted s) else atomFar 7 v (v.noted s))))

/-- For every operation but fp32 add, the lanes that name a word are served one at a time in the order given: each lane receives the word
as it stood before that lane, and the word afterwards is the last result. ADD wraps at the type's width, MIN and MAX compare in the type's
signedness, AND, OR and XOR combine the bits, XCHG stores the lane's value, CAS stores its second value where the word equals its first.
fp32 ADD gives the word plus the sum of the operands under the tree T, rounded once, and lane i the word with the operands below it. -/
def Obligations.AtomicWord : Prop :=
  (∀ (op ty old : Nat) (l m : List (Nat × Nat × Nat)),
     ¬ (op = 0 ∧ ty = 4) →
     atomWord op ty old (l ++ m) = ((atomWord op ty (atomWord op ty old l).1 m).1,
        (atomWord op ty old l).2 ++ (atomWord op ty (atomWord op ty old l).1 m).2)) ∧
  (∀ (op ty old i a b : Nat),
     ¬ (op = 0 ∧ ty = 4) →
     atomWord op ty old [(i, a, b)] = (atomOne op ty old a b, [(i, old)])) ∧
  (∀ (ty b : Nat) (x y : BitVec (tyW ty)),
     ty ≤ 3 ∨ ty = 7 ∨ ty = 8 →
     atomOne 0 ty x.toNat y.toNat b = (x + y).toNat ∧ atomOne 3 ty x.toNat y.toNat b = (x &&& y).toNat ∧ atomOne 4 ty x.toNat y.toNat b = (x ||| y).toNat ∧
        atomOne 5 ty x.toNat y.toNat b = (x ^^^ y).toNat ∧ atomOne 6 ty x.toNat y.toNat b = y.toNat ∧
        atomOne 7 ty x.toNat y.toNat b = (if x = y then b else x.toNat)) ∧
  (∀ (ty b : Nat) (x y : BitVec (tyW ty)),
     ty ≤ 3 →
     atomOne 1 ty x.toNat y.toNat b = (if (if ty = 0 ∨ ty = 2 then y.slt x else y.ult x) then y.toNat else x.toNat) ∧
        atomOne 2 ty x.toNat y.toNat b = (if (if ty = 0 ∨ ty = 2 then x.slt y else x.ult y) then y.toNat else x.toNat)) ∧
  (∀ (old : Nat) (l : List (Nat × Nat × Nat)),
     (atomWord 0 4 old l).1 = atomTree old (l.map (fun e => e.2.1)) ∧
        ∀ k, (atomWord 0 4 old l).2[k]? = l[k]?.map (fun e => (e.1, atomTree old ((l.take k).map (fun e => e.2.1)))))

/-- LOCK.ACQ: when every word that the lanes name is free and each lane is the lowest that names its word, every lane writes its holder
value and the sheaf moves on; when some lanes win, the others are pushed as a path that retries and the winners go on; when none is free,
the sheaf waits with nothing written. LOCK.REL, once the accesses before it are complete, writes zero to the words that its lanes hold and
wakes their waiters. LOCK_REPOLL wakes a waiting sheaf whose word lies outside its quarter. LOCK_TIMEOUT faults the lanes that have waited
LOCK_TIMEOUT, and so does their next attempt; a split that would take more than 32 stack entries faults 0x42 before any word is written.
-/
def Obligations.LocksComplete : Prop :=
  (∀ (v : Env) (w e : W64) (s : State) (t : State) (ps : List (Nat × Nat)),
     issues 5 0x10 w e lockAcqForm true (fun _ => []) s v = true →
     (lanesOf v.m).filter (fun i => (lateLanes (v.noted s) v.f v.run).contains i) = [] → splitOver (v.noted s) v = false →
     ps = (lockLanes v).map (lockPlace (v.noted s) v (atomSpace v)) →
     rmwFault (v.noted s) v (atomSpace v) 8 (lockLanes v) = none → lockHeld (v.noted s) v ps = false →
     lockLost (v.noted s) (atomSpace v) ps = false → lockReady v ps (v.noted s) = some t →
     winners t v (atomSpace v) ps [] ≠ [] → v.m &&& ~~~maskOf ((winners t v (atomSpace v) ps []).map Prod.fst) = 0 →
     exec (.lockAcq (v.n / 64) (v.n % 64) v.sl w e) s = .next (v.moved (v.put { v.f with
          lockWait := none
          lockSince := (lanesOf (maskOf ((winners t v (atomSpace v) ps []).map Prod.fst))).foldl tdel v.f.lockSince }
         (let u := (winners t v (atomSpace v) ps []).foldl (fun a e => lockWrite v (atomSpace v) e.2 (holderWord t v.n v.sl e.1 v.f.gen) a) t
          if atomSpace v = 1 then invalAll v.n u else u)))) ∧
  (∀ (v : Env) (w e : W64) (s : State) (t : State) (ps win : List (Nat × Nat)) (since : Tab W64) (es : List StackEntry),
     issues 5 0x10 w e lockAcqForm true (fun _ => []) s v = true →
     (lanesOf v.m).filter (fun i => (lateLanes (v.noted s) v.f v.run).contains i) = [] → splitOver (v.noted s) v = false →
     ps = (lockLanes v).map (lockPlace (v.noted s) v (atomSpace v)) →
     rmwFault (v.noted s) v (atomSpace v) 8 (lockLanes v) = none → lockHeld (v.noted s) v ps = false →
     lockLost (v.noted s) (atomSpace v) ps = false → lockReady v ps (v.noted s) = some t →
     win = winners t v (atomSpace v) ps [] → win ≠ [] → v.m &&& ~~~maskOf (win.map Prod.fst) ≠ 0 →
     es = splitEntries v.f (lockRecon v) (v.m &&& ~~~maskOf (win.map Prod.fst)) →
     since = (lanesOf (v.m &&& ~~~maskOf (win.map Prod.fst))).foldl (fun a i => match tfind a i with
       | some _ => a
       | none => tput a i t.clk.tb) v.f.lockSince →
     exec (.lockAcq (v.n / 64) (v.n % 64) v.sl w e) s = .next (v.moved (v.put { v.f with
          lockWait := none
          lockSince := (lanesOf (maskOf (win.map Prod.fst))).foldl tdel since
          stack := es ++ v.f.stack
          active := maskOf (win.map Prod.fst) }
         (let u := win.foldl (fun a e => lockWrite v (atomSpace v) e.2 (holderWord t v.n v.sl e.1 v.f.gen) a) t
          if atomSpace v = 1 then invalAll v.n u else u)))) ∧
  (∀ (v : Env) (w e : W64) (s : State) (t : State) (ps : List (Nat × Nat)),
     issues 5 0x10 w e lockAcqForm true (fun _ => []) s v = true →
     (lanesOf v.m).filter (fun i => (lateLanes (v.noted s) v.f v.run).contains i) = [] → splitOver (v.noted s) v = false →
     ps = (lockLanes v).map (lockPlace (v.noted s) v (atomSpace v)) →
     rmwFault (v.noted s) v (atomSpace v) 8 (lockLanes v) = none → lockHeld (v.noted s) v ps = false →
     lockLost (v.noted s) (atomSpace v) ps = false → lockReady v ps (v.noted s) = some t →
     winners t v (atomSpace v) ps [] = [] →
     exec (.lockAcq (v.n / 64) (v.n % 64) v.sl w e) s = .next (advance v.n v.sl v.f.pc (v.put { v.f with
          lockWait := some { mask := v.m, glob := atomSpace v == 1, addrs := ps.foldl (fun t e => tput t e.1 e.2) [], failed := t.clk.tb, woken := false }
          lockSince := (lanesOf v.m).foldl (fun a i => match tfind a i with | some _ => a | none => tput a i t.clk.tb) v.f.lockSince } t))) ∧
  (∀ (v : Env) (w e : W64) (s : State) (t : State) (ps : List (Nat × Nat)),
     issues 5 0x11 w e lockRelForm true (fun _ => []) s v = true →
     ps = (lockLanes v).map (lockPlace (v.noted s) v (atomSpace v)) →
     rmwFault (v.noted s) v (atomSpace v) 8 (lockLanes v) = none → lockHeld (v.noted s) v ps = false →
     released (v.noted s) v (atomSpace v) = true → lockLost (v.noted s) (atomSpace v) ps = false →
     lockReady v ps (v.noted s) = some t →
     ps.all (fun e => lockRead t v (atomSpace v) e.2 == holderWord (v.noted s) v.n v.sl e.1 v.f.gen) = true →
     exec (.lockRel (v.n / 64) (v.n % 64) v.sl w e) s = .next (v.moved (
        ps.foldl (fun a e => wakeWaiters v.n (atomSpace v) e.2 (lockWrite v (atomSpace v) e.2 0 a)) t))) ∧
  (∀ (v : Env) (w e : W64) (s : State) (late : List Nat),
     issues 5 0x10 w e lockAcqForm true (fun _ => []) s v = true →
     late = (lanesOf v.m).filter (fun i => (lateLanes (v.noted s) v.f v.run).contains i) → late ≠ [] →
     exec (.lockAcq (v.n / 64) (v.n % 64) v.sl w e) s = .next (raiseFault v.n v.sl 5 0 (maskOf late) 0 v.w (v.noted s))) ∧
  (∀ (v : Env) (w e : W64) (s : State),
     issues 5 0x10 w e lockAcqForm true (fun _ => []) s v = true →
     (lanesOf v.m).filter (fun i => (lateLanes (v.noted s) v.f v.run).contains i) = [] → splitOver (v.noted s) v = true →
     exec (.lockAcq (v.n / 64) (v.n % 64) v.sl w e) s = .next (raiseFault v.n v.sl 4 0x42 v.m 0 v.w (v.noted s))) ∧
  (∀ (q c sl n : Nat) (s : State) (t : Stook) (r : Run) (late : List Nat) (pc : W64),
     n = 64 * q + c → wfSheaf q c sl = true → stookOf s n (s.sheaf n sl) = some t → runOf s t.launch = some r →
     (s.sheaf n sl).parked = false →
     late = ((s.sheaf n sl).lockSince.filter (fun e => decide (r.lockUs * 1000 ≤ (s.clk.tb - e.2).toNat))).map Prod.fst →
     late ≠ [] → pc = lockPc (s.sheaf n sl) late →
     exec (.lockTimeout q c sl) s = .next (raiseAt n sl pc (s.sheaf n sl).active 5 0 (maskOf late) 0 (wordAt s r.group pc) s)) ∧
  (∀ (q c sl n : Nat) (s : State) (x : LockWait),
     n = 64 * q + c → wfSheaf q c sl = true → (s.sheaf n sl).lockWait = some x → x.glob = true →
     x.addrs.any (fun e => servingQuarter s e.2 != some q) = true → (s.sheaf n sl).parked = false →
     exec (.lockRepoll q c sl) s = .next (s.setSheaf n sl { s.sheaf n sl with lockWait := some { x with woken := true } }))

/-- STOOK_START: on a core in service whose launch key is there, with the launch's slots, register blocks and scratch free, the stook at
the head of the queue takes the lowest free slots and the lowest free place of scratch; StartingRegisters gives what its sheaves hold.
STOOK_END: a stook whose sheaves have all ended and whose array commands, bulk operations and samples are finished, or whose kill has no
store left, gives its resources back, and its core reports one that was not killed to Pelseso. -/
def Obligations.StooksStartAndEnd : Prop :=
  (∀ (q c n launch idx st base : Nat) (s : State) (rest : List (Nat × Nat)) (r : Run) (free : List Nat),
     n = 64 * q + c → wfCore q c = true → (s.core n).waiting = (launch, idx) :: rest → tfind s.pel.runs launch = some r →
     free = (List.range 64).filter (fun sl => !((s.core n).sheaf sl).live) →
     (List.range 32).find? (fun st => (tfind (s.core n).stooks st).isNone) = some st →
     firstFit ((s.core n).stooks.map (fun e => (e.2.base, e.2.size))) r.scratch (padSize (s.core n)) = some base →
     (s.core n).inService = true → (s.core n).headland = false → (s.core n).fallow ≤ 1 → (s.core n).arr.testing = false →
     (s.core n).cunits = r.cunits → (tfind (s.core n).seed.launch launch).isSome = true → r.sheaves ≤ free.length →
     ((s.core n).stooks.map (fun e => e.2.blocks)).sum + r.sheaves * (r.regs / 8) ≤ 512 →
     exec (.stookStart q c) s = .next (startStook n launch idx st base (free.take r.sheaves) r s)) ∧
  (∀ (q c st n : Nat) (s : State) (t : Stook),
     n = 64 * q + c → wfCore q c = true → tfind (s.core n).stooks st = some t → stookOver s n st t = true →
     exec (.stookEnd q c st) s = .next (if t.killed.isNone then signal (srcCore n) 0 4 (freeStook n st s) else freeStook n st s))

/-- A sheaf of a starting stook begins at ENTRY with all 32 lanes active and an empty stack; u0 to u7 hold the scratch base, the scratch
size, the stook index, the sheaf index, ARG low and high, the logical core number and the launch identifier; p0 is all ones; v0 of lane l
is 32 times the sheaf index plus l; every other register is zero. -/
def Obligations.StartingRegisters : Prop :=
  ∀ (s : State) (n st idx base launch i : Nat) (r : Run) (f : Sheaf) (g : Sheaf),
    g = startSheaf s n st idx base launch r f i →
    g.live = true ∧ g.stook = st ∧ g.pc = r.entry ∧ g.active = 0xFFFF_FFFF ∧ g.exited = 0 ∧ g.stack = [] ∧
       g.ureg 0 = BitVec.ofNat 32 base ∧ g.ureg 1 = BitVec.ofNat 32 r.scratch ∧ g.ureg 2 = BitVec.ofNat 32 idx ∧ g.ureg 3 = BitVec.ofNat 32 i ∧
       g.ureg 4 = BitVec.ofNat 32 (r.arg.toNat % 2 ^ 32) ∧ g.ureg 5 = BitVec.ofNat 32 (r.arg.toNat / 2 ^ 32) ∧ g.ureg 6 = BitVec.ofNat 32 (logCore s n) ∧
       g.ureg 7 = BitVec.ofNat 32 launch ∧ (∀ k, 8 ≤ k → g.ureg k = 0) ∧ g.preg 0 = 0xFFFF_FFFF ∧ (∀ k, 0 < k → g.preg k = 0) ∧
       (∀ l, l < 32 → g.vreg 0 l = BitVec.ofNat 32 (32 * i + l)) ∧ (∀ k l, 0 < k → l < 32 → g.vreg k l = 0)

/-- Pelseso takes the oldest record of the core and logs it. A translation fault whose address now translates replays the sheaf, and one
that does not kills the stook with 0x20; a poisoned read kills it with 0x21, or under POISON_POLICY 1 writes zero in the lanes concerned
and goes on; ARITHMETIC, ILLEGAL, LOCK_TIMEOUT and WATCHDOG kill it with 0x22 to 0x25; a register parity error abandons the run. A
poisoned instruction word kills with 0x21 whatever the policy, and a fetch fault is taken again when some word of the instruction still
does not translate for execution. STOOK_WATCHDOG faults or marks every sheaf of a stook older than STOOK_LIMIT; one whose sheaves have all
ended and that an unbound prefetch keeps is killed with 0x25. -/
def Obligations.FaultsAreResolved : Prop :=
  (∀ (q c sl n : Nat) (s : State) (r : FaultRec) (t : Stook) (run : Run),
     n = 64 * q + c → wfSheaf q c sl = true → tfind (s.core n).faults sl = some r →
     tfind (s.core n).stooks ((s.core n).sheaf sl).stook = some t → runOf s t.launch = some run →
     (s.core n).faults.all (fun e => e.1 == sl || recFirst r e.2) = true → t.killed = none →
     exec (.faultResolve q c sl) s = .next (resolveFault n sl t r run
        (logRec 3 (srcCore n) 0x8100 (faultBytes r) (s.setCore n { s.core n with faults := tdel (s.core n).faults sl })))) ∧
  (∀ (n sl status : Nat) (t : Stook) (r : FaultRec) (run : Run) (s : State),
     r.cause = 3 ∧ status = 0x22 ∨ r.cause = 4 ∧ status = 0x23 ∨ r.cause = 5 ∧ status = 0x24 ∨ r.cause = 6 ∧ status = 0x25 →
     resolveFault n sl t r run s = killStook n (s.sheaf n sl).stook status (if r.cause = 4 then r.detail else 0) r.stamp s) ∧
  (∀ (n sl : Nat) (t : Stook) (r : FaultRec) (run : Run) (s : State) (k : Acc2),
     r.cause = 1 → r.instr ≠ 0 → k = (if r.detail.testBit 2 then .write else .read) →
     resolveFault n sl t r run s = (match translate s run.group r.addr.toNat k with
        | .ok _ => replay n sl s
        | .error _ => killStook n (s.sheaf n sl).stook 0x20 0 r.stamp s)) ∧
  (∀ (n sl : Nat) (t : Stook) (r : FaultRec) (run : Run) (s : State),
     r.cause = 1 → r.instr = 0 →
     resolveFault n sl t r run s = (if (translate s run.group r.pc.toNat .exec).isOk && (!wExt (wordAt s run.group r.pc) || (translate s run.group (r.pc + 8).toNat .exec).isOk)
        then replay n sl s else killStook n (s.sheaf n sl).stook 0x20 0 r.stamp s)) ∧
  (∀ (n sl : Nat) (t : Stook) (r : FaultRec) (run : Run) (s : State),
     r.cause = 2 → r.instr = 0 →
     resolveFault n sl t r run s = killStook n (s.sheaf n sl).stook 0x21 0 r.stamp s) ∧
  (∀ (n sl : Nat) (t : Stook) (r : FaultRec) (run : Run) (s : State),
     r.cause = 2 → r.instr ≠ 0 →
     resolveFault n sl t r run s = (if run.poisonPolicy then zeroPoison n sl t.launch.toNat r s else killStook n (s.sheaf n sl).stook 0x21 0 r.stamp s)) ∧
  (∀ (n sl : Nat) (t : Stook) (r : FaultRec) (run : Run) (s : State),
     7 ≤ r.cause →
     resolveFault n sl t r run s = abandonRun t.launch.toNat true s) ∧
  (∀ (q c st n : Nat) (s : State) (t : Stook) (r : Run),
     n = 64 * q + c → wfCore q c = true → tfind (s.core n).stooks st = some t → runOf s t.launch = some r →
     t.killed = none → r.limitUs * 1000 ≤ (s.clk.tb - t.start).toNat →
     t.slots.all (fun sl => ((s.core n).sheaf sl).ended) = false →
     exec (.stookWatchdog q c st) s = .next (t.slots.foldl (dogSheaf n r.group) s)) ∧
  (∀ (q c st n : Nat) (s : State) (t : Stook) (r : Run),
     n = 64 * q + c → wfCore q c = true → tfind (s.core n).stooks st = some t → runOf s t.launch = some r →
     t.killed = none → r.limitUs * 1000 ≤ (s.clk.tb - t.start).toNat →
     t.slots.all (fun sl => ((s.core n).sheaf sl).ended) = true → (s.core n).pfr.any (fun b => b.stook == st) = true →
     exec (.stookWatchdog q c st) s = .next (killStook n st 0x25 0 s.clk.tb s))

/-- SAMPLE with an aligned descriptor and aligned fields inside the stook's scratch, whose row translates, is queued at the core's
sampler, and its destination awaits the result. SAMPLE_SERVICE serves the head descriptor whole when its row can be read: the result
record goes to scratch, the result word to the destination, a committing sample to its column, and the sampler moves to the next.
ROW_TIMEOUT ends the head sample with status 4 when its row has not come within 100 µs. -/
def Obligations.SamplesComplete : Prop :=
  (∀ (v : Env) (w e : W64) (s : State) (rel sb len row res : Nat) (d : List Byte),
     issues 6 0x20 w e sampleForm false (fun _ => []) s v = true → v.f.sample = none → rel = rd32 v.f (bits v.w 41 33) 0 →
     d = (scrRead (v.noted s) v.n (v.stook.base + rel) 32).1 → sb = scoreBytes d → len = fld d 4 4 → row = fld d 8 4 →
     res = fld d 0x1C 4 → rel % 32 = 0 → rel + 32 ≤ v.stook.size → ¬ (sb ≠ 0 ∧ row % sb ≠ 0) → res % 16 = 0 →
     bit (fld d 0 4) 2 = false → row + len * sb ≤ v.stook.size → res + 16 ≤ v.stook.size →
     exec (.sample (v.n / 64) (v.n % 64) v.sl w e) s = .next (v.moved ((v.noted s).setCore v.n { ((v.noted s).core v.n).setSheaf v.sl { v.f with sample := some v.dst } with
          samples := ((v.noted s).core v.n).samples ++ [{ sheaf := v.sl, stook := v.f.stook, dst := v.dst, desc := d, pages := [], since := none }] }))) ∧
  (∀ (v : Env) (w e : W64) (s : State) (rel sb len row res : Nat) (d : List Byte),
     issues 6 0x20 w e sampleForm false (fun _ => []) s v = true → v.f.sample = none → rel = rd32 v.f (bits v.w 41 33) 0 →
     d = (scrRead (v.noted s) v.n (v.stook.base + rel) 32).1 → sb = scoreBytes d → len = fld d 4 4 → row = fld d 8 8 →
     res = fld d 0x1C 4 → rel % 32 = 0 → rel + 32 ≤ v.stook.size → ¬ (sb ≠ 0 ∧ row % sb ≠ 0) → res % 16 = 0 →
     bit (fld d 0 4) 2 = true → rangeFault (v.noted s) v.run.group .read (len * sb / 65536 + 2) row (len * sb) = none →
     res + 16 ≤ v.stook.size →
     exec (.sample (v.n / 64) (v.n % 64) v.sl w e) s = .next (v.moved ((v.noted s).setCore v.n { ((v.noted s).core v.n).setSheaf v.sl { v.f with sample := some v.dst } with
          samples := ((v.noted s).core v.n).samples ++ [{
            sheaf := v.sl, stook := v.f.stook, dst := v.dst, desc := d, since := none
            pages := (List.range ((row + len * sb - 1) / 65536 + 1 - row / 65536)).map (fun i =>
              (physOf (v.noted s) v.run.group ((row / 65536 + i) * 65536) .read).1) }] }))) ∧
  (∀ (q c n : Nat) (s : State) (j : SampleJob) (rest : List SampleJob) (t : Stook) (r : Run) (x : SampleEnd × State),
     n = 64 * q + c → wfCore q c = true → (s.core n).samples = j :: rest → tfind (s.core n).stooks j.stook = some t →
     runOf s t.launch = some r → sampleRun s n t.launch.toNat r t.base j = .ok x →
     exec (.sampleService q c) s = .next (smpDone n t.launch.toNat t.base j x.1 x.2)) ∧
  (∀ (q c n : Nat) (s : State) (j : SampleJob) (rest : List SampleJob) (t : Stook) (r : Run) (y : W64),
     n = 64 * q + c → wfCore q c = true → (s.core n).samples = j :: rest → tfind (s.core n).stooks j.stook = some t →
     runOf s t.launch = some r → smpGlobal j.desc = true → j.since = some y → 100000 ≤ (s.clk.tb - y).toNat →
     exec (.rowTimeout q c) s = .next (smpDone n t.launch.toNat t.base j (smpFail 4 (smpCounter s r n t.launch.toNat j.desc)) s))

/-- ROUNDING_KEY_FETCH of a core that lacks a key, or whose next key has not been fetched, notes a request; while the entropy source fails
its tests the request fails at once. KEY_DELIVERY, while the entropy source passes and the request is younger than 20 µs, draws a key: the
first rounding key serves at once and the core may enter service; a launch key starts a stream at counter zero. KEY_REQUEST_TIMEOUT takes
the core out of service, or fails the launch's command; ROUNDING_KEY_RETRY requests again 1 ms later. The keys' values are the free
outputs of the entropy source (log entry 2). -/
def Obligations.KeysComplete : Prop :=
  (∀ (q c n : Nat) (s : State),
     n = 64 * q + c → wfCore q c = true → coreFitted s n = true → (s.core n).seed.roundReq = none →
     (s.core n).seed.roundFail = none → (s.core n).seed.roundKey = none ∨ (s.core n).seed.nextKey = none →
     s.sec.entropyFailed = false →
     exec (.roundingKeyFetch q c) s = .next (modSeed n (fun x => { x with roundReq := some s.clk.tb }) s)) ∧
  (∀ (q c n : Nat) (s : State) (y : W64),
     n = 64 * q + c → wfCore q c = true → (s.core n).seed.roundReq = some y → s.sec.entropyOk = true →
     (s.clk.tb - y).toNat < 20000 →
     exec (.keyDelivery q c none) s = .next (enterService n (modSeed n (roundKeyIn (Config.entropy s.free)) { s with free := s.free + 1 }))) ∧
  (∀ (q c n l : Nat) (s : State) (y : W64),
     n = 64 * q + c → wfCore q c = true → tfind (s.core n).seed.launchReq l = some y → s.sec.entropyOk = true →
     (s.clk.tb - y).toNat < 20000 →
     exec (.keyDelivery q c (some l)) s = .next (modSeed n (fun x => { x with
        launch := tput x.launch l { key := Config.entropy s.free, ctr := 0 }
        launchReq := tdel x.launchReq l }) { s with free := s.free + 1 })) ∧
  (∀ (q c n : Nat) (s : State) (y : W64),
     n = 64 * q + c → wfCore q c = true → (s.core n).seed.roundReq = some y → 20000 ≤ (s.clk.tb - y).toNat →
     exec (.keyRequestTimeout q c none) s = .next (roundKeyFail n s)) ∧
  (∀ (q c n l : Nat) (s : State) (y : W64),
     n = 64 * q + c → wfCore q c = true → tfind (s.core n).seed.launchReq l = some y → 20000 ≤ (s.clk.tb - y).toNat →
     exec (.keyRequestTimeout q c (some l)) s = .next (launchKeyFail n l s)) ∧
  (∀ (q c n : Nat) (s : State) (y : W64),
     n = 64 * q + c → wfCore q c = true → (s.core n).seed.roundFail = some y → (s.core n).seed.roundReq = none →
     1000000 ≤ (s.clk.tb - y).toNat → s.sec.entropyFailed = false →
     exec (.roundingKeyRetry q c) s = .next (modSeed n (fun x => { x with roundReq := some s.clk.tb }) (modSeed n (fun x => { x with roundFail := some s.clk.tb }) s))) ∧
  (∀ (q c n : Nat) (s : State),
     n = 64 * q + c → wfCore q c = true → coreFitted s n = true → (s.core n).seed.roundReq = none →
     (s.core n).seed.roundFail = none → (s.core n).seed.roundKey = none ∨ (s.core n).seed.nextKey = none →
     s.sec.entropyFailed = true →
     exec (.roundingKeyFetch q c) s = .next (roundKeyFail n s))

/-- AISSUE whose descriptor passes every check and lies aligned in the stook's scratch joins the array's queue when it holds fewer than
eight commands and no earlier issue waits for it, else it waits in line with its sheaf. AWAIT of a record that no queued or running
command names takes its first word; else its destination awaits the record. AQUERY writes the depth of the queue, the mapped-out flag and
the number of rows. ARRAY_QUEUE_ROOM moves the oldest waiting command in, and its sheaf past it, or faults it when its TAG is held. -/
def Obligations.ArrayInstructionsComplete : Prop :=
  (∀ (v : Env) (w e : W64) (s : State) (c : Core) (off : Nat) (x : ArrCmd),
     issues 4 0x00 w e aissueForm false (fun _ => []) s v = true → pfsOut ((v.noted s).core v.n) v.sl = false →
     c = (v.noted s).core v.n → off = v.stook.base + rd32 v.f (bits v.w 41 33) 0 →
     descCode (v.noted s) v.n (scrRead (v.noted s) v.n off 64).1 = 0 → off + 64 ≤ padSize c →
     scrFault v.stook (rd32 v.f (bits v.w 41 33) 0) 64 64 = none →
     x = { desc := descOf (scrRead (v.noted s) v.n off 64).1, stook := v.f.stook, sheaf := v.sl, launch := v.stook.launch, tainted := false } →
     c.arr.queue.length < 8 ∧ c.arr.waiting = [] →
     exec (.aissue (v.n / 64) (v.n % 64) v.sl w e) s = .next (v.moved ((v.noted s).setCore v.n { c with arr := { c.arr with queue := c.arr.queue ++ [x] } }))) ∧
  (∀ (v : Env) (w e : W64) (s : State) (c : Core) (off : Nat) (x : ArrCmd),
     issues 4 0x00 w e aissueForm false (fun _ => []) s v = true → pfsOut ((v.noted s).core v.n) v.sl = false →
     c = (v.noted s).core v.n → off = v.stook.base + rd32 v.f (bits v.w 41 33) 0 →
     descCode (v.noted s) v.n (scrRead (v.noted s) v.n off 64).1 = 0 → off + 64 ≤ padSize c →
     scrFault v.stook (rd32 v.f (bits v.w 41 33) 0) 64 64 = none →
     x = { desc := descOf (scrRead (v.noted s) v.n off 64).1, stook := v.f.stook, sheaf := v.sl, launch := v.stook.launch, tainted := false } →
     ¬ (c.arr.queue.length < 8 ∧ c.arr.waiting = []) →
     exec (.aissue (v.n / 64) (v.n % 64) v.sl w e) s = .next (advance v.n v.sl v.f.pc (((v.noted s).setCore v.n { c with arr := { c.arr with waiting := c.arr.waiting ++ [x] } }).setSheaf v.n v.sl
        { v.f with arrWait := true }))) ∧
  (∀ (v : Env) (w e : W64) (s : State) (off : Nat),
     issues 4 0x01 w e awaitForm false (fun _ => []) s v = true → off = v.stook.base + rd32 v.f (bits v.w 41 33) 0 →
     scrFault v.stook (rd32 v.f (bits v.w 41 33) 0) 32 32 = none → namesRecord ((v.noted s).core v.n).arr off = true →
     exec (.await (v.n / 64) (v.n % 64) v.sl w e) s = .next (v.moved (v.put { v.f with awaits := v.f.awaits ++ [(v.dst, off)] } (v.noted s)))) ∧
  (∀ (v : Env) (w e : W64) (s : State) (off : Nat),
     issues 4 0x01 w e awaitForm false (fun _ => []) s v = true → off = v.stook.base + rd32 v.f (bits v.w 41 33) 0 →
     scrFault v.stook (rd32 v.f (bits v.w 41 33) 0) 32 32 = none → namesRecord ((v.noted s).core v.n).arr off = false →
     (tilRead (v.noted s) v.n off 4).2 = false →
     exec (.await (v.n / 64) (v.n % 64) v.sl w e) s = .next (v.wrote v.dst 1 [(0, leNat (tilRead (v.noted s) v.n off 4).1)] s)) ∧
  (∀ (v : Env) (w e : W64) (s : State) (a : Array2),
     issues 4 0x02 w e aqueryForm false (fun _ => []) s v = true → a = ((v.noted s).core v.n).arr →
     exec (.aquery (v.n / 64) (v.n % 64) v.sl w e) s = .next (v.wrote v.dst 1
        [(0, a.queue.length + (if a.rowMap = [] then 0 else 16) + 65536 * (512 - a.rowMap.length))] s)) ∧
  (∀ (q c n : Nat) (s t : State) (x : ArrCmd) (rest : List ArrCmd),
     n = 64 * q + c → wfCore q c = true → (s.core n).arr.waiting = x :: rest → (s.core n).arr.queue.length < 8 →
     tagClash (s.core n).arr x.desc = false →
     t = s.setCore n { s.core n with arr := { (s.core n).arr with queue := (s.core n).arr.queue ++ [x], waiting := rest } } →
     exec (.arrayQueueRoom q c) s = .next (advance n x.sheaf ((t.sheaf n x.sheaf).pc + 8) (t.setSheaf n x.sheaf { t.sheaf n x.sheaf with arrWait := false }))) ∧
  (∀ (q c n : Nat) (s : State) (x : ArrCmd) (rest : List ArrCmd),
     n = 64 * q + c → wfCore q c = true → (s.core n).arr.waiting = x :: rest → (s.core n).arr.queue.length < 8 →
     tagClash (s.core n).arr x.desc = true →
     exec (.arrayQueueRoom q c) s = .next (refuseWaiting n x (s.setCore n { s.core n with arr := { (s.core n).arr with waiting := rest } })))

/-- ARRAY_COMMAND_START takes the command at the head of the queue into the idle array: pending accumulators continue in it or are
dropped, and its output area is undefined until it is done. ARRAY_TILE_END converts a tile's accumulators into output bytes, or leaves
them in the bank with DRAIN 0. ARRAY_COMMAND_DONE, after the last tile and the forwards that the command owes, makes the outputs and the
status record visible and delivers the record to the AWAITs; a command whose accumulators are lost reports 0x20. -/
def Obligations.ArrayCommandsRun : Prop :=
  (∀ (q c n : Nat) (s : State) (x : ArrCmd) (rest : List ArrCmd) (r : ArrRun) (t : State),
     n = 64 * q + c → wfCore q c = true → (s.core n).arr.queue = x :: rest → (s.core n).arr.run = none →
     (s.core n).arr.testing = false → r = startRun s n x →
     t = s.setCore n { s.core n with arr := { (s.core n).arr with queue := rest, run := some r, pend := none, prevMode := none } } →
     exec (.arrayCommandStart q c) s = .next (ringTake n 9 (if r.lost then t else undefArea n x.desc t))) ∧
  (∀ (q c n : Nat) (s : State) (x : ArrRun) (dr : Drained),
     n = 64 * q + c → wfCore q c = true → (s.core n).arr.run = some x → x.lost = false →
     x.tile < tilesOf x.cmd.desc (runMode (s.core n).arr x.cmd.desc) →
     (!x.cmd.desc.aring || decide (panelsPerTile x.cmd.desc ≤ x.panels.length)) = true →
     (x.cmd.desc.round != 2 || (s.core n).seed.roundKey.isSome) = true → x.cmd.desc.drain = true →
     dr = ((tileAccs s n x).zip (List.range (tileAccs s n x).length)).foldl (fun y p => drainRow s.free x.cmd.desc
       ((tileAt x.cmd.desc (runMode (s.core n).arr x.cmd.desc) x.tile).1 + p.2)
       (tileAt x.cmd.desc (runMode (s.core n).arr x.cmd.desc) x.tile).2 p.1 y)
       { seed := (s.core n).seed, outs := x.outs, maps := x.maps, psn := x.psnOuts, rows := x.prows, cols := x.cols } →
     (x.cmd.desc.round = 2 → dr.seed.roundBits ≤ roundLimit dr.seed) →
     exec (.arrayTileEnd q c) s = .next (ringTake n 9 { s.setCore n { s.core n with
          arr := { (s.core n).arr with run := some { x with
            tile := x.tile + 1
            panels := []
            outs := dr.outs
            maps := dr.maps
            psnOuts := dr.psn
            prows := dr.rows
            cols := dr.cols
            ringSince := if x.cmd.desc.aring && decide (x.tile + 1 < tilesOf x.cmd.desc (runMode (s.core n).arr x.cmd.desc)) then some s.clk.tb else none } }
          seed := dr.seed } with free := s.free + 1 })) ∧
  (∀ (q c n : Nat) (s : State) (x : ArrRun),
     n = 64 * q + c → wfCore q c = true → (s.core n).arr.run = some x → x.lost = false →
     x.tile < tilesOf x.cmd.desc (runMode (s.core n).arr x.cmd.desc) →
     (!x.cmd.desc.aring || decide (panelsPerTile x.cmd.desc ≤ x.panels.length)) = true →
     (x.cmd.desc.round != 2 || (s.core n).seed.roundKey.isSome) = true → x.cmd.desc.drain = false →
     exec (.arrayTileEnd q c) s = .next (ringTake n 9 { s.setCore n { s.core n with
          arr := { (s.core n).arr with run := some { x with
            tile := x.tile + 1
            panels := []
            bank := keepTile x.cmd.desc (runMode (s.core n).arr x.cmd.desc) x.tile x.bank (tileAccs s n x)
            ringSince := if x.cmd.desc.aring && decide (x.tile + 1 < tilesOf x.cmd.desc (runMode (s.core n).arr x.cmd.desc)) then some s.clk.tb else none } } } with free := s.free + 1 })) ∧
  (∀ (q c n : Nat) (s : State) (x : ArrRun) (t u : State) (p : Nat × Nat × W128) (code : Nat),
     n = 64 * q + c → wfCore q c = true → (s.core n).arr.run = some x → x.lost = false →
     (decide (tilesOf x.cmd.desc (runMode (s.core n).arr x.cmd.desc) ≤ x.tile) &&
       !(s.core n).arr.ring.any (fun r => r.tag == x.cmd.desc.tag && owesForward r)) = true →
     t = s.setCore n { s.core n with arr := { (s.core n).arr with
       run := none
       pend := if x.cmd.desc.drain then none else some { cmd := x.cmd, bank := x.bank }
       prevMode := if (s.core n).arr.queue.isEmpty then none else some (runMode (s.core n).arr x.cmd.desc) } } →
     p = (if x.cmd.tainted then poisonFields s.free x else (x.prows.length, x.prows.headD 0xFFFF_FFFF, x.cols)) →
     code = (if x.cmd.tainted then doneCode s.free x else if x.prows.isEmpty then 0 else 1) →
     u = tilWrite n x.cmd.desc.statusAddr (statusRec code x.mapped false p.1 p.2.1
       (stepsOf x.cmd.desc (runMode (s.core n).arr x.cmd.desc) x.fill (512 - (s.core n).arr.rowMap.length)) p.2.2) false
       (applyOuts n x { t with free := t.free + 1 }) →
     exec (.arrayCommandDone q c) s = .next (deliverAwaits n x.cmd.desc.statusAddr
          (if x.cmd.desc.mode = 0 then markColumns n x.cmd.launch.toNat p.2.2 u else u))) ∧
  (∀ (q c n : Nat) (s : State) (x : ArrRun),
     n = 64 * q + c → wfCore q c = true → (s.core n).arr.run = some x → x.lost = true →
     exec (.arrayCommandDone q c) s = .next (deliverAwaits n x.cmd.desc.statusAddr (endEarly n x.cmd.desc 0x20 x.mapped false (some 10) none
          (s.setCore n { s.core n with arr := { (s.core n).arr with
            run := none
            pend := none
            prevMode := none
            ring := (s.core n).arr.ring.filter (fun r => r.tag != x.cmd.desc.tag || !x.cmd.desc.aring) } }))))

/-- RING_SLOT_FORWARD offers a slot that owes a forward to the successor's inbound port, which takes it when it is empty.
RING_PANEL_ACCEPT moves the inbound panel into a free slot of the command with its TAG and releases the sender's slot. RING_TIMEOUT ends a
command that has waited 100 µs. ARRAY_FAULT alarms and resets the core. SELF_TEST_START begins when the interval has passed and the array
is idle; SELF_TEST_RESULT passes the core, maps out at most eight rows, or fences it, and the core takes the role of its new state. -/
def Obligations.RingAndSelfTest : Prop :=
  (∀ (q c i n : Nat) (s t : State) (r : RingSlot),
     n = 64 * q + c → wfCore q c = true → (s.core n).arr.ring[i]? = some r → owesForward r = true →
     (r.fwdSince.isNone || !inTransit s n r) = true →
     t = s.setCore n { s.core n with arr := { (s.core n).arr with ring := lmod (s.core n).arr.ring i (fun y =>
       { y with fwdSince := match y.fwdSince with | some t => some t | none => some s.clk.tb }) } } →
     exec (.ringSlotForward q c i) s = .next (match successor s n r.dir with
        | some m => if (t.core m).arr.inbound.isNone then t.setCore m { t.core m with arr := { (t.core m).arr with
            inbound := some { slotPanel s n r with visits := r.visits - 1 } } } else t
        | none => t)) ∧
  (∀ (q c n : Nat) (s : State) (p : Panel) (x : ArrCmd) (i : Nat),
     n = 64 * q + c → wfCore q c = true → (s.core n).arr.inbound = some p →
     (ringCmds (s.core n).arr).find? (fun x => x.desc.tag == p.tag) = some x → freeRing (s.core n).arr x.desc = some i →
     exec (.ringPanelAccept q c) s = .next (ringTake n 9 (releaseSender p (writePanel n x.desc i p (s.setCore n { s.core n with arr := {
          (s.core n).arr with
            inbound := none
            ring := (s.core n).arr.ring ++ [claimSlot x.desc i p.visits p.panel p.poison true] } }))))) ∧
  (∀ (q c n : Nat) (out : Bool) (s : State) (x : ArrRun),
     n = 64 * q + c → wfCore q c = true → (s.core n).arr.run = some x → x.cmd.desc.aring = true → x.lost = false →
     (if out then (s.core n).arr.ring.any (fun r => r.tag == x.cmd.desc.tag && owesForward r && heldFor s r.fwdSince 100000)
       else heldFor s x.ringSince 100000) = true →
     exec (.ringTimeout q c out) s = .next (deliverAwaits n x.cmd.desc.statusAddr (endEarly n x.cmd.desc 0x10 (!(s.core n).arr.rowMap.isEmpty) out none (some x) (s.setCore n { s.core n with
          arr := { (s.core n).arr with
            run := none
            prevMode := none
            ring := (s.core n).arr.ring.filter (fun r => r.tag != x.cmd.desc.tag)
            inbound := (s.core n).arr.inbound.filter (fun p => p.tag != x.cmd.desc.tag) }
          pfr := (s.core n).pfr.filter (fun b => b.tag != x.cmd.desc.tag) })))) ∧
  (∀ (q c furrow n : Nat) (s : State),
     n = 64 * q + c → wfCore q c = true → furrow < 4 → coreFitted s n = true → (s.core n).arr.run ≠ none →
     exec (.arrayFault q c furrow) s = .next (coreReset n (alarmW 0x0801 (srcCore n) [furrow] s))) ∧
  (∀ (q c n : Nat) (s : State),
     n = 64 * q + c → wfCore q c = true → (s.core n).inService = true → (s.core n).arr.testing = false →
     (s.core n).arr.queue = [] → (s.core n).arr.run = none →
     s.pel.testInterval * 1000000000 ≤ (s.clk.tb - (s.core n).arr.lastTest).toNat →
     exec (.selfTestStart q c) s = .next (syncRoles [n] (s.setCore n { s.core n with arr := { (s.core n).arr with
          testing := true
          pend := none
          prevMode := none } }))) ∧
  (∀ (q c n : Nat) (rows : List Nat) (s : State),
     n = 64 * q + c → wfCore q c = true → coreFitted s n = true → (s.core n).arr.testing = true →
     (failRows rows).filter (fun r => !((s.core n).inService && (s.core n).arr.rowMap.contains r)) = [] →
     exec (.selfTestResult q c rows false) s = .next (syncRoles [n] (passTest n (if (s.core n).inService then (s.core n).arr.rowMap else []) true s))) ∧
  (∀ (q c n : Nat) (rows : List Nat) (s t : State),
     n = 64 * q + c → wfCore q c = true → coreFitted s n = true → (s.core n).arr.testing = true → failRows rows ≠ [] →
     (failRows rows).length ≤ 8 → (s.core n).inService = false →
     t = s.setCore n { s.core n with arr := { (s.core n).arr with lastTest := s.clk.tb } } →
     exec (.selfTestResult q c rows false) s = .next (syncRoles [n] (passTest n (failRows rows) false (alarmW 0x0306 (srcCore n) [(failRows rows).length] t)))) ∧
  (∀ (q c n : Nat) (rows : List Nat) (s t : State),
     n = 64 * q + c → wfCore q c = true → coreFitted s n = true → (s.core n).arr.testing = true →
     (failRows rows).filter (fun r => !((s.core n).arr.rowMap.contains r)) ≠ [] → (failRows rows).length ≤ 8 →
     (s.core n).inService = true → t = s.setCore n { s.core n with arr := { (s.core n).arr with lastTest := s.clk.tb } } →
     exec (.selfTestResult q c rows false) s = .next (syncRoles [n] (coreReset n (alarmW 0x0802 (srcCore n) [(s.core n).arr.lastPass.toNat, s.clk.tb.toNat] t)))) ∧
  (∀ (q c n : Nat) (rows : List Nat) (other : Bool) (s t : State),
     n = 64 * q + c → wfCore q c = true → coreFitted s n = true → (s.core n).arr.testing = true →
     other = true ∨ (8 < (failRows rows).length ∧ (failRows rows).filter (fun r => !((s.core n).inService && (s.core n).arr.rowMap.contains r)) ≠ []) →
     t = s.setCore n { s.core n with arr := { (s.core n).arr with lastTest := s.clk.tb } } →
     exec (.selfTestResult q c rows other) s = .next (syncRoles [n] (fenceCore n (if (s.core n).inService
          then alarmW 0x0802 (srcCore n) [(s.core n).arr.lastPass.toNat, s.clk.tb.toNat] t
          else alarmW 0x0306 (srcCore n) [(failRows rows).length] t))))

/-- FILL_RETURN installs a fill whose sectors have all come if a way of its set is eligible; else one more wait is counted, a carve walk
in progress serves that set, and the fill waits if that opens no way; FILL_RESUME installs a waiting fill. GRANARY_READ and GRANARY_STORE
serve a request of the half: a staged store goes to its stage, a plot store to the plot, another to the line. REDUCTION_ADMIT resolves a
conflict and admits an atomic to its bank; REDUCTION_COMPLETE performs it and lowers the count of its line. MERGE_ENTRY_EXPIRE takes an
entry from the merge buffer. -/
def Obligations.GranaryTrafficRuns : Prop :=
  (∀ (h i : Nat) (s : State) (f : Fill) (s1 : State) (hf : _),
     (s.half h).fills[i]? = some f → s1 = (if fillFits s h f then s else bump (grnBlk h + 0x158) 1 s) → hf = s1.half h →
     halfServes s h = true → f.install = true → f.want.isEmpty = true → f.waiting = false →
     exec (.fillReturn h i) s = .next ((finishFill h i f s1).getD (s1.setHalf h { hf with fills := lmod hf.fills i (fun x => { x with waiting := true }) }))) ∧
  (∀ (h i : Nat) (s : State) (f : Fill),
     (s.half h).fills[i]? = some f → halfServes s h = true → f.want.isEmpty = true → f.waiting = true →
     exec (.fillResume h i) s = .next ((finishFill h i f s).getD s)) ∧
  (∀ (h i : Nat) (e0 e1 : BitVec 354) (s : State) (r : GReq),
     (s.half h).reqs[i]? = some r → halfServes s h = true → r.op = .read → orderHeld s r = false →
     oneCopy (bits e0.toNat 281 276) = true → oneCopy (bits e1.toNat 281 276) = true →
     exec (.granaryRead h i e0 e1) s = .next
        (let s1 := readMeets h r e0.toNat e1.toNat s
         if readLost s h r e0.toNat e1.toNat then s1
         else match r.req with
           | .pin _ => pinRead h i r s1
           | _ => readAt h i r (bits e0.toNat 275 0) (bits e1.toNat 275 0) s1)) ∧
  (∀ (h i : Nat) (s : State) (r : GReq) (m : Mem) (psn : Bool),
     (s.half h).reqs[i]? = some r → r.op = .write m psn → halfServes s h = true → orderHeld s r = false →
     exec (.granaryStore h i) s = .next
        (match r.stage, place s r.pa with
         | some st, _ => storeStaged h i st r m psn s
         | none, .plot _ off => storePlot h i off r m psn s
         | none, _ => storeLine h i r m psn s)) ∧
  (∀ (h i : Nat) (s : State) (r : GReq) (op : Nat) (y1 : Nat) (y2 : Nat) (lanes : List (Nat × W64 × W64)),
     (s.half h).reqs[i]? = some r → r.op = .atomic op y1 y2 lanes → halfServes s h = true → (s.quarter (h / 2)).st = 0 →
     orderHeld s r = false →
     exec (.reductionAdmit h i) s = .next
        (match resolveConflict r.stage r.pa s with
         | none => s
         | some s0 =>
           match (match r.stage with | some st => spillRoom st r.pa s0 | none => some s0) with
           | none => s0
           | some s1 => if ((s1.half h).reqs[i]?) = some r then admitAt h i r op lanes.length s1 else s1)) ∧
  (∀ (h i : Nat) (s : State) (x : Red) (hf : _),
     (s.half h).reds[i]? = some x → hf = s.half h → halfServes s h = true →
     exec (.reductionComplete h i) s = .next (completeRed h x (s.setHalf h { hf with reds := hf.reds.eraseIdx i }))) ∧
  (∀ (h i : Nat) (s : State) (hf : _),
     hf = s.half h → h < 8 → i < hf.merge.length →
     exec (.mergeEntryExpire h i) s = .next (s.setHalf h { hf with merge := hf.merge.eraseIdx i }))

/-- CARVE_WALK_SET changes the next set, and after the last one ends the walk and completes its command. PIN_ENGINE_REQUEST takes the
request at the head of a half's pin engine once the pin before is marked and no carve is in progress: a pin that leaves some set above
LIMIT fails, else it is accepted; an unpin releases its lines. PIN_COMPLETE completes the command once every line is resident and marked.
THRASH_WINDOW_END compares the window's accesses and hits; THRASH_EVENT releases the eligible pin of lowest priority, or logs.
TILTH_SPLIT_CHANGE resizes a drained core's cache and clears its scratchpad. -/
def Obligations.CarvesPinsAndSplits : Prop :=
  (∀ (h : Nat) (s : State) (c : Carve) (s1 : _) (hf : _),
     (s.half h).carve = some c → s1 = carveSet h c.set s → hf = s1.half h → halfServes s h = true →
     exec (.carveWalkSet h) s = .next
        (if c.set + 1 < setCount then s1.setHalf h { hf with carve := some { c with set := c.set + 1 } }
         else endCmd c.qu c.seq 0 0 (s1.setHalf h { hf with carve := none }))) ∧
  (∀ (h : Nat) (s : State) (hf : _) (x : PinReq) (t : List PinReq) (s1 : _),
     hf = s.half h → hf.pinq = x :: t → s1 = s.setHalf h { hf with pinq := t } → halfServes s h = true →
     hf.carve.isNone = true → pinBusy s h = false →
     exec (.pinEngineRequest h) s = .next
        (if x.kind = 0 ∨ x.kind = 4 then (match tfind s1.pel.pins x.pin with | none => s1 | some p => pinServe h x p s1)
         else unpinRange h x.pin x.base x.size s1)) ∧
  (∀ (pin : Nat) (s : State) (p : Pin) (qu : Nat) (seq : Nat),
     tfind s.pel.pins pin = some p → p.cmd = some (qu, seq) →
     (rangeHalves s p.base p.size).all (fun h => p.accepted.contains h && pinMarked s h p) = true →
     exec (.pinComplete pin) s = .next (endCmd qu seq 0 0 { s with pel := { s.pel with pins := tput s.pel.pins pin { p with cmd := none } } })) ∧
  (∀ (h : Nat) (s : State) (hf : _) (acc : _) (hit : _) (a : _) (k : _) (q : _) (h1 : _) (s1 : _),
     hf = s.half h → acc = counter s (grnBlk h + 0x100) → hit = counter s (grnBlk h + 0x108) →
     a = (acc - hf.winAcc).toNat → k = (hit - hf.winHit).toNat →
     q = (decide (2 ^ bits hf.thrashCfg.toNat 28 24 ≤ a) && decide (k * 256 < bits hf.thrashCfg.toNat 7 0 * a)) →
     h1 = { hf with thrash := q, winAcc := acc, winHit := hit, winAt := now s, evA := if q then BitVec.ofNat 64 a else hf.evA, evH := if q then BitVec.ofNat 64 k else hf.evH, event := hf.event || (q && hf.ignore == 0), ignore := hf.ignore - 1 } →
     s1 = s.setHalf h h1 → halfServes s h = true → s.fuse.loaded = true → aged s hf.winAt (thrashWindow hf * us) = true →
     exec (.thrashWindowEnd h) s = .next (if q then signal (srcHalf h) 0 1 (bump (grnBlk h + 0x178) 1 s1) else s1)) ∧
  (∀ (h : Nat) (s : State) (hf : _) (s1 : _),
     hf = s.half h → s1 = s.setHalf h { hf with event := false } → h < 8 → hf.event = true →
     exec (.thrashEvent h) s = .next
        (match pickPin ((pinsOf s h).filter (fun e => e.2.cmd.isNone && decide (e.2.priority < 7))) with
         | some (n, p) =>
           let s2 := releasePin n 2 (s1.setHalf h { s1.half h with ignore := 4 })
           alarmW 0x0701 (srcHalf h) [n, p.priority, h] s2
         | none => logRec 2 (srcHalf h) 0x8900 (bvLE 8 hf.evA ++ bvLE 8 hf.evH) s1)) ∧
  (∀ (q c units : Nat) (s : State) (n : _) (k : _),
     n = 64 * q + c → k = s.core n → wfCore q c = true → coreFitted s n = true → drained k = true → 1 ≤ units →
     units ≤ 31 →
     exec (.tilthSplitChange q c units) s = .next (clearScratch n 0 0x1F_0000 (s.setCore n { k with cunits := units, tcache := [], trr := [] })))

/-- FLIT_RECEIVE: the transmitter takes what is offered, a group sends the flit that its order of classes gives, and the receiver discards
a flit whose CRC fails, or takes the next sequence number. REPLAY_REQUEST asks for a replay from the failed flit; LINK_ACK releases the
flits that an acknowledgment names. MARGIN_MEASURE stores the margins and switches lanes to spares. GROUP_STOP stops a drained retiring
group, whose pairs move; LINK_ABANDON abandons what a lost link held; LINK_TRAINING brings links up, from their maps or fresh;
ROUTE_CHANGE takes the first open path, and what waited for it goes on. VBUS_UNCORRECTABLE poisons the beat and fences the unit behind the
bus; VBUS_CE_RATE alarms above 1,000 corrections a second. -/
def Obligations.LinksMoveAndRepair : Prop :=
  (∀ (l dir g : Nat) (offers : List Offer) (wire : BitVec 528) (s : State) (s1 : _) (r : _) (e : _),
     s1 = offers.foldl (takeOffer l dir) s → r = transmit ((s1.link l).group dir g) → e = laneErr wire.toNat →
     groupMoves s l dir g = true →
     exec (.flitReceive l dir g offers wire) s = .next (receiveFlit l dir g r.1 (flitData r.1 ^^^ BitVec.ofNat 512 e) (flitCtl r.1 ^^^ BitVec.ofNat 16 (e / 2 ^ 512)) (modGroup l dir g (fun _ => r.2) s1))) ∧
  (∀ (l dir g seq : Nat) (s : State) (x : _),
     x = (s.link l).group dir g → groupMoves s l dir g = true → x.discarding = true → seq = x.rxNext →
     exec (.replayRequest l dir g seq) s = .next
        (bump (lnkBlk l + 0x110 + 8 * dir) 1
          (modGroup l dir g (fun y => { y with discarding := false, replayAt := if seq < y.txNext then some seq else none }) s))) ∧
  (∀ (l dir g seq : Nat) (s : State) (x : _),
     x = (s.link l).group dir g → groupMoves s l dir g = true → x.ackIn = some seq →
     exec (.linkAck l dir g seq) s = .next (modGroup l dir g (fun y => { y with unacked := y.unacked.filter (fun e => decide (seq < e.1)), ackIn := none }) s)) ∧
  (∀ (l dir g : Nat) (margins : List Nat) (s : State) (count : Group → Nat → Nat) (s1 : _),
     count = (fun (y : Group) (i : Nat) => if margins.getD i 64 < 12 then tget 0 y.low i + 1 else 0) →
     s1 = modGroup l dir g (fun y => { y with margin := (List.range 36).foldl (fun t i => tset 64 t i (margins.getD i 64)) y.margin, low := (List.range 36).foldl (fun t i => tset 0 t i (count y i)) y.low }) s →
     groupMoves s l dir g = true → (s.link l).st = 1 →
     exec (.marginMeasure l dir g margins) s = .next (crcSpare l dir g ([34, 35, 32, 33].foldl (laneAct l dir g) s1 |> fun a => (List.range 32).foldl (laneAct l dir g) a))) ∧
  (∀ (l dir g : Nat) (s : State) (x : _) (r : _) (s1 : _),
     x = (s.link l).group dir g →
     r = takeSmall l dir (modGroup l dir g (fun y => { y with st := 2, discarding := false, replayAt := none }) s) →
     s1 = r.1.foldl (placeSmall l dir) r.2 → groupMoves s l dir g = true → x.st = 1 → x.unacked.isEmpty = true →
     x.queue.isEmpty = true →
     exec (.groupStop l dir g) s = .next (if activeGroups (s1.link l) dir < 8 then linkDown l dir g s1 else s1)) ∧
  (∀ (l : Nat) (s : State) (k : _) (late : _),
     k = s.link l → late = (k.st == 2 && heldFor s k.downSince (10 * us)) → l < 8 → k.abandoned = false →
     (late || ((k.st == 1 || k.st == 2) && allGone k)) = true →
     exec (.linkAbandon l) s = .next (abandonLink l (if k.st = 1 then linkDown l 0 0 s else s))) ∧
  (∀ (l : Nat) (fwd rev : BitVec 16) (s : State) (fresh : _),
     fresh = (s.boot.step == 5) → l < 9 → (s.link l).st = 0 →
     (fresh || retrainsNow s l || (l == 8 && s.guest.retrain.isSome && !s.guest.unpowered)) = true →
     (l != 8 || is4G s) = true →
     exec (.linkTraining l fwd rev) s = .next (if l = 8 then guestTrained (fwd.toNat % 16) s else linkUp l (trainDir l 1 fresh rev (trainDir l 0 fresh fwd s)))) ∧
  (∀ (a b : Nat) (s : State) (r : _) (old : _) (bad : _) (w : _) (s1 : _) (s2 : _),
     r = bestRoute s a b → old = tget 0 s.routes (5 * a + b) →
     bad = ((routeLinks s a b).find? (fun l => (s.link l).st != 1)).getD ((routeLinks s a b).headD 0) →
     w = (s.link bad).why → s1 = { s with routes := tset 0 (tset 0 s.routes (5 * a + b) r) (5 * b + a) r } →
     s2 = releasePair a b (linkAlarm 0x0404 bad w.1 w.2.1 w.2.2 (laneMargin ((s.link bad).group w.1 w.2.1) w.2.2) s1) →
     a < 5 → b < 5 → a ≠ b → r ≠ old → routable s a = true → routable s b = true → pathClear s a b = true →
     exec (.routeChange a b) s = .next (if r = 3 ∧ (a = 4 ∨ b = 4) then quarterFault (min a b) true s2 else s2)) ∧
  (∀ (q bus : Nat) (at_ : Nat × Option (Nat × Nat)) (s : State) (i : _) (s0 : _) (s1 : _),
     i = at_.1 → s0 = (match at_.2 with | some b => if beatOn s q bus i b then beatPoisoned b.1 b.2 s else s | none => s) →
     s1 = alarmW 0x0405 (vbusSrc q bus i) [bus, i, (now s).toNat] s0 → wfVbus q bus i = true →
     (bus != 0 || coreFitted s (64 * q + i)) = true → (bus != 1 || decide (i % 16 < waysFitted s)) = true →
     exec (.vbusUncorrectable q bus at_) s = .next
        (match bus with
         | 0 => coreReset (64 * q + i) s1
         | 1 => fenceWay (2 * q + i / 16) (i % 16) s1
         | 2 => quarterFault q false s1
         | _ => quarterFault q false s1)) ∧
  (∀ (q bus i n : Nat) (s : State) (key : _) (l : _) (total : Nat) (s1 : _) (s2 : _),
     key = 1000 * q + 100 * bus + i →
     l = (tget [] s.vbus key).filter (fun e => decide (since s e.1 < sec1)) ++ [(now s, n)] →
     total = l.foldl (fun a e => a + e.2) 0 → s1 = bump (ctlBlk + 0x40) n { s with vbus := tset [] s.vbus key l } →
     s2 = busRec (vbusSrc q bus i) n (256 * bus + i) s1 → wfVbus q bus i = true →
     exec (.vbusCeRate q bus i n) s = .next (if 1000 < total then alarmW 0x0406 (vbusSrc q bus i) [bus, i, total] s2 else s2))

/-- CONTROL_MESSAGE brings a 64-byte message to the unit that its DEST names and lets the head of the inbox act, unless its sender has as
many outstanding as it may. BOUNCE takes the oldest entry of a return queue, which a hardware sender reports. ROLE_SET sends role and the
next epoch. INBOX_WAIT_TIMEOUT returns a message after 1 ms. MULTICAST takes a free retry slot and sends copies, MCAST_RETRY sends one
again, MCAST_BLOCK_TIMEOUT marks the targets whose copy has not entered an inbox. -/
def Obligations.ControlNetworkRuns : Prop :=
  (∀ (dest : Nat) (msg : List Byte) (s : State) (x : _),
     x = stamped msg s → (msg.isEmpty || (mayReach msg s && msgDest msg == dest && !msgMcast msg)) = true →
     exec (.controlMessage dest msg) s = .next (takeHead dest (if msg.isEmpty then s else arrive dest x.1 x.2))) ∧
  (∀ (sender : Nat) (s t : State) (b : List Byte) (rest : List (List Byte)),
     (s.ep sender).ret = b :: rest → t = s.setEp sender { s.ep sender with ret := rest } →
     exec (.bounce sender) s = .next
         (if sender = 0 ∨ (0x10 ≤ sender ∧ sender < 0x20) then t
          else logRec 2 sender 0x8400 (b.take 32 ++ b.drop 64) t)) ∧
  (∀ (sender dest : Nat) (role : BitVec 8) (s : State) (ep : _) (s1 : _),
     ep = nextEpoch s.ctl.epochCtr → s1 = (if sender = 0 then { s with ctl := { s.ctl with epochCtr := ep } } else s) →
     (s.ep sender).out < outLimit sender →
     exec (.roleSet sender dest role) s = .next (takeHead dest (arrive dest (roleSetMsg sender dest role ep) s1))) ∧
  (∀ (i : Nat) (s : State) (x : Nat × CtlMsg × W64),
     s.ctl.net[i]? = some x → aged s x.2.2 ms = true →
     exec (.inboxWaitTimeout i) s = .next (bounceTo x.1 6 x.2.1 { s with ctl := { s.ctl with net := s.ctl.net.erase x } })) ∧
  (∀ (q : Nat) (msg : List Byte) (s : State) (sl : Nat) (y : _) (x : Mcast) (e : _) (s1 : _) (s2 : _),
     freeSlot s q = some sl → y = stamped msg s →
     x = { msg := y.1, src := msgSrc msg, tag := BitVec.ofNat 32 (msgTag msg), targets := BitVec.ofNat 64 (msgTargets msg), entered := 0, delivered := 0, blocked := 0, bounced := 0, since := now s } →
     e = s.ep (msgSrc msg) → s1 = y.2.setEp (msgSrc msg) { e with out := e.out + 1 } →
     s2 = { s1 with ctl := { s1.ctl with mcast := tput s1.ctl.mcast (8 * q + sl) x } } → q < 4 → mayReach msg s = true →
     msgMcast msg = true → msgDest msg % 4 = q → pairWaits s (asmOf (msgSrc msg)) q = false → (s.quarter q).st ≠ 1 →
     exec (.multicast q msg) s = .next (mcastCheck q sl ((List.range 64).foldl (fun a c => mcastSend q sl c a) s2))) ∧
  (∀ (q slot c : Nat) (s : State),
     q < 4 → slot < 8 → c < 64 →
     exec (.mcastRetry q slot c) s = .next (mcastSend q slot c s)) ∧
  (∀ (q slot : Nat) (s : State) (x : Mcast),
     tfind s.ctl.mcast (8 * q + slot) = some x → q < 4 → slot < 8 → aged s x.since ms = true →
     exec (.mcastBlockTimeout q slot) s = .next (mcastMod q slot (fun y => { y with blocked := y.targets &&& ~~~y.entered }) s))

/-- GUEST_VERSION_EXCHANGE settles the lower version. GUEST_FLIT takes the flit with the next SEQ and discards others; an idle flit
acknowledges it when nothing else does; GUEST_REPLAY_TIMER resends, and GUEST_CRC_RETRAIN takes the port to training. GUEST_REQUEST checks
a request against the rules and sends it to the granaries or answers ERROR; GUEST_RESPONSE answers the module's request, and
GUEST_RESPONSE_TIMEOUT ends one after 100 µs. GUEST_OVERCURRENT closes LG and removes the supply. -/
def Obligations.GuestPortRuns : Prop :=
  (∀ (v : Nat) (s : State),
     guestUp s = true → 1 ≤ v →
     exec (.guestVersionExchange v) s = .next ({ s with guest := { s.guest with version := min v 2 } })) ∧
  (∀ (flit : List Byte) (s : State) (g : _) (ok : _) (seq : _) (idle : _) (count : Tab (List W64) → Nat → Tab (List W64)),
     g = s.guest → ok = decide (crc32c (flit.take 252) = fld flit 252 4) → seq = BitVec.ofNat 32 (fld flit 0xF0 4) →
     idle = (fld flit 0 1 == 0) →
     count = (fun (t : Tab (List W64)) (i : Nat) => tset [] t i (recent s (tget [] t i) sec1 ++ [now s])) →
     guestUp s = true → flit.length = 256 →
     exec (.guestFlit flit) s = .next
        (if !ok then bump 0x0060_8108 1 { s with guest := { g with crc := (List.range 4).foldl count g.crc } }
         else if idle then guestAck (BitVec.ofNat 32 (fld flit 0xF4 4)) s
         else if seq ≠ g.rxSeq then guestIdle (bump 0x0060_8128 1 s)
         else
          guestIdle (guestAck (BitVec.ofNat 32 (fld flit 0xF4 4))
            (bump 0x0060_8128 1 { s with guest := { g with rxSeq := g.rxSeq + 1, rx := g.rx ++ [flit] } })))) ∧
  (∀ (s : State),
     guestUp s = true → s.guest.unacked.isEmpty = false → aged s s.guest.ackAt us = true →
     exec (.guestReplayTimer) s = .next (guestReplay s)) ∧
  (∀ (i : Nat) (s : State),
     guestUp s = true → i < 4 → 16 < (recent s (tget [] s.guest.crc i) sec1).length →
     exec (.guestCrcRetrain i) s = .next ({ s.setLink 8 { s.link 8 with st := 0 } with guest := { s.guest with retrain := some (now s), crc := [] } })) ∧
  (∀ (flit : List Byte) (s : State) (g : _) (op : _) (len : _) (f : List Byte) (t : List (List Byte)) (s1 : _),
     g = s.guest → op = fld flit 0 1 → len = 8 * fld flit 1 1 → g.rx = f :: t →
     s1 = { s with guest := { g with rx := t } } → guestUp s = true → f = flit → (op == 3 || op == 4 || op == 6) = false →
     exec (.guestRequest flit) s = .next
        (match guestCheck s flit with
         | .error st => guestError (fld flit 2 2) st s1
         | .ok r =>
           let x : GuestIn := { id := g.nextIn, op := op, tag := fld flit 2 2, pa := r.mbase + (fld flit 8 8 - r.gbase), len := len, slot := r.keySlot, due := 0, data := [], poison := false }
           let rs := guestReqs s x (bit (fld flit 5 1) 0) (flit.drop 0x10)
           let s2 := { s1 with guest := { s1.guest with nextIn := g.nextIn + 1, inReqs := g.inReqs ++ [{ x with due := rs.length }] } }
           let bad := op == 2 && bit (fld flit 5 1) 0 && !reservedPa s x.pa
           let s2 := if bad then errRec 2 1 (srcHalf (homeHalf s x.pa)) 0 0xFF x.pa 0 s2 else s2
           let s3 := if reservedPa s x.pa then logStray 0x5000 x.pa len (op != 1) s2 else s2
           if rs.isEmpty then guestDone x s3 else sendReqs rs s3)) ∧
  (∀ (flit : List Byte) (s : State) (g : _) (op : _) (f : List Byte) (t : List (List Byte)) (s1 : _),
     g = s.guest → op = fld flit 0 1 → g.rx = f :: t → s1 = { s with guest := { g with rx := t } } → guestUp s = true →
     f = flit → (op == 3 || op == 4 || op == 6) = true →
     exec (.guestResponse flit) s = .next
        (match g.outReqs.find? (fun o => o.tag == fld flit 2 2) with
         | none => s1
         | some o =>
           if 100 * us < since s o.since then guestEvent (guestLate o s1)
           else
             guestAnswerOs o (BitVec.ofNat 64 (fld flit 0x10 8)) (op != 3 || bit (fld flit 5 1) 0)
               { s1 with guest := { s1.guest with outReqs := g.outReqs.erase o } })) ∧
  (∀ (tag : Nat) (s : State) (o : GuestOut),
     s.guest.outReqs.find? (fun o => o.tag == tag) = some o → aged s o.since (100 * us) = true →
     exec (.guestResponseTimeout tag) s = .next (guestEvent (guestLate o s))) ∧
  (∀ (s : State),
     is4G s = true → s.guest.unpowered = false →
     exec (.guestOvercurrent) s = .next
        (let s1 := guestClose (alarmW 0x0407 0x0048 [] (bump 0x0068_0038 1 s))
         { s1 with guest := { s1.guest with unpowered := true } }))

/-- STACK_TRAINING sets the rate and the channels that fail their eye widths, or fails the stack; STACK_ZERO_FILL_DONE brings it up.
LPDDR_REQUEST enters the pool or waits at its port; CHANNEL_SLOT samples the urgency wires and serves a due refresh or a request;
LPDDR_READ_RETURN corrects, delivers or poisons a burst; CRC_RETRY, when the CRC of a transfer fails, and CHANNEL_RETRAIN repeat and hold
requests; CHANNEL_RETRAIN_DONE returns or fails the channel; LPDDR_REQUEST_TIMEOUT ends a request after 100 µs. REFRESH_DUE, once a bank's
interval has passed (log 6), REFRESH_RATE_POLL and REFRESH_RATE_TIMEOUT keep the refresh rates; URGENCY_WIRE_TIMEOUT ignores a wire
asserted for 1 ms; CHANNEL_TIMING_ADJUST records its time. -/
def Obligations.MemoryStacksServe : Prop :=
  (∀ (m : Nat) (gen : Option (Nat × List (Nat × Nat))) (cmdOk : Bool) (eyes107 eyes96 : List (Nat × Nat × Nat)) (s : State) (k : _) (g : _) (rfm : _) (fast : _) (failed : W64) (cold : _) (k1 : Stack),
     k = s.stack m → g = (gen.getD (0, [])).1 → rfm = (gen.getD (0, [])).2 →
     fast = (g == 6 && decide ((setBits 64 (eyeFails eyes107).toNat).length ≤ 2)) →
     failed = eyeFails (if fast then eyes107 else eyes96) → cold = (s.boot.kind == 1) →
     k1 = { k with gen := g % 256, rate := if fast then 2 else 1, failed := failed, st := if cold then 0 else if failed = 0 then 1 else 2, rfmLimit := (rfm.filter (fun e => decide (e.1 < 16))).foldl (fun t e => tset 0 t e.1 e.2) [] } →
     stackFitted s m = true → k.st = 0 → k.rate = 0 → s.boot.step = 5 →
     exec (.stackTraining m gen cmdOk eyes107 eyes96) s = .next
        (if gen.isNone ∨ (g ≠ 5 ∧ g ≠ 6) ∨ !cmdOk then stackFail m (s.setStack m { k with gen := g % 256 })
         else (setBits 64 failed.toNat).foldl (fun a ch => alarmW 0x0501 (srcChan m ch) [memState a m, failed.toNat] a) (s.setStack m k1))) ∧
  (∀ (m : Nat) (s : State) (k : _),
     k = s.stack m → stackFitted s m = true → k.st = 0 → k.rate ≠ 0 →
     exec (.stackZeroFillDone m) s = .next (zeroStack m (s.setStack m { k with st := if k.failed = 0 then 1 else 2 }))) ∧
  (∀ (m : Nat) (write : Bool) (master y slot : Nat) (data : BitVec 512) (poison : Bool) (s : State) (k : _) (a : _) (r : MReq),
     k = s.stack m → a = y / 64 * 64 →
     r = { id := k.nextId, write := false, master := master, y := a, data := 0, side := 0, src := .port, since := now s, issued := false, tries := 0 } →
     stackFitted s m = true → (stackUp s m || k.st == 3) = true → master < 8 → y < 0x14_0000_0000 → slot < 64 →
     exec (.lpddrRequest m write master y slot data poison) s = .next
        (if write then burstWrite s (lpInv s m a) master slot (bvLE 64 data) poison
         else if chanDead s m (lpChan a) then lpLost m (s.setStack m { k with nextId := k.nextId + 1 }) r
         else lpIssue m r s)) ∧
  (∀ (m : Nat) (slot : Nat × List (Nat × Bool × Nat × Nat)) (s : State) (ch : _) (s0 : _) (k0 : _) (s1 : _),
     ch = slot.1 → s0 = portDrain m (writesDone m ch (sampleWires (m / 2) slot.2 s)) → k0 = s0.stack m →
     s1 = s0.setStack m (k0.setChan ch { k0.chan ch with batch := batchNow k0 ch (k0.chan ch) }) → stackUp s m = true →
     ch < 64 → chanDead s m ch = false → ((s.stack m).chan ch).retraining = false →
     exec (.channelSlot m slot) s = .next (slotServe m ch s1)) ∧
  (∀ (m id : Nat) (err : BitVec 576) (s : State) (r : MReq) (pa : _),
     (s.stack m).pool.find? (fun r => r.id == id) = some r → pa = lpInv s m r.y → r.issued = true → r.write = false →
     stackUp s m = true →
     exec (.lpddrReadReturn m id err) s = .next
        (match symDecode (lpWord (lpStored s pa)) err.toNat with
         | .ok k left =>
           let s1 := lpFlip pa left (if k = 0 then s else lpRepair m r.y (lpCe m r.y 0 k s))
           portDrain m (lpGive m r (lpStored s1 pa) false s1)
         | .bad => portDrain m (lpGive m r (lpStored s pa) true (lpRepair m r.y (lpUe m r.y 0 s))))) ∧
  (∀ (m : Nat) (burst : Nat × BitVec 576) (s : State) (k : _) (id : _) (r : MReq) (ch : _) (c : _) (l : _) (k1 : _) (c1 : _),
     k = s.stack m → id = burst.1 → k.pool.find? (fun r => r.id == id) = some r → ch = lpChan r.y → c = k.chan ch →
     l = recent s c.crc sec1 ++ [now s] →
     k1 = { k with pool := k.pool.map (fun (x : MReq) => if x.id = id then { x with issued := false, tries := x.tries + 1 } else x) } →
     c1 = { c with crc := l, retrainDue := c.retrainDue || decide (4 ≤ r.tries + 1) || decide (64 ≤ l.length) } →
     r.issued = true → stackUp s m = true → crcFails (lpFrame (sentBits m r s) ^^^ wireErr burst.2.toNat) = true →
     exec (.crcRetry m burst) s = .next (bump (memBlk m + 0x1A0) 1 (s.setStack m (k1.setChan ch c1)))) ∧
  (∀ (m id : Nat) (s : State) (r : MReq) (s1 : _) (k : _) (ch : _),
     (s.stack m).pool.find? (fun r => r.id == id) = some r → s1 = lpLost m s r → k = s1.stack m → ch = lpChan r.y →
     stackUp s m = true → aged s r.since (100 * us) = true →
     exec (.lpddrRequestTimeout m id) s = .next (alarmW 0x0502 (srcChan m ch) [lpInv s m r.y] (s1.setStack m (k.setChan ch { k.chan ch with retrainDue := true })))) ∧
  (∀ (m ch : Nat) (s : State) (k : _) (c : _) (k1 : _),
     k = s.stack m → c = k.chan ch →
     k1 = { k with pool := k.pool.map (fun (r : MReq) => if lpChan r.y = ch then { r with issued := false, tries := 0 } else r) } →
     stackUp s m = true → ch < 64 → c.retrainDue = true → c.retraining = false →
     exec (.channelRetrain m ch) s = .next (s.setStack m (k1.setChan ch { c with retrainDue := false, retraining := true, crc := [], rows := [] }))) ∧
  (∀ (m ch : Nat) (ok : Bool) (s : State) (k : _) (c : _) (s1 : _),
     k = s.stack m → c = k.chan ch → s1 = s.setStack m (k.setChan ch { c with retraining := false }) → stackUp s m = true →
     ch < 64 → c.retraining = true →
     exec (.channelRetrainDone m ch ok) s = .next (if ok then s1 else chanFail m ch s1)) ∧
  (∀ (m ch bank : Nat) (s : State) (k : _) (c : _) (busy : _) (r : _) (due : Bool) (s1 : _),
     k = s.stack m → c = k.chan ch → busy = k.pool.any (fun r => lpChan r.y == ch && lpBank r.y == bank) →
     r = tget 0 c.refresh bank + 1 →
     due = (match tfind c.dueAt bank with | some t => aged s t (refreshTicks k ch) | none => true) →
     s1 = s.setStack m (k.setChan ch { c with dueAt := tput c.dueAt bank (now s) }) → stackUp s m = true → ch < 64 →
     bank < 16 → due = true →
     exec (.refreshDue m ch bank) s = .next
        (if busy then (if 8 < r then refreshBank m ch bank 1 8 s1 else refreshBank m ch bank 0 r s1)
         else let left := max (-8) (r - 2); refreshBank m ch bank (r - left).toNat left s1)) ∧
  (∀ (m die : Nat) (rate : Option Nat) (s : State) (k : _),
     k = s.stack m → stackUp s m = true → die < 16 →
     exec (.refreshRatePoll m die rate) s = .next
        (match rate with
         | some r => s.setStack m { k with dieRate := tset 1 k.dieRate die r, dieFallback := ldel k.dieFallback die }
         | none => refreshFallback m die s)) ∧
  (∀ (m die : Nat) (s : State),
     stackUp s m = true → die < 16 →
     exec (.refreshRateTimeout m die) s = .next (refreshFallback m die s)) ∧
  (∀ (q master : Nat) (s : State) (i : _) (due : Bool),
     i = 8 * q + master → due = (match tfind s.urgent i with | some t => aged s t ms | none => false) → q < 4 →
     (master == 4 || master == 5) = true → due = true → (tfind s.urgIgnored i).isNone = true →
     exec (.urgencyWireTimeout q master) s = .next (alarmW 0x0504 (srcQuarter q) [master] { s with urgIgnored := tput s.urgIgnored i none })) ∧
  (∀ (m ch : Nat) (s : State) (k : _) (c : _) (due : _),
     k = s.stack m → c = k.chan ch → due = (match c.adjust with | some t => aged s t (16 * ms) | none => true) →
     stackUp s m = true → ch < 64 → due = true →
     exec (.channelTimingAdjust m ch) s = .next (s.setStack m (k.setChan ch { c with adjust := some (now s) })))

/-- WALKER_READ reads the walker's next word of a half, core or stack, and REPAIR_REWRITE serves the head of the repair queue.
CHECKER_SELF_TEST passes, or records a failure, alarms and fences the unit. FUSE_LOAD accepts the copies of a unit's fuses, or maps the
unit out, uses the default curve, or stops the boot. -/
def Obligations.IntegrityWorkRuns : Prop :=
  (∀ (kind unit : Nat) (err : BitVec 576) (s : State),
     walks s kind unit = true → walkCopies kind err.toNat = true →
     exec (.walkerRead kind unit err) s = .next
        (match kind with
         | 0 => walkHalf unit (err.toNat) s
         | 1 => walkTilth unit (err.toNat) s
         | _ => walkStack unit err.toNat s)) ∧
  (∀ (kind unit : Nat) (err : BitVec 576) (s : State),
     walks s kind unit = true → walkCopies kind err.toNat = true →
     exec (.repairRewrite kind unit err) s = .next
        (match kind with
         | 0 => repairHalf unit (err.toNat) s
         | 1 => repairTilth unit (err.toNat) s
         | _ => repairStack unit err.toNat s)) ∧
  (∀ (kind unit : Nat) (pass : Bool) (s : State) (src : _),
     src = checkerSrc kind unit → checkerRuns s kind unit = true →
     exec (.checkerSelfTest kind unit pass) s = .next
        (if pass then (if checkerStore kind unit = 7 ∧ kind = 6 then { s with boot := { s.boot with step := 4 } } else s)
         else checkerFail kind unit (alarmW 0x0604 src [] (errRec 5 (checkerStore kind unit) src 2 0 0 0 s)))) ∧
  (∀ (unit : Nat) (a b d : List Byte) (s : State) (ok : _),
     ok = copiesAgree a b d → s.boot.step = 2 → unit ≤ 265 →
     (decide (unit < 8) || decide (264 ≤ unit) || coreFitted s (unit - 8)) = true →
     exec (.fuseLoad unit a b d) s = .next
        (if unit = 264 then (if ok then fusesIn s else bootStop 6 s)
         else if unit = 265 then
           (if ok then s else alarmW 0x020B 0x0004 [] { s with fuse := { s.fuse with curveDefault := true } })
         else if ok then s else mapFail unit s))

/-- An admin command starts when it is the next one in the order of acceptance, no fence holds it and it passes the checks that every
command meets. HELLO attaches the mailbox under the highest common version and writes the information block; GOODBYE begins the detach.
GROUP_SET stores the group, at once unless cores must wake for it first; with VALID 0 it removes a group that nothing uses. -/
def Obligations.AdminSessionsAndGroups : Prop :=
  (∀ (qu : Nat) (s : State) (sa : State) (x : Cmd) (d : _) (a : _),
     adminStarts s qu 0x01 x = true → sa = started x s → d = x.desc → a = fld d 0x10 8 →
     onlyAt d [(8, 1), (0xC, 4), (0x10, 8)] = true → fld d 8 1 < 8 → a % 64 = 0 → cmdArea sa a 64 = true →
     (sa.mb x.queue).st = 0 →
     exec (.hello qu) s = .next
         (match pickVersion (fld d 8 1) with
               | none => done x 0x1E sa
               | some v =>
                 let m := sa.mb x.queue
                 writeDone x 0 [(a, 64)] (helloInfo x v sa) sa
                   (sa.setMb x.queue { m with verMajor := v.1, verMinor := v.2, client := BitVec.ofNat 32 (fld d 0xC 4), st := 1 }))) ∧
  (∀ (qu : Nat) (s : State) (sa : State) (x : Cmd),
     adminStarts s qu 0x02 x = true → sa = started x s → onlyAt x.desc [] = true →
     exec (.goodbye qu) s = .next (done x 0 (sa.setMb x.queue { sa.mb x.queue with st := 2 }))) ∧
  (∀ (qu : Nat) (s : State) (sa : State) (x : Cmd) (d : _) (g : _) (ks : _) (slot : _) (n : GroupS),
     adminStarts s qu 0x03 x = true → bit (fld x.desc 9 1) 0 = true → sa = started x s → d = x.desc → g = fld d 8 1 →
     ks = fld d 0xA 1 → slot = (if ks = 0xFF then 0 else ks) →
     n = { keySlot := slot, qmask := fld d 0xB 1, wakeUs := fld d 0xC 4 } → onlyAt d [(8, 8)] = true → fld d 9 1 = 1 →
     (ks == 0xFF || slotLoaded sa ks) = true → 1 ≤ n.qmask → n.qmask < 16 → n.wakeUs ≤ 1000000 →
     (decide (0x101 ≤ verOf x) || n.wakeUs == 0) = true →
     (groupUp sa g && groupSlot sa g != slot && (groupHolds sa g || groupDrill sa g)) = false →
     exec (.groupSet qu) s = .next
         (let t := { sa with pel := { sa.pel with groups := tput sa.pel.groups g n } }
          if budgetFell sa t then wakesDone (waits x (wakeDeep t)) else done x 0 t)) ∧
  (∀ (qu : Nat) (s : State) (sa : State) (x : Cmd) (g : _) (plain : _),
     adminStarts s qu 0x03 x = true → bit (fld x.desc 9 1) 0 = false → sa = started x s → g = fld x.desc 8 1 →
     plain = (onlyAt x.desc [(8, 8)] && fld x.desc 9 1 == 0 && decide (fld x.desc 0xB 1 < 16) && (decide (0x101 ≤ verOf x) || fld x.desc 0xC 4 == 0)) →
     plain = true → groupUp sa g = true → groupHolds sa g = false →
     exec (.groupSetDelete qu) s = .next (done x 0 { sa with pel := { sa.pel with groups := tdel sa.pel.groups g } }))

/-- QUEUE_CREATE enters a queue and writes its control block. QUEUE_STATE resumes a queue that is not being deleted, pauses an active one,
or marks it deleted and waits in the background until its commands are posted. MAP adds a mapping of the group to what it overlaps
nowhere; UNMAP cuts a range out of the mappings of the group. -/
def Obligations.QueuesAndMappings : Prop :=
  (∀ (qu : Nat) (s : State) (sa : State) (x : Cmd) (d : _) (w : _) (v : _) (g : _) (dl : _) (a : _) (fs : _) (n : _) (k : Queue),
     adminStarts s qu 0x04 x = true → sa = started x s → d = x.desc → w = fld d 8 4 → v = fld d 0xC 4 → g = bits v 7 0 →
     dl = bits v 12 8 → a = fld d 0x18 8 → fs = fld d 0x20 8 → n = 64 + 32 * 2 ^ dl →
     k = { group := g, depthLog2 := dl, mbMask := BitVec.ofNat 32 (fld d 0x10 4), cqAddr := a, nextSeq := BitVec.ofNat 64 fs, posted := BitVec.ofNat 64 fs, consumed := BitVec.ofNat 64 fs, st := 0, delCmd := none, ptr := 0 } →
     onlyAt d [(8, 12), (0x18, 16)] = true → 0x20 ≤ w → w < 2 ^ 20 → v < 2 ^ 13 → 6 ≤ dl → dl ≤ 16 → fld d 0x10 4 ≠ 0 →
     a % 64 = 0 → cmdArea sa a n = true → (decide (0x200 ≤ verOf x) || fs == 0) = true →
     (groupSlot sa g != 0 && hubArea a n) = false → groupUp sa g = true → (sa.queue? w).isNone = true →
     exec (.queueCreate qu) s = .next (writeDone x (groupSlot sa g) [(a, 64)] (natLE 8 fs ++ natLE 8 fs ++ List.replicate 48 0) sa (sa.setQueue w k))) ∧
  (∀ (qu : Nat) (s sa : State) (x : Cmd) (w : Nat) (k : Queue),
     adminStarts s qu 0x05 x = true → actionOf x ≠ 1 → actionOf x ≠ 2 → sa = started x s → w = fld x.desc 8 4 →
     sa.queue? w = some k → k.st ≠ 2 → onlyAt x.desc [(8, 5)] = true → 0x20 ≤ w → w < 2 ^ 20 → fld x.desc 0xC 1 ≤ 2 →
     exec (.queueResume qu) s = .next (done x 0 (sa.setQueue w { k with st := if k.st = 1 then 0 else k.st }))) ∧
  (∀ (qu : Nat) (s sa : State) (x : Cmd) (w : Nat) (k : Queue),
     adminStarts s qu 0x05 x = true → actionOf x = 1 → sa = started x s → w = fld x.desc 8 4 → sa.queue? w = some k →
     onlyAt x.desc [(8, 5)] = true → 0x20 ≤ w → w < 2 ^ 20 → fld x.desc 0xC 1 ≤ 2 →
     exec (.queuePause qu) s = .next (done x 0 (sa.setQueue w { k with st := if k.st = 0 then 1 else k.st, ptr := pastGrant 33 32 }))) ∧
  (∀ (qu : Nat) (s sa : State) (x : Cmd) (w : Nat) (k : Queue),
     adminStarts s qu 0x05 x = true → actionOf x = 2 → sa = started x s → w = fld x.desc 8 4 → sa.queue? w = some k →
     onlyAt x.desc [(8, 5)] = true → 0x20 ≤ w → w < 2 ^ 20 → fld x.desc 0xC 1 ≤ 2 →
     exec (.queueDelete qu) s = .next (queueGone w (waits x (sa.setQueue w { k with st := 2, delCmd := some (x.queue, x.seq), ptr := pastGrant 33 32 })))) ∧
  (∀ (qu : Nat) (s : State) (sa : State) (x : Cmd) (d : _) (g : _) (w : _) (pg : _) (va : _) (pa : _) (n : _) (z : _) (m : Mapping) (slot : _),
     adminStarts s qu 0x06 x = true → sa = started x s → d = x.desc → g = fld d 8 1 → w = fld d 9 1 → pg = bits w 0 0 →
     va = fld d 0x10 8 → pa = fld d 0x18 8 → n = fld d 0x20 8 → z = pageBytes pg →
     m = { group := g, va := va, pa := pa, size := n, page := pg, read := bit w 1, write := bit w 2, exec := bit w 3, cls := bits w 5 4 } →
     slot = groupSlot sa g → onlyAt d [(8, 2), (0x10, 24)] = true → w < 64 → bits w 3 1 ≠ 0 → bits w 5 4 ≤ 2 → va % z = 0 →
     pa % z = 0 → n % z = 0 → 0 < n → n ≤ 2 ^ 40 → va + n ≤ 2 ^ 47 → (cmdArea sa pa n || plotsCover sa 1024 pa n) = true →
     (slot != 0 && hubArea pa n) = false → groupUp sa g = true → (plotSlotDiffers sa pa n slot) = false →
     (sa.pel.maps.any (fun y => y.group == g && overlaps y.va y.size va n)) = false → pageEntries sa + n / z ≤ 4194304 →
     exec (.map qu) s = .next (done x 0 (claimPlots pa n slot { sa with pel := { sa.pel with maps := sa.pel.maps ++ [m] } }))) ∧
  (∀ (qu : Nat) (s : State) (sa : State) (x : Cmd) (d : _) (g : _) (va : _) (n : _),
     adminStarts s qu 0x07 x = true → sa = started x s → d = x.desc → g = fld d 8 1 → va = fld d 0x10 8 →
     n = fld d 0x20 8 → onlyAt d [(8, 1), (0x10, 8), (0x20, 8)] = true → va % 0x1_0000 = 0 → n % 0x1_0000 = 0 → 0 < n →
     n ≤ 2 ^ 40 → groupUp sa g = true →
     exec (.unmap qu) s = .next (done x 0 { sa with pel := { sa.pel with maps := (sa.pel.maps.map (cutMapping g va n)).flatten } }))

/-- A command on a context waits for the earlier commands that name it. CONTEXT_CREATE creates the context with counter 0 and the
submitted key, or one that the module draws, or fails with KEY_FAILED and an alarm when the entropy source does not pass; CONTEXT_RESEED
gives it a new key and counter 0; CONTEXT_QUERY writes its 64 bytes; CONTEXT_DESTROY goes on in the background until every earlier command
that names it has posted. -/
def Obligations.ContextsAreKept : Prop :=
  (∀ (qu : Nat) (s sa : State) (x : Cmd) (key : Nat),
     adminStarts s qu 0x08 x = true → sa = started x s → earlierNames sa x = false → fld x.desc 8 2 ≤ 10239 →
     fld x.desc 0xB 1 ≤ 1 → samplingOk (fld x.desc 0xC 4) (fld x.desc 0x18 4) (fld x.desc 0x1C 4) = true →
     (fld x.desc 0xB 1 == 1 || fld x.desc 0x20 32 == 0) = true → groupUp sa (fld x.desc 0xA 1) = true →
     (tfind sa.pel.ctxs (fld x.desc 8 2)).isNone = true → key = fld x.desc 0x20 32 →
     exec (.contextCreate qu) s = .next
         (match streamKey (fld x.desc 0xB 1) key sa with
          | (none, t) => done x 0x27 (alarmW 0x0803 0x0002 [] t)
          | (some k, t) => done x 0 { t with pel := { t.pel with ctxs := tput t.pel.ctxs (fld x.desc 8 2) { group := fld x.desc 0xA 1, key := k, counter := 0, kvRoot := BitVec.ofNat 64 (fld x.desc 0x10 8), kvLen := 0, temp := BitVec.ofNat 32 (fld x.desc 0xC 4), topK := BitVec.ofNat 32 (fld x.desc 0x18 4), topP := BitVec.ofNat 32 (fld x.desc 0x1C 4), token := none } } })) ∧
  (∀ (qu : Nat) (s : State) (sa : State) (x : Cmd),
     adminStarts s qu 0x09 x = true → sa = started x s → onlyAt x.desc [(8, 2)] = true → fld x.desc 8 2 ≤ 10239 →
     (tfind sa.pel.ctxs (fld x.desc 8 2)).isSome = true →
     exec (.contextDestroy qu) s = .next (destroysDone (waits x sa))) ∧
  (∀ (qu : Nat) (s sa : State) (x : Cmd) (c : Nat) (n : Context),
     adminStarts s qu 0x0A x = true → sa = started x s → c = fld x.desc 8 2 → earlierNames sa x = false →
     tfind sa.pel.ctxs c = some n → onlyAt x.desc [(8, 2), (0xB, 1), (0x20, 32)] = true → fld x.desc 0xB 1 ≤ 1 →
     (fld x.desc 0xB 1 == 1 || fld x.desc 0x20 32 == 0) = true →
     exec (.contextReseed qu) s = .next
         (match streamKey (fld x.desc 0xB 1) (fld x.desc 0x20 32) sa with
          | (none, t) => done x 0x27 (alarmW 0x0803 0x0002 [] t)
          | (some k, t) => done x 0 { t with pel := { t.pel with ctxs := tput t.pel.ctxs c { n with key := k, counter := 0 } } })) ∧
  (∀ (qu : Nat) (s sa : State) (x : Cmd) (a : Nat) (n : Context) (l : List (Nat × Nat)),
     adminStarts s qu 0x0B x = true → sa = started x s → a = fld x.desc 0x10 8 → earlierNames sa x = false →
     tfind sa.pel.ctxs (fld x.desc 8 2) = some n → onlyAt x.desc [(8, 2), (0x10, 8)] = true → fld x.desc 8 2 ≤ 10239 →
     a % 64 = 0 → virt sa n.group .write a 64 = some l →
     exec (.contextQuery qu) s = .next (writeDone x (groupSlot sa n.group) l (contextBytes (fld x.desc 8 2) n) sa sa))

/-- HOMING_SET changes the homing of an unused region. GRANARY_CARVE starts the walk of a half that holds no plots; PLOT_CREATE and
PLOT_DELETE make and remove a cleared plot; GRANARY_PIN sends its request to the halves; GRANARY_UNPIN releases the pin. MEM_QOS,
GLEANER_SET and SELFTEST_SET store their settings; CORE_RETEST tests a fenced core; HEDGEROW_RULE stores or removes a rule; GUEST_RETRAIN
trains LG again. -/
def Obligations.CarvesPinsAndRules : Prop :=
  (∀ (qu : Nat) (s : State) (sa : State) (x : Cmd) (k : _) (m : _),
     adminStarts s qu 0x10 x = true → sa = started x s → k = fld x.desc 8 1 → m = fld x.desc 9 1 →
     onlyAt x.desc [(8, 2)] = true → k ≤ 78 → m ≤ 1 → rangeInUse sa (k * regionSize sa) (regionSize sa) = false →
     exec (.homingSet qu) s = .next (done x 0 (if (sa.pel.local_.contains k) = decide (m = 1) then sa else setMode k m sa))) ∧
  (∀ (qu : Nat) (s sa : State) (x : Cmd) (h p lim l : Nat) (hf : Half) (t : State),
     adminStarts s qu 0x11 x = true → sa = started x s → h = halfOf (fld x.desc 8 1) → p = fld x.desc 9 1 →
     lim = fld x.desc 0xA 1 → hf = sa.half h → l = limitFor sa h p lim → onlyAt x.desc [(8, 3), (0xC, 4)] = true →
     fld x.desc 8 1 < 8 → p < 32 → lim ≤ sa.limit0 → thrashOk (fld x.desc 0xC 4) = true → hf.carve = none → hf.plots = [] →
     p ≤ lim → pinsOver hf p l = false → pinServing sa h = false →
     t = sa.setHalf h { hf with plotWays := p, limit := l, thrashCfg := BitVec.ofNat 32 (fld x.desc 0xC 4), carve := some { set := 0, oldP := hf.plotWays, qu := x.queue, seq := x.seq } } →
     (sa.quarter (h / 2)).st ≠ 4 →
     exec (.granaryCarve qu) s = .next (waits x t)) ∧
  (∀ (qu : Nat) (s : State) (sa : State) (x : Cmd) (d : _) (h : _) (i : _) (o : _) (n : _) (hf : _),
     adminStarts s qu 0x12 x = true → sa = started x s → d = x.desc → h = halfOf (fld d 8 1) → i = fld d 9 1 →
     o = fld d 0x10 8 → n = fld d 0x18 8 → hf = sa.half h → onlyAt d [(8, 2), (0x10, 16)] = true → fld d 8 1 < 8 → i < 64 →
     o % 0x20_0000 = 0 → n % 0x20_0000 = 0 → 0 < n → o + n ≤ hf.plotWays * 2 ^ 27 → (tfind hf.plots i).isNone = true →
     (hf.plots.any (fun p => overlaps p.2.1 p.2.2.1 o n)) = false →
     exec (.plotCreate qu) s = .next
         (let s1 := { sa with mem := { sa.mem with plots := stClear 32 sa.mem.plots (plotAddr h o) n } }
          done x 0 (s1.setHalf h { s1.half h with plots := tput (s1.half h).plots i (o, n, none) }))) ∧
  (∀ (qu : Nat) (s : State) (sa : State) (x : Cmd) (d : _) (h : _) (i : _) (hf : _) (p : _),
     adminStarts s qu 0x13 x = true → sa = started x s → d = x.desc → h = halfOf (fld d 8 1) → i = fld d 9 1 →
     hf = sa.half h → p = (tfind hf.plots i).getD (0, 0, none) → onlyAt d [(8, 2)] = true → fld d 8 1 < 8 →
     (tfind hf.plots i).isSome = true → rangeInUse sa (plotAddr h p.1) p.2.1 = false →
     exec (.plotDelete qu) s = .next
         (let s1 := { sa with mem := { sa.mem with plots := stClear 32 sa.mem.plots (plotAddr h p.1) p.2.1 } }
          done x 0 (s1.setHalf h { s1.half h with plots := tdel (s1.half h).plots i }))) ∧
  (∀ (qu : Nat) (s : State) (sa : State) (x : Cmd) (d : _) (v : _) (n : _) (b : _) (z : _),
     adminStarts s qu 0x14 x = true → sa = started x s → d = x.desc → v = fld d 8 2 → n = bits v 11 0 → b = fld d 0x10 8 →
     z = fld d 0x18 8 → onlyAt d [(8, 2), (0x10, 16)] = true → v < 2 ^ 15 → b % 0x1_0000 = 0 → z % 0x1_0000 = 0 →
     0x1_0000 ≤ z → z ≤ 2 ^ 36 → b + z ≤ lpddrSize sa → (tfind sa.pel.pins n).isNone = true →
     (sa.pel.pins.any (fun e => overlaps e.2.base e.2.size b z)) = false →
     exec (.granaryPin qu) s = .next
         (let hs := rangeHalves sa b z
          if hs.any (fun h => (sa.quarter (h / 2)).st == 4) then endCmd x.queue x.seq 0x02 1 sa
          else
            let p : Pin := { priority := bits v 14 12, base := b, size := z, order := sa.pel.pinOrder, accepted := [], cmd := some (x.queue, x.seq) }
            let s1 := { sa with pel := { sa.pel with pins := tput sa.pel.pins n p, pinOrder := sa.pel.pinOrder + 1 } }
            waits x (hs.foldl (fun (a : State) h =>
              signal 0 (srcHalf h) 2 (a.setHalf h { a.half h with pinq := (a.half h).pinq ++ [{ kind := 0, pin := n, base := b, size := z }] })) s1))) ∧
  (∀ (qu : Nat) (s : State) (sa : State) (x : Cmd) (n : _),
     adminStarts s qu 0x15 x = true → sa = started x s → n = fld x.desc 8 2 → onlyAt x.desc [(8, 2)] = true → n < 4096 →
     (tfind sa.pel.pins n).isSome = true →
     exec (.granaryUnpin qu) s = .next (if ((tfind sa.pel.pins n).bind (fun p => p.cmd)).isSome then sa else done x 0 (releasePin n 1 sa))) ∧
  (∀ (qu : Nat) (s : State) (sa : State) (x : Cmd) (d : _) (q : _) (sh : _) (li : _),
     adminStarts s qu 0x16 x = true → sa = started x s → d = x.desc → q = fld d 8 1 → sh = fld d 0x10 8 →
     li = fld d 0x18 8 → onlyAt d [(8, 1), (0x10, 16)] = true → q < 4 → sh < 2 ^ 48 → qosSum 6 sh ≤ 48 →
     (List.range 8).all (fun i => decide (1 ≤ qosField 8 li i)) = true → 8 * qosSum 8 li ≤ 4096 →
     exec (.memQos qu) s = .next
         (done x 0 (((stackList sa).filter (fun m => stackQuarter m == q)).foldl (fun (a : State) m =>
                 a.setStack m { a.stack m with share := BitVec.ofNat 64 sh, limit := BitVec.ofNat 64 li }) sa))) ∧
  (∀ (qu : Nat) (s : State) (sa : State) (x : Cmd) (v : _),
     adminStarts s qu 0x17 x = true → sa = started x s → v = fld x.desc 8 4 → onlyAt x.desc [(8, 4)] = true →
     1 ≤ bits v 31 24 → bits v 31 24 ≤ 168 → 1 ≤ bits v 23 10 → bits v 23 10 ≤ 8640 → 1 ≤ bits v 9 0 → bits v 9 0 ≤ 1000 →
     exec (.gleanerSet qu) s = .next (done x 0 { sa with pel := { sa.pel with glnCfg := BitVec.ofNat 32 v } })) ∧
  (∀ (qu : Nat) (s : State) (sa : State) (x : Cmd) (v : _),
     adminStarts s qu 0x18 x = true → sa = started x s → v = fld x.desc 8 2 → onlyAt x.desc [(8, 2)] = true → 1 ≤ v →
     v ≤ 3600 →
     exec (.selftestSet qu) s = .next (done x 0 { sa with pel := { sa.pel with testInterval := v } })) ∧
  (∀ (qu : Nat) (rows : List Nat) (other : Bool) (s : State) (sa : State) (x : Cmd) (n : _),
     adminStarts s qu 0x19 x = true → sa = started x s → n = 64 * fld x.desc 8 1 + fld x.desc 9 1 →
     onlyAt x.desc [(8, 2)] = true → fld x.desc 8 1 < 4 → fld x.desc 9 1 < 64 → coreFencedUp sa n = true →
     heldFenced sa n = false →
     exec (.coreRetest qu rows other) s = .next
         (let s1 := testResult n rows other (resetCore n sa)
          done x (if (s1.core n).fenced then 0x1F else 0) (setPoint n s1))) ∧
  (∀ (qu : Nat) (s : State) (sa : State) (x : Cmd) (d : _) (i : _) (r : _) (valid : _) (n : Rule),
     adminStarts s qu 0x1A x = true → sa = started x s → d = x.desc → i = fld d 8 1 → r = slice d 0x20 32 →
     valid = bit (fld r 0 1) 0 →
     n = { valid := valid, read := bit (fld r 0 1) 1, write := bit (fld r 0 1) 2, atomic := bit (fld r 0 1) 3, keySlot := fld r 1 1, gbase := fld r 8 8, mbase := fld r 0x10 8, size := fld r 0x18 8 } →
     is4G sa = true → onlyAt d [(8, 1), (0x20, 32)] = true → i < 64 → ruleOk sa r = true →
     (valid && sa.guest.rules.any (fun e => e.1 != i && e.2.valid && overlaps e.2.gbase e.2.size n.gbase n.size)) = false →
     exec (.hedgerowRule qu) s = .next (done x 0 { sa with guest := { sa.guest with rules := tset Rule.dflt sa.guest.rules i n } })) ∧
  (∀ (qu : Nat) (s : State) (sa : State) (x : Cmd),
     adminStarts s qu 0x1B x = true → sa = started x s → is4G sa = true → onlyAt x.desc [] = true →
     exec (.guestRetrain qu) s = .next
         (let k := sa.link 8
          done x 0 (if sa.guest.unpowered then sa
                    else { sa.setLink 8 { k with st := 0 } with guest := { sa.guest with closed := false, retrain := some (now sa), events := [] } })))

/-- MB_DOORBELL, MB_ACK_HEAD_WRITE and MB_CPL_HEAD_WRITE of an OS core act on the mailbox pair, unless a drill connection holds it: then
they are discarded and logged. KEY_SLOT unwraps a key into an empty slot, which the read of its blob may delay or end, or clears a slot
that nothing uses. ATTEST takes an unused leaf and writes the report, its signature and, if asked, the certificate; without a leaf it ends
in NO_RESOURCES. -/
def Obligations.MailboxesAndKeys : Prop :=
  (∀ (mb : Nat) (v : BitVec 66) (s : State),
     inService s = true → mb < 32 →
     exec (.mbDoorbell mb v) s = .next
        (if mbBound s mb then logStray 0 (mbAddr mb 0x2008) 8 true s
         else spoilCopies s.pel.order (v.getLsbD 64) (v.getLsbD 65) (doorbell mb 0 (v.setWidth 64) s))) ∧
  (∀ (mb : Nat) (v : BitVec 32) (s : State),
     inService s = true → mb < 32 →
     exec (.mbAckHeadWrite mb v) s = .next (if mbBound s mb then logStray 0 (mbAddr mb 0x2004) 4 true s else ackHeadWrite mb v.toNat s)) ∧
  (∀ (mb : Nat) (v : BitVec 32) (s : State),
     inService s = true → mb < 32 →
     exec (.mbCplHeadWrite mb v) s = .next (if mbBound s mb then logStray 0 (mbAddr mb 0x2010) 4 true s else cplHeadWrite mb v.toNat s)) ∧
  (∀ (qu : Nat) (s : State) (sa : State) (x : Cmd),
     adminStarts s qu 0x1C x = true → fld x.desc 9 1 ≠ 1 → sa = started x s → keySlotOk sa x.desc = true →
     exec (.keySlotLoad qu) s = .next
         (let k := fld x.desc 8 1
          onRead x (cmdRead none 0 [(fld x.desc 0x10 8, 1664)] sa) (fun b sa =>
            match openBlob sa k b with
            | none => done x 0x11 sa
            | some key => checks x [((tfind sa.sec.slots k).isNone, 0x18)]
                (fun sa => done x 0 (bump 0x00E0_0110 1 { sa with sec := { sa.sec with slots := tput sa.sec.slots k key } })) sa))) ∧
  (∀ (qu : Nat) (s : State) (sa : State) (x : Cmd),
     adminStarts s qu 0x1C x = true → fld x.desc 9 1 = 1 → sa = started x s → keySlotOk sa x.desc = true →
     slotUsed sa (fld x.desc 8 1) = false →
     exec (.keySlotClear qu) s = .next (done x 0 { sa with sec := { sa.sec with slots := tdel sa.sec.slots (fld x.desc 8 1) } })) ∧
  (∀ (qu spoil : Nat) (flashFail : Bool) (s : State) (sa : State) (x : Cmd) (d : _) (a : _) (cert : _),
     adminStarts s qu 0x1D x = true → sa = started x s → d = x.desc → a = fld d 0x10 8 → cert = bit (fld d 8 4) 0 →
     onlyAt d [(8, 4), (0x10, 8), (0x20, 32)] = true → fld d 8 4 ≤ 1 → a % 4096 = 0 → cmdArea sa a 16384 = true →
     exec (.attest qu spoil flashFail) s = .next
         (if lost sa [(a, 16384)] then endCmd x.queue x.seq 0x02 1 sa
          else if !(heldCuts sa [(a, 16384)]).isEmpty then holdCmd x (heldCuts sa [(a, 16384)]).length sa
          else match takeLeaf spoil flashFail sa with
            | (none, t) => done x 0x17 t
            | (some leaf, t) =>
              let h := reportHead sa (slice d 0x20 32) cert t.sec.firstF t.sec.flashBehind leaf
              let t1 := cmdWrite none 0 [(a, 0x920 + 9893)] (h ++ signature sa leaf h) t
              done x 0 (cmdWrite none 0 [(a + 0x3000, (certOf sa cert).length)] (certOf sa cert) t1)))

/-- A work command starts when it is its queue's next one, no fence holds it, the hub is below CRITICAL and it passes the common checks.
LAUNCH takes its flags or waits for them; COPY and MARK start. LAUNCH_FLAGS_FREED starts the launch that has waited longest. RUN_START
gives a started command a stage and dispatches its run; REDISPATCH runs an abandoned command again; RUN_ENDED ends a run that has no stook
left; COMMAND_DECIDE posts the record of the queue's first ended command; COMMAND_TIMEOUT and COMMAND_READ_TIMEOUT end a late one. -/
def Obligations.WorkCommandsRun : Prop :=
  (∀ (qu : Nat) (s sa : State) (x : Cmd) (r : Run) (c : List Nat),
     workStarts s qu 0x40 x = true → sa = started x s → r = launchRun x (queueGroup s x.queue) → c = placement s r.qmask →
     earlierNames s x = false → launchOk s x r = true → c ≠ [] → ctxCount x ≤ 32 * c.length → stookFits r = true →
     exec (.launch qu) s = .next
         (if (takeFlags x sa).1 then (takeFlags x sa).2
          else modCmd x.queue x.seq (fun y => { y with waitFlags := true }) { sa with pel := { sa.pel with flagQueue := sa.pel.flagQueue ++ [(x.queue, x.seq)] } })) ∧
  (∀ (qu : Nat) (s : State) (x : Cmd),
     workStarts s qu 0x41 x = true → onlyAt x.desc [(0x10, 24)] = true → fld x.desc 0x10 8 % 64 = 0 →
     fld x.desc 0x18 8 % 64 = 0 → fld x.desc 0x20 8 % 64 = 0 → fld x.desc 0x20 8 ≤ 2 ^ 40 →
     exec (.copy qu) s = .next (started x s)) ∧
  (∀ (qu : Nat) (s : State) (x : Cmd),
     workStarts s qu 0x42 x = true → onlyAt x.desc [] = true →
     exec (.mark qu) s = .next (started x s)) ∧
  (∀ (qu seq : Nat) (s t : State) (rest : List (Nat × Nat)) (x : Cmd),
     s.pel.flagQueue = (qu, seq) :: rest → t = { s with pel := { s.pel with flagQueue := rest } } →
     findCmd s qu seq = some x → x.waitFlags = true → inService s = true → (takeFlags x t).1 = true →
     exec .launchFlagsFreed s = .next (takeFlags x t).2) ∧
  (∀ (qu seq : Nat) (s : State) (x : Cmd) (st : Nat),
     findCmd s qu seq = some x → freeStage s = some st → inService s = true → 32 ≤ qu → x.st = .accepted →
     x.start.isSome = true → x.waitFlags = false → retryDue s x = true →
     exec (.runStart qu seq) s = .next (beginRun x x.launch.toNat st s)) ∧
  (∀ (qu seq : Nat) (s t u : State) (x : Cmd) (st : Nat),
     findCmd s qu seq = some x → freeStage s = some st → inService s = true → 32 ≤ qu → x.st = .accepted →
     x.first.isSome = true → x.start.isNone = true → opOf x = 0x40 → (takeFlags x s).1 = true → retryDue s x = true →
     t = modCmd qu seq (fun y => { y with start := some (now s) }) (takeFlags x s).2 →
     u = beginRun x s.pel.launchCtr.toNat st t → (findCmd u qu seq).any (fun y => decide (y.st ≠ .accepted)) = true →
     exec (.redispatch qu seq) s = .next u) ∧
  (∀ (qu seq : Nat) (s : State) (x : Cmd) (launch : Nat) (r : Run) (st : Nat),
     findCmd s qu seq = some x → runOfCmd s x = some (launch, r) → r.stage = some st → inService s = true →
     x.st = .running → r.left = 0 → reqDue (ofStage st) s = false → retryDue s x = true →
     exec (.runEnded qu seq) s = .next (if r.opcode = 0x41 then copyRun x launch st r s else modCmd qu seq (fun y => { y with st := .ended }) s)) ∧
  (∀ (qu seq : Nat) (s : State) (x : Cmd),
     findCmd s qu seq = some x → inService s = true → x.st ≠ .ended → heldFor s x.start (timeoutNs x) = true →
     exec (.commandTimeout qu seq) s = .next (stopCmd x 0x26 (dropPinOf x { s with pel := { s.pel with flagQueue := s.pel.flagQueue.filter (fun e => e != (qu, seq)) } }))) ∧
  (∀ (qu seq : Nat) (s : State) (x : Cmd),
     findCmd s qu seq = some x → inService s = true → heldFor s x.readAt ms = true →
     exec (.commandReadTimeout qu seq) s = .next
        (match runOfCmd s x with
         | some (launch, _) => failRun launch 0x02 0 (modCmd qu seq (fun y => { y with readAt := none }) s)
         | none => stopCmd x 0x02 (modCmd qu seq (fun y => { y with readAt := none }) s))) ∧
  (∀ (qu : Nat) (s : State) (x : Cmd),
     s.pel.cmds.find? (fun x => x.queue == qu) = some x → inService s = true → x.st = .ended → retryDue s x = true →
     exec (.commandDecide qu) s = .next
        (if ringHeld s x then holdCmd x 1 s
         else match runOfCmd s x with
         | some (launch, r) => (match r.stage with | some st => decideRun x launch st r s | none => post x x.status x.detail (recInfo none false) s)
         | none => post x x.status x.detail (recInfo none false) s))

/-- A port in training alternates its rate, locks, and alarms after 10 s; PORT_DOWN retrains it and resends what flowed through it. PFC
pauses start, end and time out. FRAME_RECEIVE counts a frame by its FCS and delivers a host frame to its ring; HOST_TX_SEND sends the
frame at TAIL; FAB_HOSTQ_PTR_WRITE, LISTEN_ENTRY_WRITE and QP_ENTRY_WRITE write their tables. PTP messages and PPS edges steer the clock;
PTP_HOLDOVER and PPS_LOST report their loss. -/
def Obligations.PortsServe : Prop :=
  (∀ (p : Nat) (s : State),
     p < 8 → portTraining s p = true → aged s (s.port p).trySince (500 * ms) = true →
     exec (.portRateAlternate p) s = .next (alternate p s)) ∧
  (∀ (s : State),
     portTraining s 8 = true → aged s (s.port 8).trySince sec1 = true →
     exec (.mgmtRateAlternate) s = .next (alternate 8 s)) ∧
  (∀ (p : Nat) (s : State),
     p < 9 → portTraining s p = true →
     exec (.portLock p) s = .next (s.setPort p { s.port p with st := 1, rate := (s.port p).trying })) ∧
  (∀ (p : Nat) (s : State) (x : _),
     x = s.port p → p < 9 → portTraining s p = true → x.alarmed = false → aged s x.trainSince (10 * sec1) = true →
     exec (.portLockAlarm p) s = .next (raiseAlarm 0x0A01 (srcPort s p) ((portLanes s p).map (natLE 2)).flatten (s.setPort p { x with alarmed := true }))) ∧
  (∀ (p uncorr : Nat) (s : State),
     p < 9 → portUp s p = true →
     exec (.portDown p uncorr) s = .next
        (let moved := flowsOn s p
         let s1 := alarmW 0x0A02 (srcPort s p) [p, uncorr] (retrainPort p (bump (portBlk p + 0x118) uncorr s))
         moved.foldl (fun a e => resendFlow e.1 e.2 a) s1)) ∧
  (∀ (p : Nat × Nat) (frame : List Byte) (s : State),
     p.1 < 9 → portUp s p.1 = true → frame.length ≤ 9216 →
     exec (.frameReceive p frame) s = .next
        (pauseRequest p.1 p.2
          (if !fcsOk frame then bump (portBlk p.1 + 0x110) 1 s
           else
             let s1 := bump (portBlk p.1 + 0x100) 1 s
             if !addressed s p.1 frame then s1
             else if classify s frame = 0 ∧ p.1 < 8 then roceMeets frame s1
             else if classify s frame = 4 then ringPut p.1 (ringOf frame) 0 frame s1
             else s1))) ∧
  (∀ (p prio : Nat) (pause : Bool) (s : State) (x : _) (y : Port),
     x = s.port p →
     y = (if x.ignored.contains prio then
         match pause, tfind x.released prio with
         | false, none => { x with released := tput x.released prio (now s) }
         | false, some _ => x
         | true, none => x
         | true, some t =>
           if aged s t (10 * us) then
             { x with ignored := ldel x.ignored prio, released := tdel x.released prio, paused := tput x.paused prio (now s) }
           else { x with released := tdel x.released prio }
       else if pause then (if (tfind x.paused prio).isSome then x else { x with paused := tput x.paused prio (now s) })
       else { x with paused := tdel x.paused prio }) →
     p < 9 → prio < 8 → portUp s p = true →
     exec (.pfcPauseReceive p prio pause) s = .next (s.setPort p y)) ∧
  (∀ (p prio : Nat) (s : State) (x : _),
     x = s.port p → p < 9 → portUp s p = true → heldFor s (tfind x.paused prio) (100 * ms) = true →
     exec (.pfcPauseTimeout p prio) s = .next (alarmW 0x0A03 (srcPort s p) [prio] (s.setPort p { x with paused := tdel x.paused prio, ignored := ladd x.ignored prio }))) ∧
  (∀ (p r : Nat) (v : BitVec 64) (s : State),
     inService s = true → p < 9 → r < 16 →
     exec (.fabHostqPtrWrite p r v) s = .next (hostqPtrWrite p r v.toNat s)) ∧
  (∀ (p r : Nat) (s : State) (x : _) (a : _) (d : _) (len : _) (m : _) (frame : _) (prio : _),
     x = s.port p → a = x.descAt r (x.tail r) → d = (cohRead s none a 16).1 → len = fld d 6 2 → m = portMaster p →
     frame = (slotRead s 0 (fld d 0 6) (len / 64 + 2) len).1 → prio = framePrio frame → inService s = true → p < 9 →
     8 ≤ r → r < 16 → portUp s p = true → x.ringOn r = true → x.tail r ≠ x.head r → (tfind x.paused prio).isNone = true →
     exec (.hostTxSend p r) s = .next
        (let s0 := noteRange m (fld d 0 6) len (noteRange m a 16 s)
         let s1 := cohWrite s0 none m 0 (a + 8) (natLE 8 (fld d 8 8 ||| 1)) false
         let y := s1.port p
         let s2 := s1.setPort p { y with ringTail := tset 0 y.ringTail r (y.tail r + 1) }
         if p = 8 then { s2 with mgmt := { s2.mgmt with osQ := s2.mgmt.osQ ++ [frame] } }
         else bump (portBlk p + 0x108) 1 (s2.setPort p { s2.port p with sent := frame :: (s2.port p).sent }))) ∧
  (∀ (off : Nat) (v : BitVec 64) (s : State),
     inService s = true → off < 2048 → off % 8 = 0 →
     exec (.listenEntryWrite off v) s = .next (listenWrite off v.toNat s)) ∧
  (∀ (off : Nat) (v : BitVec 64) (s : State),
     inService s = true → off < 65536 → off % 8 = 0 →
     exec (.qpEntryWrite off v) s = .next (qpWrite off v.toNat s)) ∧
  (∀ (p : Nat) (ptp : BitVec 64) (rate : Int) (s : State) (f : _) (st : _) (far : _) (off : _),
     f = s.fab → st = (if f.timeSt = 0 then 1 else 2) → far = decide (1000000 < (ptpError s ptp).natAbs) →
     off = (if f.timeSt = 1 ∨ (2 ≤ f.timeSt ∧ far) then ptp - now s else f.ptpOffset) → hubRuns s = true →
     (timeSource s == 1 || timeSource s == 3) = true → p = timePort s → portUp s p = true →
     exec (.ptpMessage p ptp rate) s = .next ({ s with fab := { f with ptpLast := some (now s), timeSt := st, ptpOffset := off }, clk := { s.clk with inc := clampInc rate } })) ∧
  (∀ (s : State),
     (timeSource s == 1 || timeSource s == 3) = true → (s.fab.timeSt == 1 || s.fab.timeSt == 2) = true →
     heldFor s s.fab.ptpLast (10 * sec1) = true →
     exec (.ptpHoldover) s = .next (alarmW 0x0308 (srcPort s (timePort s)) [] { s with fab := { s.fab with timeSt := 3 } })) ∧
  (∀ (s : State) (f : _) (s1 : _),
     f = s.fab → s1 = { s with fab := { f with ppsLast := some (now s), ppsOk := true } } → hubRuns s = true →
     exec (.ppsEdge) s = .next
        (if !ppsOkNow s then { s with fab := { f with ppsIgnored := f.ppsIgnored + 1 } }
         else match timeSource s with
           | 2 => { s1 with clk := { s1.clk with inc := clampInc (Config.ppsRate s.free) }, free := s.free + 1, fab := { s1.fab with timeSt := if f.timeSt = 0 then 1 else 2 } }
           | 3 =>
             let e := phase s
             let s2 := { s1 with fab := { s1.fab with ptpOffset := f.ptpOffset - BitVec.ofInt 64 e } }
             if 1000 < e.natAbs then alarmW 0x0309 (srcPort s (timePort s)) [wrapInt 64 e] s2 else s2
           | _ => s1)) ∧
  (∀ (s : State),
     s.fab.ppsOk = true → heldFor s s.fab.ppsLast (2 * sec1) = true →
     exec (.ppsLost) s = .next (alarmW 0x0307 0x0000 [] { s with fab := { s.fab with ppsOk := false, ppsLast := none } }))

/-- A frame of a drill connection that authenticates with a CTR above the highest one accepted counts, ends the pending state and frees
what its ACK_SEQ acknowledges; then WRITE and READ reach their flow, ACK does nothing more, NAK drops the message it names, SACK marks the
messages the peer holds and CLOSE ends the connection. CONNECT with a matching entry, version, key digest and authenticator is accepted.
DRILL_RETRANSMIT resends and closes after 12 resends; DRILL_PENDING_TIMEOUT ends a connection that stayed pending for 100 ms. -/
def Obligations.DrillFramesAct : Prop :=
  (∀ (frame : List Byte) (s t : State) (x : Frame) (c : Conn),
     inService s = true → fld frame 1 1 = 0x10 → frameOpen s frame = some x → t = frameIn x s → connOf t x.conn = some c →
     exec (.drillWrite frame) s = .next (flowMsg x c t)) ∧
  (∀ (frame : List Byte) (s t : State) (x : Frame) (c : Conn),
     inService s = true → fld frame 1 1 = 0x11 → frameOpen s frame = some x → t = frameIn x s → connOf t x.conn = some c →
     exec (.drillRead frame) s = .next (flowMsg x c t)) ∧
  (∀ (frame : List Byte) (s t : State) (x : Frame) (c : Conn),
     inService s = true → fld frame 1 1 = 0x20 → frameOpen s frame = some x → t = frameIn x s → connOf t x.conn = some c →
     exec (.drillAck frame) s = .next t) ∧
  (∀ (frame : List Byte) (s t : State) (x : Frame) (c : Conn),
     inService s = true → fld frame 1 1 = 0x21 → frameOpen s frame = some x → t = frameIn x s → connOf t x.conn = some c →
     exec (.drillNak frame) s = .next (putConn x.conn (c.setFlow (frFlow x.head) { c.flow (frFlow x.head) with
          unacked := (c.flow (frFlow x.head)).unacked.filter (fun m => m.1 != frSeq x.head) }) t)) ∧
  (∀ (frame : List Byte) (s t : State) (x : Frame) (c : Conn),
     inService s = true → fld frame 1 1 = 0x31 → frameOpen s frame = some x → t = frameIn x s → connOf t x.conn = some c →
     exec (.drillSack frame) s = .next (putConn x.conn (c.setFlow (frFlow x.head) { c.flow (frFlow x.head) with
          unacked := (c.flow (frFlow x.head)).unacked.map (fun m =>
            if (m.1 - (frAck x.head + 1)).toNat < 64 ∧ (fld x.pay 0 8).testBit (m.1 - (frAck x.head + 1)).toNat then (m.1, m.2.1, m.2.2.1, true) else m) }) t)) ∧
  (∀ (frame : List Byte) (s t : State) (x : Frame) (c : Conn),
     inService s = true → fld frame 1 1 = 0x03 → frameOpen s frame = some x → t = frameIn x s → connOf t x.conn = some c →
     exec (.close frame) s = .next (endConn x.conn 0 false t)) ∧
  (∀ (peer : BitVec 128) (v4 : Bool) (msg : List Byte) (s : State) (e ver : Nat) (pay : List Byte),
     inService s = true → fld msg 1 1 = 0x01 → lisBest s peer.toNat v4 = some e → pay = msg.drop 48 →
     (msg.length == 48 + 1632 && frLen msg == 1632 && fld msg 4 4 == 0) = true →
     (mbBound s (lisFld s e 1 1 % 32) || decide (4096 ≤ (s.fab.conns.filter (fun c => c.2.pending.isNone)).length) ||
       decide (256 ≤ (s.fab.conns.filter (fun c => c.2.pending.isSome)).length)) = false →
     commonVersion (fld pay 0 1) (lisFld s e 4 1) = some ver →
     (s.sec.ek.isEmpty || (pay.drop 0x28).take 8 != (ekDigest s).take 8) = false →
     ((pay.drop 0x650).take 16 != (if (if bit (lisFld s e 0 1) 2 then groupSlot s (lisFld s e 2 1) else 0) = 0 then List.replicate 16 0
       else authOf s (if bit (lisFld s e 0 1) 2 then groupSlot s (lisFld s e 2 1) else 0) (msg.take (48 + 0x650)))) = false →
     exec (.connect peer v4 msg) s = .next (acceptConn e peer v4 msg ver s)) ∧
  (∀ (conn flow : Nat) (s : State) (c : Conn) (f : _) (l : _) (f1 : _),
     connOf s conn = some c → f = c.flow flow → l = (f.unacked.take 256).filter (fun m => c.version == 1 || !m.2.2.2) →
     f1 = { f with interval := min (2 * f.interval) 10000, resends := f.resends + 1, since := now s } →
     f.unacked.isEmpty = false → aged s f.since (f.interval * us) = true →
     exec (.drillRetransmit conn flow) s = .next
        (if 12 ≤ f.resends then endConn conn 2 true s
         else l.foldl (fun a m => sendOn conn (m.2.1 % 0x100) flow (decide (0x100 ≤ m.2.1)) 0 m.1.toNat 0 m.2.2.1 (bump (fabBlk + 0x100) 1 a))
                (putConn conn (c.setFlow flow f1) s))) ∧
  (∀ (conn : Nat) (s : State) (c : Conn),
     connOf s conn = some c → heldFor s c.pending (100 * ms) = true →
     exec (.drillPendingTimeout conn) s = .next (bump (fabBlk + 0x110) 1 (endConn conn 0 false s)))

/-- A queue pair that is ready takes RDMA WRITEs and READs in the order of their PSNs, delivers a SEND with the expected PSN to host
receive ring 0, answers a duplicate and refuses a PSN beyond it. ROCE_CNP halves the send rate, ROCE_RATE_RECOVER gives back an eighth of
the full rate. ROCE_ACK_RECEIVE releases, resends or waits; ROCE_ACK_TIMEOUT resends, and after seven retries puts the queue pair into
error. -/
def Obligations.RoceMessagesAct : Prop :=
  (∀ (qp psn : Nat) (rkey : BitVec 32) (va : BitVec 64) (data : List Byte) (s : State),
     inService s = true → qpReady s qp = true →
     exec (.roceRdmaWrite qp psn rkey va data) s = .next (rdmaIn qp { psn := BitVec.ofNat 24 psn, read := false, rkey := rkey, va := va, data := data, len := data.length } s)) ∧
  (∀ (qp psn : Nat) (rkey : BitVec 32) (va : BitVec 64) (len : Nat) (s : State),
     inService s = true → qpReady s qp = true →
     exec (.roceRdmaRead qp psn rkey va len) s = .next (rdmaIn qp { psn := BitVec.ofNat 24 psn, read := true, rkey := rkey, va := va, data := [], len := len } s)) ∧
  (∀ (p qp psn : Nat) (data : List Byte) (s : State) (x : _) (d : _) (s1 : _),
     x = s.qp qp → d = (BitVec.ofNat 24 psn - x.recvPsn).toNat →
     s1 = s.setQp qp { x with recvPsn := x.recvPsn + BitVec.ofNat 24 (rocePkts data.length) } → inService s = true →
     qpReady s qp = true → (s.port p).st = 1 → p < 8 →
     exec (.roceSend p qp psn data) s = .next
        (if d = 0 then roceAck qp (BitVec.ofNat 24 psn) [] (ringPut p 0 (qpnOf qp) data s1)
         else if 2 ^ 23 ≤ d then roceAck qp (BitVec.ofNat 24 psn) [] s
         else roceNak qp 0 x.recvPsn s)) ∧
  (∀ (qp : Nat) (s : State) (x : _),
     x = s.qp qp → qpReady s qp = true →
     exec (.roceCnp qp) s = .next (s.setQp qp { x with rate := x.rate / 2, cnpAt := now s })) ∧
  (∀ (qp : Nat) (s : State) (x : _),
     x = s.qp qp → qpReady s qp = true → x.rate < 65536 → aged s x.cnpAt (55 * us) = true →
     exec (.roceRateRecover qp) s = .next (s.setQp qp { x with rate := min 65536 (x.rate + 8192), cnpAt := now s })) ∧
  (∀ (qp kind psn : Nat) (s : State) (x : _) (p : _) (left : _) (y : _),
     x = s.qp qp → p = BitVec.ofNat 24 psn →
     left = x.sends.filter (fun m => decide ((m.1 - p).toNat < 2 ^ 23) && !(kind == 0 && m.1 == p)) →
     y = { x with sends := left, retries := 0, rnr := 0, rnrTimer := none, timer := if left.isEmpty then none else some (now s) } →
     qpReady s qp = true → x.sends.isEmpty = false →
     exec (.roceAckReceive qp kind psn) s = .next
        (match kind with
         | 0 => s.setQp qp y
         | 1 => roceResend qp (s.setQp qp { y with retries := x.retries })
         | _ => s.setQp qp { x with rnrTimer := some (now s), timer := none })) ∧
  (∀ (qp : Nat) (s : State) (x : Qp),
     x = s.qp qp → qpReady s qp = true → heldFor s x.rnrTimer (100 * us) = true →
     exec (.roceAckTimeout qp) s = .next (if 7 ≤ x.rnr then qpError qp s
         else roceResend qp (s.setQp qp { x with rnr := x.rnr + 1, rnrTimer := none, timer := some (now s) }))) ∧
  (∀ (qp : Nat) (s : State) (x : Qp),
     x = s.qp qp → qpReady s qp = true → heldFor s x.rnrTimer (100 * us) = false → heldFor s x.timer ms = true →
     exec (.roceAckTimeout qp) s = .next (if 7 ≤ x.retries then qpError qp s
         else roceResend qp (s.setQp qp { x with retries := x.retries + 1, timer := some (now s) })))

/-- LOG_RECORD stages a record of a code the module writes, LOG_WRITE writes a due loss record or else the oldest staged one. ALARM_RAISE
raises, ALARM_RESEND queues, once a whole second, the open entries whose COUNT has changed, ALARM_CLOSE closes after 10 s. MGMT_TRANSMIT
sends alarm frames within their share and then serves in rotation; TELEMETRY_SEND sends a datagram. TRACE_RECORD counts an enabled event
and records every Nth; WDR_TRACE_CFG_WRITE writes the configuration; COUNTER_SNAPSHOT captures every counter, once a whole second. -/
def Obligations.LogsAlarmsAndTelemetryRun : Prop :=
  (∀ (sev src code : Nat) (payload : List Byte) (s : State),
     logCodeOk code sev payload = true →
     exec (.logRecord sev src code payload) s = .next (logRec sev src code payload s)) ∧
  (∀ (s : State),
     pelsesoRuns s = true → (!s.wdr.staging.isEmpty || !s.wdr.lossSince.isEmpty) = true →
     exec (.logWrite) s = .next
        (if !s.wdr.lossSince.isEmpty then writeLog (lossRec s) { s with wdr := { s.wdr with lossSince := [] } }
         else match s.wdr.staging with
           | [] => s
           | r :: t => writeLog r { s with wdr := { s.wdr with staging := t } })) ∧
  (∀ (code src : Nat) (detail : List Byte) (s : State),
     1 ≤ code % 256 → code % 256 ≤ alarmEvents (code / 256) →
     exec (.alarmRaise code src detail) s = .next (raiseAlarm code src detail s)) ∧
  (∀ (s : State),
     newSecond s s.wdr.resendAt = true →
     exec (.alarmResend) s = .next (((openAlarms s).filter (fun e => e.2.count != e.2.sentCount)).foldl (fun a e => queueSend e.1 a) { s with wdr := { s.wdr with resendAt := now s } })) ∧
  (∀ (i : Nat) (s : State) (a : Alarm),
     tfind s.wdr.alarms i = some a → a.closed = false → aged s a.last (10 * sec1) = true →
     exec (.alarmClose i) s = .next (closeAlarm i s)) ∧
  (∀ (s : State),
     (s.port 8).st = 1 →
     exec (.mgmtTransmit) s = .next
        (if alarmWaits s && decide (shareNow s < alarmShare s) then alarmFrame s
         else match mgmtPick s with
           | some i => let s1 := mgmtServe i s; { s1 with mgmt := { s1.mgmt with ptr := (i + 1) % 3 } }
           | none => s)) ∧
  (∀ (kind : Nat) (s : State),
     pelsesoRuns s = true → s.mgmt.collector.isSome = true →
     exec (.telemetrySend kind) s = .next
        (match kind with
         | 1 => if alarmWaits s && decide (shareNow s < alarmShare s) then alarmFrame s else s
         | 2 => snapFrames (s.wdr.mirror.length + 1) s.wdr.mirror s
         | 3 => let (d, s1) := datagram 3 0 ((Config.consoleOut s.free).take 1456) s; modFrame d { s1 with free := s1.free + 1 }
         | 4 =>
           let k := fitCount 1456 s.wdr.stream
           let (d, s1) := datagram 4 k ((s.wdr.stream.take k).flatten) s
           modFrame d { s1 with wdr := { s1.wdr with stream := s1.wdr.stream.drop k } }
         | _ => s)) ∧
  (∀ (coll typ src : Nat) (data : BitVec 128) (s : State) (key : _) (n : _) (s1 : _),
     key = 16 * src + typ → n = tget 0 s.wdr.traceCount key →
     s1 = { s with wdr := { s.wdr with traceCount := tset 0 s.wdr.traceCount key (n + 1) } } → coll < 5 → 1 ≤ typ →
     typ ≤ 8 → bit s.wdr.traceCfg.toNat (typ - 1) = true → s.wdr.traceStopped = false →
     exec (.traceRecord coll typ src data) s = .next (if n % 2 ^ bits s.wdr.traceCfg.toNat 19 16 = 0 then collect coll typ src data s1 else s1)) ∧
  (∀ (v : BitVec 32) (s : State),
     s.boot.step = 6 → s.boot.lost = false →
     exec (.wdrTraceCfgWrite v) s = .next (traceCfgWrite v s)) ∧
  (∀ (s : State),
     newSecond s s.wdr.snapStamp = true →
     exec (.counterSnapshot) s = .next ({ s with wdr := { s.wdr with idle := s.wdr.mirror, mirror := s.counters, snapStamp := now s } }))

/-- REGISTER_WRITE writes a register of the control space. OS_CORE_ACCESS loads or stores for an OS core that awaits no earlier load:
control registers at once, an address outside every range raises an access fault, a tilth whose quarter is away makes the access wait, a
load that meets an uncorrectable word of hub SRAM raises an access fault, and other parts go to their units. DEV_READ reads what the
development port reaches and refuses and counts the rest. ID_SET_OFFSET sets the offset by one byte, ID_READ reads bytes from it and
wraps, ID_SCL_TIMEOUT drops the transaction. -/
def Obligations.RegistersAndIdentity : Prop :=
  (∀ (off width : Nat) (v : BitVec 64) (s : State),
     inService s = true → off < 0x1000_0000 →
     exec (.registerWrite off width v) s = .next (ctrlWrite 0 off width v.toNat s)) ∧
  (∀ (core : Nat) (write : Bool) (addr width : Nat) (v : BitVec 512) (err : BitVec 78) (s : State) (x : _) (unit : _) (ps : _) (s1 : _) (full : _),
     x = s.osCore core → unit = (match place s addr with | .guest _ => 8 | _ => 64) →
     ps = accessParts 9 unit addr width 0 →
     s1 = s.setOs core { data := if write then x.data else 0, fault := false, poison := false, await := [] } →
     full = (ps.any (fun p => match place s p.1 with | .guest _ => true | _ => false) && decide (256 < s.guest.outReqs.length + ps.length)) →
     inService s = true → core < 16 → x.await.isEmpty = true → full = false → oneCopy (bits err.toNat 77 72) = true →
     exec (.osCoreAccess core write addr width v err) s = .next
        (match place s addr with
         | .ctrl off => osCtrl core write off width v.toNat s1
         | _ =>
           if ps.any (fun p => place s p.1 == .none) then s.setOs core { x with fault := true }
           else if ps.any (fun p => tilthWaits s p.1) then bump 0x00D0_0218 1 s
           else if osHubFault write addr err.toNat s then osFound write addr width err.toNat (s.setOs core { x with fault := true })
           else if write then ps.foldl (fun a p => osStore core v.toNat p a) (osFound write addr width err.toNat s1)
           else ps.foldl (fun a p => osLoad core p a) (osFound write addr width err.toNat s1))) ∧
  (∀ (off width : Nat) (s : State) (r : _) (s1 : _),
     r = ctrlRead s off width → s1 = (if r.2 then logStray 0 (ctrlBase + off) width false s else s) → hubRuns s = true →
     s.fuse.loaded = true → s.fuse.debugOff = false → s.fuse.lifecycle = 0 →
     exec (.devRead off width) s = .next
        (if (width == 4 || width == 8) && devReach off then { s1 with readData := BitVec.ofNat 64 r.1, readErr := false }
         else { bump 0x00F0_0160 1 s with readData := 0, readErr := true })) ∧
  (∀ (bytes : List (BitVec 8)) (s : State),
     s.pwr.aux = true →
     exec (.idSetOffset bytes) s = .next (match bytes with | [b] => { s with idst := { s.idst with offset := b.toNat } } | _ => s)) ∧
  (∀ (n : Nat) (s : State),
     s.pwr.aux = true →
     exec (.idRead n) s = .next ({ s with idst := { s.idst with last := (List.range n).map (fun i => (idBytes s).getD ((s.idst.offset + i) % 256) 0) } })) ∧
  (∀ (s : State),
     s.pwr.aux = true →
     exec (.idSclTimeout) s = .next ({ s with idst := { s.idst with last := [] } }))

/-- INPUT_VOLTAGE_SAMPLE takes the reports and, unless power is lost, acts on the input; INPUT_RESTORED clears the condition or starts
precharge; POWER_GOOD starts cold. CONVERTER_FAIL, DOMAIN_CAP_ADJUST, DROOP_SENSOR_READING, TIN_MINV_STAMP_READ, POWER_MANAGER_TICK,
OFFSET_UPDATE, BRAKE_INPUT and BRAKE_HELD_ALARM act under the conditions of their rules. FALLOW_ENTRY drops an idle core; WAKE_REQUEST,
WAKE_GRANT, WAKE_FORCED and WAKE_COMPLETE wake it. TINE_FAIL tolerates a tine, or darkens the domain or fences the quarter;
AUXILIARY_SUPPLY_CHANGE follows the supply. -/
def Obligations.PowerIsManaged : Prop :=
  (∀ (reports : List (Nat × Nat)) (current : Nat) (s : State),
     exec (.inputVoltageSample reports current) s = .next
         (if s.boot.lost then takeInput current (takeReports reports s) else inputAct (takeInput current (takeReports reports s)))) ∧
  (∀ (s : State),
     s.pwr.aux = true → s.pwr.band = 0 → (s.boot.lost || (s.pwr.input != 0 && aged s s.pwr.bandSince (100 * ms))) = true →
     exec (.inputRestored) s = .next
        (if s.boot.lost then { s with pwr := { s.pwr with input := 0, stopped := false, precharge := true } }
         else { s with pwr := { s.pwr with input := 0 } })) ∧
  (∀ (buses : List Nat) (s : State) (t : _),
     t = coldState s → s.pwr.precharge = true → buses.length = 5 →
     buses.all (fun b => decide (1750 ≤ b) && decide (b ≤ 1850)) = true →
     exec (.powerGood buses) s = .next ({ t with boot := { t.boot with step := 1, lost := false, fwSampled := t.boot.fwRecover }, pwr := { t.pwr with precharge := false } })) ∧
  (∀ (mv : Nat) (s : State) (up : _),
     up = (decide (30000 ≤ mv) && decide (mv ≤ 60000)) → up ≠ s.pwr.aux →
     exec (.auxiliarySupplyChange mv) s = .next
        (if up then { s with pwr := { s.pwr with aux := true } }
         else { s with pwr := { s.pwr with aux := false, precharge := false, brake := none }, boot := { s.boot with modReset := none, fwRecover := false }, idst := { s.idst with offset := 0, last := [] } })) ∧
  (∀ (sc : Nat) (s : State),
     sc < 24 → s.boot.lost = false → s.pwr.scFailed.contains sc = false →
     exec (.converterFail sc) s = .next (busAct (busOf sc) (bump 0x00B4_0140 1 (alarmW 0x0104 0 [sc] { s with pwr := { s.pwr with scFailed := ladd s.pwr.scFailed sc } })))) ∧
  (∀ (q d ma : Nat) (s : State) (x : _) (down : _) (up : _),
     x = s.domain q d → down = (decide (domainLimit d x < ma) && aged s x.capAt 100 && decide (1 < x.cap)) →
     up = (decide (ma + 1000 < domainLimit d x) && aged s x.capAt us && decide (x.cap < 64)) → q < 4 →
     ((decide (d < 64) && (down || up)) || d == 67) = true →
     exec (.domainCapAdjust q d ma) s = .next (if d = 67 then quarterCapAdjust q ma s else s.setDomain q d { x with cap := if down then x.cap - 1 else x.cap + 1, capAt := now s })) ∧
  (∀ (q d sensor mv : Nat) (s : State) (x : _) (m : MinV) (lower : _),
     x = s.domain q d → m = { mv := mv, sensor := sensor, stamp := now s } →
     lower = (match x.minv with | some y => decide (mv < y.mv) | none => true) → q < 4 → d < 67 →
     sensor < domainSensors d → mv < 1024 → x.vset ≠ 0 → lower = true →
     exec (.droopSensorReading q d sensor mv) s = .next (s.setDomain q d { x with minv := some m })) ∧
  (∀ (q d : Nat) (s : State) (x : _),
     x = s.domain q d → q < 4 → d < 67 →
     exec (.tinMinvStampRead q d) s = .next ({ s.setDomain q d { x with minv := none } with readData := match x.minv with | some m => minvWord m | none => 0, readErr := false })) ∧
  (∀ (power demand : Nat) (s : State),
     s.boot.lost = false → s.clk.pllLocked = true →
     exec (.powerManagerTick power demand) s = .next (tickActed (tickBrake (tickPace power demand (tickAccount power demand s))))) ∧
  (∀ (avg : Nat) (s : State) (o : _),
     o = nextOffset s avg → pelsesoRuns s = true →
     exec (.offsetUpdate avg) s = .next (setPoints { s with pwr := { s.pwr with offset := o, offsetAt := if o = s.pwr.offset then s.pwr.offsetAt else some (now s) } })) ∧
  (∀ (asserted : Bool) (s : State),
     s.pwr.aux = true → asserted ≠ s.pwr.brake.isSome →
     exec (.brakeInput asserted) s = .next ({ s with pwr := { s.pwr with brake := if asserted then some (now s) else none, brakeAlarmed := false } })) ∧
  (∀ (s : State),
     s.boot.lost = false → heldFor s s.pwr.brake (60 * sec1) = true → s.pwr.brakeAlarmed = false →
     exec (.brakeHeldAlarm) s = .next (alarmW 0x0108 0 [] { s with pwr := { s.pwr with brakeAlarmed := true } })) ∧
  (∀ (q c fs : Nat) (s : State) (n : _) (k : _),
     n = 64 * q + c → k = s.core n → wfCore q c = true → coreFitted s n = true → pelsesoRuns s = true →
     (fs == 2 || fs == 3) = true → k.fallow < fs → fs = deepest s q → drained k = true → k.waiting.isEmpty = true →
     k.waking.isNone = true → k.arr.testing = false →
     exec (.fallowEntry q c fs) s = .next (syncRoles [n] (enterFallow n fs s))) ∧
  (∀ (q c : Nat) (s : State),
     wfCore q c = true → (s.quarter q).st = 0 →
     exec (.wakeRequest q c) s = .next (requestWake (64 * q + c) s)) ∧
  (∀ (q ma : Nat) (s : State) (w : Wake),
     nextWake s q = some w → q < 4 → ma + wakePeak (s.core w.core).fallow + 1000 ≤ 36000 →
     exec (.wakeGrant q ma) s = .next
        (let s1 := grantWake w s
         { s1 with pwr := { s1.pwr with wakePtr := tset 0 s1.pwr.wakePtr q (pastGrant 64 (w.core % 64)) } })) ∧
  (∀ (q c cap : Nat) (s : State) (n : _) (w : Wake) (a : _) (s1 : _),
     n = 64 * q + c → (tget [] s.pwr.wakes q).find? (fun w => w.core == n) = some w →
     a = now s + (if (s.core n).fallow = 3 then 38000 else 0) →
     s1 = { s with pwr := { s.pwr with segCap := tput s.pwr.segCap (n / 4) (cap, a, a + 2000) } } → wfCore q c = true →
     1 ≤ cap → cap ≤ 64 → aged s w.since (waitBudget s n) = true →
     exec (.wakeForced q c cap) s = .next (bump 0x00B4_0130 1 (grantWake w s1))) ∧
  (∀ (q c : Nat) (rows : List Nat) (other : Bool) (s : State) (n : _),
     n = 64 * q + c → wfCore q c = true → coreFitted s n = true →
     heldFor s (s.core n).waking (wakeTime (s.core n).fallow * us) = true →
     exec (.wakeComplete q c rows other) s = .next (wakesDone (syncRoles [n] (wakeDone n rows other s)))) ∧
  (∀ (q t : Nat) (s : State) (d : _) (x : _) (y : _) (s1 : _),
     d = tineDomain t → x = s.domain q d → y = { x with failed := ladd x.failed t } →
     s1 = bump 0x00B4_0138 1 (alarmW 0x0105 (srcTine q t) [d, y.failed.length] (s.setDomain q d y)) → q < 4 → t < 640 →
     s.boot.lost = false → x.failed.contains t = false → x.dark = false →
     exec (.tineFail q t) s = .next (if y.failed.length ≤ tolerated d then s1 else if d < 64 then domainDark q d s1 else quarterFault q true s1))

/-- HOUSEKEEPING_ROUND ends a round, once a whole millisecond, and with the first one of a new second the second of R446; ROUND_RESULTS,
within 200 µs, evaluates the results of a quarter or of the hub. ROUND_MISSING counts a missed round: the second in a row makes the
quarter blind, the tenth fences it. PACE_INTERVAL estimates a temperature from the pace ring and raises levels or trips the core;
CRITICAL_LIMIT_STEP lowers LIMIT by 10 mV, not below 0.60 V, every 100 µs; TRIP_RECHECK takes the rails off when a die still reads 125 °C.
-/
def Obligations.HeatIsManaged : Prop :=
  (∀ (s : State) (t : _),
     t = (now s).toNat / ms * ms → pelsesoRuns s = true → s.thm.roundAt.toNat < t →
     exec (.housekeepingRound) s = .next (roundEnds t s)) ∧
  (∀ (q : Nat) (temps : List (Nat × Int)) (minv : List (Nat × BitVec 64)) (volts amps tines : List Int) (s : State),
     q < 5 → pelsesoRuns s = true → s.thm.arrived.contains q = false → since s s.thm.roundAt ≤ 200 * us →
     exec (.roundResults q temps minv volts amps tines) s = .next (if q = 4 then hubRound temps (arrivedNow 4 s) else quarterRound q temps minv volts amps tines (arrivedNow q s))) ∧
  (∀ (q : Nat) (s : State) (t : _) (n : _) (s1 : _) (s2 : _),
     t = s.thm → n = tget 0 t.missed q + 1 →
     s1 = bump 0x00C0_0118 1 { s with thm := { t with arrived := ladd t.arrived q, missed := tset 0 t.missed q n, complete := tdel t.complete q } } →
     s2 = (if n = 2 then alarmW 0x020C (srcQuarter q) [n] { s1 with thm := { s1.thm with blind := ladd s1.thm.blind q } } else s1) →
     q < 4 → pelsesoRuns s = true → t.arrived.contains q = false → 200 * us < since s t.roundAt → (s.quarter q).st ≠ 2 →
     (s.quarter q).st ≠ 4 →
     exec (.roundMissing q) s = .next (if n = 10 then quarterFault q true s2 else s2)) ∧
  (∀ (q c : Nat) (s : State) (n : _) (k : _),
     n = 64 * q + c → k = s.core n → wfCore q c = true → coreFitted s n = true → pelsesoRuns s = true →
     3 ≤ limitLevel s n → 60 < k.therm.limit → aged s k.therm.limitAt (100 * us) = true →
     exec (.criticalLimitStep q c) s = .next (setPoint n (s.setCore n { k with therm := { k.therm with limit := k.therm.limit - 1, rise := 0, limitAt := now s } }))) ∧
  (∀ (q : Nat) (s : State) (k : _) (hot : _),
     k = s.quarter q →
     hot = [300 + 2 * q, 301 + 2 * q, 310 + 2 * q, 311 + 2 * q].any (fun i => match (s.region i).est with | some e => decide (deg 125 ≤ e) | none => false) →
     q < 4 → pelsesoRuns s = true → k.tripHold.isSome = true → heldFor s k.trips.getLast? (100 * ms) = true → hot = true →
     k.railsOff = false →
     exec (.tripRecheck q) s = .next (quarterRailsOff q s)) ∧
  (∀ (q c count mv : Nat) (s : State) (n : _) (t : _),
     n = 64 * q + c → t = (s.core n).therm → wfCore q c = true → coreFitted s n = true → pelsesoRuns s = true →
     (s.core n).fallow ≤ 1 → t.ring.isEmpty = false →
     exec (.paceInterval q c count mv) s = .next (paceNoted n (paceEst t count (corrected s q mv)) s))

/-- REFERENCE_CHECK enters and leaves holdover, once in 10 µs; LOOP_UNLOCK takes a quarter fault; TIME_BASE_SYNC moves a copy of the time
base without stepping back. CORE_RESET, CLUSTER_RESET, CORE_HEADLAND and QUARTER_FAULT act on their units. HEADLAND_END closes a quarter's
halves and multicasts after 200 µs; BASE_DIE_RESET, QUARTER_RESET_STEP and HARROW_WAVE carry its reset on; RETRY_LATER_REISSUE issues a
request again. MODULE_RESET, its timeout, MOD_RESET_INPUT and MOD_RESET_HELD drain and reset the module. -/
def Obligations.ResetsRun : Prop :=
  (∀ (dev : Int) (missed : Nat) (s : State) (c : _) (ppm : _) (due : _) (bad : _) (good : _) (c1 : _),
     c = s.clk → ppm = (dev + tget 0 s.thm.oscCorr 4).natAbs →
     due = decide (c.refAt.toNat / (10 * us) < (now s).toNat / (10 * us)) →
     bad = (decide (1000 < ppm) || decide (4 ≤ missed)) →
     good = (if decide (ppm ≤ 100) && missed == 0 then some (c.goodSince.getD (now s)) else none) →
     c1 = { c with refAt := now s } → c.pllLocked = true → due = true →
     exec (.referenceCheck dev missed) s = .next
        (match c.holdover with
         | none =>
           if bad then alarmW 0x0301 0 [ppm, missed] { s with clk := { c1 with holdover := some (now s), goodSince := none } } else { s with clk := c1 }
         | some _ =>
           let s1 := bump 0x00D0_0238 10 s
           if heldFor s good (10 * ms) then { s1 with clk := { c1 with holdover := none, goodSince := none } }
           else { s1 with clk := { c1 with goodSince := good } })) ∧
  (∀ (q cd : Nat) (s : State),
     q < 4 → 11 ≤ cd → cd ≤ 14 → pelsesoRuns s = true → s.clk.unlocked.contains (4 * q + cd - 11) = false →
     exec (.loopUnlock q cd) s = .next (quarterFault q false (alarmW 0x0302 (srcQuarter q) [cd] { s with clk := { s.clk with unlocked := ladd s.clk.unlocked (4 * q + cd - 11) } }))) ∧
  (∀ (q : Nat) (s : State) (lag : _) (next : Int),
     lag = tget 0 s.clk.copies q → next = (if 0 < lag then max 0 (lag - 1000) else min 0 (lag + 500000)) → q < 4 →
     s.clk.pllLocked = true → (s.quarter q).st ≤ 1 → (now s).toNat % ms = 0 →
     exec (.timeBaseSync q) s = .next ({ s with clk := { s.clk with copies := tset 0 s.clk.copies q next } })) ∧
  (∀ (q c : Nat) (s : State) (n : _),
     n = 64 * q + c → wfCore q c = true → coreFitted s n = true → pelsesoRuns s = true → (s.core n).away = false →
     (s.core n).fallow ≤ 1 →
     exec (.coreReset q c) s = .next (coreReset n s)) ∧
  (∀ (q k : Nat) (s : State),
     q < 4 → k < 16 → pelsesoRuns s = true → ((s.quarter q).st == 0 || (s.quarter q).st == 3) = true →
     exec (.clusterReset q k) s = .next (clusterReset q k s)) ∧
  (∀ (q c : Nat) (s : State) (n : _),
     n = 64 * q + c → wfCore q c = true → coreFitted s n = true → (s.core n).inService = true →
     exec (.coreHeadland q c) s = .next (s.setCore n { s.core n with headland := true })) ∧
  (∀ (q : Nat) (stay : Bool) (s : State),
     q < 4 → pelsesoRuns s = true →
     exec (.quarterFault q stay) s = .next (quarterFault q stay s)) ∧
  (∀ (q : Nat) (s : State) (k : _) (s2 : _),
     k = s.quarter q → s2 = shutQuarter q s → q < 4 → k.st = 1 → k.headlandEnded = false →
     aged s k.stamp (200 * us) = true →
     exec (.headlandEnd q) s = .next (s2.setQuarter q { s2.quarter q with headlandEnded := true, selfRefresh := true })) ∧
  (∀ (q rise : Nat) (s : State) (k : _) (cool : _),
     k = s.quarter q → cool = (k.tripHold.isNone || heldFor s k.tripHold (10 * sec1)) → q < 4 → k.st = 1 →
     k.headlandEnded = true → k.selfRefresh = true → rise ≤ 54 → cool = true → k.railsOff = false →
     exec (.baseDieReset q rise) s = .next (let s1 := baseDieReset q s; s1.setQuarter q { s1.quarter q with tripHold := none })) ∧
  (∀ (q : Nat) (ok : Bool) (s : State) (k : _) (late : _),
     k = s.quarter q → late = (k.st == 2 && decide (stepLimit k.step < since s k.resetAt)) → q < 4 → pelsesoRuns s = true →
     (k.st == 2 || k.st == 3) = true → k.step ≤ 6 →
     exec (.quarterResetStep q ok) s = .next (if !ok || late then fenceQuarter q s else if stepReady s q k then stepDone q s else s)) ∧
  (∀ (i : Nat) (s : State) (r : GReq),
     s.pel.retries[i]? = some r → heldFor s r.retry (5 * us) = true →
     exec (.retryLaterReissue i) s = .next (sendReq { r with retry := none } { s with pel := { s.pel with retries := s.pel.retries.eraseIdx i } })) ∧
  (∀ (q wv : Nat) (fails : List (Nat × Nat)) (settled : Bool) (s : State) (k : _),
     k = s.quarter q → q < 4 → wv < 8 → pelsesoRuns s = true → (k.st == 2 || k.st == 3) = true → k.step = 4 → wv = k.wave →
     exec (.harrowWave q wv fails settled) s = .next
        (if !k.raised then
           let s1 := { s with pwr := { s.pwr with harrowDemand := s.pwr.harrowDemand + 12 * (waveCores s q wv).length } }
           s1.setQuarter q { s1.quarter q with raised := true }
         else if rCovers s then runWave q wv fails settled s else s)) ∧
  (∀ (s : State) (s1 : _),
     s1 = startDrain s → pelsesoRuns s = true →
     exec (.moduleReset) s = .next (if drainDone s1 then resetModule 2 s1 else s1)) ∧
  (∀ (s : State),
     pelsesoRuns s = true → heldFor s s.boot.draining (10 * sec1) = true →
     exec (.moduleDrainTimeout) s = .next (resetModule 3 s)) ∧
  (∀ (asserted : Bool) (s : State) (b : _) (s1 : _),
     b = s.boot →
     s1 = { s with boot := { b with modReset := if asserted then some (now s) else none, fwSampled := if b.step = 1 ∧ !asserted then b.fwRecover else b.fwSampled } } →
     s.pwr.aux = true → asserted ≠ b.modReset.isSome →
     exec (.modResetInput asserted) s = .next
        (if !asserted || b.lost || b.step == 0 then s1
         else if pelsesoRuns s then (let s2 := startDrain s1; if drainDone s2 then resetModule 2 s2 else s2)
         else restart b.kind false s1)) ∧
  (∀ (s : State),
     pelsesoRuns s = true → s.boot.draining.isSome = true → heldFor s s.boot.modReset (10 * sec1) = true →
     exec (.modResetHeld) s = .next (resetModule 4 s))

/-- HUB_PLL_LOCK starts the time base or stops the boot. FIRMWARE_VERIFY starts Pelseso from a valid image, else recovery; RECOVERY_FETCH,
TFTP_BLOCK_RECEIVE and TFTP_BLOCK_TIMEOUT fetch an image; DHCP_ATTEMPT and DHCP_OFFER find the endpoints; CONSOLE_INPUT takes bytes from
the collector. OS_CORE_RELEASE ends the boot. FW_RECOVER_INPUT samples the pin. FUSE_BLOW blows the fuses that are due; BOOT_KEY_GENERATE
draws the boot key; ENTROPY_TEST_FAIL fails key requests until ENTROPY_START_UP_TEST. -/
def Obligations.BootRuns : Prop :=
  (∀ (ok : Bool) (s : State) (c : _) (c1 : _) (s1 : _),
     c = s.clk → c1 = (if c.pllLocked then c else { c with tb := 0, frac := 0, pllLocked := true }) →
     s1 = { s with clk := { c1 with locked := hubClocks s }, boot := { s.boot with step := 2 } } → s.boot.step = 1 →
     s.boot.modReset.isNone = true → s.boot.lost = false →
     exec (.hubPllLock ok) s = .next (if ok then retrainPort 8 s1 else bootStop 5 s)) ∧
  (∀ (asserted : Bool) (s : State) (win : _),
     win = (!s.boot.lost && s.boot.modReset.isNone && (s.boot.step == 1 || s.boot.step == 2)) → s.pwr.aux = true →
     asserted ≠ s.boot.fwRecover →
     exec (.fwRecoverInput asserted) s = .next ({ s with boot := { s.boot with fwRecover := asserted, fwSampled := s.boot.fwSampled || (asserted && win) } })) ∧
  (∀ (s : State),
     s.boot.step = 4 →
     exec (.firmwareVerify) s = .next
        (if !s.boot.fwSampled && imageOk s s.sec.image then startPelseso s.sec.image false s
         else { s with boot := { s.boot with step := 8 }, mgmt := { s.mgmt with fails := 0, restartAt := none, fetch := none, fetched := [] } })) ∧
  (∀ (s : State) (m : _) (due : _),
     m = s.mgmt → due = (match m.restartAt with | some t => decide (t ≤ now s) | none => true) → s.boot.step = 8 →
     portUp s 8 = true → m.recovery.isSome = true → m.fetch.isNone = true → due = true →
     exec (.recoveryFetch) s = .next (tftpAsk 1 { s with mgmt := { m with fetch := some (1, 1, now s), fetched := [], restartAt := none } })) ∧
  (∀ (block : Nat) (data : List Byte) (wrong : List (Nat × BitVec 8)) (s : State) (m : _) (n : Nat) (y1 : Nat) (y2 : W64),
     m = s.mgmt → m.fetch = some (n, y1, y2) → s.boot.step = 8 → block = n % 65536 → data.length ≤ 1024 →
     exec (.tftpBlockReceive block data wrong) s = .next
        (if data.length = 1024 then
           tftpAsk (n + 1) { s with mgmt := { m with fetch := some (n + 1, 1, now s), fetched := m.fetched ++ data } }
         else imageFetched (m.fetched ++ data) wrong (modFrame (tftpAck n) s))) ∧
  (∀ (s : State) (m : _) (n : Nat) (k : Nat) (t : W64),
     m = s.mgmt → m.fetch = some (n, k, t) → s.boot.step = 8 → aged s t sec1 = true →
     exec (.tftpBlockTimeout) s = .next (if 5 ≤ k then fetchFail s else tftpAsk n { s with mgmt := { m with fetch := some (n, k + 1, now s) } })) ∧
  (∀ (s : State) (m : _) (last : _),
     m = s.mgmt → last = decide (3 ≤ m.attempts) → dhcpRuns s = true → m.dhcpAt ≤ now s →
     exec (.dhcpAttempt) s = .next
        (modFrame (dhcpDiscover s)
          { s with mgmt := { m with attempts := if last then 0 else m.attempts + 1, dhcpAt := now s + BitVec.ofNat 64 (if last then 4 * sec1 else 2 * sec1) } })) ∧
  (∀ (addr : BitVec 32) (opt43 : List Byte) (s : State),
     dhcpRuns s = true →
     exec (.dhcpOffer addr opt43) s = .next ({ s with mgmt := { s.mgmt with addr := some addr, recovery := endpointOf 1 opt43, collector := endpointOf 2 opt43 } })) ∧
  (∀ (src : BitVec 32) (_port : Nat) (bytes : List Byte) (s : State) (from_ : _),
     from_ = (match s.mgmt.collector with | some c => c.1 == src | none => false) → inService s = true →
     portUp s 8 = true → from_ = true →
     exec (.consoleInput src _port bytes) s = .next ({ s with mgmt := { s.mgmt with consoleIn := s.mgmt.consoleIn ++ bytes } })) ∧
  (∀ (partly : List Nat) (s : State) (fl : _) (rv : _) (bad : _) (floor' : _) (rev' : _) (s1 : _),
     fl = floorFuses s → rv = revokeFuses s → bad = (fl ++ rv).filter (fun i => partly.contains i) →
     floor' = s.fuse.svnFloor + (fl.filter (fun i => !partly.contains i)).length →
     rev' = (rv.filter (fun i => !partly.contains i)).foldl (fun (v : BitVec 4) i => v ||| BitVec.ofNat 4 (2 ^ (i - 64))) s.fuse.revoked →
     s1 = { s with fuse := { s.fuse with svnFloor := floor', revoked := rev' }, sec := { s.sec with fuseRetry := bad, fusesBlown := true } } →
     pelsesoRuns s = true → s.sec.fusesBlown = false →
     exec (.fuseBlow partly) s = .next (bad.foldl (fun a i => alarmW 0x0B01 0x0002 [i] a) s1)) ∧
  (∀ (s : State) (d : _),
     d = drawEntropy s → pelsesoRuns s = true → s.sec.ek.isEmpty = true → s.sec.entropyOk = true →
     exec (.bootKeyGenerate) s = .next ({ d.2 with sec := { d.2.sec with ek := padTo 1568 (Config.mlkemEk d.1), dk := s.free } })) ∧
  (∀ (s : State),
     hubRuns s = true →
     exec (.entropyTestFail) s = .next (failKeys { alarmW 0x0803 0x0002 [] (bump 0x00E0_0118 1 s) with sec := { s.sec with entropyOk := false, entropyFailed := true } })) ∧
  (∀ (s : State),
     hubRuns s = true →
     exec (.entropyStartUpTest) s = .next ({ s with sec := { s.sec with entropyOk := true, entropyFailed := false } })) ∧
  (∀ (s : State) (ready : _),
     ready = ((List.range 4).all (fun q => (s.quarter q).st == 0 || (s.quarter q).st == 4) && (stackList s).all (fun m => (s.stack m).st != 0)) →
     s.boot.step = 5 → s.boot.lost = false → ready = true →
     exec (.osCoreRelease) s = .next ({ s with boot := { s.boot with step := 6 } }))

/-- For every state whose queue of waiting commands begins with c, step is exec of c on the state with the queue's rest, so the commands
run first in, first out; and since the opcode table gives no row any bits, no word of any length spells a command and placing one changes
nothing. The command form and the queue are the model's own (log 1). -/
def Obligations.StepRunsFront : Prop :=
  (∀ (c : Instr) (rest : List Instr) (s : State),
     s.pending = c :: rest →
     step s = exec c { s with pending := rest }) ∧
  (∀ (nbits w : Nat) (s : State),
     decodeTableWord nbits w = none ∧ s.withFetchWord nbits w = s)

/-- With an empty queue, a step while the hub PLL is locked adds INC once to the time base, kept as a 64-bit count of ns with a 32-bit
fraction, modulo 2^96, and every other part of the state is unchanged; before the PLL has locked the step changes nothing. That the idle
step stands for the clock's tick is the model's choice (log 1). -/
def Obligations.IdleTick : Prop :=
  (∀ (s : State),
     s.pending = [] → s.clk.pllLocked = true →
     ∃ t, step s = .next t ∧
         t.clk.tb.toNat * 2 ^ 32 + t.clk.frac.toNat = (s.clk.tb.toNat * 2 ^ 32 + s.clk.frac.toNat + s.clk.inc) % 2 ^ 96 ∧
         t = { s with clk := { s.clk with tb := t.clk.tb, frac := t.clk.frac } }) ∧
  (∀ (s : State),
     s.pending = [] → s.clk.pllLocked = false →
     step s = .next s)

/-- For every command with any operands and every state, exec answers a next state, never a fault and never a refusal, and that state's
queue of waiting commands is the one exec was given; so a step always answers a next state and takes exactly the front command from the
queue. A command whose rule's condition does not hold is an event that does not occur and leaves the state as it was (log 1). -/
def Obligations.EveryCommandCompletes : Prop :=
  (∀ (i : Instr) (s : State),
     ∃ t, exec i s = .next t ∧ t.pending = s.pending) ∧
  (∀ (s : State),
     ∃ t, step s = .next t ∧ t.pending = s.pending.tail)

/-- From every state, a step leaves the part, the fused-off cores, the lifecycle fuses, the root keys, the device seed, the debug, deny
and partition fuses, the MAC base and the calibration fuses as they were; no root-revocation fuse that reads blown reads otherwise, the
count of blown rollback-floor fuses and the counts of used and spoiled epoch fuses never fall, and no more epochs are spoiled than are
newly used. -/
def Obligations.FusesOnlyBlown : Prop :=
  ∀ (s t : State),
    step s = .next t →
    s.fuse.Le t.fuse

/-- From every state whose counts lie in the ranges that the fuse banks allow (64 rollback-floor fuses, 16,384 epoch fuses of which the
spoiled ones are used), whose identity-store offset lies within its 256 bytes, whose variant's number of cores is enabled in every half,
and whose memories and tables list their entries in rising order with no byte that reads as an unlisted one does, each step answers a
state of the same kind. The canonical form is the model's own way to hold a memory; that equal contents are equal data rests on it. -/
def Obligations.LegalStatesStay : Prop :=
  (∀ (s t : State),
     step s = .next t → s.Legal →
     t.Legal) ∧
  (∀ (s t : State),
     step s = .next t → s.canonical = true →
     t.canonical = true)

/-- For every command and every state, the next state's time base and its fraction are what they were, or both are 0, as at a cold start;
between commands the clock alone moves them. -/
def Obligations.TimeNeverFallsBack : Prop :=
  ∀ (i : Instr) (s t : State),
    exec i s = .next t →
    (t.clk.tb = s.clk.tb ∧ t.clk.frac = s.clk.frac) ∨ (t.clk.tb = 0 ∧ t.clk.frac = 0)

/-- Each of the 70 instructions of a sheaf is an issue of its format and operation with its own encoding rules and effect. A sheaf that is
parked by a fault, has ended, waits at a barrier or on the array, or whose stook is being killed issues none of them; so does a sheaf one
of whose registers in the instruction still awaits a result; and an instruction that may be guarded and that no lane executes changes
nothing but the issue record, the instruction cache and the sheaf's move to the next word. The issue record and the lines of the
instruction cache are the model's own detail (log 3). -/
def Obligations.SheafInstructionsIssueOneWay : Prop :=
  (∀ (x : Nat → Nat → Nat → W64 → W64 → Instr),
     x ∈ sheafInstrs →
     ∃ (fmt : W64 → Nat) (op : Nat) (form : Nat → Form) (mem : Bool) (hid : Nat → List Nat) (body : Env → State → Res),
         ∀ (q c sl : Nat) (w e : W64) (s : State), exec (x q c sl w e) s = .next (issue q c sl (fmt w) op w e form mem hid body s)) ∧
  (∀ (x : Nat → Nat → Nat → W64 → W64 → Instr) (q c sl : Nat) (w e : W64) (s : State),
     x ∈ sheafInstrs → canIssue s (64 * q + c) sl = false →
     exec (x q c sl w e) s = .next s) ∧
  (∀ (s : State) (n sl : Nat),
     (s.sheaf n sl).parked = true ∨ (s.sheaf n sl).ended = true ∨ (s.sheaf n sl).live = false ∨ (s.sheaf n sl).arrWait = true ∨ (s.sheaf n sl).barWait ≠ none ∨
       (∀ x, stookOf s n (s.sheaf n sl) = some x → x.killed ≠ none) →
     canIssue s n sl = false) ∧
  (∀ (v : Env) (w e : W64) (s : State) (fmt op : Nat) (form : Nat → Form) (mem : Bool) (hid : Nat → List Nat) (body : Env → State → Res),
     fetched fmt op w e form mem hid s v = true → v.m = 0 → (form v.w).guard = true →
     issue (v.n / 64) (v.n % 64) v.sl fmt op w e form mem hid body s = v.moved (v.noted s))

/-- Raising a fault in a sheaf that is not parked and whose stook is not being killed is to signal Pelseso over the control network (log
14) in a state that leaves everything outside the core as it was, every other core, and in its core every other sheaf, the stooks, the
locks, the array and all else but the record of that sheaf slot; of the sheaf itself it changes only that it is parked, that its watchdog
no longer waits and that it no longer polls a lock. The record names the cause, the detail, the sheaf, its stook and launch, the program
counter of the faulting instruction, the active lanes, the lanes of the fault, the instruction, the time, the core and the depth of the
stack, and the address where the cause keeps one. A parked sheaf and a sheaf of a stook that is being killed raise none. -/
def Obligations.FaultsArePrecise : Prop :=
  (∀ (s : State) (n sl cause detail addr instr : Nat) (lanes : W32) (t : Stook),
     tfind (s.core n).stooks (s.sheaf n sl).stook = some t → t.killed = none → (s.sheaf n sl).parked = false →
     ∃ r, raiseFault n sl cause detail lanes addr instr s = signal (srcCore n) 0 0 r ∧ { r with cores := s.cores } = s ∧ (∀ k, k ≠ n → r.core k = s.core k) ∧ (∀ j, j ≠ sl → r.sheaf n j = s.sheaf n j) ∧
         r.sheaf n sl = { s.sheaf n sl with parked := true, dog := false, lockWait := none } ∧
         { r.core n with sheaves := (s.core n).sheaves, faults := (s.core n).faults } = s.core n ∧
         (∀ j, j ≠ sl → tfind (r.core n).faults j = tfind (s.core n).faults j) ∧
         ∃ x, tfind (r.core n).faults sl = some x ∧ x.cause = cause ∧ x.detail = detail ∧ x.sheaf = sl ∧ x.stook = (s.sheaf n sl).stook ∧
           x.launch = t.launch ∧ x.pc = (s.sheaf n sl).pc ∧ x.active = (s.sheaf n sl).active ∧ x.lanes = lanes ∧ x.instr = BitVec.ofNat 64 instr ∧
           x.stamp = s.clk.tb ∧ x.source = srcCore n ∧ x.depth = (s.sheaf n sl).stack.length ∧
           x.addr = (if cause = 1 ∨ cause = 2 ∨ (cause = 4 ∧ (detail = 0x44 ∨ detail = 0x45)) then BitVec.ofNat 64 addr else 0)) ∧
  (∀ (s : State) (n sl cause detail addr instr : Nat) (lanes : W32),
     (s.sheaf n sl).parked = true ∨ (∀ t, tfind (s.core n).stooks (s.sheaf n sl).stook = some t → t.killed ≠ none) →
     raiseFault n sl cause detail lanes addr instr s = s)

/-- A sheaf that may issue, and that its scheduler picks, takes the watchdog fault when one is due, whatever the instruction; else, while
a line that its fetch asks for lies in a quarter in headland or reset or behind a channel that retrains, it waits, and a return
retry-later is counted; else the translation, permission or poison fault of fetching its words; else, when the instruction is ready and
some lane executes it, RESERVED_ENCODING for a reserved form or a word whose FMT and OP name no row, REGISTER_RANGE for a v register
beyond the run's, and a register-parity fault naming the first register among its operands with an error that a second read does not clear
and the lanes where it is, with the failures counted; else the fault that its own effect meets, and an arithmetic operation whose lanes
raise an exception that the run traps faults with cause ARITHMETIC, the lowest detail and its lanes. Each is raised with no other effect
of the instruction. -/
def Obligations.FaultsComeInOrder : Prop :=
  (∀ (q c sl fmt op : Nat) (w e : W64) (form : Nat → Form) (mem : Bool) (hid : Nat → List Nat) (body : Env → State → Res) (s : State) (t : Stook) (r : Run),
     wfSheaf q c sl = true → coreFitted s (64 * q + c) = true → canIssue s (64 * q + c) sl = true →
     stookOf s (64 * q + c) (s.sheaf (64 * q + c) sl) = some t → runOf s t.launch = some r → rowIs fmt op w.toNat = true →
     picked s (64 * q + c) sl = true → (s.sheaf (64 * q + c) sl).dog = true →
     issue q c sl fmt op w e form mem hid body s =
         raiseFault (64 * q + c) sl 6 0 (s.sheaf (64 * q + c) sl).active 0 w.toNat s) ∧
  (∀ (q c sl fmt op : Nat) (w e : W64) (form : Nat → Form) (mem : Bool) (hid : Nat → List Nat) (body : Env → State → Res) (s : State) (t : Stook) (r : Run) (cause d : Nat),
     wfSheaf q c sl = true → coreFitted s (64 * q + c) = true → canIssue s (64 * q + c) sl = true →
     stookOf s (64 * q + c) (s.sheaf (64 * q + c) sl) = some t → runOf s t.launch = some r → rowIs fmt op w.toNat = true →
     picked s (64 * q + c) sl = true → (s.sheaf (64 * q + c) sl).dog = false →
     fetchHeld s (64 * q + c) r.group w.toNat (s.sheaf (64 * q + c) sl).pc = false →
     fetchFault s (64 * q + c) r.group w.toNat (s.sheaf (64 * q + c) sl).pc = some (cause, d) →
     issue q c sl fmt op w e form mem hid body s =
         raiseFault (64 * q + c) sl cause d (s.sheaf (64 * q + c) sl).active (s.sheaf (64 * q + c) sl).pc.toNat 0 s) ∧
  (∀ (q c sl fmt op : Nat) (w e : W64) (form : Nat → Form) (mem : Bool) (hid : Nat → List Nat) (body : Env → State → Res) (s : State) (t : Stook) (r : Run),
     wfSheaf q c sl = true → coreFitted s (64 * q + c) = true → canIssue s (64 * q + c) sl = true →
     stookOf s (64 * q + c) (s.sheaf (64 * q + c) sl) = some t → runOf s t.launch = some r → rowIs fmt op w.toNat = true →
     (s.sheaf (64 * q + c) sl).dog = false → fetchHeld s (64 * q + c) r.group w.toNat (s.sheaf (64 * q + c) sl).pc = true →
     (fetchMiss s (64 * q + c) r.group w.toNat (s.sheaf (64 * q + c) sl).pc).any (fun a => fencedAddr s (64 * a)) = false →
     issue q c sl fmt op w e form mem hid body s =
         (if (fetchMiss s (64 * q + c) r.group w.toNat (s.sheaf (64 * q + c) sl).pc).any (fun a => retryAddr s (64 * a)) then bump 0x00D0_0218 1 s else s)) ∧
  (∀ (q c sl fmt op : Nat) (w e : W64) (form : Nat → Form) (mem : Bool) (hid : Nat → List Nat) (body : Env → State → Res) (s : State) (v : Env),
     fetched (w.toNat % 16) (w.toNat / 16 % 256) w e rowReserved.form false (fun _ => []) s v = true →
     rowIs fmt op w.toNat = false → sheafRow w.toNat = none → v.m ≠ 0 →
     issue (v.n / 64) (v.n % 64) v.sl fmt op w e form mem hid body s = raiseFault v.n v.sl 4 0x40 v.m 0 v.w (v.noted s)) ∧
  (∀ (v : Env) (w e : W64) (s : State) (fmt op : Nat) (form : Nat → Form) (mem : Bool) (hid : Nat → List Nat) (body : Env → State → Res),
     fetched fmt op w e form mem hid s v = true → v.m ≠ 0 → encOk v.w v.e (form v.w) = false →
     issue (v.n / 64) (v.n % 64) v.sl fmt op w e form mem hid body s = raiseFault v.n v.sl 4 0x40 v.m 0 v.w (v.noted s)) ∧
  (∀ (v : Env) (w e : W64) (s : State) (fmt op : Nat) (form : Nat → Form) (mem : Bool) (hid : Nat → List Nat) (body : Env → State → Res),
     fetched fmt op w e form mem hid s v = true → v.m ≠ 0 → encOk v.w v.e (form v.w) = true →
     beyond v.w v.run.regs (form v.w) = true →
     issue (v.n / 64) (v.n % 64) v.sl fmt op w e form mem hid body s = raiseFault v.n v.sl 4 0x41 v.m 0 v.w (v.noted s)) ∧
  (∀ (v : Env) (w e : W64) (s : State) (fmt op : Nat) (form : Nat → Form) (mem : Bool) (hid : Nat → List Nat) (body : Env → State → Res) (x : Nat),
     fetched fmt op w e form mem hid s v = true → v.m ≠ 0 → encOk v.w v.e (form v.w) = true →
     beyond v.w v.run.regs (form v.w) = false →
     (badRegs v.f v.m (vSources v.w (form v.w).opds)).find? (fun r => !(badLanes v.f v.m 2 r).isEmpty) = some x →
     issue (v.n / 64) (v.n % 64) v.sl fmt op w e form mem hid body s =
         raiseFault v.n v.sl 7 x (maskOf (badLanes v.f v.m 2 x)) 0 v.w (bump (eccBlk (v.n / 64) + 0x130)
           (badRegs v.f v.m (vSources v.w (form v.w).opds)).length (v.noted s))) ∧
  (∀ (v : Env) (w e : W64) (s : State) (fmt op : Nat) (form : Nat → Form) (mem : Bool) (hid : Nat → List Nat) (body : Env → State → Res) (cause d a : Nat) (l : W32),
     issues fmt op w e form mem hid s v = true → body v (v.noted s) = .fault cause d l a →
     issue (v.n / 64) (v.n % 64) v.sl fmt op w e form mem hid body s = raiseFault v.n v.sl cause d l a v.w (v.noted s)) ∧
  (∀ (v : Env) (w e : W64) (s : State) (fmt op ar d : Nat) (form : Nat → Form) (mem : Bool) (hid : Nat → List Nat) (fn : LaneFn) (l : W32),
     issues fmt op w e form mem hid s v = true → v.traps ar fn = some (d, l) → regClass v.dst = 1 →
     issue (v.n / 64) (v.n % 64) v.sl fmt op w e form mem hid (aluBody ar fn) s = raiseFault v.n v.sl 3 d l 0 v.w (v.noted s))

/-- ADD, SUB, MUL, MULHI, MAD, MIN, MAX, ABS, NEG, DIV, REM, SQRT, RCP, RSQRT, EXP2, LOG2, SIN, COS, AND, OR, XOR, NOT, SHL, SHR, ROTL,
POPC, CLZ, MOV, SEL, SETP, CVT, SHFL, REDU, VOTE and STAMP, whose completion is a write of lane values to the registers from a specifier
followed by the move to the next word, leave everything outside their core but the granary accesses of their own fetch, every other core,
every other sheaf and every other part of the core but the issue record and the instruction cache as they were; every party reads every
sector of memory as before; in their sheaf, every register outside the destination's range, for a v destination every lane that is given
no value, and for null every register reads as before. A v destination then reads back each lane's value and a u destination the value,
cut to 32 bits a register, the low half in the lower register. -/
def Obligations.InstructionsWriteTheirDestination : Prop :=
  (∀ (v : Env) (sp cnt : Nat) (vals : List (Nat × Nat)) (s t : State),
     (s.sheaf v.n v.sl).ended = false → t = v.wrote sp cnt vals s →
     { t with cores := s.cores } = fetchCount v.n v.run.group v.w v.f.pc s ∧
         { t with cores := s.cores, halves := s.halves, stackTab := s.stackTab, counters := s.counters, wdr := s.wdr } = s ∧
         (∀ stage pa, sectorView t stage pa = sectorView s stage pa) ∧ (∀ k, k ≠ v.n → t.core k = s.core k) ∧ (∀ j, j ≠ v.sl → t.sheaf v.n j = s.sheaf v.n j) ∧
         { t.core v.n with sheaves := (s.core v.n).sheaves, sched := (s.core v.n).sched, issues := (s.core v.n).issues, issued := (s.core v.n).issued, icache := (s.core v.n).icache } = s.core v.n ∧
         { t.sheaf v.n v.sl with u := (s.sheaf v.n v.sl).u, p := (s.sheaf v.n v.sl).p, v := (s.sheaf v.n v.sl).v, regBad := (s.sheaf v.n v.sl).regBad, pc := (s.sheaf v.n v.sl).pc, active := (s.sheaf v.n v.sl).active, stack := (s.sheaf v.n v.sl).stack } = s.sheaf v.n v.sl) ∧
  (∀ (v : Env) (sp cnt r lane : Nat) (vals : List (Nat × Nat)) (s : State),
     (s.sheaf v.n v.sl).ended = false → lane < 32 → (∀ e ∈ vals, e.1 < 32) →
     (r < sp ∨ sp + cnt ≤ r) ∨ sp = 0x1FF ∨ (sp + cnt ≤ 0x100 ∧ ∀ e ∈ vals, e.1 ≠ lane) →
     rd32 ((v.wrote sp cnt vals s).sheaf v.n v.sl) r lane = rd32 (s.sheaf v.n v.sl) r lane) ∧
  (∀ (v : Env) (sp cnt lane x : Nat) (vals : List (Nat × Nat)) (s : State),
     (s.sheaf v.n v.sl).ended = false → sp + cnt ≤ 0x100 → lane < 32 → (∀ e ∈ vals, e.1 < 32) → (vals.map Prod.fst).Nodup →
     (lane, x) ∈ vals →
     rdN ((v.wrote sp cnt vals s).sheaf v.n v.sl) sp cnt lane = x % 2 ^ (32 * cnt)) ∧
  (∀ (v : Env) (sp cnt lane : Nat) (e : Nat × Nat) (vals : List (Nat × Nat)) (s : State),
     (s.sheaf v.n v.sl).ended = false → 0x100 ≤ sp → sp + cnt ≤ 0x140 → lane < 32 → (∀ y ∈ e :: vals, y.1 < 32) →
     rdN ((v.wrote sp cnt (e :: vals) s).sheaf v.n v.sl) sp cnt lane = e.2 % 2 ^ (32 * cnt))

/-- For every p register and every lane, a source operand that names it is its full 32-bit mask. For every instruction that writes a p
register, bit l of that register is, after the write, bit l of the value where lane l executes the instruction and the bit it was where
lane l does not; every other p register is as it was. -/
def Obligations.PredicateWrites : Prop :=
  (∀ (f : Sheaf) (i lane : Nat),
     i < 8 →
     rd32 f (0x140 + i) lane = (f.preg i).toNat) ∧
  (∀ (v : Env) (i l : Nat) (e : Nat × Nat) (vals : List (Nat × Nat)) (s : State),
     (s.sheaf v.n v.sl).ended = false → i < 8 → l < 32 →
     (((v.wrote (0x140 + i) 1 (e :: vals) s).sheaf v.n v.sl).preg i).getLsbD l =
         (if v.m.getLsbD l then e.2.testBit l else ((s.sheaf v.n v.sl).preg i).getLsbD l)) ∧
  (∀ (v : Env) (i j : Nat) (vals : List (Nat × Nat)) (s : State),
     (s.sheaf v.n v.sl).ended = false → i < 8 → j < 8 → j ≠ i →
     ((v.wrote (0x140 + i) 1 vals s).sheaf v.n v.sl).preg j = (s.sheaf v.n v.sl).preg j)

/-- The 64 data columns are the 56 eight-bit vectors of weight 3 in ascending order and then 0x1F, 0x2F, 0x37, 0x3B, 0x3D, 0x3E, 0x4F and
0x57; check bit j has the vector 2^j. The syndrome of a pattern of wrong bits is linear in it. For every pattern of wrong bits among the
72, a syndrome equal to one column corrects that bit and leaves the others wrong, any other non-zero syndrome is uncorrectable, and the
zero syndrome corrects nothing. So every single error is corrected and every double error is found uncorrectable. -/
def Obligations.SecdedCode : Prop :=
  (  secdedCols = secdedCols.take 56 ++ [0x1F, 0x2F, 0x37, 0x3B, 0x3D, 0x3E, 0x4F, 0x57] ∧ (secdedCols.take 56).length = 56 ∧
         (secdedCols.take 56).Pairwise (· < ·) ∧ (∀ x, x ∈ secdedCols.take 56 ↔ x < 256 ∧ ((List.range 8).filter (fun j => x.testBit j)).length = 3) ∧
         secdedAll = secdedCols ++ [1, 2, 4, 8, 16, 32, 64, 128]) ∧
  (∀ (a b : Nat),
     secdedSyn (a ^^^ b) = secdedSyn a ^^^ secdedSyn b) ∧
  (∀ (err i : Nat),
     0 < err → err < 2 ^ 72 → i < 72 → secdedSyn err = secdedAll.getD i 0 →
     secdedDecode err = .ok 1 ((err ^^^ 2 ^ i) % 2 ^ 64)) ∧
  (∀ (err : Nat),
     0 < err → err < 2 ^ 72 → secdedSyn err ≠ 0 → (∀ i, i < 72 → secdedSyn err ≠ secdedAll.getD i 0) →
     secdedDecode err = .bad) ∧
  (∀ (err : Nat),
     err < 2 ^ 72 → secdedSyn err = 0 →
     secdedDecode err = .ok 0 (err % 2 ^ 64)) ∧
  (∀ (i j : Nat),
     i < 72 → j < 72 → i ≠ j →
     secdedDecode (2 ^ i) = .ok 1 0 ∧ secdedDecode (2 ^ i ^^^ 2 ^ j) = .bad)

/-- In fine mode the 256-byte unit u of region k at offset o is in entry u mod S of the list of populated stacks, at stack-local address
k·2^30 + (u div S)·256 + the low 8 bits of o. In either mode, for every address of LPDDR, the stack is a populated one, the stack-local
address lies below 80 GiB, its home half is of the quarter beside that stack, and the inverse mapping gives the address back, so that no
two addresses share a place. In a stack, the channel (bits 13:8 xor bits 19:14) and the channel-local address determine the stack-local
address, and burst column, bank and row lie within 32, 16 and 40,960 and determine the burst. -/
def Obligations.LpddrMapping : Prop :=
  (∀ (s : State) (x : Nat),
     x < lpddrSize s → s.pel.local_.contains (x / regionSize s) = false →
     lpLoc s x = ((stackList s).getD (x % regionSize s / 256 % (stackList s).length) 0,
         x / regionSize s * 2 ^ 30 + x % regionSize s / 256 / (stackList s).length * 256 + x % regionSize s % 256)) ∧
  (∀ (s : State) (x : Nat),
     x < lpddrSize s →
     (lpLoc s x).1 ∈ stackList s ∧ (lpLoc s x).2 < 80 * 2 ^ 30 ∧ homeHalf s x / 2 = (lpLoc s x).1 / 2 ∧ lpInv s (lpLoc s x).1 (lpLoc s x).2 = x) ∧
  (∀ (y z : Nat),
     y < 80 * 2 ^ 30 → z < 80 * 2 ^ 30 → lpChan y = lpChan z → lpLocal y = lpLocal z →
     y = z) ∧
  (∀ (y : Nat),
     y < 80 * 2 ^ 30 →
     lpChan y < 64 ∧ lpCol y < 32 ∧ lpBank y < 16 ∧ lpRow y < 40960 ∧ lpLocal y = (lpRow y * 16 + lpBank y) * 2048 + lpCol y * 64 + y % 64)

/-- For a store of words of w bytes, for every write at any address: the bytes written read back and every other byte is as it was; a word
written whole with unpoisoned data is not poisoned, a word touched by poisoned data is, a poisoned word written in part stays poisoned,
and a word that is not touched keeps its poison and its written bit. Clearing a range of whole words makes every byte of it read zero and
none of its words written or poisoned, and changes nothing outside. In the scratchpad of a core, a write reads back at the same offset and
leaves every other core's as it was. -/
def Obligations.WrittenWordsReadBack : Prop :=
  (∀ (w a : Nat) (b : List Byte) (p : Bool) (st : Store),
     (stRead w (stWrite w st a b p) a b.length).1 = b ∧
         (∀ c, c < a ∨ a + b.length ≤ c → mget (stWrite w st a b p).bytes c = mget st.bytes c)) ∧
  (∀ (w a i : Nat) (b : List Byte) (st : Store),
     0 < w → a ≤ i * w → (i + 1) * w ≤ a + b.length →
     i ∉ (stWrite w st a b false).psn ∧ i ∈ (stWrite w st a b false).wr ∧ i ∈ (stWrite w st a b true).psn) ∧
  (∀ (w a i : Nat) (b : List Byte) (p : Bool) (st : Store),
     0 < w → (i + 1) * w ≤ a ∨ a + b.length ≤ i * w →
     (i ∈ (stWrite w st a b p).psn ↔ i ∈ st.psn) ∧ (i ∈ (stWrite w st a b p).wr ↔ i ∈ st.wr)) ∧
  (∀ (w a i : Nat) (b : List Byte) (p : Bool) (st : Store),
     0 < w → i * w < a + b.length → a < (i + 1) * w → b ≠ [] →
     p = true ∨ (i ∈ st.psn ∧ (i * w < a ∨ a + b.length < (i + 1) * w)) →
     i ∈ (stWrite w st a b p).psn) ∧
  (∀ (w a n : Nat) (st : Store),
     0 < w →
     (∀ c, mget (stClear w st (a * w) (n * w)).bytes c = (if a * w ≤ c ∧ c < a * w + n * w then 0 else mget st.bytes c)) ∧
         (∀ i, (i ∈ (stClear w st (a * w) (n * w)).psn ↔ i ∈ st.psn ∧ ¬ (a ≤ i ∧ i < a + n)) ∧
           (i ∈ (stClear w st (a * w) (n * w)).wr ↔ i ∈ st.wr ∧ ¬ (a ≤ i ∧ i < a + n)))) ∧
  (∀ (n off k o len : Nat) (b : List Byte) (p : Bool) (s : State),
     off + b.length ≤ 0x20_0000 → o + len ≤ 0x20_0000 → k ≠ n →
     (tilRead (tilWrite n off b p s) n off b.length).1 = b ∧ tilRead (tilWrite n off b p s) k o len = tilRead s k o len ∧
         { tilWrite n off b p s with mem := s.mem } = s)

/-- When the home store of a quarter applies an update to a flag, the flag holds the updated value and every other flag of every store is
as it was; the waits that stay registered are those of other flags and those whose threshold, read as unsigned, lies above the value; each
wait on the flag whose threshold is met delivers that value to its sheaf's destination register, and the sheaf waits no longer; a sheaf
with no such wait is as it was, and so is everything but the cores and the flag stores. A sheaf has at most one wait without a result,
which the hypothesis says. -/
def Obligations.FlagUpdates : Prop :=
  (∀ (q i : Nat) (g : W32 → W32) (s t : State) (x : W32),
     x = g (tget 0 (s.flagStore q).vals i) → t = flagUpdate q i g s →
     tget 0 (t.flagStore q).vals i = x ∧ (∀ j, j ≠ i → tget 0 (t.flagStore q).vals j = tget 0 (s.flagStore q).vals j) ∧
         (∀ k, k ≠ q → t.flagStore k = s.flagStore k) ∧
         (∀ w, w ∈ (t.flagStore q).waits ↔ w ∈ (s.flagStore q).waits ∧ ¬ (w.flag = i ∧ w.threshold ≤ x)) ∧
         (∀ n sl, (∀ w ∈ (s.flagStore q).waits, w.flag = i → w.threshold ≤ x → ¬ (w.core = n ∧ w.sheaf = sl)) → t.sheaf n sl = s.sheaf n sl) ∧
         { t with cores := s.cores, flags := s.flags } = s) ∧
  (∀ (q i d : Nat) (g : W32 → W32) (s : State) (x : W32) (w : FlagWait),
     x = g (tget 0 (s.flagStore q).vals i) → w ∈ (s.flagStore q).waits → w.flag = i → w.threshold ≤ x →
     ((s.flagStore q).waits.map (fun (y : FlagWait) => (y.core, y.sheaf))).Nodup →
     (s.sheaf w.core w.sheaf).flagWait = some d →
     (flagUpdate q i g s).sheaf w.core w.sheaf =
         { wr32 (s.sheaf w.core w.sheaf) d 0xFFFF_FFFF [(0, x.toNat)] with flagWait := none })

/-- At reset no command waits; the time base stands at 0 with INC at its nominal 1 ns; every half has no plot way, no pin, no plot and the
pin limit and thrash settings of its registers; every mailbox is detached with empty areas; no work queue exists and each admin queue
does; every control endpoint has epoch 0; every core's thermal limit is 0.90 V; GLN_CFG and FAB_CFG hold the reset values of their
registers; the module-reset count and every 64-bit counter are 0; and tilth, plots, hub SRAM and LPDDR read zero. The state is legal and
in canonical form. That LPDDR reads zero at reset is the model's choice (log 22); the other values are the spec's. -/
def Obligations.ResetState : Prop :=
    State.reset.pending = [] ∧ State.reset.clk.tb = 0 ∧ State.reset.clk.frac = 0 ∧ State.reset.clk.inc = 2 ^ 32 ∧
        (∀ h, (State.reset.half h).plotWays = 0 ∧ (State.reset.half h).plots = [] ∧ (State.reset.half h).lines = [] ∧ (State.reset.half h).reserved = [] ∧
          (State.reset.half h).limit = (if State.reset.fuse.part = .b4 then 10 else 14) ∧ (State.reset.half h).thrashCfg = 0x1003_E880) ∧
        (∀ b, (State.reset.mb b).st = 0 ∧ (State.reset.mb b).client = 0 ∧ (State.reset.mb b).req = [] ∧ (State.reset.mb b).cpl = []) ∧
        (∀ q, State.reset.queue? q = if q < 32 then some (Queue.admin q) else none) ∧
        (∀ i, (State.reset.ep i).epoch = 0) ∧ (∀ n, (State.reset.core n).therm.limit = 90) ∧ State.reset.pel.glnCfg = 0x1800_1801 ∧
        State.reset.fab.cfg = 0xB7E0_0031 ∧ State.reset.boot.count = 0 ∧ (∀ off, counter State.reset off = 0) ∧
        (∀ a, mget State.reset.mem.tilth.bytes a = 0 ∧ mget State.reset.mem.plots.bytes a = 0 ∧ mget State.reset.mem.hub.bytes a = 0 ∧ mget State.reset.mem.lpddr a = 0) ∧
        State.reset.Legal ∧ State.reset.canonical = true
end

