-- ==== Sys2Proof/Laws/Issue.lean ====
section
/-! SUPPORT. What the issue of a sheaf instruction can do, said once: the prover of a statement about an instruction cites these lemmas instead of
unfolding `issue` and `perform`. -/
namespace Sys2Proof.Machine

variable {fmt op : Nat} {w0 e0 : W64} {form : Nat → Form} {mem : Bool} {hidden : Nat → List Nat} {s : State} {v : Env}

/-- What `fetched` says of the place, in the form in which `issue` looks it up. -/
theorem envAt_of_fetched (h : fetched fmt op w0 e0 form mem hidden s v = true) : envAt s v.n v.sl w0.toNat e0.toNat = some v := by
  simp only [fetched, Bool.and_eq_true, beq_iff_eq] at h
  obtain ⟨⟨⟨⟨⟨⟨⟨⟨⟨⟨⟨⟨⟨⟨hw, -⟩, he⟩, hf⟩, hm⟩, ht⟩, hr⟩, -⟩, -⟩, -⟩, -⟩, -⟩, -⟩, -⟩, -⟩ := h
  obtain ⟨n, sl, w, e, f, m, stook, run⟩ := v
  simp only at hw he hf hm ht hr
  subst hw he hf hm
  simp only [envAt, ht, hr]
/-- An instruction that is fetched begins: nothing holds it back before its own form is looked at. -/
theorem issue_of_fetched (body : Env → State → Res) (h : fetched fmt op w0 e0 form mem hidden s v = true) :
    issue (v.n / 64) (v.n % 64) v.sl fmt op w0 e0 form mem hidden body s =
      (perform v (form v.w) body (v.noted s)).getD s := by
  have hv := envAt_of_fetched h
  simp only [fetched, Bool.and_eq_true, beq_iff_eq, Bool.not_eq_true', Option.isNone_iff_eq_none] at h
  obtain ⟨⟨⟨⟨⟨⟨⟨⟨⟨⟨⟨⟨⟨⟨-, hrow⟩, -⟩, -⟩, -⟩, -⟩, -⟩, hwf⟩, hfit⟩, hcan⟩, hpick⟩, hdog⟩, hheld⟩, hfe⟩, hnr⟩ := h
  have hn : 64 * (v.n / 64) + v.n % 64 = v.n := Nat.div_add_mod v.n 64
  simp only [issue, hn, hv, hwf, hfit, hcan, hrow, hpick, hdog, hheld, begins, hfe, hnr, Env.noted, Bool.not_true, Bool.not_false, Bool.or_self,
    Bool.false_and, Bool.and_false, Bool.false_eq_true, if_false, if_true]
/-- Registers with no parity error leave nothing to repair. -/
theorem parity_clean (f : Sheaf) (m : W32) (rs : List Nat) (h : (badRegs f m rs).isEmpty = true) :
    badRegs f m rs = [] ∧ parity f m rs = none := by
  have h' := List.isEmpty_iff.1 h
  exact ⟨h', by simp [parity, h']⟩

/-- An instruction that meets nothing before its own effect does what its body answers, from the state in which the issue is noted. -/
theorem issue_of_issues (body : Env → State → Res) (h : issues fmt op w0 e0 form mem hidden s v = true) :
    issue (v.n / 64) (v.n % 64) v.sl fmt op w0 e0 form mem hidden body s =
      match body v (v.noted s) with
      | .fault cause d l a => raiseFault v.n v.sl cause d l a v.w (v.noted s)
      | .wait => s
      | .go t pc => advance v.n v.sl (pc.getD (nextPc v.w v.f.pc)) t := by
  simp only [issues, Bool.and_eq_true, Bool.not_eq_true', bne_iff_ne, ne_eq] at h
  obtain ⟨⟨⟨⟨hfe, hm0⟩, henc⟩, hbey⟩, hpar⟩ := h
  rw [issue_of_fetched body hfe]
  obtain ⟨hb, hp⟩ := parity_clean _ _ _ hpar
  have hm0' : (decide (v.m = 0)) = false := decide_eq_false hm0
  have hx : reread v.f v.m [] = v.f := rfl
  simp only [perform, hm0', henc, hbey, hp, hb, List.isEmpty_nil, hx, Bool.false_and, Bool.not_true, if_true, Bool.false_eq_true, if_false]
  generalize hb' : body { n := v.n, sl := v.sl, w := v.w, e := v.e, f := v.f, m := v.m, stook := v.stook, run := v.run } (v.noted s) = r
  cases r <;> rfl

/-- The issue of an instruction whose body goes on. -/
theorem issue_go (body : Env → State → Res) {t : State} {pc : Option W64} (h : issues fmt op w0 e0 form mem hidden s v = true)
    (hb : body v (v.noted s) = .go t pc) :
    issue (v.n / 64) (v.n % 64) v.sl fmt op w0 e0 form mem hidden body s = advance v.n v.sl (pc.getD (nextPc v.w v.f.pc)) t := by
  rw [issue_of_issues body h, hb]
/-- The issue of an instruction whose body faults: the record is written and the sheaf parks (R142). -/
theorem issue_fault (body : Env → State → Res) {cause d a : Nat} {l : W32} (h : issues fmt op w0 e0 form mem hidden s v = true)
    (hb : body v (v.noted s) = .fault cause d l a) :
    issue (v.n / 64) (v.n % 64) v.sl fmt op w0 e0 form mem hidden body s = raiseFault v.n v.sl cause d l a v.w (v.noted s) := by
  rw [issue_of_issues body h, hb]
/-- The issue of an instruction whose body waits changes nothing. -/
theorem issue_wait (body : Env → State → Res) (h : issues fmt op w0 e0 form mem hidden s v = true) (hb : body v (v.noted s) = .wait) :
    issue (v.n / 64) (v.n % 64) v.sl fmt op w0 e0 form mem hidden body s = s := by
  rw [issue_of_issues body h, hb]

/-- An ordinary operation whose lanes raise no trapped exception writes its lanes' results. -/
theorem issue_alu (ar : Nat) (fn : LaneFn) (h : issues fmt op w0 e0 form mem hidden s v = true) (ht : v.traps ar fn = none) :
    issue (v.n / 64) (v.n % 64) v.sl fmt op w0 e0 form mem hidden (aluBody ar fn) s = v.wrote v.dst v.cnt (v.results ar fn) s := by
  refine issue_go (aluBody ar fn) (pc := none) h ?_
  simp only [Env.traps] at ht
  simp only [aluBody, ht, Env.dst, Env.cnt, Env.results]

end Sys2Proof.Machine
end

