-- ==== Sys2Proof/Laws/Tables.lean ====
section
/-! SUPPORT. Laws of the sparse tables and memories: reading after writing, and the canonical form that every operation keeps. -/
namespace Sys2Proof.Machine

variable {α : Type}

/-! ## Reading after inserting -/

theorem tfind_tput_self (t : Tab α) (i : Nat) (x : α) : tfind (tput t i x) i = some x := by
  induction t with
  | nil => simp [tput, tfind]
  | cons e t ih =>
    obtain ⟨k, v⟩ := e
    unfold tput
    split
    · simp [tfind]
    · split
      · simp [tfind]
      · simp_all [tfind]

theorem tfind_tput_other (t : Tab α) (i j : Nat) (x : α) (h : j ≠ i) : tfind (tput t i x) j = tfind t j := by
  induction t with
  | nil => simp [tput, tfind, h]
  | cons e t ih =>
    obtain ⟨k, v⟩ := e
    unfold tput
    split
    · subst_vars; simp [tfind, h]
    · split
      · simp only [tfind, h, if_false]
      · simp only [tfind, ih]

/-! ## Rising tables -/

/-- Every index of a table is above a bound. -/
def above (t : Tab α) (k : Nat) : Prop := ∀ e ∈ t, k < e.1

theorem tRising_cons (e : Nat × α) (t : Tab α) : tRising (e :: t) = true ↔ above t e.1 ∧ tRising t = true := by
  induction t generalizing e with
  | nil => simp [tRising, above]
  | cons f t ih =>
    obtain ⟨i, x⟩ := e
    obtain ⟨j, y⟩ := f
    simp only [tRising, Bool.and_eq_true, decide_eq_true_eq]
    rw [ih (j, y)]
    constructor
    · rintro ⟨hij, ha, hr⟩
      refine ⟨?_, ha, hr⟩
      intro e he
      rcases List.mem_cons.1 he with rfl | he
      · exact hij
      · exact Nat.lt_trans hij (ha e he)
    · rintro ⟨ha, hb, hr⟩
      exact ⟨ha (j, y) (by simp), hb, hr⟩

theorem above_tput (t : Tab α) (i k : Nat) (x : α) (h : above t k) (hi : k < i) : above (tput t i x) k := by
  induction t with
  | nil => intro e he; simp [tput] at he; subst he; exact hi
  | cons f t ih =>
    obtain ⟨j, y⟩ := f
    have ht : above t k := fun e he => h e (by simp [he])
    unfold tput
    split
    · intro e he
      rcases List.mem_cons.1 he with rfl | he
      · exact hi
      · exact ht e he
    · split
      · intro e he
        rcases List.mem_cons.1 he with rfl | he
        · exact hi
        · exact h e he
      · intro e he
        rcases List.mem_cons.1 he with rfl | he
        · exact h _ (by simp)
        · exact ih ht e he

theorem tRising_tput (t : Tab α) (i : Nat) (x : α) (h : tRising t = true) : tRising (tput t i x) = true := by
  induction t with
  | nil => simp [tput, tRising]
  | cons f t ih =>
    obtain ⟨j, y⟩ := f
    obtain ⟨ha, hr⟩ := (tRising_cons _ _).1 h
    unfold tput
    split
    · rename_i hij
      subst hij
      exact (tRising_cons _ _).2 ⟨ha, hr⟩
    · split
      · rename_i _ hlt
        exact (tRising_cons _ _).2 ⟨fun e he => by
          rcases List.mem_cons.1 he with rfl | he
          · exact hlt
          · exact Nat.lt_trans hlt (ha e he), h⟩
      · rename_i hne hnlt
        exact (tRising_cons _ _).2 ⟨above_tput t i j x ha (by omega), ih hr⟩

theorem mem_tdel (t : Tab α) (i : Nat) (e : Nat × α) (h : e ∈ tdel t i) : e ∈ t := (List.mem_filter.1 h).1

theorem tRising_filter (t : Tab α) (p : Nat × α → Bool) (h : tRising t = true) : tRising (t.filter p) = true := by
  induction t with
  | nil => rfl
  | cons f t ih =>
    obtain ⟨ha, hr⟩ := (tRising_cons _ _).1 h
    by_cases hf : p f = true
    · rw [List.filter_cons_of_pos hf]
      exact (tRising_cons _ _).2 ⟨fun e he => ha e (List.mem_filter.1 he).1, ih hr⟩
    · rw [List.filter_cons_of_neg hf]
      exact ih hr

theorem tRising_tdel (t : Tab α) (i : Nat) (h : tRising t = true) : tRising (tdel t i) = true := tRising_filter t _ h

theorem tfind_tdel_self (t : Tab α) (i : Nat) : tfind (tdel t i) i = none := by
  induction t with
  | nil => rfl
  | cons f t ih =>
    obtain ⟨j, y⟩ := f
    by_cases h : i = j
    · subst h; simpa [tdel] using ih
    · have : j ≠ i := fun e => h e.symm
      simpa [tdel, this, tfind, h] using ih

theorem tfind_tdel_other (t : Tab α) (i j : Nat) (hj : j ≠ i) : tfind (tdel t i) j = tfind t j := by
  induction t with
  | nil => rfl
  | cons f t ih =>
    obtain ⟨k, y⟩ := f
    by_cases h : k = i
    · subst h; simpa [tdel, tfind, hj] using ih
    · have e : tdel ((k, y) :: t) i = (k, y) :: tdel t i := by simp [tdel, h]
      rw [e]; simp only [tfind, ih]

theorem mem_tput (t : Tab α) (i : Nat) (x : α) (e : Nat × α) (h : e ∈ tput t i x) : e = (i, x) ∨ e ∈ t := by
  induction t with
  | nil => simp [tput] at h; exact .inl h
  | cons f t ih =>
    obtain ⟨j, y⟩ := f
    unfold tput at h
    split at h
    · rcases List.mem_cons.1 h with rfl | h
      · exact .inl rfl
      · exact .inr (List.mem_cons_of_mem _ h)
    · split at h
      · rcases List.mem_cons.1 h with rfl | h
        · exact .inl rfl
        · exact .inr h
      · rcases List.mem_cons.1 h with rfl | h
        · exact .inr (by simp)
        · rcases ih h with h | h
          · exact .inl h
          · exact .inr (List.mem_cons_of_mem _ h)

/-! ## Setting an entry -/

variable [DecidableEq α]

theorem tset_rising (d : α) (t : Tab α) (i : Nat) (x : α) (h : tRising t = true) : tRising (tset d t i x) = true := by
  unfold tset
  split
  · exact tRising_tdel t i h
  · exact tRising_tput t i x h

/-- Reading a changed entry back. -/
@[simp] theorem tget_tset_self (d : α) (t : Tab α) (i : Nat) (x : α) : tget d (tset d t i x) i = x := by
  unfold tset
  split
  · rename_i hx; simp [tget, tfind_tdel_self t i, hx]
  · simp [tget, tfind_tput_self]

/-- Every other entry is as before. -/
@[simp] theorem tget_tset_other (d : α) (t : Tab α) (i j : Nat) (x : α) (hj : j ≠ i) : tget d (tset d t i x) j = tget d t j := by
  unfold tset
  split
  · simp [tget, tfind_tdel_other t i j hj]
  · simp [tget, tfind_tput_other t i j x hj]

/-! ## The canonical form of a memory -/

theorem wf_iff (m : Mem) : Memory.wf m = true ↔ tRising m = true ∧ ∀ e ∈ m, e.2 ≠ 0 := by
  simp [Memory.wf, List.all_eq_true]

/-- Writing one byte keeps the canonical form. -/
theorem mset_wf (m : Mem) (a : Nat) (b : Byte) (h : Memory.wf m = true) : Memory.wf (mset m a b) = true := by
  rw [wf_iff] at h ⊢
  refine ⟨tset_rising 0 m a b h.1, ?_⟩
  intro e he
  unfold mset tset at he
  split at he
  · exact h.2 e (mem_tdel m a e he)
  · rename_i hb
    rcases mem_tput m a b e he with rfl | he
    · exact hb
    · exact h.2 e he

/-- Writing bytes keeps the canonical form. -/
theorem mwrite_wf (l : List Byte) (m : Mem) (a : Nat) (h : Memory.wf m = true) : Memory.wf (mwrite m a l) = true := by
  induction l generalizing m a with
  | nil => exact h
  | cons b t ih => exact ih (mset m a b) (a + 1) (mset_wf m a b h)

theorem filter_wf (m : Mem) (p : Nat × Byte → Bool) (h : Memory.wf m = true) : Memory.wf (m.filter p) = true := by
  rw [wf_iff] at h ⊢
  exact ⟨tRising_filter m p h.1, fun e he => h.2 e (List.mem_filter.1 he).1⟩

/-- Reading back the byte that was written. -/
@[simp] theorem mget_mset_self (m : Mem) (a : Nat) (b : Byte) : mget (mset m a b) a = b := tget_tset_self 0 m a b

/-- A write leaves every other byte alone. -/
@[simp] theorem mget_mset_other (m : Mem) (a c : Nat) (b : Byte) (hc : c ≠ a) : mget (mset m a b) c = mget m c := tget_tset_other 0 m a c b hc

/-- A write of bytes leaves every byte outside them alone. -/
theorem mget_mwrite_outside (l : List Byte) (m : Mem) (a c : Nat) (hc : c < a ∨ a + l.length ≤ c) : mget (mwrite m a l) c = mget m c := by
  induction l generalizing m a with
  | nil => rfl
  | cons b t ih =>
    simp only [List.length_cons] at hc
    rw [mwrite, ih (mset m a b) (a + 1) (by omega), mget_mset_other m a c b (by omega)]

/-- Reading back the bytes that were written. -/
theorem mread_mwrite (l : List Byte) (m : Mem) (a : Nat) : mread (mwrite m a l) a l.length = l := by
  induction l generalizing m a with
  | nil => rfl
  | cons b t ih =>
    simp only [List.length_cons, mread, mwrite]
    rw [ih (mset m a b) (a + 1), mget_mwrite_outside t (mset m a b) (a + 1) a (.inl (by omega)), mget_mset_self m a b]

/-- A store of written and poisoned words keeps its bytes canonical under a write. -/
theorem stWrite_wf (w : Nat) (st : Store) (a : Nat) (b : List Byte) (psn : Bool) (h : Memory.wf st.bytes = true) :
    Memory.wf (stWrite w st a b psn).bytes = true := mwrite_wf b st.bytes a h

/-- Dropping words keeps it. -/
theorem stClear_wf (w : Nat) (st : Store) (a n : Nat) (h : Memory.wf st.bytes = true) : Memory.wf (stClear w st a n).bytes = true :=
  filter_wf st.bytes _ h

/-- The memories right after reset are canonical. -/
theorem reset_memories_wf : Memory.wf State.reset.mem.lpddr = true ∧ Memory.wf State.reset.mem.plots.bytes = true ∧
    Memory.wf State.reset.mem.tilth.bytes = true ∧ Memory.wf State.reset.mem.hub.bytes = true := by decide

end Sys2Proof.Machine
end

