-- ==== Sys2Proof/Laws/Keeps.lean ====
section
/-! SUPPORT. One lemma for each operation and each command: the relation Keeps, and that the shared operations, the memories and the issue of an instruction keep (Safety.Keeps): the queue of waiting commands, fuses that are only blown,
the ranges of their counts, the time base, the canonical form. -/
namespace Sys2Proof.Machine

/-! ## The relation -/

theorem Fuses.Le.refl (a : Fuses) : a.Le a :=
  ⟨rfl, rfl, rfl, rfl, BitVec.and_self, Nat.le_refl _, rfl, rfl, rfl, rfl, Nat.le_refl _, Nat.le_refl _, Nat.le_refl _, rfl, rfl, rfl, rfl, rfl, rfl, rfl⟩

theorem Fuses.Le.trans {a b c : Fuses} (h : a.Le b) (k : b.Le c) : a.Le c where
  part := k.part.trans h.part
  offCores := k.offCores.trans h.offCores
  lifecycle := k.lifecycle.trans h.lifecycle
  roots := k.roots.trans h.roots
  revoked := by
    have h1 := h.revoked
    have h2 := k.revoked
    rw [← h1, BitVec.and_assoc, h2]
  svnFloor := Nat.le_trans h.svnFloor k.svnFloor
  seed := k.seed.trans h.seed
  debugOff := k.debugOff.trans h.debugOff
  hdgDeny := k.hdgDeny.trans h.hdgDeny
  partition := k.partition.trans h.partition
  epochUsed := Nat.le_trans h.epochUsed k.epochUsed
  epochSpoiled := Nat.le_trans h.epochSpoiled k.epochSpoiled
  spoiledUsed := by have := h.spoiledUsed; have := k.spoiledUsed; omega
  macBase := k.macBase.trans h.macBase
  thermK := k.thermK.trans h.thermK
  i70 := k.i70.trans h.i70
  accessPj := k.accessPj.trans h.accessPj
  tempCal := k.tempCal.trans h.tempCal
  oscCurve := k.oscCurve.trans h.oscCurve
  refCurve := k.refCurve.trans h.refCurve

/-- What the fuses themselves hold: the load flags left out. -/
abbrev Fuses.blown (f : Fuses) : Fuses := { f with loaded := false, curveDefault := false }

theorem Fuses.le_of_blown {a b : Fuses} (h : b.blown = a.blown) : a.Le b := by
  cases a; cases b
  simp only [Fuses.blown, Fuses.mk.injEq] at h
  obtain ⟨rfl, rfl, -, rfl, rfl, rfl, rfl, rfl, rfl, rfl, rfl, rfl, rfl, rfl, rfl, rfl, rfl, rfl, rfl, rfl, -⟩ := h
  exact ⟨rfl, rfl, rfl, rfl, BitVec.and_self, Nat.le_refl _, rfl, rfl, rfl, rfl, Nat.le_refl _, Nat.le_refl _, Nat.le_refl _, rfl, rfl, rfl, rfl, rfl, rfl, rfl⟩

theorem Fuses.even_of_le {a b : Fuses} (h : a.Le b) : b.even = a.even := by simp only [Fuses.even, h.part, h.offCores]

theorem keepsRefl (s : State) : Keeps s s := ⟨rfl, Fuses.Le.refl _, id, .inl ⟨rfl, rfl⟩, id⟩

theorem keepsTrans {a b c : State} (k : Keeps b c) (h : Keeps a b) : Keeps a c where
  pending := k.pending.trans h.pending
  fuse := h.fuse.trans k.fuse
  legal := fun x => k.legal (h.legal x)
  time := by
    rcases k.time with ⟨h1, h2⟩ | h0
    · rcases h.time with ⟨h3, h4⟩ | ⟨h3, h4⟩
      · exact .inl ⟨h1.trans h3, h2.trans h4⟩
      · exact .inr ⟨h1.trans h3, h2.trans h4⟩
    · exact .inr h0
  canon := fun x => k.canon (h.canon x)

/-- The parts of a state that the relation speaks of. -/
def State.key (s : State) : List Instr × Fuses × Nat × W64 × W32 × List Bool :=
  (s.pending, s.fuse.blown, s.idst.offset, s.clk.tb, s.clk.frac,
   [Memory.wf s.mem.lpddr, Memory.wf s.mem.plots.bytes, Memory.wf s.mem.tilth.bytes, Memory.wf s.mem.hub.bytes, Memory.wf s.fab.listen,
    Memory.wf s.fab.qpTab, tRising s.counters, tRising s.cores, tRising s.halves, tRising s.stackTab, tRising s.links, tRising s.quarters,
    tRising s.flags, tRising s.routes, tRising s.os, tRising s.pel.mbs, tRising s.pel.queues, tRising s.fab.ports, tRising s.pwr.domains,
    tRising s.thm.regions])

theorem keepsSame {s t : State} (h : t.key = s.key) : Keeps s t := by
  simp only [State.key, Prod.mk.injEq, List.cons.injEq, and_true] at h
  obtain ⟨h1, h2, h3, h4, h5, h6, h7, h8, h9, h10, h11, h12, h13, h14, h15, h16, h17, h18, h19, h20, h21, h22, h23, h24, h25⟩ := h
  refine ⟨h1, Fuses.le_of_blown h2, fun x => ?_, .inl ⟨h4, h5⟩, fun x => ?_⟩
  · have hv : t.fuse.svnFloor = s.fuse.svnFloor := (congrArg Fuses.svnFloor h2 : t.fuse.blown.svnFloor = s.fuse.blown.svnFloor)
    have hu : t.fuse.epochUsed = s.fuse.epochUsed := (congrArg Fuses.epochUsed h2 : t.fuse.blown.epochUsed = s.fuse.blown.epochUsed)
    have hp : t.fuse.epochSpoiled = s.fuse.epochSpoiled := (congrArg Fuses.epochSpoiled h2 : t.fuse.blown.epochSpoiled = s.fuse.blown.epochSpoiled)
    exact ⟨hv ▸ x.svnFloor, hu ▸ x.epochUsed, by rw [hu, hp]; exact x.epochSpoiled, h3 ▸ x.offset,
      (Fuses.even_of_le (Fuses.le_of_blown h2)).trans x.cores⟩
  · simpa only [State.canonical, h6, h7, h8, h9, h10, h11, h12, h13, h14, h15, h16, h17, h18, h19, h20, h21, h22, h23, h24, h25] using x

/-- An update of other parts. -/
theorem keepsMk {a s : State}
    {fuse : Fuses} {clk : Clocks} {boot : Boot} {mem : Memories} {vbus : Tab (List (W64 × Nat))} {ctl : Control} {guest : Guest} {pel : Pelseso}
    {fab : Fabric} {mgmt : Mgmt} {pwr : Power} {thm : Thermal} {sec : Security} {wdr : Windrow} {idst : Identity} {urgent : Tab W64}
    {urgIgnored : Tab (Option W64)} {readData : W64} {readErr : Bool} {free : Nat}
    (h : (fuse.blown, idst.offset, clk.tb, clk.frac, mem.lpddr, mem.plots.bytes, mem.tilth.bytes, mem.hub.bytes, fab.listen, fab.qpTab, fab.ports,
        pel.mbs, pel.queues, pwr.domains, thm.regions) =
      (s.fuse.blown, s.idst.offset, s.clk.tb, s.clk.frac, s.mem.lpddr, s.mem.plots.bytes, s.mem.tilth.bytes, s.mem.hub.bytes, s.fab.listen,
        s.fab.qpTab, s.fab.ports, s.pel.mbs, s.pel.queues, s.pwr.domains, s.thm.regions)) (k : Keeps a s) :
    Keeps a (State.mk
      fuse clk boot s.quarters mem s.cores s.halves s.stackTab s.links s.routes vbus ctl s.flags guest pel fab mgmt pwr thm sec wdr idst urgent
      urgIgnored s.counters s.os readData readErr free s.pending) := by
  simp only [Prod.mk.injEq] at h
  obtain ⟨h1, h2, h3, h4, h5, h6, h7, h8, h9, h10, h11, h12, h13, h14, h15⟩ := h
  refine keepsTrans (keepsSame ?_) k
  simp only [State.key, h1, h2, h3, h4, h5, h6, h7, h8, h9, h10, h11, h12, h13, h14, h15]

theorem keepsIte {c : Prop} [Decidable c] {s a b : State} (ha : Keeps s a) (hb : Keeps s b) : Keeps s (if c then a else b) := by
  split <;> assumption
theorem keepsId {a s : State} (h : Keeps a s) : Keeps a (id s) := h
theorem keepsSnd {α : Type} {s : State} {x : α × State} {a : α} {t : State} (h : x = (a, t)) (k : Keeps s x.2) : Keeps s t := by rw [h] at k; exact k
theorem keepsThd {α β : Type} {s : State} {x : α × β × State} {a : α} {b : β} {t : State} (h : x = (a, b, t)) (k : Keeps s x.2.2) : Keeps s t := by
  rw [h] at k; exact k
theorem keepsFst {α : Type} {s : State} {x : State × α} {a : α} {t : State} (h : x = (t, a)) (k : Keeps s x.1) : Keeps s t := by rw [h] at k; exact k
theorem keepsFold {α : Type} {r : State} (g : State → α → State) (h : ∀ a e, Keeps r a → Keeps r (g a e)) (l : List α) {s : State} (k : Keeps r s) :
    Keeps r (l.foldl g s) := by
  induction l generalizing s with
  | nil => exact k
  | cons a t ih => exact ih (h s a k)

/-- A command that keeps, where it answers a next state. -/
def OutKeeps (s : State) (o : Out) : Prop := ∀ t, o = .next t → Keeps s t
theorem outNext {s t : State} (h : Keeps s t) : OutKeeps s (.next t) := by intro x hx; cases hx; exact h
theorem outEvt {b : Bool} {r s t : State} (hs : Keeps r s) (h : Keeps r t) : OutKeeps r (evt b s t) := outNext (keepsIte h hs)
theorem outIte {s : State} {c : Prop} [Decidable c] {a b : Out} (ha : OutKeeps s a) (hb : OutKeeps s b) : OutKeeps s (if c then a else b) := by
  split <;> assumption

/-- An operation that keeps, where it succeeds. -/
def OptKeeps (s : State) (o : Option State) : Prop := ∀ t, o = some t → Keeps s t
theorem optSome {s t : State} (h : Keeps s t) : OptKeeps s (some t) := by intro x hx; cases hx; exact h
theorem optNone {s : State} : OptKeeps s none := by intro x hx; cases hx
theorem optIte {s : State} {c : Prop} [Decidable c] {a b : Option State} (ha : OptKeeps s a) (hb : OptKeeps s b) : OptKeeps s (if c then a else b) := by
  split <;> assumption
theorem optOf {s : State} {o : Option State} {t : State} (e : o = some t) (h : OptKeeps s o) : Keeps s t := h t e

/-! ## Parts of the canonical form -/

theorem canonSplit (s : State) : s.canonical = true ↔
    Memory.wf s.mem.lpddr = true ∧ Memory.wf s.mem.plots.bytes = true ∧ Memory.wf s.mem.tilth.bytes = true ∧ Memory.wf s.mem.hub.bytes = true ∧
    Memory.wf s.fab.listen = true ∧ Memory.wf s.fab.qpTab = true ∧ tRising s.counters = true ∧ tRising s.cores = true ∧ tRising s.halves = true ∧
    tRising s.stackTab = true ∧ tRising s.links = true ∧ tRising s.quarters = true ∧ tRising s.flags = true ∧ tRising s.routes = true ∧
    tRising s.os = true ∧ tRising s.pel.mbs = true ∧ tRising s.pel.queues = true ∧ tRising s.fab.ports = true ∧ tRising s.pwr.domains = true ∧
    tRising s.thm.regions = true := by
  simp [State.canonical, and_assoc]

/-- An update of one of the canonical parts. -/
theorem keepsCanon {s t : State} (hp : t.pending = s.pending) (hf : t.fuse.blown = s.fuse.blown) (hi : t.idst.offset = s.idst.offset)
    (ht : t.clk.tb = s.clk.tb) (hr : t.clk.frac = s.clk.frac) (hc : s.canonical = true → t.canonical = true) : Keeps s t := by
  have hk : Keeps s { s with pending := t.pending, fuse := t.fuse, idst := t.idst, clk := t.clk } := by
    apply keepsSame
    simp only [State.key, hp, hf, hi, ht, hr]
  exact ⟨hk.pending, hk.fuse, fun x => ⟨(hk.legal x).svnFloor, (hk.legal x).epochUsed, (hk.legal x).epochSpoiled, (hk.legal x).offset, (hk.legal x).cores⟩, hk.time, hc⟩

/-- An update of the memories. -/
theorem keepsMem (s : State) (m : Memories) {a : State} (k : Keeps a s) (h : (Memory.wf s.mem.lpddr = true → Memory.wf m.lpddr = true) ∧
    (Memory.wf s.mem.plots.bytes = true → Memory.wf m.plots.bytes = true) ∧ (Memory.wf s.mem.tilth.bytes = true → Memory.wf m.tilth.bytes = true) ∧
    (Memory.wf s.mem.hub.bytes = true → Memory.wf m.hub.bytes = true)) : Keeps a { s with mem := m } := by
  refine keepsTrans (keepsCanon (s := s) rfl rfl rfl rfl rfl (fun x => ?_)) k
  obtain ⟨h0, h1, h2, h3, hr⟩ := (canonSplit s).1 x
  exact (canonSplit _).2 ⟨h.1 h0, h.2.1 h1, h.2.2.1 h2, h.2.2.2 h3, hr⟩
theorem keepsLpddr (s : State) (l : Mem) (q : Tab W32) {a : State} (k : Keeps a s) (h : Memory.wf s.mem.lpddr = true → Memory.wf l = true) :
    Keeps a { s with mem := { s.mem with lpddr := l, lpSide := q } } := keepsMem s _ k ⟨h, id, id, id⟩
theorem keepsPlots (s : State) (st : Store) {a : State} (k : Keeps a s) (h : Memory.wf s.mem.plots.bytes = true → Memory.wf st.bytes = true) :
    Keeps a { s with mem := { s.mem with plots := st } } := keepsMem s _ k ⟨id, h, id, id⟩
theorem keepsTilth (s : State) (st : Store) {a : State} (k : Keeps a s) (h : Memory.wf s.mem.tilth.bytes = true → Memory.wf st.bytes = true) :
    Keeps a { s with mem := { s.mem with tilth := st } } := keepsMem s _ k ⟨id, id, h, id⟩
theorem keepsHub (s : State) (st : Store) {a : State} (k : Keeps a s) (h : Memory.wf s.mem.hub.bytes = true → Memory.wf st.bytes = true) :
    Keeps a { s with mem := { s.mem with hub := st } } := keepsMem s _ k ⟨id, id, id, h⟩
theorem keepsIdst (s : State) (b : Boot) (p : Power) (i : Identity) {a : State} (k : Keeps a s) (hp : p.domains = s.pwr.domains)
    (h : s.idst.offset < 256 → i.offset < 256) : Keeps a { s with boot := b, pwr := p, idst := i } := by
  refine keepsTrans (b := s) ⟨rfl, Fuses.Le.refl _, fun x => ⟨x.svnFloor, x.epochUsed, x.epochSpoiled, h x.offset, x.cores⟩, .inl ⟨rfl, rfl⟩, fun x => ?_⟩ k
  simpa only [State.canonical, hp] using x
theorem keepsRoutes (s : State) (t : Tab Nat) {a : State} (k : Keeps a s) (h : tRising s.routes = true → tRising t = true) :
    Keeps a { s with routes := t } := by
  refine keepsTrans (keepsCanon (s := s) rfl rfl rfl rfl rfl (fun x => ?_)) k
  obtain ⟨h0, h1, h2, h3, h4, h5, h6, h7, h8, h9, h10, h11, h12, h13, hr⟩ := (canonSplit s).1 x
  exact (canonSplit _).2 ⟨h0, h1, h2, h3, h4, h5, h6, h7, h8, h9, h10, h11, h12, h h13, hr⟩
theorem keepsQueues (s : State) (t : Tab Queue) (c : List Nat) {a : State} (k : Keeps a s) (h : tRising s.pel.queues = true → tRising t = true) :
    Keeps a { s with pel := { s.pel with queues := t, cache := c } } := by
  refine keepsTrans (keepsCanon (s := s) rfl rfl rfl rfl rfl (fun x => ?_)) k
  obtain ⟨h0, h1, h2, h3, h4, h5, h6, h7, h8, h9, h10, h11, h12, h13, h14, h15, h16, hr⟩ := (canonSplit s).1 x
  exact (canonSplit _).2 ⟨h0, h1, h2, h3, h4, h5, h6, h7, h8, h9, h10, h11, h12, h13, h14, h15, h h16, hr⟩
theorem keepsListen (s : State) (m : Mem) {a : State} (k : Keeps a s) (h : Memory.wf s.fab.listen = true → Memory.wf m = true) :
    Keeps a { s with fab := { s.fab with listen := m } } := by
  refine keepsTrans (keepsCanon (s := s) rfl rfl rfl rfl rfl (fun x => ?_)) k
  obtain ⟨h0, h1, h2, h3, h4, hr⟩ := (canonSplit s).1 x
  exact (canonSplit _).2 ⟨h0, h1, h2, h3, h h4, hr⟩
theorem keepsQpTab (s : State) (m : Mem) {a : State} (k : Keeps a s) (h : Memory.wf s.fab.qpTab = true → Memory.wf m = true) :
    Keeps a { s with fab := { s.fab with qpTab := m } } := by
  refine keepsTrans (keepsCanon (s := s) rfl rfl rfl rfl rfl (fun x => ?_)) k
  obtain ⟨h0, h1, h2, h3, h4, h5, hr⟩ := (canonSplit s).1 x
  exact (canonSplit _).2 ⟨h0, h1, h2, h3, h4, h h5, hr⟩

/-! ## Ops -/

theorem setCore_keeps (s : State) (n : Nat) (c : Core) {a : State} (k : Keeps a s) : Keeps a (s.setCore n c) := by
  refine keepsTrans (keepsCanon (s := s) rfl rfl rfl rfl rfl (fun y => ?_)) k
  obtain ⟨h0, h1, h2, h3, h4, h5, h6, h7, h8, h9, h10, h11, h12, h13, h14, h15, h16, h17, h18, h19⟩ := (canonSplit s).1 y
  exact (canonSplit _).2 ⟨h0, h1, h2, h3, h4, h5, h6, tset_rising _ _ _ _ h7, h8, h9, h10, h11, h12, h13, h14, h15, h16, h17, h18, h19⟩

theorem setSheaf_keeps (s : State) (n sl : Nat) (x : Sheaf) {z : State} (hz : Keeps z s) : Keeps z (State.setSheaf s n sl x) := by
  unfold State.setSheaf
  with_reducible repeat' first
    | assumption | apply setCore_keeps

theorem setHalf_keeps (s : State) (h : Nat) (x : Half) {a : State} (k : Keeps a s) : Keeps a (s.setHalf h x) := by
  refine keepsTrans (keepsCanon (s := s) rfl rfl rfl rfl rfl (fun y => ?_)) k
  obtain ⟨h0, h1, h2, h3, h4, h5, h6, h7, h8, h9, h10, h11, h12, h13, h14, h15, h16, h17, h18, h19⟩ := (canonSplit s).1 y
  exact (canonSplit _).2 ⟨h0, h1, h2, h3, h4, h5, h6, h7, tset_rising _ _ _ _ h8, h9, h10, h11, h12, h13, h14, h15, h16, h17, h18, h19⟩

theorem setStack_keeps (s : State) (m : Nat) (x : Stack) {a : State} (k : Keeps a s) : Keeps a (s.setStack m x) := by
  refine keepsTrans (keepsCanon (s := s) rfl rfl rfl rfl rfl (fun y => ?_)) k
  obtain ⟨h0, h1, h2, h3, h4, h5, h6, h7, h8, h9, h10, h11, h12, h13, h14, h15, h16, h17, h18, h19⟩ := (canonSplit s).1 y
  exact (canonSplit _).2 ⟨h0, h1, h2, h3, h4, h5, h6, h7, h8, tset_rising _ _ _ _ h9, h10, h11, h12, h13, h14, h15, h16, h17, h18, h19⟩

theorem setQuarter_keeps (s : State) (q : Nat) (x : Quarter) {a : State} (k : Keeps a s) : Keeps a (s.setQuarter q x) := by
  refine keepsTrans (keepsCanon (s := s) rfl rfl rfl rfl rfl (fun y => ?_)) k
  obtain ⟨h0, h1, h2, h3, h4, h5, h6, h7, h8, h9, h10, h11, h12, h13, h14, h15, h16, h17, h18, h19⟩ := (canonSplit s).1 y
  exact (canonSplit _).2 ⟨h0, h1, h2, h3, h4, h5, h6, h7, h8, h9, h10, tset_rising _ _ _ _ h11, h12, h13, h14, h15, h16, h17, h18, h19⟩

theorem setLink_keeps (s : State) (l : Nat) (x : Link) {a : State} (k : Keeps a s) : Keeps a (s.setLink l x) := by
  refine keepsTrans (keepsCanon (s := s) rfl rfl rfl rfl rfl (fun y => ?_)) k
  obtain ⟨h0, h1, h2, h3, h4, h5, h6, h7, h8, h9, h10, h11, h12, h13, h14, h15, h16, h17, h18, h19⟩ := (canonSplit s).1 y
  exact (canonSplit _).2 ⟨h0, h1, h2, h3, h4, h5, h6, h7, h8, h9, tset_rising _ _ _ _ h10, h11, h12, h13, h14, h15, h16, h17, h18, h19⟩

theorem setMb_keeps (s : State) (b : Nat) (x : Mailbox) {a : State} (k : Keeps a s) : Keeps a (s.setMb b x) := by
  refine keepsTrans (keepsCanon (s := s) rfl rfl rfl rfl rfl (fun y => ?_)) k
  obtain ⟨h0, h1, h2, h3, h4, h5, h6, h7, h8, h9, h10, h11, h12, h13, h14, h15, h16, h17, h18, h19⟩ := (canonSplit s).1 y
  exact (canonSplit _).2 ⟨h0, h1, h2, h3, h4, h5, h6, h7, h8, h9, h10, h11, h12, h13, h14, tset_rising _ _ _ _ h15, h16, h17, h18, h19⟩

theorem setQueue_keeps (s : State) (q : Nat) (x : Queue) {a : State} (k : Keeps a s) : Keeps a (s.setQueue q x) := by
  refine keepsTrans (keepsCanon (s := s) rfl rfl rfl rfl rfl (fun y => ?_)) k
  obtain ⟨h0, h1, h2, h3, h4, h5, h6, h7, h8, h9, h10, h11, h12, h13, h14, h15, h16, h17, h18, h19⟩ := (canonSplit s).1 y
  exact (canonSplit _).2 ⟨h0, h1, h2, h3, h4, h5, h6, h7, h8, h9, h10, h11, h12, h13, h14, h15, tRising_tput _ _ _ h16, h17, h18, h19⟩

theorem setPort_keeps (s : State) (p : Nat) (x : Port) {a : State} (k : Keeps a s) : Keeps a (s.setPort p x) := by
  refine keepsTrans (keepsCanon (s := s) rfl rfl rfl rfl rfl (fun y => ?_)) k
  obtain ⟨h0, h1, h2, h3, h4, h5, h6, h7, h8, h9, h10, h11, h12, h13, h14, h15, h16, h17, h18, h19⟩ := (canonSplit s).1 y
  exact (canonSplit _).2 ⟨h0, h1, h2, h3, h4, h5, h6, h7, h8, h9, h10, h11, h12, h13, h14, h15, h16, tset_rising _ _ _ _ h17, h18, h19⟩

theorem setDomain_keeps (s : State) (q d : Nat) (x : Domain) {a : State} (k : Keeps a s) : Keeps a (s.setDomain q d x) := by
  refine keepsTrans (keepsCanon (s := s) rfl rfl rfl rfl rfl (fun y => ?_)) k
  obtain ⟨h0, h1, h2, h3, h4, h5, h6, h7, h8, h9, h10, h11, h12, h13, h14, h15, h16, h17, h18, h19⟩ := (canonSplit s).1 y
  exact (canonSplit _).2 ⟨h0, h1, h2, h3, h4, h5, h6, h7, h8, h9, h10, h11, h12, h13, h14, h15, h16, h17, tset_rising _ _ _ _ h18, h19⟩

theorem setFlagStore_keeps (s : State) (q : Nat) (x : FlagStore) {a : State} (k : Keeps a s) : Keeps a (s.setFlagStore q x) := by
  refine keepsTrans (keepsCanon (s := s) rfl rfl rfl rfl rfl (fun y => ?_)) k
  obtain ⟨h0, h1, h2, h3, h4, h5, h6, h7, h8, h9, h10, h11, h12, h13, h14, h15, h16, h17, h18, h19⟩ := (canonSplit s).1 y
  exact (canonSplit _).2 ⟨h0, h1, h2, h3, h4, h5, h6, h7, h8, h9, h10, h11, tset_rising _ _ _ _ h12, h13, h14, h15, h16, h17, h18, h19⟩

theorem setOs_keeps (s : State) (i : Nat) (x : OsCore) {a : State} (k : Keeps a s) : Keeps a (s.setOs i x) := by
  refine keepsTrans (keepsCanon (s := s) rfl rfl rfl rfl rfl (fun y => ?_)) k
  obtain ⟨h0, h1, h2, h3, h4, h5, h6, h7, h8, h9, h10, h11, h12, h13, h14, h15, h16, h17, h18, h19⟩ := (canonSplit s).1 y
  exact (canonSplit _).2 ⟨h0, h1, h2, h3, h4, h5, h6, h7, h8, h9, h10, h11, h12, h13, tset_rising _ _ _ _ h14, h15, h16, h17, h18, h19⟩

theorem bump_keeps (off n : Nat) (s : State) {a : State} (k : Keeps a s) : Keeps a (bump off n s) := by
  refine keepsTrans (keepsCanon (s := s) rfl rfl rfl rfl rfl (fun y => ?_)) k
  obtain ⟨h0, h1, h2, h3, h4, h5, h6, h7, h8, h9, h10, h11, h12, h13, h14, h15, h16, h17, h18, h19⟩ := (canonSplit s).1 y
  exact (canonSplit _).2 ⟨h0, h1, h2, h3, h4, h5, tset_rising _ _ _ _ h6, h7, h8, h9, h10, h11, h12, h13, h14, h15, h16, h17, h18, h19⟩

theorem correctScan_keeps (q : Nat) (s : State) {z : State} (hz : Keeps z s) : Keeps z (correctScan q s) := by
  unfold correctScan
  with_reducible repeat' first
    | assumption | fail_if_no_progress refine keepsMk rfl ?_ | refine keepsIte ?_ ?_ | dsimp only | split

theorem lpStore_keeps (pa : Nat) (x : W512 × W32) (s : State) {z : State} (hz : Keeps z s) : Keeps z (lpStore pa x s) :=
  keepsLpddr s _ _ hz (mwrite_wf _ _ _)

theorem bumps_keeps (l : List (Nat × Nat)) (s : State) {z : State} (hz : Keeps z s) : Keeps z (bumps l s) := by
  unfold bumps
  with_reducible repeat' first
    | assumption | apply bump_keeps | refine keepsFold _ (fun _ _ _ => ?_) _ ?_

theorem countDrop_keeps (sv n : Nat) (s : State) {z : State} (hz : Keeps z s) : Keeps z (countDrop sv n s) := by
  unfold countDrop
  with_reducible repeat' first
    | assumption | apply bump_keeps | fail_if_no_progress refine keepsMk rfl ?_

theorem logRec_keeps (sev src code : Nat) (payload : List Byte) (s : State) {z : State} (hz : Keeps z s) : Keeps z (logRec sev src code payload s) := by
  unfold logRec
  with_reducible repeat' first
    | assumption | apply countDrop_keeps | fail_if_no_progress refine keepsMk rfl ?_ | refine keepsIte ?_ ?_

theorem logStray_keeps (src addr width : Nat) (write : Bool) (s : State) {z : State} (hz : Keeps z s) : Keeps z (logStray src addr width write s) := by
  unfold logStray
  with_reducible repeat' first
    | assumption | apply logRec_keeps

theorem logIgnored_keeps (addr v : Nat) (s : State) {z : State} (hz : Keeps z s) : Keeps z (logIgnored addr v s) := by
  unfold logIgnored
  with_reducible repeat' first
    | assumption | apply logRec_keeps

theorem queueSend_keeps (i : Nat) (s : State) {z : State} (hz : Keeps z s) : Keeps z (queueSend i s) := by
  unfold queueSend
  with_reducible repeat' first
    | assumption | apply bump_keeps | apply logRec_keeps | fail_if_no_progress refine keepsMk rfl ?_ | refine keepsIte ?_ ?_ | dsimp only | split

theorem closeAlarm_keeps (i : Nat) (s : State) {z : State} (hz : Keeps z s) : Keeps z (closeAlarm i s) := by
  unfold closeAlarm
  with_reducible repeat' first
    | assumption | apply queueSend_keeps | fail_if_no_progress refine keepsMk rfl ?_ | dsimp only | split

theorem openAlarm_keeps (i code src : Nat) (detail : List Byte) (s : State) {z : State} (hz : Keeps z s) : Keeps z (openAlarm i code src detail s) := by
  unfold openAlarm
  with_reducible repeat' first
    | assumption | apply queueSend_keeps | fail_if_no_progress refine keepsMk rfl ?_

theorem raiseAlarm_keeps (code src : Nat) (detail : List Byte) (s0 : State) {z : State} (hz : Keeps z s0) : Keeps z (raiseAlarm code src detail s0) := by
  unfold raiseAlarm
  with_reducible repeat' first
    | assumption | apply bump_keeps | apply closeAlarm_keeps | apply openAlarm_keeps | refine keepsSnd ‹_› ?_
    | fail_if_no_progress refine keepsMk rfl ?_ | refine keepsIte ?_ ?_ | dsimp only | split

theorem alarmW_keeps (code src : Nat) (l : List Nat) (s : State) {z : State} (hz : Keeps z s) : Keeps z (alarmW code src l s) := by
  unfold alarmW
  with_reducible repeat' first
    | assumption | apply raiseAlarm_keeps

theorem drawEntropy_keeps (s : State) {z : State} (hz : Keeps z s) : Keeps z (drawEntropy s).2 := by
  unfold drawEntropy
  with_reducible repeat' first
    | assumption | fail_if_no_progress refine keepsMk rfl ?_

theorem drawEntropy2_keeps (s : State) {z : State} (hz : Keeps z s) : Keeps z (drawEntropy2 s).2 := by
  unfold drawEntropy2
  with_reducible repeat' first
    | assumption | fail_if_no_progress refine keepsMk rfl ?_

/-! ## Space -/

theorem countRd_keeps (s : State) (pa master : Nat) {z : State} (hz : Keeps z s) : Keeps z (countRd s pa master) := by
  unfold countRd
  with_reducible repeat' first
    | assumption | apply bump_keeps

theorem lpEnter_keeps (m : Nat) (r : MReq) (s : State) {z : State} (hz : Keeps z s) : Keeps z (lpEnter m r s) := by
  unfold lpEnter
  with_reducible repeat' first
    | assumption | apply setStack_keeps | fail_if_no_progress refine keepsMk rfl ?_ | refine keepsIte ?_ ?_

theorem lpIssue_keeps (m : Nat) (r : MReq) (s : State) {z : State} (hz : Keeps z s) : Keeps z (lpIssue m r s) := by
  unfold lpIssue
  with_reducible repeat' first
    | assumption | apply setStack_keeps | apply lpEnter_keeps

theorem burstWrite_keeps (s : State) (pa master slot : Nat) (b : List Byte) (psn : Bool) {z : State} (hz : Keeps z s) : Keeps z (burstWrite s pa master slot b psn) := by
  unfold burstWrite
  dsimp only
  split
  · exact bump_keeps _ _ _ hz
  · exact lpIssue_keeps _ _ _ (setHalf_keeps _ _ _ hz)

theorem useWay_keeps (h way : Nat) (s : State) {z : State} (hz : Keeps z s) : Keeps z (useWay h way s) := by
  unfold useWay
  with_reducible repeat' first
    | assumption | apply setHalf_keeps | fail_if_no_progress refine keepsMk rfl ?_ | refine keepsIte ?_ ?_

theorem writeBackSecs_keeps (l : Line) (master : Nat) (is : List Nat) (s : State) {a : State} (k : Keeps a s) : Keeps a (writeBackSecs l master is s) := by
  induction is generalizing s with
  | nil => exact k
  | cons i t ih =>
    unfold writeBackSecs
    with_reducible repeat' first
      | assumption | apply ih | apply useWay_keeps | apply bump_keeps | apply burstWrite_keeps | refine keepsIte ?_ ?_

theorem writeBack_keeps (l : Line) (master : Nat) (s : State) {z : State} (hz : Keeps z s) : Keeps z (writeBack l master s) := by
  unfold writeBack
  with_reducible repeat' first
    | assumption | apply writeBackSecs_keeps

theorem makeRoom_keeps (s : State) (h set master : Nat) {z : State} (hz : Keeps z s) : Keeps z (makeRoom s h set master).2 := by
  unfold makeRoom
  with_reducible repeat' first
    | assumption | apply setHalf_keeps | apply writeBack_keeps | fail_if_no_progress refine keepsMk rfl ?_ | refine keepsIte ?_ ?_ | dsimp only
    | split

theorem installLine_keeps (s : State) (h way : Nat) (l : Line) {z : State} (hz : Keeps z s) : Keeps z (installLine s h way l) := by
  unfold installLine
  with_reducible repeat' first
    | assumption | apply setHalf_keeps

theorem commitSector_keeps (s : State) (master slot pa : Nat) (b : List Byte) (psn : Bool) {z : State} (hz : Keeps z s) : Keeps z (commitSector s master slot pa b psn) := by
  unfold commitSector
  with_reducible repeat' first
    | assumption | apply setHalf_keeps | apply burstWrite_keeps | exact fun _ => by decide | exact fun _ => BitVec.isLt _
    | exact fun h => tset_rising _ _ _ _ (tset_rising _ _ _ _ h) | exact tRising_tdel _ _
    | exact fun h => stWrite_wf _ _ _ _ _ (stWrite_wf _ _ _ _ _ h) | exact fun h => h | exact mwrite_wf _ _ _ | exact filter_wf _ _
    | exact stWrite_wf _ _ _ _ _ | exact stClear_wf _ _ _ _ | refine keepsIte ?_ ?_ | dsimp only | fail_if_no_progress refine keepsMk rfl ?_ | split
    | refine keepsPlots _ _ ?_ ?_ | refine keepsTilth _ _ ?_ ?_ | refine keepsHub _ _ ?_ ?_

theorem putSpill_keeps (s : State) (q : Nat) (x : Spill) {z : State} (hz : Keeps z s) : Keeps z (putSpill s q x) := by
  unfold putSpill
  with_reducible repeat' first
    | assumption | apply bump_keeps | fail_if_no_progress refine keepsMk rfl ?_ | refine keepsIte ?_ ?_

theorem stageSector_keeps (s : State) (st master slot pa : Nat) (b : List Byte) (psn : Bool) {z : State} (hz : Keeps z s) : Keeps z (stageSector s st master slot pa b psn) := by
  unfold stageSector
  with_reducible repeat' first
    | assumption | apply setHalf_keeps | apply makeRoom_keeps | refine keepsSnd ‹_› ?_ | apply installLine_keeps | apply putSpill_keeps
    | fail_if_no_progress refine keepsMk rfl ?_ | refine keepsIte ?_ ?_ | dsimp only | split

theorem sectorWrite_keeps (s : State) (stage : Option Nat) (master slot pa : Nat) (b : List Byte) (psn : Bool) {z : State} (hz : Keeps z s) : Keeps z (sectorWrite s stage master slot pa b psn) := by
  unfold sectorWrite
  with_reducible repeat' first
    | assumption | apply commitSector_keeps | apply stageSector_keeps | fail_if_no_progress refine keepsMk rfl ?_ | dsimp only | split

theorem viewWrite_keeps (stage : Option Nat) (master slot : Nat) (psn : Bool) (f pa : Nat) (b : List Byte) (s : State) {a : State} (k : Keeps a s) : Keeps a (viewWrite stage master slot psn f pa b s) := by
  induction f generalizing s pa b with
  | zero => exact k
  | succ f ih =>
    unfold viewWrite
    with_reducible repeat' first
      | assumption | apply ih | apply sectorWrite_keeps | refine keepsIte ?_ ?_

theorem cohWrite_keeps (s : State) (stage : Option Nat) (master slot pa : Nat) (b : List Byte) (psn : Bool) {z : State} (hz : Keeps z s) : Keeps z (cohWrite s stage master slot pa b psn) := by
  unfold cohWrite
  with_reducible repeat' first
    | assumption | apply viewWrite_keeps

/-! ## Operands -/

theorem setEp_keeps (s : State) (id : Nat) (x : Endpoint) {z : State} (hz : Keeps z s) : Keeps z (State.setEp s id x) := by
  unfold State.setEp
  with_reducible repeat' first
    | assumption | apply keepsId | fail_if_no_progress refine keepsMk rfl ?_

theorem lowerOut_keeps (src : Nat) (s : State) {z : State} (hz : Keeps z s) : Keeps z (lowerOut src s) := by
  unfold lowerOut
  with_reducible repeat' first
    | assumption | apply setEp_keeps

theorem bounceTo_keeps (unit reason : Nat) (m : CtlMsg) (s : State) {z : State} (hz : Keeps z s) : Keeps z (bounceTo unit reason m s) := by
  unfold bounceTo
  with_reducible repeat' first
    | assumption | apply bump_keeps | apply setEp_keeps | apply lowerOut_keeps

theorem reach_keeps (id : Nat) (m : CtlMsg) (s : State) {z : State} (hz : Keeps z s) : Keeps z (reach id m s) := by
  unfold reach
  with_reducible repeat' first
    | assumption | apply setEp_keeps | apply bounceTo_keeps | fail_if_no_progress refine keepsMk rfl ?_ | refine keepsIte ?_ ?_

theorem arrive_keeps (id : Nat) (m : CtlMsg) (s : State) {z : State} (hz : Keeps z s) : Keeps z (arrive id m s) := by
  unfold arrive
  with_reducible repeat' first
    | assumption | apply keepsId | apply setEp_keeps | apply reach_keeps | fail_if_no_progress refine keepsMk rfl ?_ | refine keepsIte ?_ ?_

theorem mcastCheck_keeps (q sl : Nat) (s : State) {z : State} (hz : Keeps z s) : Keeps z (mcastCheck q sl s) := by
  unfold mcastCheck
  with_reducible repeat' first
    | assumption | apply bump_keeps | apply lowerOut_keeps | apply arrive_keeps | fail_if_no_progress refine keepsMk rfl ?_ | refine keepsIte ?_ ?_
    | dsimp only | split

theorem mcastMod_keeps (q sl : Nat) (f : Mcast → Mcast) (s : State) {z : State} (hz : Keeps z s) : Keeps z (mcastMod q sl f s) := by
  unfold mcastMod
  with_reducible repeat' first
    | assumption | apply mcastCheck_keeps | fail_if_no_progress refine keepsMk rfl ?_ | refine keepsIte ?_ ?_ | dsimp only | split

theorem mcastBounced_keeps (q sl c : Nat) (s : State) {z : State} (hz : Keeps z s) : Keeps z (mcastBounced q sl c s) := by
  unfold mcastBounced
  with_reducible repeat' first
    | assumption | apply mcastMod_keeps

theorem mcastDelivered_keeps (q sl c : Nat) (s : State) {z : State} (hz : Keeps z s) : Keeps z (mcastDelivered q sl c s) := by
  unfold mcastDelivered
  with_reducible repeat' first
    | assumption | apply mcastMod_keeps

theorem netDrain_keeps (id : Nat) : ∀ (n : Nat) (s : State) {z : State}, Keeps z s → Keeps z (netDrain id n s)
  | 0, _, _, hz => hz
  | n + 1, s, z, hz => by
    unfold netDrain
    split
    · exact hz
    · with_reducible repeat' first
        | assumption | apply netDrain_keeps id n | apply setEp_keeps | fail_if_no_progress refine keepsMk rfl ?_ | refine keepsIte ?_ ?_

theorem modCmd_keeps (qu seq : Nat) (f : Cmd → Cmd) (s : State) {z : State} (hz : Keeps z s) : Keeps z (modCmd qu seq f s) := by
  unfold modCmd
  with_reducible repeat' first
    | assumption | fail_if_no_progress refine keepsMk rfl ?_

theorem endCmd_keeps (qu seq status detail : Nat) (s : State) {z : State} (hz : Keeps z s) : Keeps z (endCmd qu seq status detail s) := by
  unfold endCmd
  with_reducible repeat' first
    | assumption | apply modCmd_keeps

theorem done_keeps (x : Cmd) (status : Nat) (s : State) {z : State} (hz : Keeps z s) : Keeps z (done x status s) := by
  unfold done
  with_reducible repeat' first
    | assumption | apply endCmd_keeps

theorem endHeadland_keeps (id : Nat) (s : State) {z : State} (hz : Keeps z s) : Keeps z (endHeadland id s) := by
  unfold endHeadland
  with_reducible repeat' first
    | assumption | apply setCore_keeps | apply keepsId | fail_if_no_progress refine keepsMk rfl ?_ | refine keepsIte ?_ ?_ | dsimp only | split

theorem runMsg_keeps (id : Nat) (m : CtlMsg) (s : State) {z : State} (hz : Keeps z s) : Keeps z (runMsg id m s) := by
  unfold runMsg
  with_reducible repeat' first
    | assumption | apply keepsId | apply setEp_keeps | apply endHeadland_keeps | apply done_keeps | fail_if_no_progress refine keepsMk rfl ?_
    | refine keepsIte ?_ ?_

theorem takeHead_keeps (id : Nat) (s : State) {z : State} (hz : Keeps z s) : Keeps z (takeHead id s) := by
  unfold takeHead
  with_reducible repeat' first
    | assumption | apply setEp_keeps | apply lowerOut_keeps | apply bounceTo_keeps | apply mcastBounced_keeps
    | apply mcastDelivered_keeps | apply netDrain_keeps | apply runMsg_keeps | fail_if_no_progress refine keepsMk rfl ?_ | dsimp only | split

theorem signal_keeps (src dest kind : Nat) (s : State) {z : State} (hz : Keeps z s) : Keeps z (signal src dest kind s) := by
  unfold signal
  with_reducible repeat' first
    | assumption | apply takeHead_keeps | apply arrive_keeps | fail_if_no_progress refine keepsMk rfl ?_ | refine keepsIte ?_ ?_

theorem raiseAt_keeps (n sl : Nat) (pc : W64) (active : W32) (cause detail : Nat) (lanes : W32) (addr : Nat) (instr : Nat) (s : State) {z : State} (hz : Keeps z s) : Keeps z (raiseAt n sl pc active cause detail lanes addr instr s) := by
  unfold raiseAt
  with_reducible repeat' first
    | assumption | apply setCore_keeps | apply setSheaf_keeps | apply signal_keeps | refine keepsFold _ (fun _ _ _ => ?_) _ ?_
    | refine keepsSnd ‹_› ?_ | fail_if_no_progress refine keepsMk rfl ?_ | refine keepsIte ?_ ?_ | dsimp only | split

theorem raiseFault_keeps (n sl cause detail : Nat) (lanes : W32) (addr : Nat) (instr : Nat) (s : State) {z : State} (hz : Keeps z s) : Keeps z (raiseFault n sl cause detail lanes addr instr s) :=
  raiseAt_keeps _ _ _ _ _ _ _ _ _ _ hz

theorem logFault_keeps (n : Nat) (r : FaultRec) (s : State) {z : State} (hz : Keeps z s) : Keeps z (logFault n r s) := logRec_keeps _ _ _ _ _ hz

theorem advance_keeps (n sl : Nat) (pc : W64) (s : State) {z : State} (hz : Keeps z s) : Keeps z (advance n sl pc s) := by
  unfold advance
  with_reducible repeat' first
    | assumption | apply setCore_keeps

theorem noteIssue_keeps (n sl : Nat) (lines : List Nat) (s : State) {z : State} (hz : Keeps z s) : Keeps z (noteIssue n sl lines s) := by
  unfold noteIssue
  with_reducible repeat' first
    | assumption | apply setCore_keeps

theorem loseRun_keeps (n launch : Nat) (s : State) {z : State} (hz : Keeps z s) : Keeps z (loseRun n launch s) := by
  unfold loseRun
  split
  · assumption
  · exact keepsMk rfl hz

theorem fetchWait_keeps (n launch g w : Nat) (pc : W64) (s : State) {z : State} (hz : Keeps z s) : Keeps z (fetchWait n launch g w pc s) := by
  unfold fetchWait
  with_reducible repeat' first
    | assumption | apply bump_keeps | apply loseRun_keeps | fail_if_no_progress refine keepsMk rfl ?_ | refine keepsIte ?_ ?_

/-- An instruction's body that keeps. -/
def ResKeeps (s : State) (r : Res) : Prop := ∀ t pc, r = .go t pc → Keeps s t
theorem resGo {s t : State} {pc : Option W64} (h : Keeps s t) : ResKeeps s (.go t pc) := by intro x p hx; cases hx; exact h
theorem resFault {s : State} {c d : Nat} {l : W32} {a : Nat} : ResKeeps s (.fault c d l a) := by intro x p hx; cases hx
theorem resWait {s : State} : ResKeeps s .wait := by intro x p hx; cases hx
theorem resIte {s : State} {c : Prop} [Decidable c] {a b : Res} (ha : ResKeeps s a) (hb : ResKeeps s b) : ResKeeps s (if c then a else b) := by
  split <;> assumption
theorem resOf {s : State} {r : Res} {t : State} {pc : Option W64} (e : r = .go t pc) (h : ResKeeps s r) : Keeps s t := h t pc e
theorem perform_keeps (v : Env) (fm : Form) (body : Env → State → Res) (hb : ∀ v s a, Keeps a s → ResKeeps a (body v s)) (s : State) {a : State} (k : Keeps a s) :
    OptKeeps a (perform v fm body s) := by
  unfold perform
  with_reducible repeat' first
    | exact optNone | refine optSome ?_ | assumption | refine optIte ?_ ?_ | refine keepsIte ?_ ?_ | apply setSheaf_keeps | apply bump_keeps
    | apply raiseFault_keeps | apply advance_keeps | refine resOf ‹_› (hb _ _ _ ?_) | dsimp only | split

theorem optGetD {s : State} {o : Option State} (h : OptKeeps s o) {d : State} (k : Keeps s d) : Keeps s (o.getD d) := by
  cases o with
  | none => exact k
  | some t => exact h t rfl
/-- A row whose body keeps. -/
abbrev RowKeeps (r : SheafRow) : Prop := ∀ v s a, Keeps a s → ResKeeps a (r.body v s)
theorem countAcc_keeps (h cls : Nat) (hit : Bool) (s : State) {z : State} (hz : Keeps z s) : Keeps z (countAcc h cls hit s) := by
  unfold countAcc
  with_reducible repeat' first
    | assumption | apply bump_keeps | fail_if_no_progress refine keepsMk rfl ?_ | refine keepsIte ?_ ?_

theorem countHit_keeps (h cls : Nat) (l : Line) (s : State) {z : State} (hz : Keeps z s) : Keeps z (countHit h cls l s) := by
  unfold countHit
  with_reducible repeat' first
    | assumption | apply bump_keeps | apply countAcc_keeps | fail_if_no_progress refine keepsMk rfl ?_ | refine keepsIte ?_ ?_

theorem useAt_keeps (pa : Nat) (s : State) {z : State} (hz : Keeps z s) : Keeps z (useAt pa s) := by
  unfold useAt
  with_reducible repeat' first
    | assumption | apply useWay_keeps | fail_if_no_progress refine keepsMk rfl ?_ | dsimp only | split

theorem fillTake_keeps (h num sec : Nat) (install : Bool) (slot : Option Nat) (d : W512 × Bool) (s : State) {z : State} (hz : Keeps z s) : Keeps z (fillTake h num sec install slot d s) := by
  unfold fillTake
  with_reducible repeat' first
    | assumption | apply setHalf_keeps | fail_if_no_progress refine keepsMk rfl ?_ | dsimp only | split

theorem errRec_keeps (kind store src finder bits_ addr loc : Nat) (s : State) {z : State} (hz : Keeps z s) : Keeps z (errRec kind store src finder bits_ addr loc s) := by
  unfold errRec
  with_reducible repeat' first
    | assumption | apply logRec_keeps

theorem poisonRec_keeps (m y : Nat) (s : State) {z : State} (hz : Keeps z s) : Keeps z (poisonRec m y s) := by
  unfold poisonRec
  with_reducible repeat' first
    | assumption | apply errRec_keeps

theorem fillRead_keeps (h num master : Nat) (install : Bool) (s : State) (sec : Nat) {z : State} (hz : Keeps z s) : Keeps z (fillRead h num master install s sec) := by
  unfold fillRead
  with_reducible repeat' first
    | assumption | apply lpIssue_keeps | apply fillTake_keeps | apply poisonRec_keeps | refine keepsSnd ‹_› ?_
    | fail_if_no_progress refine keepsMk rfl ?_ | refine keepsIte ?_ ?_

theorem startFill_keeps (h pa cls master : Nat) (install pin : Bool) (waiters : List GReq) (s : State) {z : State} (hz : Keeps z s) : Keeps z (startFill h pa cls master install pin waiters s) := by
  unfold startFill
  with_reducible repeat' first
    | assumption | apply setHalf_keeps | apply fillRead_keeps | refine keepsFold _ (fun _ _ _ => ?_) _ ?_

theorem touch_keeps (h cls num : Nat) (s : State) {z : State} (hz : Keeps z s) : Keeps z (touch h cls num s) := by
  unfold touch
  with_reducible repeat' first
    | assumption | apply setHalf_keeps | fail_if_no_progress refine keepsMk rfl ?_ | refine keepsIte ?_ ?_ | dsimp only | split

theorem noteSector_keeps (cls master pa : Nat) (s : State) {z : State} (hz : Keeps z s) : Keeps z (noteSector cls master pa s) := by
  unfold noteSector
  with_reducible repeat' first
    | assumption | apply bump_keeps | apply countAcc_keeps | apply countHit_keeps | apply startFill_keeps | apply touch_keeps
    | fail_if_no_progress refine keepsMk rfl ?_ | refine keepsIte ?_ ?_ | dsimp only | split

theorem fetchCount_keeps (n g w : Nat) (pc : W64) (s : State) {z : State} (hz : Keeps z s) : Keeps z (fetchCount n g w pc s) := by
  unfold fetchCount
  with_reducible repeat' first
    | assumption | apply noteSector_keeps | refine keepsFold _ (fun _ _ _ => ?_) _ ?_

theorem begins_keeps (v : Env) (r : SheafRow) (hb : RowKeeps r) (s : State) {a : State} (k : Keeps a s) : Keeps a (begins v r s) := by
  unfold begins
  with_reducible repeat' first
    | assumption | refine keepsIte ?_ ?_ | apply raiseFault_keeps | exact optGetD (perform_keeps _ _ _ hb _ (noteIssue_keeps _ _ _ _ (fetchCount_keeps _ _ _ _ _ k))) k
    | dsimp only | split

theorem put_keeps (v : Env) (f : Sheaf) (s : State) {z : State} (hz : Keeps z s) : Keeps z (Env.put v f s) := by
  unfold Env.put
  with_reducible repeat' first
    | assumption | apply setSheaf_keeps

theorem putChan_keeps (i : Nat) (y : TChan) (disc susp : Bool) (s : State) {z : State} (hz : Keeps z s) : Keeps z (putChan i y disc susp s) := by
  unfold putChan
  with_reducible repeat' first
    | assumption | apply bumps_keeps | apply alarmW_keeps | apply put_keeps | fail_if_no_progress refine keepsMk rfl ?_ | refine keepsIte ?_ ?_

theorem write_keeps (v : Env) (sp cnt : Nat) (vals : List (Nat × Nat)) (s : State) {z : State} (hz : Keeps z s) : Keeps z (Env.write v sp cnt vals s) := by
  unfold Env.write
  with_reducible repeat' first
    | assumption | apply put_keeps

end Sys2Proof.Machine
end

