-- ==== Sys2Proof/Laws/KeepsUnits.lean ====
section
/-! SUPPORT. One lemma for each operation and each command: what the lanes, the control network, runs, records, the quarters, the wires, the windrow, the mailboxes, drills, RoCE and the guest port keep (Safety.Keeps): the queue of waiting commands, fuses that are only blown,
the ranges of their counts, the time base, the canonical form. -/
namespace Sys2Proof.Machine

/-! ## Alu -/

theorem aluBody_keeps (ar : Nat) (fn : LaneFn) (v : Env) (s : State) {z : State} (hz : Keeps z s) : ResKeeps z (aluBody ar fn v s) := by
  unfold aluBody
  with_reducible repeat' first
    | assumption | refine resGo ?_ | exact resFault | exact resWait | refine resIte ?_ ?_ | apply write_keeps
    | fail_if_no_progress refine keepsMk rfl ?_ | refine keepsIte ?_ ?_ | dsimp only | split

theorem cvtBody_keeps (v : Env) (s : State) {z : State} (hz : Keeps z s) : ResKeeps z (cvtBody v s) := by
  unfold cvtBody
  with_reducible repeat' first
    | assumption | refine resGo ?_ | exact resFault | exact resWait | refine resIte ?_ ?_ | apply write_keeps
    | fail_if_no_progress refine keepsMk rfl ?_ | refine keepsIte ?_ ?_ | dsimp only | split

theorem selBody_keeps (v : Env) (s : State) {z : State} (hz : Keeps z s) : ResKeeps z (selBody v s) := by
  unfold selBody
  with_reducible repeat' first
    | assumption | refine resGo ?_ | exact resFault | exact resWait | refine resIte ?_ ?_ | apply write_keeps

theorem setpBody_keeps (v : Env) (s : State) {z : State} (hz : Keeps z s) : ResKeeps z (setpBody v s) := by
  unfold setpBody
  with_reducible repeat' first
    | assumption | refine resGo ?_ | exact resFault | exact resWait | refine resIte ?_ ?_ | apply write_keeps

theorem shflBody_keeps (v : Env) (s : State) {z : State} (hz : Keeps z s) : ResKeeps z (shflBody v s) := by
  unfold shflBody
  with_reducible repeat' first
    | assumption | refine resGo ?_ | exact resFault | exact resWait | refine resIte ?_ ?_ | apply write_keeps

theorem reduBody_keeps (v : Env) (s : State) {z : State} (hz : Keeps z s) : ResKeeps z (reduBody v s) := by
  unfold reduBody
  with_reducible repeat' first
    | assumption | refine resGo ?_ | exact resFault | exact resWait | refine resIte ?_ ?_ | apply write_keeps

theorem voteBody_keeps (v : Env) (s : State) {z : State} (hz : Keeps z s) : ResKeeps z (voteBody v s) := by
  unfold voteBody
  with_reducible repeat' first
    | assumption | refine resGo ?_ | exact resFault | exact resWait | refine resIte ?_ ?_ | apply write_keeps

/-! ## Control -/

theorem mcastSend_keeps (q sl c : Nat) (s : State) {z : State} (hz : Keeps z s) : Keeps z (mcastSend q sl c s) := by
  unfold mcastSend
  with_reducible repeat' first
    | assumption | apply setEp_keeps | apply keepsId | fail_if_no_progress refine keepsMk rfl ?_ | refine keepsIte ?_ ?_ | dsimp only | split

theorem releaseMsgs_keeps (a b : Nat) (s : State) {z : State} (hz : Keeps z s) : Keeps z (releaseMsgs a b s) := by
  unfold releaseMsgs
  with_reducible repeat' first
    | assumption | apply reach_keeps | refine keepsFold _ (fun _ _ _ => ?_) _ ?_ | fail_if_no_progress refine keepsMk rfl ?_

theorem bounceAll_keeps (id reason : Nat) (x0 : List (CtlMsg × Option (Nat × Nat))) (s : State) {z : State} (hz : Keeps z s) : Keeps z (bounceAll id reason x0 s) := by
  induction x0 generalizing s with
  | nil => exact hz
  | cons a t ih =>
    unfold bounceAll
    with_reducible repeat' first
      | assumption | cases ‹a :: t = _› | apply ih | apply bounceTo_keeps | apply mcastBounced_keeps | apply keepsId
      | fail_if_no_progress refine keepsMk rfl ?_ | refine keepsIte ?_ ?_ | dsimp only | split

theorem resetEndpoint_keeps (id : Nat) (s : State) {z : State} (hz : Keeps z s) : Keeps z (resetEndpoint id s) := by
  unfold resetEndpoint
  with_reducible repeat' first
    | assumption | apply setEp_keeps | apply netDrain_keeps | apply bounceAll_keeps

theorem stamped_keeps (m : CtlMsg) (s : State) {z : State} (hz : Keeps z s) : Keeps z (stamped m s).2 := by
  unfold stamped
  split
  · exact keepsMk rfl hz
  · exact hz

theorem execControlMessage_keeps (dest : Nat) (msg : List Byte) (s : State) {z : State} (hz : Keeps z s) : OutKeeps z (execControlMessage dest msg s) := by
  unfold execControlMessage
  with_reducible repeat' first
    | assumption | apply stamped_keeps | refine outEvt ?_ ?_ | refine outNext ?_ | refine outIte ?_ ?_ | apply arrive_keeps | apply takeHead_keeps
    | fail_if_no_progress refine keepsMk rfl ?_ | refine keepsIte ?_ ?_

theorem execBounce_keeps (sender : Nat) (s : State) {z : State} (hz : Keeps z s) : OutKeeps z (execBounce sender s) := by
  unfold execBounce
  with_reducible repeat' first
    | assumption | refine outEvt ?_ ?_ | refine outNext ?_ | refine outIte ?_ ?_ | apply logRec_keeps | apply setEp_keeps
    | fail_if_no_progress refine keepsMk rfl ?_ | refine keepsIte ?_ ?_ | dsimp only | split

theorem execRoleSet_keeps (sender dest : Nat) (role : BitVec 8) (s : State) {z : State} (hz : Keeps z s) : OutKeeps z (execRoleSet sender dest role s) := by
  unfold execRoleSet
  with_reducible repeat' first
    | assumption | refine outEvt ?_ ?_ | refine outNext ?_ | refine outIte ?_ ?_ | apply takeHead_keeps | apply arrive_keeps
    | fail_if_no_progress refine keepsMk rfl ?_ | refine keepsIte ?_ ?_

theorem execInboxWaitTimeout_keeps (i : Nat) (s : State) {z : State} (hz : Keeps z s) : OutKeeps z (execInboxWaitTimeout i s) := by
  unfold execInboxWaitTimeout
  with_reducible repeat' first
    | assumption | refine outEvt ?_ ?_ | refine outNext ?_ | refine outIte ?_ ?_ | apply bounceTo_keeps | fail_if_no_progress refine keepsMk rfl ?_
    | refine keepsIte ?_ ?_ | dsimp only | split

theorem execMulticast_keeps (q : Nat) (msg : List Byte) (s : State) {z : State} (hz : Keeps z s) : OutKeeps z (execMulticast q msg s) := by
  unfold execMulticast
  with_reducible repeat' first
    | assumption | apply stamped_keeps | refine outEvt ?_ ?_ | refine outNext ?_ | apply setEp_keeps | apply mcastCheck_keeps | apply mcastSend_keeps
    | refine keepsFold _ (fun _ _ _ => ?_) _ ?_ | refine keepsSnd ‹_› ?_ | fail_if_no_progress refine keepsMk rfl ?_ | refine keepsIte ?_ ?_
    | dsimp only | split

theorem execMcastRetry_keeps (q slot c : Nat) (s : State) {z : State} (hz : Keeps z s) : OutKeeps z (execMcastRetry q slot c s) := by
  unfold execMcastRetry
  with_reducible repeat' first
    | assumption | refine outEvt ?_ ?_ | refine outNext ?_ | refine outIte ?_ ?_ | apply mcastSend_keeps

theorem execMcastBlockTimeout_keeps (q slot : Nat) (s : State) {z : State} (hz : Keeps z s) : OutKeeps z (execMcastBlockTimeout q slot s) := by
  unfold execMcastBlockTimeout
  with_reducible repeat' first
    | assumption | refine outEvt ?_ ?_ | refine outNext ?_ | refine outIte ?_ ?_ | apply mcastMod_keeps | fail_if_no_progress refine keepsMk rfl ?_
    | refine keepsIte ?_ ?_ | dsimp only | split

/-! ## Runs -/

theorem putRun_keeps (launch : Nat) (r : Run) (s : State) {z : State} (hz : Keeps z s) : Keeps z (putRun launch r s) := by
  unfold putRun
  with_reducible repeat' first
    | assumption | fail_if_no_progress refine keepsMk rfl ?_

theorem modRun_keeps (launch : Nat) (f : Run → Run) (s : State) {z : State} (hz : Keeps z s) : Keeps z (modRun launch f s) := by
  unfold modRun
  with_reducible repeat' first
    | assumption | apply putRun_keeps | fail_if_no_progress refine keepsMk rfl ?_ | refine keepsIte ?_ ?_ | dsimp only | split

theorem drawStream_keeps (n launch sel w : Nat) (s : State) {z : State} (hz : Keeps z s) : Keeps z (drawStream n launch sel w s).2.2 := by
  unfold drawStream
  with_reducible repeat' first
    | assumption | apply setCore_keeps | apply putRun_keeps | fail_if_no_progress refine keepsMk rfl ?_ | refine keepsIte ?_ ?_ | dsimp only | split

theorem tilWrite_keeps (n off : Nat) (b : List Byte) (psn : Bool) (s : State) {z : State} (hz : Keeps z s) : Keeps z (tilWrite n off b psn s) := by
  unfold tilWrite
  with_reducible repeat' first
    | assumption | exact fun _ => by decide | exact fun _ => BitVec.isLt _ | exact fun h => tset_rising _ _ _ _ (tset_rising _ _ _ _ h)
    | exact tRising_tdel _ _ | exact fun h => stWrite_wf _ _ _ _ _ (stWrite_wf _ _ _ _ _ h) | exact fun h => h | exact mwrite_wf _ _ _
    | exact filter_wf _ _ | exact stWrite_wf _ _ _ _ _ | exact stClear_wf _ _ _ _ | refine keepsIte ?_ ?_ | dsimp only
    | fail_if_no_progress refine keepsMk rfl ?_ | split | refine keepsTilth _ _ ?_ ?_

theorem tilMark_keeps (n off len : Nat) (s : State) {z : State} (hz : Keeps z s) : Keeps z (tilMark n off len s) := by
  unfold tilMark
  with_reducible repeat' first
    | assumption | refine keepsFold _ (fun _ _ _ => ?_) _ ?_ | fail_if_no_progress refine keepsMk rfl ?_

theorem taint_keeps (n off len : Nat) (s : State) {z : State} (hz : Keeps z s) : Keeps z (taint n off len s) := by
  unfold taint
  with_reducible repeat' first
    | assumption | apply setCore_keeps

theorem scrWrite_keeps (n off : Nat) (b : List Byte) (psn : Bool) (s : State) {z : State} (hz : Keeps z s) : Keeps z (scrWrite n off b psn s) := by
  unfold scrWrite
  with_reducible repeat' first
    | assumption | apply tilWrite_keeps | apply taint_keeps

theorem undefArea_keeps (n : Nat) (d : Desc) (s : State) {z : State} (hz : Keeps z s) : Keeps z (undefArea n d s) := by
  unfold undefArea
  with_reducible repeat' first
    | assumption | apply tilWrite_keeps | refine keepsFold _ (fun _ _ _ => ?_) _ ?_ | fail_if_no_progress refine keepsMk rfl ?_
    | refine keepsIte ?_ ?_

theorem writeOuts_keeps (n : Nat) (x : ArrRun) (l : List (Nat × List Byte)) (s : State) {z : State} (hz : Keeps z s) : Keeps z (writeOuts n x l s) := by
  unfold writeOuts
  with_reducible repeat' first
    | assumption | apply tilWrite_keeps | refine keepsFold _ (fun _ _ _ => ?_) _ ?_

theorem endEarly_keeps (n : Nat) (d : Desc) (code : Nat) (mapped outbound : Bool) (steps : Option Nat) (part : Option ArrRun) (s : State) {z : State} (hz : Keeps z s) : Keeps z (endEarly n d code mapped outbound steps part s) := by
  unfold endEarly
  with_reducible repeat' first
    | assumption | apply tilWrite_keeps | apply undefArea_keeps | apply writeOuts_keeps | refine keepsSnd ‹_› ?_
    | fail_if_no_progress refine keepsMk rfl ?_ | dsimp only | split

theorem deliverAwaits_keeps (n off : Nat) (s : State) {z : State} (hz : Keeps z s) : Keeps z (deliverAwaits n off s) := by
  unfold deliverAwaits
  with_reducible repeat' first
    | assumption | apply setSheaf_keeps | refine keepsFold _ (fun _ _ _ => ?_) _ ?_ | fail_if_no_progress refine keepsMk rfl ?_
    | refine keepsIte ?_ ?_

theorem flushStook_keeps (n st : Nat) (s : State) {z : State} (hz : Keeps z s) : Keeps z (flushStook n st s) := by
  unfold flushStook
  with_reducible repeat' first
    | assumption | apply setCore_keeps | apply endEarly_keeps | apply deliverAwaits_keeps | refine keepsFold _ (fun _ _ _ => ?_) _ ?_

theorem flushCore_keeps (n : Nat) (s : State) {z : State} (hz : Keeps z s) : Keeps z (flushCore n s) := by
  unfold flushCore
  with_reducible repeat' first
    | assumption | apply setCore_keeps

theorem dropReqs_keeps (p : GReq → Bool) (s : State) {z : State} (hz : Keeps z s) : Keeps z (dropReqs p s) := by
  unfold dropReqs
  with_reducible repeat' first
    | assumption | apply setHalf_keeps | apply bump_keeps | refine keepsFold _ (fun _ _ _ => ?_) _ ?_ | fail_if_no_progress refine keepsMk rfl ?_

theorem dropWaits_keeps (n : Nat) (slots : List Nat) (s : State) (q : Nat) {z : State} (hz : Keeps z s) : Keeps z (dropWaits n slots s q) := by
  unfold dropWaits
  with_reducible repeat' first
    | assumption | apply setFlagStore_keeps

theorem killStook_keeps (n st status detail : Nat) (stamp : W64) (s : State) {z : State} (hz : Keeps z s) : Keeps z (killStook n st status detail stamp s) := by
  unfold killStook
  with_reducible repeat' first
    | assumption | apply keepsId | apply setCore_keeps | apply setSheaf_keeps | apply logFault_keeps | apply modRun_keeps | apply flushStook_keeps
    | apply dropReqs_keeps | apply dropWaits_keeps | refine keepsFold _ (fun _ _ _ => ?_) _ ?_ | refine keepsSnd ‹_› ?_
    | fail_if_no_progress refine keepsMk rfl ?_ | refine keepsIte ?_ ?_ | dsimp only | split

theorem clearScratch_keeps (n base size : Nat) (s : State) {z : State} (hz : Keeps z s) : Keeps z (clearScratch n base size s) := by
  unfold clearScratch
  with_reducible repeat' first
    | assumption | exact fun _ => by decide | exact fun _ => BitVec.isLt _ | exact fun h => tset_rising _ _ _ _ (tset_rising _ _ _ _ h)
    | exact tRising_tdel _ _ | exact fun h => stWrite_wf _ _ _ _ _ (stWrite_wf _ _ _ _ _ h) | exact fun h => h | exact mwrite_wf _ _ _
    | exact filter_wf _ _ | exact stWrite_wf _ _ _ _ _ | exact stClear_wf _ _ _ _ | refine keepsIte ?_ ?_ | dsimp only
    | fail_if_no_progress refine keepsMk rfl ?_ | split | refine keepsTilth _ _ ?_ ?_

theorem freeStook_keeps (n st : Nat) (s : State) {z : State} (hz : Keeps z s) : Keeps z (freeStook n st s) := by
  unfold freeStook
  with_reducible repeat' first
    | assumption | apply setCore_keeps | apply setSheaf_keeps | apply modRun_keeps | apply dropWaits_keeps | apply clearScratch_keeps
    | refine keepsFold _ (fun _ _ _ => ?_) _ ?_ | fail_if_no_progress refine keepsMk rfl ?_ | refine keepsIte ?_ ?_ | dsimp only | split

theorem dropStage_keeps (st : Nat) (s : State) {z : State} (hz : Keeps z s) : Keeps z (dropStage st s) := by
  unfold dropStage
  with_reducible repeat' first
    | assumption | apply setHalf_keeps | refine keepsFold _ (fun _ _ _ => ?_) _ ?_ | fail_if_no_progress refine keepsMk rfl ?_

theorem clearLaunch_keeps (launch : W32) (n : Nat) (s : State) {z : State} (hz : Keeps z s) : Keeps z (clearLaunch launch n s) := by
  unfold clearLaunch
  with_reducible repeat' first
    | assumption | apply setCore_keeps | apply killStook_keeps | apply freeStook_keeps | refine keepsFold _ (fun _ _ _ => ?_) _ ?_

theorem freeFlags_keeps (launch : W32) (s : State) {z : State} (hz : Keeps z s) : Keeps z (freeFlags launch s) := by
  unfold freeFlags
  with_reducible repeat' first
    | assumption | apply setFlagStore_keeps | refine keepsFold _ (fun _ _ _ => ?_) _ ?_

theorem syncRoles_keeps (l : List Nat) (s : State) {z : State} (hz : Keeps z s) : Keeps z (syncRoles l s) := by
  unfold syncRoles
  with_reducible repeat' first
    | assumption | apply arrive_keeps | apply takeHead_keeps | refine keepsFold _ (fun _ _ _ => ?_) _ ?_ | fail_if_no_progress refine keepsMk rfl ?_
    | refine keepsIte ?_ ?_

theorem syncRing_keeps (q : Nat) (s : State) {z : State} (hz : Keeps z s) : Keeps z (syncRing q s) := by
  unfold syncRing
  with_reducible repeat' first
    | assumption | apply setCore_keeps | refine keepsFold _ (fun _ _ _ => ?_) _ ?_ | fail_if_no_progress refine keepsMk rfl ?_ | refine keepsIte ?_ ?_

theorem syncRings_keeps (l : List Nat) (s : State) {z : State} (hz : Keeps z s) : Keeps z (syncRings l s) := by
  unfold syncRings
  with_reducible repeat' first
    | assumption | apply syncRing_keeps | refine keepsFold _ (fun _ _ _ => ?_) _ ?_ | fail_if_no_progress refine keepsMk rfl ?_
    | refine keepsIte ?_ ?_

theorem stopRun_keeps (launch : Nat) (s : State) {z : State} (hz : Keeps z s) : Keeps z (stopRun launch s) := by
  unfold stopRun
  with_reducible repeat' first
    | assumption | apply dropReqs_keeps | apply dropStage_keeps | apply clearLaunch_keeps | apply freeFlags_keeps | apply syncRoles_keeps
    | apply syncRings_keeps | refine keepsFold _ (fun _ _ _ => ?_) _ ?_ | fail_if_no_progress refine keepsMk rfl ?_ | refine keepsIte ?_ ?_
    | dsimp only | split

theorem abandonRun_keeps (launch : Nat) (fault : Bool) (s : State) {z : State} (hz : Keeps z s) : Keeps z (abandonRun launch fault s) := by
  unfold abandonRun
  with_reducible repeat' first
    | assumption | apply bump_keeps | apply modCmd_keeps | apply stopRun_keeps | fail_if_no_progress refine keepsMk rfl ?_ | refine keepsIte ?_ ?_
    | dsimp only | split

theorem failRun_keeps (launch status detail : Nat) (s : State) {z : State} (hz : Keeps z s) : Keeps z (failRun launch status detail s) := by
  unfold failRun
  with_reducible repeat' first
    | assumption | apply modCmd_keeps | apply stopRun_keeps | fail_if_no_progress refine keepsMk rfl ?_ | refine keepsIte ?_ ?_ | dsimp only | split

theorem sendReq_keeps (r : GReq) (s : State) {z : State} (hz : Keeps z s) : Keeps z (sendReq r s) := by
  unfold sendReq
  with_reducible repeat' first
    | assumption | apply setHalf_keeps | apply bump_keeps | apply failRun_keeps | refine keepsSnd ‹_› ?_ | fail_if_no_progress refine keepsMk rfl ?_
    | refine keepsIte ?_ ?_ | dsimp only | split

theorem sendReqs_keeps (l : List GReq) (s : State) {z : State} (hz : Keeps z s) : Keeps z (sendReqs l s) := by
  unfold sendReqs
  with_reducible repeat' first
    | assumption | apply sendReq_keeps | refine keepsFold _ (fun _ _ _ => ?_) _ ?_

theorem abandonOn_keeps (p : Nat → Bool) (s : State) {z : State} (hz : Keeps z s) : Keeps z (abandonOn p s) := by
  unfold abandonOn
  with_reducible repeat' first
    | assumption | apply abandonRun_keeps | refine keepsFold _ (fun _ _ _ => ?_) _ ?_

theorem clearTilth_keeps (n : Nat) (s : State) {z : State} (hz : Keeps z s) : Keeps z (clearTilth n s) := by
  unfold clearTilth
  with_reducible repeat' first
    | assumption | exact fun _ => by decide | exact fun _ => BitVec.isLt _ | exact fun h => tset_rising _ _ _ _ (tset_rising _ _ _ _ h)
    | exact tRising_tdel _ _ | exact fun h => stWrite_wf _ _ _ _ _ (stWrite_wf _ _ _ _ _ h) | exact fun h => h | exact mwrite_wf _ _ _
    | exact filter_wf _ _ | exact stWrite_wf _ _ _ _ _ | exact stClear_wf _ _ _ _ | refine keepsIte ?_ ?_ | dsimp only
    | fail_if_no_progress refine keepsMk rfl ?_ | split | refine keepsTilth _ _ ?_ ?_

theorem dropCoreWaits_keeps (n : Nat) (s : State) {z : State} (hz : Keeps z s) : Keeps z (dropCoreWaits n s) := by
  unfold dropCoreWaits
  with_reducible repeat' first
    | assumption | apply dropWaits_keeps | refine keepsFold _ (fun _ _ _ => ?_) _ ?_

theorem resetCore_keeps (n : Nat) (s : State) {z : State} (hz : Keeps z s) : Keeps z (resetCore n s) := by
  unfold resetCore
  with_reducible repeat' first
    | assumption | apply setCore_keeps | apply resetEndpoint_keeps | apply dropReqs_keeps | apply abandonOn_keeps | apply clearTilth_keeps
    | apply dropCoreWaits_keeps

theorem clusterReset_keeps (q k : Nat) (s : State) {z : State} (hz : Keeps z s) : Keeps z (clusterReset q k s) := by
  unfold clusterReset
  with_reducible repeat' first
    | assumption | apply bump_keeps | apply resetCore_keeps | refine keepsFold _ (fun _ _ _ => ?_) _ ?_ | fail_if_no_progress refine keepsMk rfl ?_
    | refine keepsIte ?_ ?_

theorem coreReset_keeps (n : Nat) (s : State) {z : State} (hz : Keeps z s) : Keeps z (coreReset n s) := by
  unfold coreReset
  with_reducible repeat' first
    | assumption | apply bump_keeps | apply resetCore_keeps | apply clusterReset_keeps | fail_if_no_progress refine keepsMk rfl ?_
    | refine keepsIte ?_ ?_

theorem setPoint_keeps (n : Nat) (s : State) {z : State} (hz : Keeps z s) : Keeps z (setPoint n s) := by
  unfold setPoint
  with_reducible repeat' first
    | assumption | apply setDomain_keeps

theorem fenceCore_keeps (n : Nat) (s : State) {z : State} (hz : Keeps z s) : Keeps z (fenceCore n s) := by
  unfold fenceCore
  with_reducible repeat' first
    | assumption | apply setCore_keeps | apply setEp_keeps | apply resetCore_keeps | apply setPoint_keeps | fail_if_no_progress refine keepsMk rfl ?_

/-! ## Codes -/

theorem reportCe_keeps (ctr store src finder bits_ addr loc : Nat) (fresh : Bool) (run : Nat) (s : State) {z : State} (hz : Keeps z s) : Keeps z (reportCe ctr store src finder bits_ addr loc fresh run s) := by
  unfold reportCe
  with_reducible repeat' first
    | assumption | apply bump_keeps | apply alarmW_keeps | apply errRec_keeps | fail_if_no_progress refine keepsMk rfl ?_ | refine keepsIte ?_ ?_

theorem reportState_keeps (ctr store src finder addr loc n : Nat) (fresh : Bool) (s : State) {z : State} (hz : Keeps z s) : Keeps z (reportState ctr store src finder addr loc n fresh s) := by
  unfold reportState
  with_reducible repeat' first
    | assumption | apply bump_keeps | apply errRec_keeps | fail_if_no_progress refine keepsMk rfl ?_ | refine keepsIte ?_ ?_

theorem reportUe_keeps (ctr store src finder addr loc : Nat) (s : State) {z : State} (hz : Keeps z s) : Keeps z (reportUe ctr store src finder addr loc s) := by
  unfold reportUe
  with_reducible repeat' first
    | assumption | apply bump_keeps | apply alarmW_keeps | apply errRec_keeps

theorem copyFails_keeps (x : Cmd) (copy : Nat) (s : State) {z : State} (hz : Keeps z s) : Keeps z (copyFails x copy s) := by
  unfold copyFails
  with_reducible repeat' first
    | assumption | apply reportUe_keeps

theorem readCopies_keeps (x : Cmd) (s : State) {z : State} (hz : Keeps z s) : Keeps z (readCopies x s) := by
  unfold readCopies
  with_reducible repeat' first
    | assumption | apply modCmd_keeps | apply copyFails_keeps | refine keepsSnd ‹_› ?_ | fail_if_no_progress refine keepsMk rfl ?_ | dsimp only
    | split

theorem tilUe_keeps (n off finder : Nat) (s : State) {z : State} (hz : Keeps z s) : Keeps z (tilUe n off finder s) := by
  unfold tilUe
  with_reducible repeat' first
    | assumption | apply setCore_keeps | apply tilWrite_keeps | apply fenceCore_keeps | apply reportUe_keeps
    | fail_if_no_progress refine keepsMk rfl ?_ | refine keepsIte ?_ ?_

theorem tilRepair_keeps (n off : Nat) (s : State) {z : State} (hz : Keeps z s) : Keeps z (tilRepair n off s) := by
  unfold tilRepair
  with_reducible repeat' first
    | assumption | apply setCore_keeps | apply bump_keeps | fail_if_no_progress refine keepsMk rfl ?_ | refine keepsIte ?_ ?_

theorem readTilth_keeps (n word finder err : Nat) (s : State) {z : State} (hz : Keeps z s) : Keeps z (readTilth n word finder err s) := by
  unfold readTilth
  with_reducible repeat' first
    | assumption | apply setCore_keeps | apply reportCe_keeps | apply tilUe_keeps | apply tilRepair_keeps | exact fun _ => by decide | exact fun _ => BitVec.isLt _
    | exact fun h => tset_rising _ _ _ _ (tset_rising _ _ _ _ h) | exact tRising_tdel _ _
    | exact fun h => stWrite_wf _ _ _ _ _ (stWrite_wf _ _ _ _ _ h) | exact fun h => h | exact mwrite_wf _ _ _ | exact filter_wf _ _
    | exact stWrite_wf _ _ _ _ _ | exact stClear_wf _ _ _ _ | refine keepsIte ?_ ?_ | dsimp only | fail_if_no_progress refine keepsMk rfl ?_ | split
    | refine keepsTilth _ _ ?_ ?_

theorem tilState_keeps (word finder fixes : Nat) (s : State) {z : State} (hz : Keeps z s) : Keeps z (tilState word finder fixes s) := by
  unfold tilState
  with_reducible repeat' first
    | assumption | apply setCore_keeps | apply reportState_keeps | refine keepsSnd ‹_› ?_ | fail_if_no_progress refine keepsMk rfl ?_
    | refine keepsIte ?_ ?_

theorem demandTilth_keeps (word err : Nat) (s : State) {z : State} (hz : Keeps z s) : Keeps z (demandTilth word err s) := by
  unfold demandTilth
  exact keepsIte (readTilth_keeps _ _ _ _ _ (tilState_keeps _ _ _ _ hz)) (tilState_keeps _ _ _ _ hz)

/-! ## Quarter -/

theorem quarterCores_keeps (q : Nat) (f : Nat → State → State) (hf : ∀ n s a, Keeps a s → Keeps a (f n s)) (s : State) {a : State} (k : Keeps a s) :
    Keeps a (quarterCores q f s) := by
  unfold quarterCores
  with_reducible repeat' first
    | exact keepsFold _ (fun _ _ h => hf _ _ _ h) _ k

theorem closeCore_keeps (n : Nat) (s : State) {z : State} (hz : Keeps z s) : Keeps z (closeCore n s) := by
  unfold closeCore
  with_reducible repeat' first
    | assumption | apply setCore_keeps | apply flushCore_keeps | fail_if_no_progress refine keepsMk rfl ?_ | refine keepsIte ?_ ?_

theorem quarterFault_keeps (q : Nat) (stay : Bool) (s : State) {z : State} (hz : Keeps z s) : Keeps z (quarterFault q stay s) := by
  unfold quarterFault
  with_reducible repeat' first
    | assumption | refine quarterCores_keeps _ _ (fun _ _ _ _ => ?_) _ ?_ | apply setQuarter_keeps | apply alarmW_keeps | apply flushCore_keeps
    | apply abandonOn_keeps | apply closeCore_keeps | fail_if_no_progress refine keepsMk rfl ?_ | refine keepsIte ?_ ?_

theorem darkenCore_keeps (n : Nat) (s : State) {z : State} (hz : Keeps z s) : Keeps z (darkenCore n s) := by
  unfold darkenCore
  with_reducible repeat' first
    | assumption | apply setCore_keeps | fail_if_no_progress refine keepsMk rfl ?_ | refine keepsIte ?_ ?_

theorem lostRetries_keeps (q : Nat) (s : State) {z : State} (hz : Keeps z s) : Keeps z (lostRetries q s) := by
  unfold lostRetries
  with_reducible repeat' first
    | assumption | apply failRun_keeps | refine keepsFold _ (fun _ _ _ => ?_) _ ?_ | fail_if_no_progress refine keepsMk rfl ?_ | refine keepsIte ?_ ?_
    | dsimp only | split

theorem lostWaits_keeps (q : Nat) (s : State) {z : State} (hz : Keeps z s) : Keeps z (lostWaits q s) := by
  unfold lostWaits
  with_reducible repeat' first
    | assumption | apply setHalf_keeps | apply endCmd_keeps | refine keepsFold _ (fun _ _ _ => ?_) _ ?_ | fail_if_no_progress refine keepsMk rfl ?_
    | refine keepsIte ?_ ?_ | dsimp only | split

theorem fenceQuarter_keeps (q : Nat) (s : State) {z : State} (hz : Keeps z s) : Keeps z (fenceQuarter q s) := by
  unfold fenceQuarter
  with_reducible repeat' first
    | assumption | apply setQuarter_keeps | apply alarmW_keeps | apply abandonOn_keeps | apply darkenCore_keeps | apply lostRetries_keeps
    | apply lostWaits_keeps | refine quarterCores_keeps _ _ (fun _ _ _ _ => ?_) _ ?_ | fail_if_no_progress refine keepsMk rfl ?_
    | refine keepsIte ?_ ?_

theorem logMismatch_keeps (slot pa : Nat) (s : State) {z : State} (hz : Keeps z s) : Keeps z (logMismatch slot pa s) := by
  unfold logMismatch
  with_reducible repeat' first
    | assumption | apply bump_keeps | apply logRec_keeps

theorem hubWrite_keeps (pa : Nat) (b : List Byte) (psn : Bool) (s : State) {z : State} (hz : Keeps z s) : Keeps z (hubWrite pa b psn s) := by
  unfold hubWrite
  with_reducible repeat' first
    | assumption | apply cohWrite_keeps | fail_if_no_progress refine keepsMk rfl ?_ | refine keepsIte ?_ ?_ | dsimp only | split

/-! ## Wire -/

theorem emit_keeps (kind conn : Nat) (b : List Byte) (port : Option Nat) (s : State) {z : State} (hz : Keeps z s) : Keeps z (emit kind conn b port s) := by
  unfold emit
  with_reducible repeat' first
    | assumption | apply bump_keeps | fail_if_no_progress refine keepsMk rfl ?_ | refine keepsIte ?_ ?_ | dsimp only | split

theorem putConn_keeps (n : Nat) (c : Conn) (s : State) {z : State} (hz : Keeps z s) : Keeps z (putConn n c s) := by
  unfold putConn
  with_reducible repeat' first
    | assumption | fail_if_no_progress refine keepsMk rfl ?_

theorem sendFrame_keeps (n typ flow : Nat) (poison : Bool) (reason seq addr : Nat) (payload : List Byte) (s : State) {z : State} (hz : Keeps z s) : Keeps z (sendFrame n typ flow poison reason seq addr payload s) := by
  unfold sendFrame
  with_reducible repeat' first
    | assumption | apply emit_keeps | apply putConn_keeps | fail_if_no_progress refine keepsMk rfl ?_ | refine keepsIte ?_ ?_ | dsimp only | split

theorem endConn_keeps (n reason : Nat) (alarmed : Bool) (s : State) {z : State} (hz : Keeps z s) : Keeps z (endConn n reason alarmed s) := by
  unfold endConn
  with_reducible repeat' first
    | assumption | apply alarmW_keeps | apply sendFrame_keeps | fail_if_no_progress refine keepsMk rfl ?_ | refine keepsIte ?_ ?_

theorem keyEnd_keeps (n : Nat) (s : State) {z : State} (hz : Keeps z s) : Keeps z (keyEnd n s) := by
  unfold keyEnd
  with_reducible repeat' first
    | assumption | apply endConn_keeps | fail_if_no_progress refine keepsMk rfl ?_ | refine keepsIte ?_ ?_ | dsimp only | split

theorem sendOn_keeps (n typ flow : Nat) (poison : Bool) (reason seq addr : Nat) (payload : List Byte) (s : State) {z : State} (hz : Keeps z s) : Keeps z (sendOn n typ flow poison reason seq addr payload s) := by
  unfold sendOn
  with_reducible repeat' first
    | assumption | apply sendFrame_keeps | apply keyEnd_keeps

theorem sendMsg_keeps (n flow typ : Nat) (poison : Bool) (payload : List Byte) (s : State) {z : State} (hz : Keeps z s) : Keeps z (sendMsg n flow typ poison payload s) := by
  unfold sendMsg
  with_reducible repeat' first
    | assumption | apply putConn_keeps | apply sendOn_keeps | fail_if_no_progress refine keepsMk rfl ?_ | refine keepsIte ?_ ?_ | dsimp only | split

theorem setQp_keeps (s : State) (i : Nat) (x : Qp) {z : State} (hz : Keeps z s) : Keeps z (State.setQp s i x) := by
  unfold State.setQp
  with_reducible repeat' first
    | assumption | fail_if_no_progress refine keepsMk rfl ?_

theorem roceSendMsg_keeps (i : Nat) (payload : List Byte) (s : State) {z : State} (hz : Keeps z s) : Keeps z (roceSendMsg i payload s) := by
  unfold roceSendMsg
  with_reducible repeat' first
    | assumption | apply emit_keeps | apply setQp_keeps

theorem notifyMb_keeps (mb kind qu seq : Nat) (rec : List Byte) (s : State) {z : State} (hz : Keeps z s) : Keeps z (notifyMb mb kind qu seq rec s) := by
  unfold notifyMb
  with_reducible repeat' first
    | assumption | apply sendMsg_keeps | apply roceSendMsg_keeps | refine keepsFold _ (fun _ _ _ => ?_) _ ?_

/-! ## Windrow -/

theorem execLogRecord_keeps (sev src code : Nat) (payload : List Byte) (s : State) {z : State} (hz : Keeps z s) : OutKeeps z (execLogRecord sev src code payload s) := by
  unfold execLogRecord
  with_reducible repeat' first
    | assumption | refine outEvt ?_ ?_ | refine outNext ?_ | apply logRec_keeps

theorem freeLog_keeps (i : Nat) (s : State) {z : State} (hz : Keeps z s) : Keeps z (freeLog i s) := by
  unfold freeLog
  with_reducible repeat' first
    | assumption | apply countDrop_keeps | apply alarmW_keeps | fail_if_no_progress refine keepsMk rfl ?_ | refine keepsIte ?_ ?_ | dsimp only | split

theorem openBlock_keeps (i sev : Nat) (stamp : W64) (s : State) {z : State} (hz : Keeps z s) : Keeps z (openBlock i sev stamp s) := by
  unfold openBlock
  with_reducible repeat' first
    | assumption | fail_if_no_progress refine keepsMk rfl ?_

theorem appendBlock_keeps (i : Nat) (l : List Byte) (s : State) {z : State} (hz : Keeps z s) : Keeps z (appendBlock i l s) := by
  unfold appendBlock
  with_reducible repeat' first
    | assumption | fail_if_no_progress refine keepsMk rfl ?_ | refine keepsIte ?_ ?_ | dsimp only | split

theorem logBlock_keeps (sev n : Nat) (stamp : W64) (s : State) {z : State} (hz : Keeps z s) : Keeps z (logBlock sev n stamp s).2 := by
  unfold logBlock
  with_reducible repeat' first
    | assumption | apply freeLog_keeps | apply openBlock_keeps | fail_if_no_progress refine keepsMk rfl ?_ | refine keepsIte ?_ ?_ | dsimp only
    | split

theorem writeLog_keeps (r : LogRec) (s : State) {z : State} (hz : Keeps z s) : Keeps z (writeLog r s) := by
  unfold writeLog
  with_reducible repeat' first
    | assumption | apply bump_keeps | apply appendBlock_keeps | apply logBlock_keeps | refine keepsSnd ‹_› ?_
    | fail_if_no_progress refine keepsMk rfl ?_ | refine keepsIte ?_ ?_ | dsimp only | split

theorem execLogWrite_keeps (s : State) {z : State} (hz : Keeps z s) : OutKeeps z (execLogWrite s) := by
  unfold execLogWrite
  with_reducible repeat' first
    | assumption | refine outEvt ?_ ?_ | refine outNext ?_ | refine outIte ?_ ?_ | apply writeLog_keeps | fail_if_no_progress refine keepsMk rfl ?_
    | refine keepsIte ?_ ?_ | dsimp only | split

theorem execAlarmRaise_keeps (code src : Nat) (detail : List Byte) (s : State) {z : State} (hz : Keeps z s) : OutKeeps z (execAlarmRaise code src detail s) := by
  unfold execAlarmRaise
  with_reducible repeat' first
    | assumption | refine outEvt ?_ ?_ | refine outNext ?_ | refine outIte ?_ ?_ | apply raiseAlarm_keeps

theorem execAlarmResend_keeps (s : State) {z : State} (hz : Keeps z s) : OutKeeps z (execAlarmResend s) := by
  unfold execAlarmResend
  with_reducible repeat' first
    | assumption | refine outEvt ?_ ?_ | refine outNext ?_ | apply queueSend_keeps | refine keepsFold _ (fun _ _ _ => ?_) _ ?_
    | fail_if_no_progress refine keepsMk rfl ?_

theorem execAlarmClose_keeps (i : Nat) (s : State) {z : State} (hz : Keeps z s) : OutKeeps z (execAlarmClose i s) := by
  unfold execAlarmClose
  with_reducible repeat' first
    | assumption | refine outEvt ?_ ?_ | refine outNext ?_ | refine outIte ?_ ?_ | apply closeAlarm_keeps | fail_if_no_progress refine keepsMk rfl ?_
    | refine keepsIte ?_ ?_ | dsimp only | split

theorem datagram_keeps (kind records : Nat) (body : List Byte) (s : State) {z : State} (hz : Keeps z s) : Keeps z (datagram kind records body s).2 := by
  unfold datagram
  with_reducible repeat' first
    | assumption | fail_if_no_progress refine keepsMk rfl ?_

theorem mgmtSend_keeps (b : List Byte) (s : State) {z : State} (hz : Keeps z s) : Keeps z (mgmtSend b s) := by
  unfold mgmtSend
  with_reducible repeat' first
    | assumption | apply bump_keeps | fail_if_no_progress refine keepsMk rfl ?_

theorem alarmFrame_keeps (s : State) {z : State} (hz : Keeps z s) : Keeps z (alarmFrame s) := by
  unfold alarmFrame
  with_reducible repeat' first
    | assumption | apply bump_keeps | apply datagram_keeps | refine keepsSnd ‹_› ?_ | apply mgmtSend_keeps | fail_if_no_progress refine keepsMk rfl ?_

theorem mgmtServe_keeps (i : Nat) (s : State) {z : State} (hz : Keeps z s) : Keeps z (mgmtServe i s) := by
  unfold mgmtServe
  with_reducible repeat' first
    | assumption | apply mgmtSend_keeps | apply alarmFrame_keeps | fail_if_no_progress refine keepsMk rfl ?_ | refine keepsIte ?_ ?_ | dsimp only
    | split

theorem execMgmtTransmit_keeps (s : State) {z : State} (hz : Keeps z s) : OutKeeps z (execMgmtTransmit s) := by
  unfold execMgmtTransmit
  with_reducible repeat' first
    | assumption | refine outEvt ?_ ?_ | refine outNext ?_ | refine outIte ?_ ?_ | apply alarmFrame_keeps | apply mgmtServe_keeps
    | fail_if_no_progress refine keepsMk rfl ?_ | refine keepsIte ?_ ?_ | dsimp only | split

theorem modFrame_keeps (b : List Byte) (s : State) {z : State} (hz : Keeps z s) : Keeps z (modFrame b s) := by
  unfold modFrame
  with_reducible repeat' first
    | assumption | fail_if_no_progress refine keepsMk rfl ?_

theorem snapFrames_keeps  (x0 : Nat) (x1 : Tab W64) (s : State) {z : State} (hz : Keeps z s) : Keeps z (snapFrames  x0 x1 s) := by
  induction x0 generalizing x1 s with
  | zero => exact hz
  | succ m ih =>
    unfold snapFrames
    with_reducible repeat' first
      | assumption | apply ih | apply datagram_keeps | refine keepsSnd ‹_› ?_ | apply modFrame_keeps | fail_if_no_progress refine keepsMk rfl ?_
      | refine keepsIte ?_ ?_

theorem execTelemetrySend_keeps (kind : Nat) (s : State) {z : State} (hz : Keeps z s) : OutKeeps z (execTelemetrySend kind s) := by
  unfold execTelemetrySend
  with_reducible repeat' first
    | assumption | refine outEvt ?_ ?_ | refine outNext ?_ | refine outIte ?_ ?_ | apply datagram_keeps | refine keepsSnd ‹_› ?_
    | apply alarmFrame_keeps | apply modFrame_keeps | apply snapFrames_keeps | fail_if_no_progress refine keepsMk rfl ?_ | refine keepsIte ?_ ?_
    | dsimp only | split

theorem traceBlock_keeps (s : State) {z : State} (hz : Keeps z s) : Keeps z (traceBlock s).2 := by
  unfold traceBlock
  with_reducible repeat' first
    | assumption | apply put_keeps | apply openBlock_keeps | refine keepsFold _ (fun _ _ _ => ?_) _ ?_ | fail_if_no_progress refine keepsMk rfl ?_
    | refine keepsIte ?_ ?_ | dsimp only | split

theorem writeTrace_keeps (b : List Byte) (s : State) {z : State} (hz : Keeps z s) : Keeps z (writeTrace b s) := by
  unfold writeTrace
  with_reducible repeat' first
    | assumption | apply bump_keeps | apply appendBlock_keeps | apply traceBlock_keeps | refine keepsSnd ‹_› ?_
    | fail_if_no_progress refine keepsMk rfl ?_ | refine keepsIte ?_ ?_ | dsimp only | split

theorem writeHeld_keeps (e : Nat × List Byte) (s : State) {z : State} (hz : Keeps z s) : Keeps z (writeHeld e s) := by
  unfold writeHeld
  with_reducible repeat' first
    | assumption | apply writeTrace_keeps | fail_if_no_progress refine keepsMk rfl ?_ | refine keepsIte ?_ ?_

theorem drainColl_keeps (k : Nat) (s : State) {z : State} (hz : Keeps z s) : Keeps z (drainColl k s) := by
  unfold drainColl
  with_reducible repeat' first
    | assumption | apply writeHeld_keeps | refine keepsFold _ (fun _ _ _ => ?_) _ ?_ | fail_if_no_progress refine keepsMk rfl ?_

theorem collect_keeps (k typ src : Nat) (data : BitVec 128) (s : State) {z : State} (hz : Keeps z s) : Keeps z (collect k typ src data s) := by
  unfold collect
  with_reducible repeat' first
    | assumption | apply bump_keeps | apply alarmW_keeps | apply drainColl_keeps | fail_if_no_progress refine keepsMk rfl ?_ | refine keepsIte ?_ ?_

theorem execTraceRecord_keeps (coll typ src : Nat) (data : BitVec 128) (s : State) {z : State} (hz : Keeps z s) : OutKeeps z (execTraceRecord coll typ src data s) := by
  unfold execTraceRecord
  with_reducible repeat' first
    | assumption | refine outEvt ?_ ?_ | refine outNext ?_ | refine outIte ?_ ?_ | apply collect_keeps | fail_if_no_progress refine keepsMk rfl ?_
    | refine keepsIte ?_ ?_

theorem traceCfgWrite_keeps (v : W32) (s : State) {z : State} (hz : Keeps z s) : Keeps z (traceCfgWrite v s) := by
  unfold traceCfgWrite
  with_reducible repeat' first
    | assumption | fail_if_no_progress refine keepsMk rfl ?_

theorem execWdrTraceCfgWrite_keeps (v : BitVec 32) (s : State) {z : State} (hz : Keeps z s) : OutKeeps z (execWdrTraceCfgWrite v s) := by
  unfold execWdrTraceCfgWrite
  with_reducible repeat' first
    | assumption | refine outEvt ?_ ?_ | refine outNext ?_ | refine outIte ?_ ?_ | apply traceCfgWrite_keeps

theorem execCounterSnapshot_keeps (s : State) {z : State} (hz : Keeps z s) : OutKeeps z (execCounterSnapshot s) := by
  unfold execCounterSnapshot
  with_reducible repeat' first
    | assumption | refine outEvt ?_ ?_ | refine outNext ?_ | fail_if_no_progress refine keepsMk rfl ?_

/-! ## Mailbox -/

theorem cacheQueue_keeps (qu : Nat) (s : State) {z : State} (hz : Keeps z s) : Keeps z (cacheQueue qu s).2 := by
  unfold cacheQueue
  with_reducible repeat' first
    | assumption | fail_if_no_progress refine keepsMk rfl ?_ | refine keepsIte ?_ ?_ | dsimp only | split

theorem noteSectors_keeps (cls master : Nat) (l : List Nat) (s : State) {z : State} (hz : Keeps z s) : Keeps z (noteSectors cls master l s) := by
  unfold noteSectors
  with_reducible repeat' first
    | assumption | apply useAt_keeps | apply noteSector_keeps | refine keepsFold _ (fun _ _ _ => ?_) _ ?_

theorem noteRange_keeps (master pa n : Nat) (s : State) {z : State} (hz : Keeps z s) : Keeps z (noteRange master pa n s) := by
  unfold noteRange
  with_reducible repeat' first
    | assumption | apply noteSectors_keeps

theorem freshConsumed_keeps (qu : Nat) (k : Queue) (s : State) {z : State} (hz : Keeps z s) : Keeps z (freshConsumed qu k s) := by
  unfold freshConsumed
  with_reducible repeat' first
    | assumption | apply setQueue_keeps | apply logIgnored_keeps | apply noteRange_keeps | fail_if_no_progress refine keepsMk rfl ?_
    | refine keepsIte ?_ ?_

theorem rereadConsumed_keeps (qu : Nat) (s : State) {z : State} (hz : Keeps z s) : Keeps z (rereadConsumed qu s) := by
  unfold rereadConsumed
  with_reducible repeat' first
    | assumption | apply freshConsumed_keeps | fail_if_no_progress refine keepsMk rfl ?_ | dsimp only | split

theorem acceptCmds_keeps (mb qu : Nat) (x0 : List (List Byte)) (s : State) {z : State} (hz : Keeps z s) : Keeps z (acceptCmds mb qu x0 s) := by
  induction x0 generalizing s with
  | nil => exact hz
  | cons a t ih =>
    unfold acceptCmds
    with_reducible repeat' first
      | assumption | cases ‹a :: t = _› | apply ih | apply setQueue_keeps | apply bump_keeps | fail_if_no_progress refine keepsMk rfl ?_
      | refine keepsIte ?_ ?_ | dsimp only | split

theorem postAck_keeps (mb qu fseq : Nat) (e : List Byte) (s : State) {z : State} (hz : Keeps z s) : Keeps z (postAck mb qu fseq e s) := by
  unfold postAck
  with_reducible repeat' first
    | assumption | apply setMb_keeps | apply notifyMb_keeps

theorem grantQueue_keeps (qu i : Nat) (s : State) {z : State} (hz : Keeps z s) : Keeps z (grantQueue qu i s) := by
  unfold grantQueue
  with_reducible repeat' first
    | assumption | apply setQueue_keeps | fail_if_no_progress refine keepsMk rfl ?_ | dsimp only | split

theorem doorbell_keeps (mb fseq : Nat) (v : W64) (s : State) {z : State} (hz : Keeps z s) : Keeps z (doorbell mb fseq v s) := by
  unfold doorbell
  with_reducible repeat' first
    | assumption | apply setMb_keeps | apply cacheQueue_keeps | apply rereadConsumed_keeps | apply acceptCmds_keeps | apply postAck_keeps
    | apply grantQueue_keeps | refine keepsSnd ‹_› ?_ | fail_if_no_progress refine keepsMk rfl ?_ | refine keepsIte ?_ ?_ | dsimp only | split

theorem spoilCopies_keeps (order : Nat) (a b : Bool) (s : State) {z : State} (hz : Keeps z s) : Keeps z (spoilCopies order a b s) := by
  unfold spoilCopies
  with_reducible repeat' first
    | assumption | fail_if_no_progress refine keepsMk rfl ?_ | refine keepsIte ?_ ?_

theorem execMbDoorbell_keeps (mb : Nat) (v : BitVec 66) (s : State) {z : State} (hz : Keeps z s) : OutKeeps z (execMbDoorbell mb v s) := by
  unfold execMbDoorbell
  with_reducible repeat' first
    | assumption | refine outEvt ?_ ?_ | refine outNext ?_ | refine outIte ?_ ?_ | apply logStray_keeps | apply doorbell_keeps
    | apply spoilCopies_keeps | fail_if_no_progress refine keepsMk rfl ?_ | refine keepsIte ?_ ?_

theorem ackHeadWrite_keeps (mb : Nat) (v : Nat) (s : State) {z : State} (hz : Keeps z s) : Keeps z (ackHeadWrite mb v s) := by
  unfold ackHeadWrite
  with_reducible repeat' first
    | assumption | apply setMb_keeps | apply logIgnored_keeps | fail_if_no_progress refine keepsMk rfl ?_ | refine keepsIte ?_ ?_

theorem cplHeadWrite_keeps (mb : Nat) (v : Nat) (s : State) {z : State} (hz : Keeps z s) : Keeps z (cplHeadWrite mb v s) := by
  unfold cplHeadWrite
  with_reducible repeat' first
    | assumption | apply setMb_keeps | apply logIgnored_keeps | fail_if_no_progress refine keepsMk rfl ?_ | refine keepsIte ?_ ?_

theorem execMbAckHeadWrite_keeps (mb : Nat) (v : BitVec 32) (s : State) {z : State} (hz : Keeps z s) : OutKeeps z (execMbAckHeadWrite mb v s) := by
  unfold execMbAckHeadWrite
  with_reducible repeat' first
    | assumption | refine outEvt ?_ ?_ | refine outNext ?_ | refine outIte ?_ ?_ | apply logStray_keeps | apply ackHeadWrite_keeps
    | fail_if_no_progress refine keepsMk rfl ?_ | refine keepsIte ?_ ?_

theorem execMbCplHeadWrite_keeps (mb : Nat) (v : BitVec 32) (s : State) {z : State} (hz : Keeps z s) : OutKeeps z (execMbCplHeadWrite mb v s) := by
  unfold execMbCplHeadWrite
  with_reducible repeat' first
    | assumption | refine outEvt ?_ ?_ | refine outNext ?_ | refine outIte ?_ ?_ | apply logStray_keeps | apply cplHeadWrite_keeps
    | fail_if_no_progress refine keepsMk rfl ?_ | refine keepsIte ?_ ?_

theorem mbWrite_keeps (mb fseq off width : Nat) (v : Nat) (s : State) {z : State} (hz : Keeps z s) : Keeps z (mbWrite mb fseq off width v s) := by
  unfold mbWrite
  with_reducible repeat' first
    | assumption | apply setMb_keeps | apply logStray_keeps | apply doorbell_keeps | apply ackHeadWrite_keeps | apply cplHeadWrite_keeps
    | fail_if_no_progress refine keepsMk rfl ?_ | refine keepsIte ?_ ?_ | dsimp only | split

/-! ## Drill -/

theorem mbWriteRange_keeps (mb fseq off : Nat) (b : List Byte) (s : State) {z : State} (hz : Keeps z s) : Keeps z (mbWriteRange mb fseq off b s) := by
  unfold mbWriteRange
  with_reducible repeat' first
    | assumption | apply setMb_keeps | apply mbWrite_keeps | fail_if_no_progress refine keepsMk rfl ?_ | refine keepsIte ?_ ?_

theorem cutsWrite_keeps (req : Requester) (slot : Nat) (x0 : List (Nat × Nat)) (x1 : List Byte) (s : State) {z : State} (hz : Keeps z s) : Keeps z (cutsWrite req slot x0 x1 s).2 := by
  induction x0 generalizing x1 s with
  | nil => exact hz
  | cons a t ih =>
    unfold cutsWrite
    with_reducible repeat' first
      | assumption | cases ‹a :: t = _› | apply ih | refine keepsSnd ‹_› ?_ | apply hubWrite_keeps

theorem msgDone_keeps (n flow : Nat) (s : State) {z : State} (hz : Keeps z s) : Keeps z (msgDone n flow s) := by
  unfold msgDone
  with_reducible repeat' first
    | assumption | apply putConn_keeps | apply sendOn_keeps | fail_if_no_progress refine keepsMk rfl ?_ | refine keepsIte ?_ ?_ | dsimp only | split

theorem msgNak_keeps (n flow reason : Nat) (seq : W64) (s : State) {z : State} (hz : Keeps z s) : Keeps z (msgNak n flow reason seq s) := by
  unfold msgNak
  with_reducible repeat' first
    | assumption | apply sendOn_keeps | apply msgDone_keeps

theorem msgRead_keeps (n flow : Nat) (d : List Byte × Bool) (s : State) {z : State} (hz : Keeps z s) : Keeps z (msgRead n flow d s) := by
  unfold msgRead
  with_reducible repeat' first
    | assumption | apply sendMsg_keeps | apply msgDone_keeps

theorem msgBegin_keeps (n flow : Nat) (c : Conn) (m : W64 × Nat × W64 × List Byte × Nat) (s : State) {z : State} (hz : Keeps z s) : Keeps z (msgBegin n flow c m s) := by
  unfold msgBegin
  with_reducible repeat' first
    | assumption | apply write_keeps | apply sendReqs_keeps | apply putConn_keeps | apply mbWriteRange_keeps | apply cutsWrite_keeps
    | refine keepsSnd ‹_› ?_ | apply msgDone_keeps | apply msgNak_keeps | apply msgRead_keeps | fail_if_no_progress refine keepsMk rfl ?_
    | refine keepsIte ?_ ?_ | dsimp only | split

theorem drillPump_keeps (n flow : Nat) (x0 : Nat) (s : State) {z : State} (hz : Keeps z s) : Keeps z (drillPump n flow x0 s) := by
  induction x0 generalizing s with
  | zero => exact hz
  | succ m ih =>
    unfold drillPump
    with_reducible repeat' first
      | assumption | apply ih | apply msgBegin_keeps | fail_if_no_progress refine keepsMk rfl ?_ | refine keepsIte ?_ ?_ | dsimp only | split

theorem drillAnswer_keeps (n flow : Nat) (seq : W64) (s : State) {z : State} (hz : Keeps z s) : Keeps z (drillAnswer n flow seq s) := by
  unfold drillAnswer
  with_reducible repeat' first
    | assumption | apply putConn_keeps | apply msgDone_keeps | apply msgNak_keeps | apply msgRead_keeps | apply drillPump_keeps
    | fail_if_no_progress refine keepsMk rfl ?_ | refine keepsIte ?_ ?_ | dsimp only | split

theorem sendNew_keeps (n flow old : Nat) (s : State) {z : State} (hz : Keeps z s) : Keeps z (sendNew n flow old s) := by
  unfold sendNew
  with_reducible repeat' first
    | assumption | apply sendOn_keeps | refine keepsFold _ (fun _ _ _ => ?_) _ ?_ | fail_if_no_progress refine keepsMk rfl ?_ | refine keepsIte ?_ ?_
    | dsimp only | split

theorem ackProgress_keeps (n flow : Nat) (ack : W64) (s : State) {z : State} (hz : Keeps z s) : Keeps z (ackProgress n flow ack s) := by
  unfold ackProgress
  with_reducible repeat' first
    | assumption | apply putConn_keeps | apply sendNew_keeps | fail_if_no_progress refine keepsMk rfl ?_ | refine keepsIte ?_ ?_ | dsimp only | split

theorem frameIn_keeps (x : Frame) (s : State) {z : State} (hz : Keeps z s) : Keeps z (frameIn x s) := by
  unfold frameIn
  with_reducible repeat' first
    | assumption | apply putConn_keeps | apply ackProgress_keeps | fail_if_no_progress refine keepsMk rfl ?_ | refine keepsIte ?_ ?_ | dsimp only
    | split

theorem withFrame_keeps (typ : Nat) (b : List Byte) (f : Frame → Conn → State → State) (hf : ∀ x c s a, Keeps a s → Keeps a (f x c s)) (s : State) {a : State} (k : Keeps a s) :
    OutKeeps a (withFrame typ b f s) := by
  unfold withFrame
  with_reducible repeat' first
    | assumption | refine outEvt ?_ ?_ | refine outNext ?_ | apply hf | apply frameIn_keeps | apply bump_keeps | dsimp only | split

theorem flowMsg_keeps (x : Frame) (c : Conn) (s : State) {z : State} (hz : Keeps z s) : Keeps z (flowMsg x c s) := by
  unfold flowMsg
  with_reducible repeat' first
    | assumption | apply bump_keeps | apply putConn_keeps | apply sendOn_keeps | apply drillPump_keeps | fail_if_no_progress refine keepsMk rfl ?_
    | refine keepsIte ?_ ?_ | dsimp only | split

theorem execDrillWrite_keeps (frame : List Byte) (s : State) {z : State} (hz : Keeps z s) : OutKeeps z (execDrillWrite frame s) := by
  unfold execDrillWrite
  with_reducible repeat' first
    | assumption | refine outEvt ?_ ?_ | refine outNext ?_ | refine outIte ?_ ?_ | apply flowMsg_keeps
    | refine withFrame_keeps _ _ _ (fun _ _ _ _ _ => ?_) _ ?_

theorem execDrillRead_keeps (frame : List Byte) (s : State) {z : State} (hz : Keeps z s) : OutKeeps z (execDrillRead frame s) := by
  unfold execDrillRead
  with_reducible repeat' first
    | assumption | refine outEvt ?_ ?_ | refine outNext ?_ | refine outIte ?_ ?_ | apply flowMsg_keeps
    | refine withFrame_keeps _ _ _ (fun _ _ _ _ _ => ?_) _ ?_

theorem execDrillAck_keeps (frame : List Byte) (s : State) {z : State} (hz : Keeps z s) : OutKeeps z (execDrillAck frame s) := by
  unfold execDrillAck
  with_reducible repeat' first
    | assumption | refine outEvt ?_ ?_ | refine outNext ?_ | refine outIte ?_ ?_ | refine withFrame_keeps _ _ _ (fun _ _ _ _ _ => ?_) _ ?_

theorem execDrillNak_keeps (frame : List Byte) (s : State) {z : State} (hz : Keeps z s) : OutKeeps z (execDrillNak frame s) := by
  unfold execDrillNak
  with_reducible repeat' first
    | assumption | refine outEvt ?_ ?_ | refine outNext ?_ | refine outIte ?_ ?_ | apply putConn_keeps
    | refine withFrame_keeps _ _ _ (fun _ _ _ _ _ => ?_) _ ?_

theorem execDrillSack_keeps (frame : List Byte) (s : State) {z : State} (hz : Keeps z s) : OutKeeps z (execDrillSack frame s) := by
  unfold execDrillSack
  with_reducible repeat' first
    | assumption | refine outEvt ?_ ?_ | refine outNext ?_ | refine outIte ?_ ?_ | apply putConn_keeps
    | refine withFrame_keeps _ _ _ (fun _ _ _ _ _ => ?_) _ ?_

theorem execClose_keeps (frame : List Byte) (s : State) {z : State} (hz : Keeps z s) : OutKeeps z (execClose frame s) := by
  unfold execClose
  with_reducible repeat' first
    | assumption | refine outEvt ?_ ?_ | refine outNext ?_ | refine outIte ?_ ?_ | apply endConn_keeps
    | refine withFrame_keeps _ _ _ (fun _ _ _ _ _ => ?_) _ ?_

theorem execDrillRetransmit_keeps (conn flow : Nat) (s : State) {z : State} (hz : Keeps z s) : OutKeeps z (execDrillRetransmit conn flow s) := by
  unfold execDrillRetransmit
  with_reducible repeat' first
    | assumption | refine outEvt ?_ ?_ | refine outNext ?_ | refine outIte ?_ ?_ | apply bump_keeps | apply putConn_keeps | apply endConn_keeps
    | apply sendOn_keeps | refine keepsFold _ (fun _ _ _ => ?_) _ ?_ | fail_if_no_progress refine keepsMk rfl ?_ | refine keepsIte ?_ ?_ | dsimp only
    | split

theorem execDrillPendingTimeout_keeps (conn : Nat) (s : State) {z : State} (hz : Keeps z s) : OutKeeps z (execDrillPendingTimeout conn s) := by
  unfold execDrillPendingTimeout
  with_reducible repeat' first
    | assumption | refine outEvt ?_ ?_ | refine outNext ?_ | refine outIte ?_ ?_ | apply bump_keeps | apply endConn_keeps
    | fail_if_no_progress refine keepsMk rfl ?_ | refine keepsIte ?_ ?_ | dsimp only | split

theorem acceptConn_keeps (e : Nat) (peer : W128) (v4 : Bool) (msg : List Byte) (ver : Nat) (s0 : State) {z : State} (hz : Keeps z s0) : Keeps z (acceptConn e peer v4 msg ver s0) := by
  unfold acceptConn
  with_reducible repeat' first
    | assumption | apply drawEntropy_keeps | refine keepsSnd ‹_› ?_ | apply emit_keeps | apply putConn_keeps
    | fail_if_no_progress refine keepsMk rfl ?_

theorem execConnect_keeps (peer : BitVec 128) (v4 : Bool) (msg : List Byte) (s : State) {z : State} (hz : Keeps z s) : OutKeeps z (execConnect peer v4 msg s) := by
  unfold execConnect
  with_reducible repeat' first
    | assumption | refine outEvt ?_ ?_ | refine outNext ?_ | refine outIte ?_ ?_ | apply bump_keeps | apply emit_keeps | apply acceptConn_keeps
    | fail_if_no_progress refine keepsMk rfl ?_ | refine keepsIte ?_ ?_ | dsimp only | split

/-! ## Roce -/

theorem ringPut_keeps (p r qpn : Nat) (frame : List Byte) (s : State) {z : State} (hz : Keeps z s) : Keeps z (ringPut p r qpn frame s) := by
  unfold ringPut
  with_reducible repeat' first
    | assumption | apply setPort_keeps | apply bump_keeps | apply cohWrite_keeps | apply noteRange_keeps | fail_if_no_progress refine keepsMk rfl ?_
    | refine keepsIte ?_ ?_

theorem roceNak_keeps (i code : Nat) (psn : BitVec 24) (s : State) {z : State} (hz : Keeps z s) : Keeps z (roceNak i code psn s) := by
  unfold roceNak
  with_reducible repeat' first
    | assumption | apply bump_keeps | apply emit_keeps

theorem roceAck_keeps (i : Nat) (psn : BitVec 24) (data : List Byte) (s : State) {z : State} (hz : Keeps z s) : Keeps z (roceAck i psn data s) := by
  unfold roceAck
  with_reducible repeat' first
    | assumption | apply emit_keeps

theorem rdmaDone_keeps (i : Nat) (m : Rdma) (data : List Byte) (s : State) {z : State} (hz : Keeps z s) : Keeps z (rdmaDone i m data s) := by
  unfold rdmaDone
  with_reducible repeat' first
    | assumption | apply setQp_keeps | apply roceAck_keeps

theorem rdmaNak_keeps (i : Nat) (m : Rdma) (s : State) {z : State} (hz : Keeps z s) : Keeps z (rdmaNak i m s) := by
  unfold rdmaNak
  with_reducible repeat' first
    | assumption | apply setQp_keeps | apply roceNak_keeps

theorem rdmaBegin_keeps (i : Nat) (m : Rdma) (s : State) {z : State} (hz : Keeps z s) : Keeps z (rdmaBegin i m s) := by
  unfold rdmaBegin
  with_reducible repeat' first
    | assumption | apply sendReqs_keeps | apply setQp_keeps | apply mbWriteRange_keeps | apply cutsWrite_keeps | refine keepsSnd ‹_› ?_
    | apply rdmaDone_keeps | apply rdmaNak_keeps | fail_if_no_progress refine keepsMk rfl ?_ | refine keepsIte ?_ ?_ | dsimp only | split

theorem rdmaPump_keeps (i : Nat) (x0 : Nat) (s : State) {z : State} (hz : Keeps z s) : Keeps z (rdmaPump i x0 s) := by
  induction x0 generalizing s with
  | zero => exact hz
  | succ m ih =>
    unfold rdmaPump
    with_reducible repeat' first
      | assumption | apply ih | apply rdmaBegin_keeps | fail_if_no_progress refine keepsMk rfl ?_ | refine keepsIte ?_ ?_ | dsimp only | split

theorem roceAnswer_keeps (i psn : Nat) (s : State) {z : State} (hz : Keeps z s) : Keeps z (roceAnswer i psn s) := by
  unfold roceAnswer
  with_reducible repeat' first
    | assumption | apply setQp_keeps | apply rdmaDone_keeps | apply rdmaNak_keeps | apply rdmaPump_keeps | fail_if_no_progress refine keepsMk rfl ?_
    | refine keepsIte ?_ ?_ | dsimp only | split

theorem rdmaIn_keeps (i : Nat) (m : Rdma) (s : State) {z : State} (hz : Keeps z s) : Keeps z (rdmaIn i m s) := by
  unfold rdmaIn
  with_reducible repeat' first
    | assumption | apply setQp_keeps | apply roceNak_keeps | apply roceAck_keeps | apply rdmaPump_keeps | fail_if_no_progress refine keepsMk rfl ?_
    | refine keepsIte ?_ ?_

theorem execRoceRdmaWrite_keeps (qp psn : Nat) (rkey : BitVec 32) (va : BitVec 64) (data : List Byte) (s : State) {z : State} (hz : Keeps z s) : OutKeeps z (execRoceRdmaWrite qp psn rkey va data s) := by
  unfold execRoceRdmaWrite
  with_reducible repeat' first
    | assumption | refine outEvt ?_ ?_ | refine outNext ?_ | refine outIte ?_ ?_ | apply rdmaIn_keeps

theorem execRoceRdmaRead_keeps (qp psn : Nat) (rkey : BitVec 32) (va : BitVec 64) (len : Nat) (s : State) {z : State} (hz : Keeps z s) : OutKeeps z (execRoceRdmaRead qp psn rkey va len s) := by
  unfold execRoceRdmaRead
  with_reducible repeat' first
    | assumption | refine outEvt ?_ ?_ | refine outNext ?_ | refine outIte ?_ ?_ | apply rdmaIn_keeps

theorem execRoceSend_keeps (p qp psn : Nat) (data : List Byte) (s : State) {z : State} (hz : Keeps z s) : OutKeeps z (execRoceSend p qp psn data s) := by
  unfold execRoceSend
  with_reducible repeat' first
    | assumption | refine outEvt ?_ ?_ | refine outNext ?_ | refine outIte ?_ ?_ | apply setQp_keeps | apply ringPut_keeps | apply roceNak_keeps
    | apply roceAck_keeps | fail_if_no_progress refine keepsMk rfl ?_ | refine keepsIte ?_ ?_

theorem execRoceCnp_keeps (qp : Nat) (s : State) {z : State} (hz : Keeps z s) : OutKeeps z (execRoceCnp qp s) := by
  unfold execRoceCnp
  with_reducible repeat' first
    | assumption | refine outEvt ?_ ?_ | refine outNext ?_ | refine outIte ?_ ?_ | apply setQp_keeps

theorem execRoceRateRecover_keeps (qp : Nat) (s : State) {z : State} (hz : Keeps z s) : OutKeeps z (execRoceRateRecover qp s) := by
  unfold execRoceRateRecover
  with_reducible repeat' first
    | assumption | refine outEvt ?_ ?_ | refine outNext ?_ | refine outIte ?_ ?_ | apply setQp_keeps

theorem roceResend_keeps (i : Nat) (s : State) {z : State} (hz : Keeps z s) : Keeps z (roceResend i s) := by
  unfold roceResend
  with_reducible repeat' first
    | assumption | apply emit_keeps | refine keepsFold _ (fun _ _ _ => ?_) _ ?_

theorem qpError_keeps (i : Nat) (s : State) {z : State} (hz : Keeps z s) : Keeps z (qpError i s) := by
  unfold qpError
  with_reducible repeat' first
    | assumption | apply alarmW_keeps | apply setQp_keeps

theorem execRoceAckTimeout_keeps (qp : Nat) (s : State) {z : State} (hz : Keeps z s) : OutKeeps z (execRoceAckTimeout qp s) := by
  unfold execRoceAckTimeout
  with_reducible repeat' first
    | assumption | refine outEvt ?_ ?_ | refine outNext ?_ | refine outIte ?_ ?_ | apply setQp_keeps | apply roceResend_keeps | apply qpError_keeps
    | fail_if_no_progress refine keepsMk rfl ?_ | refine keepsIte ?_ ?_

theorem execRoceAckReceive_keeps (qp kind psn : Nat) (s : State) {z : State} (hz : Keeps z s) : OutKeeps z (execRoceAckReceive qp kind psn s) := by
  unfold execRoceAckReceive
  with_reducible repeat' first
    | assumption | refine outEvt ?_ ?_ | refine outNext ?_ | refine outIte ?_ ?_ | apply setQp_keeps | apply roceResend_keeps
    | fail_if_no_progress refine keepsMk rfl ?_ | refine keepsIte ?_ ?_ | dsimp only | split

/-! ## Guest -/

theorem guestWire_keeps (f : List Byte) (s : State) {z : State} (hz : Keeps z s) : Keeps z (guestWire f s) := by
  unfold guestWire
  with_reducible repeat' first
    | assumption | apply bump_keeps | fail_if_no_progress refine keepsMk rfl ?_ | refine keepsIte ?_ ?_

theorem guestIdle_keeps (s : State) {z : State} (hz : Keeps z s) : Keeps z (guestIdle s) := by
  unfold guestIdle
  with_reducible repeat' first
    | assumption | apply guestWire_keeps

theorem guestSend_keeps (body : List Byte) (s : State) {z : State} (hz : Keeps z s) : Keeps z (guestSend body s) := by
  unfold guestSend
  with_reducible repeat' first
    | assumption | apply guestWire_keeps | apply guestIdle_keeps | fail_if_no_progress refine keepsMk rfl ?_ | refine keepsIte ?_ ?_

theorem guestDrain_keeps  (x0 : Nat) (s : State) {z : State} (hz : Keeps z s) : Keeps z (guestDrain  x0 s) := by
  induction x0 generalizing s with
  | zero => exact hz
  | succ m ih =>
    unfold guestDrain
    with_reducible repeat' first
      | assumption | apply ih | apply guestSend_keeps | fail_if_no_progress refine keepsMk rfl ?_ | refine keepsIte ?_ ?_ | dsimp only | split

theorem guestAck_keeps (ack : W32) (s : State) {z : State} (hz : Keeps z s) : Keeps z (guestAck ack s) := by
  unfold guestAck
  with_reducible repeat' first
    | assumption | apply guestDrain_keeps | fail_if_no_progress refine keepsMk rfl ?_

theorem execGuestFlit_keeps (flit : List Byte) (s : State) {z : State} (hz : Keeps z s) : OutKeeps z (execGuestFlit flit s) := by
  unfold execGuestFlit
  with_reducible repeat' first
    | assumption | refine outEvt ?_ ?_ | refine outNext ?_ | refine outIte ?_ ?_ | apply bump_keeps | apply guestIdle_keeps | apply guestAck_keeps
    | refine keepsFold _ (fun _ _ _ => ?_) _ ?_ | fail_if_no_progress refine keepsMk rfl ?_ | refine keepsIte ?_ ?_

theorem guestReplay_keeps (s : State) {z : State} (hz : Keeps z s) : Keeps z (guestReplay s) := by
  unfold guestReplay
  with_reducible repeat' first
    | assumption | apply bump_keeps | apply guestWire_keeps | refine keepsFold _ (fun _ _ _ => ?_) _ ?_ | fail_if_no_progress refine keepsMk rfl ?_
    | refine keepsIte ?_ ?_

theorem execGuestReplayTimer_keeps (s : State) {z : State} (hz : Keeps z s) : OutKeeps z (execGuestReplayTimer s) := by
  unfold execGuestReplayTimer
  with_reducible repeat' first
    | assumption | refine outEvt ?_ ?_ | refine outNext ?_ | refine outIte ?_ ?_ | apply guestReplay_keeps

theorem execGuestVersionExchange_keeps (v : Nat) (s : State) {z : State} (hz : Keeps z s) : OutKeeps z (execGuestVersionExchange v s) := by
  unfold execGuestVersionExchange
  with_reducible repeat' first
    | assumption | refine outEvt ?_ ?_ | refine outNext ?_ | refine outIte ?_ ?_ | fail_if_no_progress refine keepsMk rfl ?_

theorem execGuestCrcRetrain_keeps (i : Nat) (s : State) {z : State} (hz : Keeps z s) : OutKeeps z (execGuestCrcRetrain i s) := by
  unfold execGuestCrcRetrain
  with_reducible repeat' first
    | assumption | refine outEvt ?_ ?_ | refine outNext ?_ | apply setLink_keeps | fail_if_no_progress refine keepsMk rfl ?_

theorem guestAnswerOs_keeps (o : GuestOut) (data : W64) (poison : Bool) (s : State) {z : State} (hz : Keeps z s) : Keeps z (guestAnswerOs o data poison s) := by
  unfold guestAnswerOs
  with_reducible repeat' first
    | assumption | apply setOs_keeps | apply put_keeps | apply write_keeps | refine keepsFold _ (fun _ _ _ => ?_) _ ?_
    | fail_if_no_progress refine keepsMk rfl ?_ | refine keepsIte ?_ ?_

theorem guestLate_keeps (o : GuestOut) (s : State) {z : State} (hz : Keeps z s) : Keeps z (guestLate o s) := by
  unfold guestLate
  with_reducible repeat' first
    | assumption | apply bump_keeps | apply alarmW_keeps | apply write_keeps | apply errRec_keeps | apply guestAnswerOs_keeps
    | fail_if_no_progress refine keepsMk rfl ?_ | refine keepsIte ?_ ?_

theorem guestClose_keeps (s : State) {z : State} (hz : Keeps z s) : Keeps z (guestClose s) := by
  unfold guestClose
  with_reducible repeat' first
    | assumption | apply setLink_keeps | apply alarmW_keeps | apply guestLate_keeps | refine keepsFold _ (fun _ _ _ => ?_) _ ?_
    | fail_if_no_progress refine keepsMk rfl ?_ | refine keepsIte ?_ ?_

theorem guestEvent_keeps (s : State) {z : State} (hz : Keeps z s) : Keeps z (guestEvent s) := by
  unfold guestEvent
  with_reducible repeat' first
    | assumption | apply guestClose_keeps | fail_if_no_progress refine keepsMk rfl ?_ | refine keepsIte ?_ ?_

theorem execGuestResponseTimeout_keeps (tag : Nat) (s : State) {z : State} (hz : Keeps z s) : OutKeeps z (execGuestResponseTimeout tag s) := by
  unfold execGuestResponseTimeout
  with_reducible repeat' first
    | assumption | refine outEvt ?_ ?_ | refine outNext ?_ | refine outIte ?_ ?_ | apply guestLate_keeps | apply guestEvent_keeps
    | fail_if_no_progress refine keepsMk rfl ?_ | refine keepsIte ?_ ?_ | dsimp only | split

theorem execGuestOvercurrent_keeps (s : State) {z : State} (hz : Keeps z s) : OutKeeps z (execGuestOvercurrent s) := by
  unfold execGuestOvercurrent
  with_reducible repeat' first
    | assumption | refine outEvt ?_ ?_ | refine outNext ?_ | refine outIte ?_ ?_ | apply bump_keeps | apply alarmW_keeps | apply guestClose_keeps
    | fail_if_no_progress refine keepsMk rfl ?_

theorem execGuestResponse_keeps (flit : List Byte) (s : State) {z : State} (hz : Keeps z s) : OutKeeps z (execGuestResponse flit s) := by
  unfold execGuestResponse
  with_reducible repeat' first
    | assumption | refine outEvt ?_ ?_ | refine outNext ?_ | refine outIte ?_ ?_ | apply guestAnswerOs_keeps | apply guestLate_keeps
    | apply guestEvent_keeps | fail_if_no_progress refine keepsMk rfl ?_ | refine keepsIte ?_ ?_ | dsimp only | split

theorem guestError_keeps (tag status : Nat) (s : State) {z : State} (hz : Keeps z s) : Keeps z (guestError tag status s) := by
  unfold guestError
  with_reducible repeat' first
    | assumption | apply bump_keeps | apply guestSend_keeps | apply guestEvent_keeps

theorem guestDone_keeps (x : GuestIn) (s : State) {z : State} (hz : Keeps z s) : Keeps z (guestDone x s) := by
  unfold guestDone
  with_reducible repeat' first
    | assumption | apply guestSend_keeps | apply keepsId | fail_if_no_progress refine keepsMk rfl ?_ | refine keepsIte ?_ ?_

theorem execGuestRequest_keeps (flit : List Byte) (s : State) {z : State} (hz : Keeps z s) : OutKeeps z (execGuestRequest flit s) := by
  unfold execGuestRequest
  with_reducible repeat' first
    | assumption | refine outEvt ?_ ?_ | refine outNext ?_ | refine outIte ?_ ?_ | apply logStray_keeps | apply sendReqs_keeps | apply errRec_keeps
    | apply guestError_keeps | apply guestDone_keeps | apply keepsId | fail_if_no_progress refine keepsMk rfl ?_ | refine keepsIte ?_ ?_ | dsimp only
    | split

theorem guestAnswer_keeps (id : Nat) (old : List (Nat × Nat)) (poison : Bool) (s : State) {z : State} (hz : Keeps z s) : Keeps z (guestAnswer id old poison s) := by
  unfold guestAnswer
  with_reducible repeat' first
    | assumption | apply guestDone_keeps | apply keepsId | refine keepsFold _ (fun _ _ _ => ?_) _ ?_ | fail_if_no_progress refine keepsMk rfl ?_
    | refine keepsIte ?_ ?_ | dsimp only | split

end Sys2Proof.Machine
end

