-- ==== Sys2Proof/Laws/KeepsSheaf.lean ====
section
/-! SUPPORT. One lemma for each operation and each command: what the array, the sheaf memory instructions and the atomics keep (Safety.Keeps): the queue of waiting commands, fuses that are only blown,
the ranges of their counts, the time base, the canonical form. -/
namespace Sys2Proof.Machine

/-! ## Array -/

theorem aissueBody_keeps (v : Env) (s : State) {z : State} (hz : Keeps z s) : ResKeeps z (aissueBody v s) := by
  unfold aissueBody
  with_reducible repeat' first
    | assumption | refine resGo ?_ | exact resFault | exact resWait | refine resIte ?_ ?_ | apply setCore_keeps | apply setSheaf_keeps
    | fail_if_no_progress refine keepsMk rfl ?_ | refine keepsIte ?_ ?_ | dsimp only | split

theorem awaitBody_keeps (v : Env) (s : State) {z : State} (hz : Keeps z s) : ResKeeps z (awaitBody v s) := by
  unfold awaitBody
  with_reducible repeat' first
    | assumption | refine resGo ?_ | exact resFault | exact resWait | refine resIte ?_ ?_ | apply put_keeps | apply write_keeps
    | fail_if_no_progress refine keepsMk rfl ?_ | refine keepsIte ?_ ?_ | dsimp only | split

theorem aqueryBody_keeps (v : Env) (s : State) {z : State} (hz : Keeps z s) : ResKeeps z (aqueryBody v s) := by
  unfold aqueryBody
  with_reducible repeat' first
    | assumption | refine resGo ?_ | exact resFault | exact resWait | refine resIte ?_ ?_ | apply write_keeps

theorem refuseWaiting_keeps (n : Nat) (x : ArrCmd) (s : State) {z : State} (hz : Keeps z s) : Keeps z (refuseWaiting n x s) := by
  unfold refuseWaiting
  with_reducible repeat' first
    | assumption | apply setSheaf_keeps | apply raiseFault_keeps

theorem execArrayQueueRoom_keeps (q c : Nat) (s : State) {z : State} (hz : Keeps z s) : OutKeeps z (execArrayQueueRoom q c s) := by
  unfold execArrayQueueRoom
  with_reducible repeat' first
    | assumption | refine outEvt ?_ ?_ | refine outNext ?_ | refine outIte ?_ ?_ | apply setCore_keeps | apply setSheaf_keeps | apply advance_keeps
    | apply refuseWaiting_keeps | fail_if_no_progress refine keepsMk rfl ?_ | refine keepsIte ?_ ?_ | dsimp only | split

theorem ringTake_keeps (n : Nat) (x0 : Nat) (s : State) {z : State} (hz : Keeps z s) : Keeps z (ringTake n x0 s) := by
  induction x0 generalizing s with
  | zero => exact hz
  | succ m ih =>
    unfold ringTake
    with_reducible repeat' first
      | assumption | apply ih | apply setCore_keeps | fail_if_no_progress refine keepsMk rfl ?_ | refine keepsIte ?_ ?_ | dsimp only | split

theorem execArrayCommandStart_keeps (q c : Nat) (s : State) {z : State} (hz : Keeps z s) : OutKeeps z (execArrayCommandStart q c s) := by
  unfold execArrayCommandStart
  with_reducible repeat' first
    | assumption | refine outEvt ?_ ?_ | refine outNext ?_ | refine outIte ?_ ?_ | apply setCore_keeps | apply undefArea_keeps | apply ringTake_keeps
    | fail_if_no_progress refine keepsMk rfl ?_ | refine keepsIte ?_ ?_ | dsimp only | split

theorem execArrayTileEnd_keeps (q c : Nat) (s : State) {z : State} (hz : Keeps z s) : OutKeeps z (execArrayTileEnd q c s) := by
  unfold execArrayTileEnd
  with_reducible repeat' first
    | assumption | refine outEvt ?_ ?_ | refine outNext ?_ | refine outIte ?_ ?_ | apply setCore_keeps | apply ringTake_keeps
    | refine keepsFold _ (fun _ _ _ => ?_) _ ?_ | refine keepsSnd ‹_› ?_ | fail_if_no_progress refine keepsMk rfl ?_ | refine keepsIte ?_ ?_
    | dsimp only | split

theorem markColumns_keeps (n launch : Nat) (cols : W128) (s : State) {z : State} (hz : Keeps z s) : Keeps z (markColumns n launch cols s) := by
  unfold markColumns
  with_reducible repeat' first
    | assumption | apply modRun_keeps

theorem applyOuts_keeps (n : Nat) (x : ArrRun) (s : State) {z : State} (hz : Keeps z s) : Keeps z (applyOuts n x s) := by
  unfold applyOuts
  with_reducible repeat' first
    | assumption | apply tilMark_keeps | apply writeOuts_keeps | refine keepsFold _ (fun _ _ _ => ?_) _ ?_

theorem execArrayCommandDone_keeps (q c : Nat) (s : State) {z : State} (hz : Keeps z s) : OutKeeps z (execArrayCommandDone q c s) := by
  unfold execArrayCommandDone
  with_reducible repeat' first
    | assumption | refine outEvt ?_ ?_ | refine outNext ?_ | refine outIte ?_ ?_ | apply setCore_keeps | apply tilWrite_keeps | apply endEarly_keeps
    | apply deliverAwaits_keeps | apply markColumns_keeps | apply applyOuts_keeps | fail_if_no_progress refine keepsMk rfl ?_ | refine keepsIte ?_ ?_
    | dsimp only | split

theorem execRingSlotForward_keeps (q c i : Nat) (s : State) {z : State} (hz : Keeps z s) : OutKeeps z (execRingSlotForward q c i s) := by
  unfold execRingSlotForward
  with_reducible repeat' first
    | assumption | refine outEvt ?_ ?_ | refine outNext ?_ | refine outIte ?_ ?_ | apply setCore_keeps | fail_if_no_progress refine keepsMk rfl ?_
    | refine keepsIte ?_ ?_ | dsimp only | split

theorem writePanel_keeps (n : Nat) (d : Desc) (i : Nat) (p : Panel) (s : State) {z : State} (hz : Keeps z s) : Keeps z (writePanel n d i p s) := by
  unfold writePanel
  with_reducible repeat' first
    | assumption | apply tilWrite_keeps | apply tilMark_keeps | refine keepsFold _ (fun _ _ _ => ?_) _ ?_

theorem releaseSender_keeps (p : Panel) (s : State) {z : State} (hz : Keeps z s) : Keeps z (releaseSender p s) := by
  unfold releaseSender
  with_reducible repeat' first
    | assumption | apply setCore_keeps

theorem execRingPanelAccept_keeps (q c : Nat) (s : State) {z : State} (hz : Keeps z s) : OutKeeps z (execRingPanelAccept q c s) := by
  unfold execRingPanelAccept
  with_reducible repeat' first
    | assumption | refine outEvt ?_ ?_ | refine outNext ?_ | refine outIte ?_ ?_ | apply setCore_keeps | apply ringTake_keeps | apply writePanel_keeps
    | apply releaseSender_keeps | fail_if_no_progress refine keepsMk rfl ?_ | refine keepsIte ?_ ?_ | dsimp only | split

theorem execRingTimeout_keeps (q c : Nat) (outbound : Bool) (s : State) {z : State} (hz : Keeps z s) : OutKeeps z (execRingTimeout q c outbound s) := by
  unfold execRingTimeout
  with_reducible repeat' first
    | assumption | refine outEvt ?_ ?_ | refine outNext ?_ | refine outIte ?_ ?_ | apply setCore_keeps | apply endEarly_keeps
    | apply deliverAwaits_keeps | fail_if_no_progress refine keepsMk rfl ?_ | refine keepsIte ?_ ?_ | dsimp only | split

theorem execArrayFault_keeps (q c furrow : Nat) (s : State) {z : State} (hz : Keeps z s) : OutKeeps z (execArrayFault q c furrow s) := by
  unfold execArrayFault
  with_reducible repeat' first
    | assumption | refine outEvt ?_ ?_ | refine outNext ?_ | refine outIte ?_ ?_ | apply alarmW_keeps | apply coreReset_keeps

theorem execSelfTestStart_keeps (q c : Nat) (s : State) {z : State} (hz : Keeps z s) : OutKeeps z (execSelfTestStart q c s) := by
  unfold execSelfTestStart
  with_reducible repeat' first
    | assumption | apply syncRoles_keeps | refine outEvt ?_ ?_ | refine outNext ?_ | refine outIte ?_ ?_ | apply setCore_keeps

theorem passTest_keeps (n : Nat) (map : List Nat) (pass : Bool) (s : State) {z : State} (hz : Keeps z s) : Keeps z (passTest n map pass s) := by
  unfold passTest
  with_reducible repeat' first
    | assumption | apply setCore_keeps | apply syncRing_keeps

theorem testResult_keeps (n : Nat) (rows : List Nat) (other : Bool) (s : State) {z : State} (hz : Keeps z s) : Keeps z (testResult n rows other s) := by
  unfold testResult
  with_reducible repeat' first
    | assumption | apply setCore_keeps | apply alarmW_keeps | apply coreReset_keeps | apply fenceCore_keeps | apply passTest_keeps
    | fail_if_no_progress refine keepsMk rfl ?_ | refine keepsIte ?_ ?_

theorem execSelfTestResult_keeps (q c : Nat) (rows : List Nat) (other : Bool) (s : State) {z : State} (hz : Keeps z s) : OutKeeps z (execSelfTestResult q c rows other s) := by
  unfold execSelfTestResult
  with_reducible repeat' first
    | assumption | apply syncRoles_keeps | refine outEvt ?_ ?_ | refine outNext ?_ | refine outIte ?_ ?_ | apply testResult_keeps

/-! ## SheafMem -/

theorem laneFault_keeps (cause detail : Nat) (l : List (Nat × Int)) {a : State} : ResKeeps a (laneFault cause detail l) := resFault
theorem addrFault_keeps {s0 : State} {v : Env} {space size : Nat} {acc : Acc2} {l : List (Nat × Int)} {s : State} {r : Res}
    (h : addrFault s0 v space size acc l = some r) : ResKeeps s r := by
  unfold addrFault at h
  repeat' first
    | (cases h; exact resFault) | cases h | split at h | dsimp only at h

theorem tcUpdate_keeps (n tag off : Nat) (b : List Byte) (s : State) {z : State} (hz : Keeps z s) : Keeps z (tcUpdate n tag off b s) := by
  unfold tcUpdate
  with_reducible repeat' first
    | assumption | apply setCore_keeps

theorem tcDrop_keeps (n tag : Nat) (s : State) {z : State} (hz : Keeps z s) : Keeps z (tcDrop n tag s) := by
  unfold tcDrop
  with_reducible repeat' first
    | assumption | apply setCore_keeps

theorem tcFill_keeps (n tag : Nat) (b : List Byte) (s : State) {z : State} (hz : Keeps z s) : Keeps z (tcFill n tag b s) := by
  unfold tcFill
  with_reducible repeat' first
    | assumption | apply setCore_keeps | apply tcUpdate_keeps | fail_if_no_progress refine keepsMk rfl ?_ | refine keepsIte ?_ ?_ | dsimp only | split

theorem ldSend_keeps (v : Env) (s : State) {z : State} (hz : Keeps z s) : Keeps z (ldSend v s) := by
  unfold ldSend
  with_reducible repeat' first
    | assumption | refine resGo ?_ | exact resFault | exact resWait | refine resIte ?_ ?_ | apply setCore_keeps | apply setSheaf_keeps
    | apply sendReqs_keeps

theorem ldBody_keeps (v : Env) (s : State) {z : State} (hz : Keeps z s) : ResKeeps z (ldBody v s) := by
  unfold ldBody
  with_reducible repeat' first
    | assumption | apply ldSend_keeps |  refine resGo ?_ | exact resFault | exact resWait | refine resIte ?_ ?_ | apply setCore_keeps | apply setSheaf_keeps
    | apply sendReqs_keeps | apply laneFault_keeps | exact addrFault_keeps ‹_› | apply keepsId | fail_if_no_progress refine keepsMk rfl ?_
    | refine keepsIte ?_ ?_ | dsimp only | split

theorem poisonFault_keeps (n sl : Nat) (x : Load) (s : State) {z : State} (hz : Keeps z s) : Keeps z (poisonFault n sl x s) := by
  unfold poisonFault
  with_reducible repeat' first
    | assumption | apply raiseAt_keeps

theorem reloadLanes_keeps (n sl ld : Nat) (p : LaneLoad → LaneLoad) (s : State) {z : State} (hz : Keeps z s) : Keeps z (reloadLanes n sl ld p s) := by
  unfold reloadLanes
  with_reducible repeat' first
    | assumption | apply setSheaf_keeps | fail_if_no_progress refine keepsMk rfl ?_ | dsimp only | split

theorem scratchFound_keeps (n sl ld base : Nat) (x : Load) (y0 : LaneLoad) (err : Nat) (s : State) {z : State} (hz : Keeps z s) : Keeps z (scratchFound n sl ld base x y0 err s) := by
  unfold scratchFound
  with_reducible repeat' first
    | assumption | apply demandTilth_keeps | apply reloadLanes_keeps | fail_if_no_progress refine keepsMk rfl ?_ | refine keepsIte ?_ ?_

theorem readCached_keeps (n finder : Nat) (x : TLine) (i err : Nat) (s : State) {z : State} (hz : Keeps z s) : Keeps z (readCached n finder x i err s) := by
  unfold readCached
  with_reducible repeat' first
    | assumption | apply setCore_keeps | apply reportCe_keeps | apply reportUe_keeps | apply tilRepair_keeps | refine keepsSnd ‹_› ?_
    | fail_if_no_progress refine keepsMk rfl ?_ | refine keepsIte ?_ ?_ | dsimp only | split

theorem cacheFound_keeps (n sl ld : Nat) (x : Load) (y0 : LaneLoad) (l : TLine) (err : Nat) (s : State) {z : State} (hz : Keeps z s) : Keeps z (cacheFound n sl ld x y0 l err s) := by
  unfold cacheFound
  with_reducible repeat' first
    | assumption | apply sendReq_keeps | apply reloadLanes_keeps | apply readCached_keeps | fail_if_no_progress refine keepsMk rfl ?_
    | refine keepsIte ?_ ?_ | dsimp only | split

theorem demandHub_keeps (word err : Nat) (s : State) {z : State} (hz : Keeps z s) : Keeps z (demandHub word err s) := by
  unfold demandHub
  with_reducible repeat' first
    | assumption | apply reportCe_keeps | apply reportState_keeps | apply reportUe_keeps | refine keepsIte ?_ ?_ | dsimp only
    | fail_if_no_progress refine keepsMk rfl ?_ | split | refine keepsHub _ _ ?_ ?_
    | exact stWrite_wf _ _ _ _ _ | exact mwrite_wf _ _ _

theorem hubFound_keeps (n sl ld off : Nat) (stage : Option Nat) (x : Load) (y0 : LaneLoad) (err : Nat) (s : State) {z : State} (hz : Keeps z s) : Keeps z (hubFound n sl ld off stage x y0 err s) := by
  unfold hubFound
  with_reducible repeat' first
    | assumption | apply reloadLanes_keeps | apply demandHub_keeps | fail_if_no_progress refine keepsMk rfl ?_ | refine keepsIte ?_ ?_

theorem loadFound_keeps (n sl ld : Nat) (x : Load) (err : Nat) (s : State) {z : State} (hz : Keeps z s) : Keeps z (loadFound n sl ld x err s) := by
  unfold loadFound
  with_reducible repeat' first
    | assumption | apply scratchFound_keeps | apply cacheFound_keeps | apply hubFound_keeps | fail_if_no_progress refine keepsMk rfl ?_
    | refine keepsIte ?_ ?_ | dsimp only | split

theorem loadArrive_keeps (n sl ld : Nat) (s : State) {z : State} (hz : Keeps z s) : Keeps z (loadArrive n sl ld s) := by
  unfold loadArrive
  with_reducible repeat' first
    | assumption | apply setSheaf_keeps | apply poisonFault_keeps | fail_if_no_progress refine keepsMk rfl ?_ | refine keepsIte ?_ ?_ | dsimp only
    | split

theorem cellFails_keeps (n sl par : Nat) (s : State) {z : State} (hz : Keeps z s) : Keeps z (cellFails n sl par s) := by
  unfold cellFails
  with_reducible repeat' first
    | assumption | apply setSheaf_keeps | fail_if_no_progress refine keepsMk rfl ?_ | refine keepsIte ?_ ?_

theorem slotEntry_keeps (n err : Nat) (s : State) {z : State} (hz : Keeps z s) : Keeps z (slotEntry n err s) := by
  unfold slotEntry
  with_reducible repeat' first
    | assumption | apply alarmW_keeps | apply errRec_keeps | apply coreReset_keeps | fail_if_no_progress refine keepsMk rfl ?_ | dsimp only | split

theorem execLoadDataReturn_keeps (q c sl ld : Nat) (err : BitVec 132) (s : State) {z : State} (hz : Keeps z s) : OutKeeps z (execLoadDataReturn q c sl ld err s) := by
  unfold execLoadDataReturn
  with_reducible repeat' first
    | assumption | refine outEvt ?_ ?_ | refine outNext ?_ | apply loadFound_keeps | apply loadArrive_keeps | apply cellFails_keeps
    | apply slotEntry_keeps | fail_if_no_progress refine keepsMk rfl ?_ | refine keepsIte ?_ ?_ | dsimp only | split

theorem writeBytes_keeps (stage : Option Nat) (master slot pa : Nat) (psn : Bool) (m : Mem) (s : State) {z : State} (hz : Keeps z s) : Keeps z (writeBytes stage master slot pa psn m s) := by
  unfold writeBytes
  with_reducible repeat' first
    | assumption | apply sectorWrite_keeps | refine keepsFold _ (fun _ _ _ => ?_) _ ?_

theorem stFar_keeps (v : Env) (s : State) {z : State} (hz : Keeps z s) : Keeps z (stFar v s) := by
  unfold stFar
  with_reducible repeat' first
    | assumption | refine resGo ?_ | exact resFault | exact resWait | refine resIte ?_ ?_ | apply keepsId | apply setCore_keeps | apply setSheaf_keeps
    | apply write_keeps | apply sendReqs_keeps | apply tcUpdate_keeps | apply writeBytes_keeps | refine keepsFold _ (fun _ _ _ => ?_) _ ?_

theorem stScr_keeps (v : Env) (s : State) {z : State} (hz : Keeps z s) : Keeps z (stScr v s) := by
  unfold stScr
  with_reducible repeat' first
    | assumption | refine resGo ?_ | exact resFault | exact resWait | refine resIte ?_ ?_ | apply setCore_keeps | apply setSheaf_keeps
    | apply write_keeps | apply scrWrite_keeps | apply sendReqs_keeps | apply tcUpdate_keeps | apply writeBytes_keeps | exact addrFault_keeps ‹_›
    | apply keepsId | refine keepsFold _ (fun _ _ _ => ?_) _ ?_

theorem stBody_keeps (v : Env) (s : State) {z : State} (hz : Keeps z s) : ResKeeps z (stBody v s) := by
  unfold stBody
  with_reducible repeat' first
    | assumption | apply stFar_keeps | apply stScr_keeps |  refine resGo ?_ | exact resFault | exact resWait | refine resIte ?_ ?_ | apply setCore_keeps | apply setSheaf_keeps
    | apply write_keeps | apply scrWrite_keeps | apply sendReqs_keeps | apply tcUpdate_keeps | apply writeBytes_keeps | exact addrFault_keeps ‹_›
    | apply keepsId | refine keepsFold _ (fun _ _ _ => ?_) _ ?_ | fail_if_no_progress refine keepsMk rfl ?_ | refine keepsIte ?_ ?_ | dsimp only
    | split

theorem bulkBody_keeps (kind : Nat) (v : Env) (s : State) {z : State} (hz : Keeps z s) : ResKeeps z (bulkBody kind v s) := by
  unfold bulkBody
  with_reducible repeat' first
    | assumption | refine resGo ?_ | exact resFault | exact resWait | refine resIte ?_ ?_ | apply setCore_keeps | apply setSheaf_keeps
    | apply write_keeps | apply keepsId | fail_if_no_progress refine keepsMk rfl ?_ | refine keepsIte ?_ ?_ | dsimp only | split

theorem claimPfr_keeps (n : Nat) (op : BulkOp) (d : Desc) (i g : Nat) (s : State) {z : State} (hz : Keeps z s) : Keeps z (claimPfr n op d i g s) := by
  unfold claimPfr
  with_reducible repeat' first
    | assumption | apply setCore_keeps

theorem faultPfr_keeps (n : Nat) (op : BulkOp) (d a : Nat) (s : State) {z : State} (hz : Keeps z s) : Keeps z (faultPfr n op d a s) := by
  unfold faultPfr
  with_reducible repeat' first
    | assumption | apply setCore_keeps | apply raiseAt_keeps | fail_if_no_progress refine keepsMk rfl ?_ | refine keepsIte ?_ ?_

theorem bindPfr_keeps (n : Nat) (op : BulkOp) (s : State) {z : State} (hz : Keeps z s) : Keeps z (bindPfr n op s) := by
  unfold bindPfr
  with_reducible repeat' first
    | assumption | apply claimPfr_keeps | apply faultPfr_keeps | fail_if_no_progress refine keepsMk rfl ?_ | refine keepsIte ?_ ?_ | dsimp only
    | split

theorem pfrBody_keeps (v : Env) (s : State) {z : State} (hz : Keeps z s) : ResKeeps z (pfrBody v s) := by
  unfold pfrBody
  with_reducible repeat' first
    | assumption | refine resGo ?_ | exact resFault | exact resWait | refine resIte ?_ ?_ | apply setCore_keeps | apply setSheaf_keeps
    | apply bindPfr_keeps | apply keepsId | fail_if_no_progress refine keepsMk rfl ?_ | refine keepsIte ?_ ?_ | dsimp only | split

theorem execPfrBind_keeps (q c i : Nat) (s : State) {z : State} (hz : Keeps z s) : OutKeeps z (execPfrBind q c i s) := by
  unfold execPfrBind
  with_reducible repeat' first
    | assumption | refine outEvt ?_ ?_ | refine outNext ?_ | refine outIte ?_ ?_ | apply bindPfr_keeps | fail_if_no_progress refine keepsMk rfl ?_
    | refine keepsIte ?_ ?_ | dsimp only | split

theorem hubWord_keeps (n : Nat) (op : BulkOp) (stage : Option Nat) (pa i j : Nat) (s : State) {z : State} (hz : Keeps z s) : Keeps z (hubWord n op stage pa i j s) := by
  unfold hubWord
  with_reducible repeat' first
    | assumption | apply sectorWrite_keeps | apply tilWrite_keeps | apply scrWrite_keeps | fail_if_no_progress refine keepsMk rfl ?_
    | refine keepsIte ?_ ?_

theorem bulkNow_keeps (n : Nat) (op : BulkOp) (stage : Option Nat) (s : State) {z : State} (hz : Keeps z s) : Keeps z (bulkNow n op stage s) := by
  unfold bulkNow
  with_reducible repeat' first
    | assumption | apply hubWord_keeps | refine keepsFold _ (fun _ _ _ => ?_) _ ?_ | refine keepsSnd ‹_› ?_
    | fail_if_no_progress refine keepsMk rfl ?_ | dsimp only | split

theorem execBulkOpStart_keeps (q c : Nat) (s : State) {z : State} (hz : Keeps z s) : OutKeeps z (execBulkOpStart q c s) := by
  unfold execBulkOpStart
  with_reducible repeat' first
    | assumption | refine outEvt ?_ ?_ | refine outNext ?_ | refine outIte ?_ ?_ | apply keepsId | apply setCore_keeps | apply sendReqs_keeps
    | apply bulkNow_keeps | apply done_keeps | refine keepsSnd ‹_› ?_ | fail_if_no_progress refine keepsMk rfl ?_ | refine keepsIte ?_ ?_ | dsimp only
    | split

theorem execBulkOpComplete_keeps (q c i : Nat) (s : State) {z : State} (hz : Keeps z s) : OutKeeps z (execBulkOpComplete q c i s) := by
  unfold execBulkOpComplete
  with_reducible repeat' first
    | assumption | refine outEvt ?_ ?_ | refine outNext ?_ | refine outIte ?_ ?_ | apply setCore_keeps | apply setSheaf_keeps | apply tilWrite_keeps
    | apply ringTake_keeps | apply keepsId | fail_if_no_progress refine keepsMk rfl ?_ | refine keepsIte ?_ ?_ | dsimp only | split

/-! ## SheafSync -/

theorem resolveConflict_keeps (st : Option Nat) (pa : Nat) (s : State) {z : State} (hz : Keeps z s) : OptKeeps z (resolveConflict st pa s) := by
  unfold resolveConflict
  with_reducible repeat' first
    | assumption | refine optSome ?_ | exact optNone | refine optIte ?_ ?_ | apply abandonRun_keeps | refine keepsFold _ (fun _ _ _ => ?_) _ ?_
    | fail_if_no_progress refine keepsMk rfl ?_ | refine keepsIte ?_ ?_ | dsimp only | split

theorem scrAtom_keeps (n off nb op ty : Nat) (l : List (Nat × Nat × Nat)) (s : State) {z : State} (hz : Keeps z s) : Keeps z (scrAtom n off nb op ty l s).1 := by
  unfold scrAtom
  with_reducible repeat' first
    | assumption | apply scrWrite_keeps

theorem hubAtom_keeps (stage : Option Nat) (pa nb op ty : Nat) (l : List (Nat × Nat × Nat)) (s : State) {z : State} (hz : Keeps z s) : Keeps z (hubAtom stage pa nb op ty l s).1 := by
  unfold hubAtom
  with_reducible repeat' first
    | assumption | apply cohWrite_keeps

theorem atomsNow_keeps (f : Int → State → State × List (Nat × Nat)) (hf : ∀ i s a, Keeps a s → Keeps a (f i s).1) (l : List Int) (s : State) {r : State} (k : Keeps r s) :
    Keeps r (atomsNow f l s).1 := by
  induction l generalizing s with
  | nil => exact k
  | cons a t ih => exact ih _ (hf _ _ _ k)

theorem atomFar_keeps (op : Nat) (v : Env) (s : State) {z : State} (hz : Keeps z s) : Keeps z (atomFar op v s) := by
  unfold atomFar
  with_reducible repeat' first
    | assumption | refine resGo ?_ | exact resFault | exact resWait | refine resIte ?_ ?_ | refine keepsFst ‹_› ?_
    | refine atomsNow_keeps _ (fun _ _ _ _ => ?_) _ _ ?_ | apply keepsId | apply setCore_keeps | apply setSheaf_keeps | apply write_keeps
    | apply sendReqs_keeps | apply tcDrop_keeps | apply hubAtom_keeps | refine keepsFold _ (fun _ _ _ => ?_) _ ?_ | refine keepsSnd ‹_› ?_
    | fail_if_no_progress refine keepsMk rfl ?_ | refine keepsIte ?_ ?_ | dsimp only | split

theorem atomScr_keeps (op : Nat) (v : Env) (s : State) {z : State} (hz : Keeps z s) : Keeps z (atomScr op v s) := by
  unfold atomScr
  with_reducible repeat' first
    | assumption | refine resGo ?_ | exact resFault | exact resWait | refine resIte ?_ ?_ | apply setCore_keeps | apply setSheaf_keeps
    | apply write_keeps | apply sendReqs_keeps | apply tcDrop_keeps | apply scrAtom_keeps | refine keepsFst ‹_› ?_ | apply hubAtom_keeps
    | exact addrFault_keeps ‹_› | refine atomsNow_keeps _ (fun _ _ _ _ => ?_) _ _ ?_

theorem rmwFault_keeps {s0 : State} {v : Env} {space size : Nat} {l : List (Nat × Int)} {s : State} {r : Res}
    (h : rmwFault s0 v space size l = some r) : ResKeeps s r := by
  unfold rmwFault at h
  split at h
  · cases h; exact addrFault_keeps ‹_›
  · exact addrFault_keeps h

theorem atomBody_keeps (op : Nat) (v : Env) (s : State) {z : State} (hz : Keeps z s) : ResKeeps z (atomBody op v s) := by
  unfold atomBody
  with_reducible repeat' first
    | assumption | refine resGo ?_ | exact resFault | exact resWait | exact rmwFault_keeps ‹_› | refine resIte ?_ ?_ | refine keepsFst ‹_› ?_ | apply keepsId
    | apply atomFar_keeps | apply atomScr_keeps | fail_if_no_progress refine keepsMk rfl ?_ | refine keepsIte ?_ ?_ | dsimp only | split

theorem lockWrite_keeps (v : Env) (space at_ x : Nat) (s : State) {z : State} (hz : Keeps z s) : Keeps z (lockWrite v space at_ x s) := by
  unfold lockWrite
  with_reducible repeat' first
    | assumption | apply cohWrite_keeps | apply scrWrite_keeps | apply tcDrop_keeps | fail_if_no_progress refine keepsMk rfl ?_
    | refine keepsIte ?_ ?_

theorem resolveAll_keeps (st : Option Nat) (x0 : List Nat) (s : State) {z : State} (hz : Keeps z s) : OptKeeps z (resolveAll st x0 s) := by
  induction x0 generalizing s with
  | nil => exact optSome hz
  | cons a t ih =>
    unfold resolveAll
    with_reducible repeat' first
      | assumption | cases ‹a :: t = _› | apply ih | refine optSome ?_ | exact optNone | refine optIte ?_ ?_ | apply resolveConflict_keeps
      | refine optSome ?_ | exact optNone | refine optIte ?_ ?_ | refine optOf ‹_› ?_ | fail_if_no_progress refine keepsMk rfl ?_
      | refine keepsIte ?_ ?_ | dsimp only | split

theorem invalAll_keeps (n : Nat) (s : State) {z : State} (hz : Keeps z s) : Keeps z (invalAll n s) := by
  unfold invalAll
  with_reducible repeat' first
    | assumption | apply setCore_keeps

theorem lockTry_keeps (v : Env) (ps : List (Nat × Nat)) (s : State) {z : State} (hz : Keeps z s) : ResKeeps z (lockTry v ps s) := by
  unfold lockTry
  with_reducible repeat' first
    | assumption | refine resGo ?_ | exact resFault | exact resWait | refine resIte ?_ ?_ | apply put_keeps | apply lockWrite_keeps
    | apply invalAll_keeps | refine keepsFold _ (fun _ _ _ => ?_) _ ?_ | refine keepsSnd ‹_› ?_ | fail_if_no_progress refine keepsMk rfl ?_
    | refine keepsIte ?_ ?_

theorem lockCount_keeps (v : Env) (s : State) {z : State} (hz : Keeps z s) : Keeps z (lockCount v s) := by
  unfold lockCount
  with_reducible repeat' first
    | assumption | apply write_keeps | apply noteSector_keeps | refine keepsFold _ (fun _ _ _ => ?_) _ ?_

theorem lockReady_keeps (v : Env) (ps : List (Nat × Nat)) (s : State) {z : State} (hz : Keeps z s) : OptKeeps z (lockReady v ps s) := by
  unfold lockReady
  with_reducible repeat' first
    | assumption | exact optNone | refine optSome ?_ | refine optIte ?_ ?_ | apply resolveAll_keeps | apply lockCount_keeps
    | fail_if_no_progress refine keepsMk rfl ?_ | refine keepsIte ?_ ?_ | refine optOf ‹_› ?_ | dsimp only | split

theorem lockAcqBody_keeps (v : Env) (s : State) {z : State} (hz : Keeps z s) : ResKeeps z (lockAcqBody v s) := by
  unfold lockAcqBody
  with_reducible repeat' first
    | assumption | refine resGo ?_ | exact resFault | exact resWait | refine resIte ?_ ?_ | exact rmwFault_keeps ‹_› | refine optSome ?_
    | exact optNone | refine optIte ?_ ?_ | refine optOf ‹_› ?_ | apply loseRun_keeps | apply lockTry_keeps | apply lockReady_keeps
    | fail_if_no_progress refine keepsMk rfl ?_ | refine keepsIte ?_ ?_ | dsimp only | split

theorem wakeCore_keeps (space at_ n : Nat) (s : State) {z : State} (hz : Keeps z s) : Keeps z (wakeCore space at_ n s) := by
  unfold wakeCore
  with_reducible repeat' first
    | assumption | apply setSheaf_keeps | refine keepsFold _ (fun _ _ _ => ?_) _ ?_ | fail_if_no_progress refine keepsMk rfl ?_
    | refine keepsIte ?_ ?_ | dsimp only | split

theorem wakeWaiters_keeps (n space at_ : Nat) (s : State) {z : State} (hz : Keeps z s) : Keeps z (wakeWaiters n space at_ s) := by
  unfold wakeWaiters
  with_reducible repeat' first
    | assumption | apply wakeCore_keeps | refine keepsFold _ (fun _ _ _ => ?_) _ ?_ | fail_if_no_progress refine keepsMk rfl ?_
    | refine keepsIte ?_ ?_ | dsimp only | split

theorem lockRelBody_keeps (v : Env) (s : State) {z : State} (hz : Keeps z s) : ResKeeps z (lockRelBody v s) := by
  unfold lockRelBody
  with_reducible repeat' first
    | assumption | refine resGo ?_ | exact resFault | exact resWait | refine resIte ?_ ?_ | exact rmwFault_keeps ‹_› | refine optSome ?_
    | exact optNone | refine optIte ?_ ?_ | refine optOf ‹_› ?_ | apply loseRun_keeps | apply lockWrite_keeps | apply lockReady_keeps
    | apply wakeWaiters_keeps | refine keepsFold _ (fun _ _ _ => ?_) _ ?_ | refine keepsSnd ‹_› ?_ | fail_if_no_progress refine keepsMk rfl ?_
    | refine keepsIte ?_ ?_ | dsimp only | split

theorem execLockTimeout_keeps (q c sl : Nat) (s : State) {z : State} (hz : Keeps z s) : OutKeeps z (execLockTimeout q c sl s) := by
  unfold execLockTimeout
  with_reducible repeat' first
    | assumption | refine outEvt ?_ ?_ | refine outNext ?_ | apply raiseAt_keeps | fail_if_no_progress refine keepsMk rfl ?_ | refine keepsIte ?_ ?_
    | dsimp only | split

theorem execLockRepoll_keeps (q c sl : Nat) (s : State) {z : State} (hz : Keeps z s) : OutKeeps z (execLockRepoll q c sl s) := by
  unfold execLockRepoll
  with_reducible repeat' first
    | assumption | refine outEvt ?_ ?_ | refine outNext ?_ | refine outIte ?_ ?_ | apply setSheaf_keeps | fail_if_no_progress refine keepsMk rfl ?_
    | refine keepsIte ?_ ?_ | dsimp only | split

end Sys2Proof.Machine
end

