-- ==== Sys2Proof/Laws/KeepsMemory.lean ====
section
/-! SUPPORT. One lemma for each operation and each command: what the granary, the links, the stacks and the storage checkers keep (Safety.Keeps): the queue of waiting commands, fuses that are only blown,
the ranges of their counts, the time base, the canonical form. -/
namespace Sys2Proof.Machine

/-! ## GranaryOps -/

theorem answerLoad_keeps (n sl id pa : Nat) (b : List Byte) (psn : List Nat) (detail : Nat) (s : State) {z : State} (hz : Keeps z s) : Keeps z (answerLoad n sl id pa b psn detail s) := by
  unfold answerLoad
  with_reducible repeat' first
    | assumption | apply keepsId | apply setSheaf_keeps | apply tcFill_keeps | fail_if_no_progress refine keepsMk rfl ?_ | refine keepsIte ?_ ?_
    | dsimp only | split

theorem answerBulk_keeps (n id i : Nat) (b : List Byte) (psn : List Nat) (s : State) {z : State} (hz : Keeps z s) : Keeps z (answerBulk n id i b psn s) := by
  unfold answerBulk
  with_reducible repeat' first
    | assumption | apply setCore_keeps | apply put_keeps | apply tilWrite_keeps | apply scrWrite_keeps | apply keepsId
    | fail_if_no_progress refine keepsMk rfl ?_ | refine keepsIte ?_ ?_ | dsimp only | split

theorem answerStore_keeps (n sl id : Nat) (s : State) {z : State} (hz : Keeps z s) : Keeps z (answerStore n sl id s) := by
  unfold answerStore
  with_reducible repeat' first
    | assumption | apply keepsId | apply setSheaf_keeps | fail_if_no_progress refine keepsMk rfl ?_ | refine keepsIte ?_ ?_ | dsimp only | split

theorem answerOs_keeps (k pa : Nat) (b : List Byte) (psn : List Nat) (s : State) {z : State} (hz : Keeps z s) : Keeps z (answerOs k pa b psn s) := by
  unfold answerOs
  with_reducible repeat' first
    | assumption | apply setOs_keeps

theorem answer_keeps (r : GReq) (b : List Byte) (psn : List Nat) (detail : Nat) (s : State) {z : State} (hz : Keeps z s) : Keeps z (answer r b psn detail s) := by
  unfold answer
  with_reducible repeat' first
    | assumption | apply drillAnswer_keeps | apply roceAnswer_keeps | apply guestAnswer_keeps | apply answerLoad_keeps | apply answerBulk_keeps
    | apply answerStore_keeps | apply answerOs_keeps | apply keepsId | fail_if_no_progress refine keepsMk rfl ?_ | refine keepsIte ?_ ?_ | dsimp only
    | split

theorem answerAtom_keeps (r : GReq) (vals : List (Nat × Nat)) (poison : Bool) (s : State) {z : State} (hz : Keeps z s) : Keeps z (answerAtom r vals poison s) := by
  unfold answerAtom
  with_reducible repeat' first
    | assumption | apply setSheaf_keeps | apply put_keeps | apply guestAnswer_keeps | apply answerStore_keeps | apply keepsId
    | fail_if_no_progress refine keepsMk rfl ?_ | refine keepsIte ?_ ?_ | dsimp only | split

theorem takeReq_keeps (h i : Nat) (s : State) {z : State} (hz : Keeps z s) : Keeps z (takeReq h i s) := by
  unfold takeReq
  with_reducible repeat' first
    | assumption | apply setHalf_keeps

theorem countReq_keeps (h cls : Nat) (r : GReq) (hit : Bool) (s : State) {z : State} (hz : Keeps z s) : Keeps z (countReq h cls r hit s) := by
  unfold countReq
  with_reducible repeat' first
    | assumption | apply bump_keeps | apply countAcc_keeps | fail_if_no_progress refine keepsMk rfl ?_ | refine keepsIte ?_ ?_ | dsimp only | split

theorem countLine_keeps (h : Nat) (r : GReq) (l : Line) (s : State) {z : State} (hz : Keeps z s) : Keeps z (countLine h r l s) := by
  unfold countLine
  with_reducible repeat' first
    | assumption | apply countHit_keeps | apply touch_keeps | fail_if_no_progress refine keepsMk rfl ?_ | refine keepsIte ?_ ?_

theorem mergeRead_keeps (h pa : Nat) (s : State) {z : State} (hz : Keeps z s) : Keeps z (mergeRead h pa s).2 := by
  unfold mergeRead
  with_reducible repeat' first
    | assumption | apply setHalf_keeps | apply bump_keeps | fail_if_no_progress refine keepsMk rfl ?_ | refine keepsIte ?_ ?_ | dsimp only | split

theorem fillAnswer_keeps (h : Nat) (f : Fill) (s : State) (r : GReq) {z : State} (hz : Keeps z s) : Keeps z (fillAnswer h f s r) := by
  unfold fillAnswer
  with_reducible repeat' first
    | assumption | apply logMismatch_keeps | apply answer_keeps | refine keepsSnd ‹_› ?_ | fail_if_no_progress refine keepsMk rfl ?_
    | refine keepsIte ?_ ?_ | dsimp only | split

theorem fillServe_keeps (h num : Nat) (install : Bool) (s : State) (sec : Nat) {z : State} (hz : Keeps z s) : Keeps z (fillServe h num install s sec) := by
  unfold fillServe
  with_reducible repeat' first
    | assumption | apply setHalf_keeps | apply fillAnswer_keeps | refine keepsFold _ (fun _ _ _ => ?_) _ ?_
    | fail_if_no_progress refine keepsMk rfl ?_ | refine keepsIte ?_ ?_ | dsimp only | split

theorem fillArrive_keeps (h num sec : Nat) (install : Bool) (slot : Option Nat) (d : W512 × Bool) (s : State) {z : State} (hz : Keeps z s) : Keeps z (fillArrive h num sec install slot d s) := by
  unfold fillArrive
  with_reducible repeat' first
    | assumption | apply fillTake_keeps | apply fillServe_keeps

theorem spillLine_keeps (h : Nat) (l : Line) (s : State) {z : State} (hz : Keeps z s) : Keeps z (spillLine h l s) := by
  unfold spillLine
  with_reducible repeat' first
    | assumption | apply setHalf_keeps | apply putSpill_keeps | refine keepsFold _ (fun _ _ _ => ?_) _ ?_ | fail_if_no_progress refine keepsMk rfl ?_
    | refine keepsIte ?_ ?_ | dsimp only | split

theorem spillOver_keeps (h set : Nat) (x0 : Nat) (s : State) {z : State} (hz : Keeps z s) : Keeps z (spillOver h set x0 s) := by
  induction x0 generalizing s with
  | zero => exact hz
  | succ m ih =>
    unfold spillOver
    with_reducible repeat' first
      | assumption | apply ih | apply spillLine_keeps | fail_if_no_progress refine keepsMk rfl ?_ | refine keepsIte ?_ ?_ | dsimp only | split

theorem evictLine_keeps (h : Nat) (l : Line) (s : State) {z : State} (hz : Keeps z s) : Keeps z (evictLine h l s) := by
  unfold evictLine
  with_reducible repeat' first
    | assumption | apply setHalf_keeps | apply writeBack_keeps

theorem movePinned_keeps (h : Nat) (l : Line) (s : State) {z : State} (hz : Keeps z s) : Keeps z (movePinned h l s) := by
  unfold movePinned
  with_reducible repeat' first
    | assumption | apply setHalf_keeps | apply makeRoom_keeps | refine keepsSnd ‹_› ?_ | fail_if_no_progress refine keepsMk rfl ?_ | dsimp only
    | split

theorem reduceNow_keeps (r : GReq) (s : State) {z : State} (hz : Keeps z s) : Keeps z (reduceNow r s) := by
  unfold reduceNow
  with_reducible repeat' first
    | assumption | apply sectorWrite_keeps | apply answerAtom_keeps | refine keepsSnd ‹_› ?_ | fail_if_no_progress refine keepsMk rfl ?_
    | refine keepsIte ?_ ?_ | dsimp only | split

theorem requeue_keeps (h : Nat) (r : GReq) (s : State) {z : State} (hz : Keeps z s) : Keeps z (requeue h r s) := by
  unfold requeue
  with_reducible repeat' first
    | assumption | apply setHalf_keeps

theorem completeRed_keeps (h : Nat) (x : Red) (s : State) {z : State} (hz : Keeps z s) : Keeps z (completeRed h x s) := by
  unfold completeRed
  with_reducible repeat' first
    | assumption | apply setHalf_keeps | apply bump_keeps | apply useAt_keeps | apply reduceNow_keeps | apply requeue_keeps
    | fail_if_no_progress refine keepsMk rfl ?_ | refine keepsIte ?_ ?_

theorem settleReds_keeps (h : Nat) (p : Red → Bool) (s : State) {z : State} (hz : Keeps z s) : Keeps z (settleReds h p s) := by
  unfold settleReds
  with_reducible repeat' first
    | assumption | apply setHalf_keeps | apply completeRed_keeps | refine keepsFold _ (fun _ _ _ => ?_) _ ?_

theorem carveSet_keeps (h set : Nat) (s : State) {z : State} (hz : Keeps z s) : Keeps z (carveSet h set s) := by
  unfold carveSet
  with_reducible repeat' first
    | assumption | apply spillLine_keeps | apply spillOver_keeps | apply evictLine_keeps | apply movePinned_keeps | apply settleReds_keeps
    | refine keepsFold _ (fun _ _ _ => ?_) _ ?_ | fail_if_no_progress refine keepsMk rfl ?_ | dsimp only | split

theorem unpinLine_keeps (h num : Nat) (s : State) {z : State} (hz : Keeps z s) : Keeps z (unpinLine h num s) := by
  unfold unpinLine
  with_reducible repeat' first
    | assumption | apply setHalf_keeps | fail_if_no_progress refine keepsMk rfl ?_ | refine keepsIte ?_ ?_ | dsimp only | split

theorem unpinRange_keeps (h pin base size : Nat) (s : State) {z : State} (hz : Keeps z s) : Keeps z (unpinRange h pin base size s) := by
  unfold unpinRange
  with_reducible repeat' first
    | assumption | apply setHalf_keeps | apply unpinLine_keeps | refine keepsFold _ (fun _ _ _ => ?_) _ ?_

theorem unask_keeps (n : Nat) (s : State) {z : State} (hz : Keeps z s) : Keeps z (unask n s) := by
  unfold unask
  with_reducible repeat' first
    | assumption | apply setHalf_keeps | refine keepsFold _ (fun _ _ _ => ?_) _ ?_

theorem releasePin_keeps (n kind : Nat) (s : State) {z : State} (hz : Keeps z s) : Keeps z (releasePin n kind s) := by
  unfold releasePin
  with_reducible repeat' first
    | assumption | apply setHalf_keeps | apply unask_keeps | refine keepsFold _ (fun _ _ _ => ?_) _ ?_ | fail_if_no_progress refine keepsMk rfl ?_
    | dsimp only | split

theorem dropPin_keeps (n : Nat) (s : State) {z : State} (hz : Keeps z s) : Keeps z (dropPin n s) := by
  unfold dropPin
  with_reducible repeat' first
    | assumption | apply endCmd_keeps | apply unpinRange_keeps | apply unask_keeps | refine keepsFold _ (fun _ _ _ => ?_) _ ?_
    | fail_if_no_progress refine keepsMk rfl ?_ | dsimp only | split

theorem spillAll_keeps (h : Nat) (p : Line → Bool) (s : State) {z : State} (hz : Keeps z s) : Keeps z (spillAll h p s) := by
  unfold spillAll
  with_reducible repeat' first
    | assumption | apply spillLine_keeps | refine keepsFold _ (fun _ _ _ => ?_) _ ?_

theorem fitLimit_keeps (h : Nat) (x0 : Nat) (s : State) {z : State} (hz : Keeps z s) : Keeps z (fitLimit h x0 s) := by
  induction x0 generalizing s with
  | zero => exact hz
  | succ m ih =>
    unfold fitLimit
    with_reducible repeat' first
      | assumption | apply ih | apply alarmW_keeps | apply spillOver_keeps | apply dropPin_keeps | fail_if_no_progress refine keepsMk rfl ?_
      | refine keepsIte ?_ ?_ | dsimp only | split

theorem emptyWayOf_keeps (h w : Nat) (s : State) {z : State} (hz : Keeps z s) : Keeps z (emptyWayOf h w s) := by
  unfold emptyWayOf
  with_reducible repeat' first
    | assumption | apply setHalf_keeps | apply spillLine_keeps | apply evictLine_keeps | apply settleReds_keeps
    | refine keepsFold _ (fun _ _ _ => ?_) _ ?_ | fail_if_no_progress refine keepsMk rfl ?_ | refine keepsIte ?_ ?_

theorem closeWay_keeps (h w : Nat) (s : State) {z : State} (hz : Keeps z s) : Keeps z (closeWay h w s) := by
  unfold closeWay
  with_reducible repeat' first
    | assumption | apply setHalf_keeps | apply alarmW_keeps | apply quarterFault_keeps | apply dropPin_keeps | apply spillAll_keeps
    | apply fitLimit_keeps | apply emptyWayOf_keeps | refine keepsFold _ (fun _ _ _ => ?_) _ ?_ | fail_if_no_progress refine keepsMk rfl ?_
    | refine keepsIte ?_ ?_

theorem fenceWay_keeps (h w : Nat) (s : State) {z : State} (hz : Keeps z s) : Keeps z (fenceWay h w s) := by
  unfold fenceWay
  with_reducible repeat' first
    | assumption | apply alarmW_keeps | apply closeWay_keeps | fail_if_no_progress refine keepsMk rfl ?_ | refine keepsIte ?_ ?_

theorem queueRepair_keeps (h word : Nat) (s : State) {z : State} (hz : Keeps z s) : Keeps z (queueRepair h word s) := by
  unfold queueRepair
  with_reducible repeat' first
    | assumption | apply setHalf_keeps | apply bump_keeps | fail_if_no_progress refine keepsMk rfl ?_ | refine keepsIte ?_ ?_

theorem grnCe_keeps (h way set word finder bits_ : Nat) (s : State) {z : State} (hz : Keeps z s) : Keeps z (grnCe h way set word finder bits_ s) := by
  unfold grnCe
  with_reducible repeat' first
    | assumption | apply setHalf_keeps | apply reportCe_keeps

theorem countUe_keeps (h way : Nat) (s : State) {z : State} (hz : Keeps z s) : Keeps z (countUe h way s) := by
  unfold countUe
  with_reducible repeat' first
    | assumption | apply setHalf_keeps | apply fenceWay_keeps | fail_if_no_progress refine keepsMk rfl ?_ | refine keepsIte ?_ ?_

theorem reportWords_keeps (h way set pa finder : Nat) (o : List (Nat × Decoded)) (s : State) {z : State} (hz : Keeps z s) : Keeps z (reportWords h way set pa finder o s) := by
  unfold reportWords
  with_reducible repeat' first
    | assumption | apply reportUe_keeps | apply queueRepair_keeps | apply grnCe_keeps | apply countUe_keeps
    | refine keepsFold _ (fun _ _ _ => ?_) _ ?_ | fail_if_no_progress refine keepsMk rfl ?_ | refine keepsIte ?_ ?_ | dsimp only | split

theorem reportRefetch_keeps (h way set pa finder : Nat) (o : List (Nat × Decoded)) (s : State) {z : State} (hz : Keeps z s) : Keeps z (reportRefetch h way set pa finder o s) := by
  unfold reportRefetch
  with_reducible repeat' first
    | assumption | apply bump_keeps | apply errRec_keeps | apply grnCe_keeps | apply countUe_keeps | refine keepsFold _ (fun _ _ _ => ?_) _ ?_
    | fail_if_no_progress refine keepsMk rfl ?_ | refine keepsIte ?_ ?_ | dsimp only | split

theorem grnState_keeps (h way set finder word fixes : Nat) (s : State) {z : State} (hz : Keeps z s) : Keeps z (grnState h way set finder word fixes s) := by
  unfold grnState
  with_reducible repeat' first
    | assumption | apply setHalf_keeps | apply reportState_keeps | refine keepsSnd ‹_› ?_ | fail_if_no_progress refine keepsMk rfl ?_
    | refine keepsIte ?_ ?_

theorem tagRead_keeps (h way set finder c0 c1 : Nat) (s : State) {z : State} (hz : Keeps z s) : Keeps z (tagRead h way set finder c0 c1 s) := by
  unfold tagRead
  with_reducible repeat' first
    | assumption | apply setHalf_keeps | apply bump_keeps | apply alarmW_keeps | apply errRec_keeps | apply reportCe_keeps | apply quarterFault_keeps
    | refine keepsSnd ‹_› ?_ | fail_if_no_progress refine keepsMk rfl ?_ | dsimp only | split

theorem lineRead_keeps (h pa finder : Nat) (l : Line) (e0 e1 : Nat) (s : State) {z : State} (hz : Keeps z s) : Keeps z (lineRead h pa finder l e0 e1 s).2 := by
  unfold lineRead
  with_reducible repeat' first
    | assumption | apply setHalf_keeps | apply bump_keeps | apply useWay_keeps | apply reportWords_keeps | apply reportRefetch_keeps
    | fail_if_no_progress refine keepsMk rfl ?_ | refine keepsIte ?_ ?_ | dsimp only | split

theorem plotRead_keeps (h off pa finder : Nat) (e0 e1 : Nat) (s : State) {z : State} (hz : Keeps z s) : Keeps z (plotRead h off pa finder e0 e1 s).2 := by
  unfold plotRead
  with_reducible repeat' first
    | assumption | apply put_keeps | apply reportWords_keeps | apply useWay_keeps | exact fun _ => by decide | exact fun _ => BitVec.isLt _
    | exact fun h => tset_rising _ _ _ _ (tset_rising _ _ _ _ h) | exact tRising_tdel _ _
    | exact fun h => stWrite_wf _ _ _ _ _ (stWrite_wf _ _ _ _ _ h) | exact fun h => h | exact mwrite_wf _ _ _ | exact filter_wf _ _
    | exact stWrite_wf _ _ _ _ _ | exact stClear_wf _ _ _ _ | refine keepsIte ?_ ?_ | dsimp only | fail_if_no_progress refine keepsMk rfl ?_ | split
    | refine keepsPlots _ _ ?_ ?_

theorem spillRoom_keeps (st pa : Nat) (s : State) {z : State} (hz : Keeps z s) : OptKeeps z (spillRoom st pa s) := by
  unfold spillRoom
  with_reducible repeat' first
    | assumption | refine optSome ?_ | exact optNone | refine optIte ?_ ?_ | apply abandonRun_keeps | apply failRun_keeps
    | fail_if_no_progress refine keepsMk rfl ?_ | refine keepsIte ?_ ?_ | dsimp only | split

/-! ## Granary -/

theorem allocFill_keeps (h : Nat) (r : GReq) (pin : Bool) (s : State) {z : State} (hz : Keeps z s) : OptKeeps z (allocFill h r pin s) := by
  unfold allocFill
  with_reducible repeat' first
    | assumption | exact optNone | refine optSome ?_ | refine optIte ?_ ?_ | apply setHalf_keeps | apply fillRead_keeps | apply startFill_keeps
    | apply fillServe_keeps | fail_if_no_progress refine keepsMk rfl ?_ | refine keepsIte ?_ ?_ | refine optOf ‹_› ?_ | dsimp only | split

theorem missAt_keeps (h i : Nat) (r : GReq) (s : State) {z : State} (hz : Keeps z s) : Keeps z (missAt h i r s) := by
  unfold missAt
  with_reducible repeat' first
    | assumption | refine optSome ?_ | exact optNone | refine optIte ?_ ?_ | refine optOf ‹_› ?_ | apply takeReq_keeps | apply countReq_keeps
    | apply allocFill_keeps | fail_if_no_progress refine keepsMk rfl ?_ | dsimp only | split

theorem admitRed_keeps (h : Nat) (r : GReq) (s : State) {z : State} (hz : Keeps z s) : Keeps z (admitRed h r s) := by
  unfold admitRed
  with_reducible repeat' first
    | assumption | apply setHalf_keeps | fail_if_no_progress refine keepsMk rfl ?_ | refine keepsIte ?_ ?_ | dsimp only | split

theorem atomZero_keeps (r : GReq) (s : State) {z : State} (hz : Keeps z s) : Keeps z (atomZero r s) := by
  unfold atomZero
  with_reducible repeat' first
    | assumption | apply logMismatch_keeps | apply answerAtom_keeps | fail_if_no_progress refine keepsMk rfl ?_ | refine keepsIte ?_ ?_ | dsimp only
    | split

theorem settleLine_keeps (h num : Nat) (s : State) {z : State} (hz : Keeps z s) : Keeps z (settleLine h num s) := by
  unfold settleLine
  with_reducible repeat' first
    | assumption | apply settleReds_keeps

theorem putBytes_keeps (r : GReq) (m : Mem) (psn : Bool) (s : State) {z : State} (hz : Keeps z s) : Keeps z (putBytes r m psn s) := by
  unfold putBytes
  with_reducible repeat' first
    | assumption | apply sectorWrite_keeps | apply useAt_keeps | apply writeBytes_keeps | fail_if_no_progress refine keepsMk rfl ?_
    | refine keepsIte ?_ ?_

theorem serveWaiter_keeps (h : Nat) (f : Fill) (s : State) (r : GReq) {z : State} (hz : Keeps z s) : Keeps z (serveWaiter h f s r) := by
  unfold serveWaiter
  with_reducible repeat' first
    | assumption | apply write_keeps | apply logMismatch_keeps | apply answer_keeps | apply fillAnswer_keeps | apply admitRed_keeps
    | apply atomZero_keeps | apply requeue_keeps | apply putBytes_keeps | fail_if_no_progress refine keepsMk rfl ?_ | refine keepsIte ?_ ?_
    | dsimp only | split

theorem installFill_keeps (h : Nat) (f : Fill) (s : State) {z : State} (hz : Keeps z s) : Keeps z (installFill h f s) := by
  unfold installFill
  with_reducible repeat' first
    | assumption | apply setHalf_keeps | apply useWay_keeps | apply makeRoom_keeps | apply installLine_keeps | apply serveWaiter_keeps
    | refine keepsFold _ (fun _ _ _ => ?_) _ ?_ | refine keepsSnd ‹_› ?_ | fail_if_no_progress refine keepsMk rfl ?_ | refine keepsIte ?_ ?_
    | dsimp only | split

theorem finishFill_keeps (h i : Nat) (f : Fill) (s : State) {z : State} (hz : Keeps z s) : OptKeeps z (finishFill h i f s) := by
  unfold finishFill
  with_reducible repeat' first
    | assumption | exact optNone | refine optSome ?_ | refine optIte ?_ ?_ | apply setHalf_keeps | apply carveSet_keeps | apply installFill_keeps
    | fail_if_no_progress refine keepsMk rfl ?_ | refine keepsIte ?_ ?_ | refine optOf ‹_› ?_ | dsimp only | split

theorem execFillReturn_keeps (h i : Nat) (s : State) {z : State} (hz : Keeps z s) : OutKeeps z (execFillReturn h i s) := by
  unfold execFillReturn
  with_reducible repeat' first
    | assumption | refine outEvt ?_ ?_ | refine outNext ?_ | refine outIte ?_ ?_ | apply setHalf_keeps | apply bump_keeps | apply finishFill_keeps
    | refine optOf ‹_› ?_ | refine optGetD ?_ ?_ | fail_if_no_progress refine keepsMk rfl ?_ | refine keepsIte ?_ ?_ | dsimp only | split

theorem execFillResume_keeps (h i : Nat) (s : State) {z : State} (hz : Keeps z s) : OutKeeps z (execFillResume h i s) := by
  unfold execFillResume
  with_reducible repeat' first
    | assumption | refine outEvt ?_ ?_ | refine outNext ?_ | apply finishFill_keeps | refine optOf ‹_› ?_ | refine optGetD ?_ ?_
    | fail_if_no_progress refine keepsMk rfl ?_ | refine keepsIte ?_ ?_ | dsimp only | split

theorem pinRead_keeps (h i : Nat) (r : GReq) (s : State) {z : State} (hz : Keeps z s) : Keeps z (pinRead h i r s) := by
  unfold pinRead
  with_reducible repeat' first
    | assumption | refine optSome ?_ | exact optNone | refine optIte ?_ ?_ | refine optOf ‹_› ?_ | apply setHalf_keeps | apply takeReq_keeps
    | apply allocFill_keeps | fail_if_no_progress refine keepsMk rfl ?_ | refine keepsIte ?_ ?_ | dsimp only | split

theorem readLine_keeps (h i : Nat) (r : GReq) (l : Line) (e0 e1 : Nat) (s : State) {z : State} (hz : Keeps z s) : Keeps z (readLine h i r l e0 e1 s) := by
  unfold readLine
  with_reducible repeat' first
    | assumption | apply answer_keeps | apply takeReq_keeps | apply countLine_keeps | apply mergeRead_keeps | apply lineRead_keeps
    | apply missAt_keeps | refine keepsSnd ‹_› ?_ | fail_if_no_progress refine keepsMk rfl ?_ | refine keepsIte ?_ ?_ | dsimp only | split

theorem strayReq_keeps (r : GReq) (s : State) {z : State} (hz : Keeps z s) : Keeps z (strayReq r s) := by
  unfold strayReq
  exact logStray_keeps _ _ _ _ _ hz
theorem readPlot_keeps (h i off : Nat) (r : GReq) (e0 e1 : Nat) (s : State) {z : State} (hz : Keeps z s) : Keeps z (readPlot h i off r e0 e1 s) := by
  unfold readPlot
  with_reducible repeat' first
    | assumption | apply answer_keeps | apply takeReq_keeps | apply countReq_keeps | apply mergeRead_keeps | apply plotRead_keeps
    | apply strayReq_keeps | refine keepsSnd ‹_› ?_ | fail_if_no_progress refine keepsMk rfl ?_ | refine keepsIte ?_ ?_ | dsimp only | split

theorem readThrough_keeps (h i : Nat) (r : GReq) (s : State) {z : State} (hz : Keeps z s) : Keeps z (readThrough h i r s) := by
  unfold readThrough
  with_reducible repeat' first
    | assumption | apply takeReq_keeps | apply countReq_keeps | apply fillServe_keeps | apply startFill_keeps

theorem readAt_keeps (h i : Nat) (r : GReq) (e0 e1 : Nat) (s : State) {z : State} (hz : Keeps z s) : Keeps z (readAt h i r e0 e1 s) := by
  unfold readAt
  with_reducible repeat' first
    | assumption | apply logMismatch_keeps | apply answer_keeps | apply takeReq_keeps | apply countReq_keeps | apply lineRead_keeps
    | apply missAt_keeps | apply readLine_keeps | apply readPlot_keeps | apply readThrough_keeps | refine keepsSnd ‹_› ?_
    | fail_if_no_progress refine keepsMk rfl ?_ | refine keepsIte ?_ ?_ | dsimp only | split

theorem readMeets_keeps (h : Nat) (r : GReq) (e0 e1 : Nat) (s : State) {z : State} (hz : Keeps z s) : Keeps z (readMeets h r e0 e1 s) := by
  unfold readMeets
  with_reducible repeat' first
    | assumption | apply grnState_keeps | apply tagRead_keeps | fail_if_no_progress refine keepsMk rfl ?_ | refine keepsIte ?_ ?_ | dsimp only | split

theorem execGranaryRead_keeps (h i : Nat) (e0 e1 : BitVec 354) (s : State) {z : State} (hz : Keeps z s) : OutKeeps z (execGranaryRead h i e0 e1 s) := by
  unfold execGranaryRead
  with_reducible repeat' first
    | assumption | refine outEvt ?_ ?_ | refine outNext ?_ | refine outIte ?_ ?_ | apply pinRead_keeps | apply readAt_keeps | apply readMeets_keeps
    | fail_if_no_progress refine keepsMk rfl ?_ | refine keepsIte ?_ ?_ | dsimp only | split

theorem noteClass_keeps (h st : Nat) (r : GReq) (keep : Bool) (s : State) {z : State} (hz : Keeps z s) : Keeps z (noteClass h st r keep s) := by
  unfold noteClass
  with_reducible repeat' first
    | assumption | apply setHalf_keeps | split

theorem countStaged_keeps (h st : Nat) (r : GReq) (s : State) {z : State} (hz : Keeps z s) : Keeps z (countStaged h st r s) := by
  unfold countStaged
  with_reducible repeat' first
    | assumption | apply countReq_keeps | apply countLine_keeps | fail_if_no_progress refine keepsMk rfl ?_ | refine keepsIte ?_ ?_ | dsimp only
    | split

theorem storeShadow_keeps (h i st : Nat) (r : GReq) (m : Mem) (psn : Bool) (s : State) {z : State} (hz : Keeps z s) : Keeps z (storeShadow h i st r m psn s) := by
  unfold storeShadow
  with_reducible repeat' first
    | assumption | apply logMismatch_keeps | apply answer_keeps | apply takeReq_keeps | apply spillRoom_keeps | apply missAt_keeps
    | apply putBytes_keeps | apply noteClass_keeps | apply countStaged_keeps | refine optOf ‹_› ?_ | fail_if_no_progress refine keepsMk rfl ?_
    | refine keepsIte ?_ ?_ | dsimp only | split

theorem storeStaged_keeps (h i st : Nat) (r : GReq) (m : Mem) (psn : Bool) (s : State) {z : State} (hz : Keeps z s) : Keeps z (storeStaged h i st r m psn s) := by
  unfold storeStaged
  with_reducible repeat' first
    | assumption | refine optSome ?_ | exact optNone | refine optIte ?_ ?_ | refine optOf ‹_› ?_ | apply resolveConflict_keeps
    | apply storeShadow_keeps | fail_if_no_progress refine keepsMk rfl ?_ | refine keepsIte ?_ ?_ | dsimp only | split

theorem storePlot_keeps (h i off : Nat) (r : GReq) (m : Mem) (psn : Bool) (s : State) {z : State} (hz : Keeps z s) : Keeps z (storePlot h i off r m psn s) := by
  unfold storePlot
  with_reducible repeat' first
    | assumption | apply logMismatch_keeps | apply answer_keeps | apply takeReq_keeps | apply countReq_keeps | apply putBytes_keeps
    | apply strayReq_keeps | fail_if_no_progress refine keepsMk rfl ?_ | refine keepsIte ?_ ?_ | dsimp only | split

theorem storeInstall_keeps (h i : Nat) (r : GReq) (m : Mem) (psn : Bool) (s : State) {z : State} (hz : Keeps z s) : Keeps z (storeInstall h i r m psn s) := by
  unfold storeInstall
  with_reducible repeat' first
    | assumption | apply setHalf_keeps | apply useWay_keeps | apply makeRoom_keeps | apply installLine_keeps | apply answer_keeps
    | apply takeReq_keeps | apply countReq_keeps | refine keepsSnd ‹_› ?_ | fail_if_no_progress refine keepsMk rfl ?_ | refine keepsIte ?_ ?_
    | dsimp only | split

theorem storeRewrite_keeps (h i : Nat) (r : GReq) (l : Line) (m : Mem) (psn : Bool) (s : State) {z : State} (hz : Keeps z s) : Keeps z (storeRewrite h i r l m psn s) := by
  unfold storeRewrite
  with_reducible repeat' first
    | assumption | apply setHalf_keeps | apply useWay_keeps | apply writeBack_keeps | apply logMismatch_keeps | apply answer_keeps
    | apply takeReq_keeps | apply countReq_keeps

theorem storeLine_keeps (h i : Nat) (r : GReq) (m : Mem) (psn : Bool) (s : State) {z : State} (hz : Keeps z s) : Keeps z (storeLine h i r m psn s) := by
  unfold storeLine
  with_reducible repeat' first
    | assumption | apply setHalf_keeps | apply burstWrite_keeps | apply useWay_keeps | apply logMismatch_keeps | apply answer_keeps
    | apply takeReq_keeps | apply countReq_keeps | apply countLine_keeps | apply missAt_keeps | apply putBytes_keeps | apply storeInstall_keeps
    | apply storeRewrite_keeps | fail_if_no_progress refine keepsMk rfl ?_ | refine keepsIte ?_ ?_ | dsimp only | split

theorem execGranaryStore_keeps (h i : Nat) (s : State) {z : State} (hz : Keeps z s) : OutKeeps z (execGranaryStore h i s) := by
  unfold execGranaryStore
  with_reducible repeat' first
    | assumption | refine outEvt ?_ ?_ | refine outNext ?_ | refine outIte ?_ ?_ | apply write_keeps | apply storeStaged_keeps | apply storePlot_keeps
    | apply storeLine_keeps | fail_if_no_progress refine keepsMk rfl ?_ | refine keepsIte ?_ ?_ | dsimp only | split

theorem admitAt_keeps (h i : Nat) (r : GReq) (op lanes : Nat) (s : State) {z : State} (hz : Keeps z s) : Keeps z (admitAt h i r op lanes s) := by
  unfold admitAt
  with_reducible repeat' first
    | assumption | apply answerAtom_keeps | apply takeReq_keeps | apply countReq_keeps | apply countLine_keeps | apply missAt_keeps
    | apply admitRed_keeps | apply atomZero_keeps | apply strayReq_keeps | fail_if_no_progress refine keepsMk rfl ?_ | refine keepsIte ?_ ?_
    | dsimp only | split

theorem execReductionAdmit_keeps (h i : Nat) (s : State) {z : State} (hz : Keeps z s) : OutKeeps z (execReductionAdmit h i s) := by
  unfold execReductionAdmit
  with_reducible repeat' first
    | assumption | refine outEvt ?_ ?_ | refine outNext ?_ | refine outIte ?_ ?_ | apply resolveConflict_keeps | apply spillRoom_keeps
    | apply admitAt_keeps | refine optSome ?_ | exact optNone | refine optIte ?_ ?_ | refine optOf ‹_› ?_ | fail_if_no_progress refine keepsMk rfl ?_
    | refine keepsIte ?_ ?_ | dsimp only | split

theorem execReductionComplete_keeps (h i : Nat) (s : State) {z : State} (hz : Keeps z s) : OutKeeps z (execReductionComplete h i s) := by
  unfold execReductionComplete
  with_reducible repeat' first
    | assumption | refine outEvt ?_ ?_ | refine outNext ?_ | apply setHalf_keeps | apply completeRed_keeps | fail_if_no_progress refine keepsMk rfl ?_
    | refine keepsIte ?_ ?_ | dsimp only | split

theorem execMergeEntryExpire_keeps (h i : Nat) (s : State) {z : State} (hz : Keeps z s) : OutKeeps z (execMergeEntryExpire h i s) := by
  unfold execMergeEntryExpire
  with_reducible repeat' first
    | assumption | refine outEvt ?_ ?_ | refine outNext ?_ | refine outIte ?_ ?_ | apply setHalf_keeps

theorem execCarveWalkSet_keeps (h : Nat) (s : State) {z : State} (hz : Keeps z s) : OutKeeps z (execCarveWalkSet h s) := by
  unfold execCarveWalkSet
  with_reducible repeat' first
    | assumption | refine outEvt ?_ ?_ | refine outNext ?_ | refine outIte ?_ ?_ | apply setHalf_keeps | apply endCmd_keeps | apply carveSet_keeps
    | fail_if_no_progress refine keepsMk rfl ?_ | refine keepsIte ?_ ?_ | dsimp only | split

theorem pinFails_keeps (h n : Nat) (p : Pin) (s : State) {z : State} (hz : Keeps z s) : Keeps z (pinFails h n p s) := by
  unfold pinFails
  with_reducible repeat' first
    | assumption | apply bump_keeps | apply endCmd_keeps | apply unpinRange_keeps | apply unask_keeps | refine keepsFold _ (fun _ _ _ => ?_) _ ?_
    | fail_if_no_progress refine keepsMk rfl ?_ | dsimp only | split

theorem pinAccept_keeps (h : Nat) (x : PinReq) (p : Pin) (l : List Nat) (s : State) {z : State} (hz : Keeps z s) : Keeps z (pinAccept h x p l s) := by
  unfold pinAccept
  with_reducible repeat' first
    | assumption | apply setHalf_keeps | apply spillOver_keeps | refine keepsFold _ (fun _ _ _ => ?_) _ ?_ | refine keepsSnd ‹_› ?_
    | fail_if_no_progress refine keepsMk rfl ?_

theorem pinServe_keeps (h : Nat) (x : PinReq) (p : Pin) (s : State) {z : State} (hz : Keeps z s) : Keeps z (pinServe h x p s) := by
  unfold pinServe
  with_reducible repeat' first
    | assumption | apply setHalf_keeps | apply pinFails_keeps | apply pinAccept_keeps | fail_if_no_progress refine keepsMk rfl ?_
    | refine keepsIte ?_ ?_

theorem execPinEngineRequest_keeps (h : Nat) (s : State) {z : State} (hz : Keeps z s) : OutKeeps z (execPinEngineRequest h s) := by
  unfold execPinEngineRequest
  with_reducible repeat' first
    | assumption | refine outEvt ?_ ?_ | refine outNext ?_ | refine outIte ?_ ?_ | apply setHalf_keeps | apply unpinRange_keeps | apply pinServe_keeps
    | fail_if_no_progress refine keepsMk rfl ?_ | refine keepsIte ?_ ?_ | dsimp only | split

theorem execPinComplete_keeps (pin : Nat) (s : State) {z : State} (hz : Keeps z s) : OutKeeps z (execPinComplete pin s) := by
  unfold execPinComplete
  with_reducible repeat' first
    | assumption | refine outEvt ?_ ?_ | refine outNext ?_ | apply endCmd_keeps | fail_if_no_progress refine keepsMk rfl ?_ | refine keepsIte ?_ ?_
    | dsimp only | split

theorem execThrashWindowEnd_keeps (h : Nat) (s : State) {z : State} (hz : Keeps z s) : OutKeeps z (execThrashWindowEnd h s) := by
  unfold execThrashWindowEnd
  with_reducible repeat' first
    | assumption | refine outEvt ?_ ?_ | refine outNext ?_ | refine outIte ?_ ?_ | apply setHalf_keeps | apply bump_keeps | apply signal_keeps
    | fail_if_no_progress refine keepsMk rfl ?_ | refine keepsIte ?_ ?_

theorem execThrashEvent_keeps (h : Nat) (s : State) {z : State} (hz : Keeps z s) : OutKeeps z (execThrashEvent h s) := by
  unfold execThrashEvent
  with_reducible repeat' first
    | assumption | refine outEvt ?_ ?_ | refine outNext ?_ | apply setHalf_keeps | apply logRec_keeps | apply alarmW_keeps | apply releasePin_keeps
    | refine keepsSnd ‹_› ?_ | fail_if_no_progress refine keepsMk rfl ?_ | refine keepsIte ?_ ?_ | dsimp only | split

theorem execTilthSplitChange_keeps (q c units : Nat) (s : State) {z : State} (hz : Keeps z s) : OutKeeps z (execTilthSplitChange q c units s) := by
  unfold execTilthSplitChange
  with_reducible repeat' first
    | assumption | refine outEvt ?_ ?_ | refine outNext ?_ | refine outIte ?_ ?_ | apply setCore_keeps | apply clearScratch_keeps

/-! ## Links -/

theorem modGroup_keeps (l dir g : Nat) (f : Group → Group) (s : State) {z : State} (hz : Keeps z s) : Keeps z (modGroup l dir g f s) := by
  unfold modGroup
  with_reducible repeat' first
    | assumption | apply setLink_keeps

theorem linkAlarm_keeps (code l dir g lane margin : Nat) (s : State) {z : State} (hz : Keeps z s) : Keeps z (linkAlarm code l dir g lane margin s) := by
  unfold linkAlarm
  with_reducible repeat' first
    | assumption | apply alarmW_keeps

theorem busRec_keeps (src n loc : Nat) (s : State) {z : State} (hz : Keeps z s) : Keeps z (busRec src n loc s) := by
  unfold busRec
  with_reducible repeat' first
    | assumption | apply errRec_keeps

theorem pushFlits_keeps (l dir g : Nat) (fs : List Flit) (s : State) {z : State} (hz : Keeps z s) : Keeps z (pushFlits l dir g fs s) := by
  unfold pushFlits
  with_reducible repeat' first
    | assumption | apply modGroup_keeps

theorem placeSmall_keeps (l dir : Nat) (s : State) (f : Flit) {z : State} (hz : Keeps z s) : Keeps z (placeSmall l dir s f) := by
  unfold placeSmall
  with_reducible repeat' first
    | assumption | apply setLink_keeps | apply pushFlits_keeps | fail_if_no_progress refine keepsMk rfl ?_ | refine keepsIte ?_ ?_

theorem placePacket_keeps (l dir : Nat) (s : State) (fs : List Flit) {z : State} (hz : Keeps z s) : Keeps z (placePacket l dir s fs) := by
  unfold placePacket
  with_reducible repeat' first
    | assumption | apply setLink_keeps | apply pushFlits_keeps | fail_if_no_progress refine keepsMk rfl ?_ | dsimp only | split

theorem sendAck_keeps (l dir g : Nat) (s : State) {z : State} (hz : Keeps z s) : Keeps z (sendAck l dir g s) := by
  unfold sendAck
  with_reducible repeat' first
    | assumption | apply modGroup_keeps | apply pushFlits_keeps | fail_if_no_progress refine keepsMk rfl ?_ | refine keepsIte ?_ ?_

theorem takeOffer_keeps (l dir : Nat) (s : State) (o : Offer) {z : State} (hz : Keeps z s) : Keeps z (takeOffer l dir s o) := by
  unfold takeOffer
  with_reducible repeat' first
    | assumption | apply setEp_keeps | apply placeSmall_keeps | apply placePacket_keeps | apply sendAck_keeps
    | refine keepsFold _ (fun _ _ _ => ?_) _ ?_ | refine keepsSnd ‹_› ?_ | fail_if_no_progress refine keepsMk rfl ?_ | refine keepsIte ?_ ?_
    | dsimp only | split

theorem retireGroup_keeps (l dir g lane : Nat) (s : State) {z : State} (hz : Keeps z s) : Keeps z (retireGroup l dir g lane s) := by
  unfold retireGroup
  with_reducible repeat' first
    | assumption | apply modGroup_keeps | apply linkAlarm_keeps | apply placeSmall_keeps | apply placePacket_keeps
    | refine keepsFold _ (fun _ _ _ => ?_) _ ?_ | fail_if_no_progress refine keepsMk rfl ?_ | refine keepsIte ?_ ?_

theorem spareLane_keeps (l dir g lane : Nat) (s : State) {z : State} (hz : Keeps z s) : Keeps z (spareLane l dir g lane s) := by
  unfold spareLane
  with_reducible repeat' first
    | assumption | apply modGroup_keeps | apply linkAlarm_keeps | apply retireGroup_keeps | fail_if_no_progress refine keepsMk rfl ?_
    | refine keepsIte ?_ ?_ | dsimp only | split

theorem spareFails_keeps (l dir g i : Nat) (s : State) {z : State} (hz : Keeps z s) : Keeps z (spareFails l dir g i s) := by
  unfold spareFails
  with_reducible repeat' first
    | assumption | apply modGroup_keeps | apply linkAlarm_keeps | apply spareLane_keeps | fail_if_no_progress refine keepsMk rfl ?_
    | refine keepsIte ?_ ?_ | dsimp only | split

theorem laneAct_keeps (l dir g : Nat) (s : State) (lane : Nat) {z : State} (hz : Keeps z s) : Keeps z (laneAct l dir g s lane) := by
  unfold laneAct
  with_reducible repeat' first
    | assumption | apply retireGroup_keeps | apply spareLane_keeps | apply spareFails_keeps | fail_if_no_progress refine keepsMk rfl ?_
    | refine keepsIte ?_ ?_

theorem crcSpare_keeps (l dir g : Nat) (s : State) {z : State} (hz : Keeps z s) : Keeps z (crcSpare l dir g s) := by
  unfold crcSpare
  with_reducible repeat' first
    | assumption | apply modGroup_keeps | apply spareLane_keeps | fail_if_no_progress refine keepsMk rfl ?_ | refine keepsIte ?_ ?_

theorem linkDown_keeps (l dir g : Nat) (s : State) {z : State} (hz : Keeps z s) : Keeps z (linkDown l dir g s) := by
  unfold linkDown
  with_reducible repeat' first
    | assumption | apply setLink_keeps | apply linkAlarm_keeps | fail_if_no_progress refine keepsMk rfl ?_ | refine keepsIte ?_ ?_

theorem messageCrossed_keeps (l dir : Nat) (m : CtlMsg) (s : State) {z : State} (hz : Keeps z s) : Keeps z (messageCrossed l dir m s) := by
  unfold messageCrossed
  with_reducible repeat' first
    | assumption | apply setEp_keeps | apply bounceTo_keeps | apply reach_keeps | apply placeSmall_keeps | refine keepsFold _ (fun _ _ _ => ?_) _ ?_
    | fail_if_no_progress refine keepsMk rfl ?_ | refine keepsIte ?_ ?_ | dsimp only | split

theorem deliverFlit_keeps (l dir g : Nat) (f : Flit) (data : W512) (s : State) {z : State} (hz : Keeps z s) : Keeps z (deliverFlit l dir g f data s) := by
  unfold deliverFlit
  with_reducible repeat' first
    | assumption | apply modGroup_keeps | apply messageCrossed_keeps | fail_if_no_progress refine keepsMk rfl ?_ | dsimp only | split

theorem receiveFlit_keeps (l dir g : Nat) (f : Option Flit) (data : W512) (ctl : W16) (s : State) {z : State} (hz : Keeps z s) : Keeps z (receiveFlit l dir g f data ctl s) := by
  unfold receiveFlit
  with_reducible repeat' first
    | assumption | apply bump_keeps | apply modGroup_keeps | apply busRec_keeps | apply sendAck_keeps | apply crcSpare_keeps | apply deliverFlit_keeps
    | fail_if_no_progress refine keepsMk rfl ?_ | refine keepsIte ?_ ?_ | dsimp only | split

theorem execFlitReceive_keeps (l dir g : Nat) (offers : List Offer) (wire : BitVec 528) (s : State) {z : State} (hz : Keeps z s) : OutKeeps z (execFlitReceive l dir g offers wire s) := by
  unfold execFlitReceive
  with_reducible repeat' first
    | assumption | refine outEvt ?_ ?_ | refine outNext ?_ | apply modGroup_keeps | apply takeOffer_keeps | apply receiveFlit_keeps
    | refine keepsFold _ (fun _ _ _ => ?_) _ ?_

theorem execReplayRequest_keeps (l dir g seq : Nat) (s : State) {z : State} (hz : Keeps z s) : OutKeeps z (execReplayRequest l dir g seq s) := by
  unfold execReplayRequest
  with_reducible repeat' first
    | assumption | refine outEvt ?_ ?_ | refine outNext ?_ | refine outIte ?_ ?_ | apply bump_keeps | apply modGroup_keeps

theorem execLinkAck_keeps (l dir g seq : Nat) (s : State) {z : State} (hz : Keeps z s) : OutKeeps z (execLinkAck l dir g seq s) := by
  unfold execLinkAck
  with_reducible repeat' first
    | assumption | refine outEvt ?_ ?_ | refine outNext ?_ | apply modGroup_keeps

theorem execMarginMeasure_keeps (l dir g : Nat) (margins : List Nat) (s : State) {z : State} (hz : Keeps z s) : OutKeeps z (execMarginMeasure l dir g margins s) := by
  unfold execMarginMeasure
  with_reducible repeat' first
    | assumption | refine outEvt ?_ ?_ | refine outNext ?_ | refine outIte ?_ ?_ | apply modGroup_keeps | apply laneAct_keeps | apply crcSpare_keeps
    | refine keepsFold _ (fun _ _ _ => ?_) _ ?_

theorem takeSmall_keeps (l dir : Nat) (s : State) {z : State} (hz : Keeps z s) : Keeps z (takeSmall l dir s).2 := by
  unfold takeSmall
  with_reducible repeat' first
    | assumption | apply modGroup_keeps | apply setLink_keeps | refine keepsFold _ (fun _ _ _ => ?_) _ ?_

theorem execGroupStop_keeps (l dir g : Nat) (s : State) {z : State} (hz : Keeps z s) : OutKeeps z (execGroupStop l dir g s) := by
  unfold execGroupStop
  with_reducible repeat' first
    | assumption | refine outEvt ?_ ?_ | refine outNext ?_ | refine outIte ?_ ?_ | apply takeSmall_keeps | apply modGroup_keeps | apply placeSmall_keeps
    | apply linkDown_keeps | refine keepsFold _ (fun _ _ _ => ?_) _ ?_ | fail_if_no_progress refine keepsMk rfl ?_ | refine keepsIte ?_ ?_

theorem bounceFlit_keeps (s : State) (f : Flit) {z : State} (hz : Keeps z s) : Keeps z (bounceFlit s f) := by
  unfold bounceFlit
  with_reducible repeat' first
    | assumption | apply bounceTo_keeps | fail_if_no_progress refine keepsMk rfl ?_ | dsimp only | split

theorem abandonLink_keeps (l : Nat) (s : State) {z : State} (hz : Keeps z s) : Keeps z (abandonLink l s) := by
  unfold abandonLink
  with_reducible repeat' first
    | assumption | apply setLink_keeps | apply abandonRun_keeps | apply bounceFlit_keeps | refine keepsFold _ (fun _ _ _ => ?_) _ ?_

theorem execLinkAbandon_keeps (l : Nat) (s : State) {z : State} (hz : Keeps z s) : OutKeeps z (execLinkAbandon l s) := by
  unfold execLinkAbandon
  with_reducible repeat' first
    | assumption | refine outEvt ?_ ?_ | refine outNext ?_ | refine outIte ?_ ?_ | apply linkDown_keeps | apply abandonLink_keeps
    | fail_if_no_progress refine keepsMk rfl ?_ | refine keepsIte ?_ ?_

theorem releasePair_keeps (a b : Nat) (s : State) {z : State} (hz : Keeps z s) : Keeps z (releasePair a b s) := by
  unfold releasePair
  with_reducible repeat' first
    | assumption | apply releaseMsgs_keeps | apply sendReqs_keeps | fail_if_no_progress refine keepsMk rfl ?_

theorem execRouteChange_keeps (a b : Nat) (s : State) {z : State} (hz : Keeps z s) : OutKeeps z (execRouteChange a b s) := by
  have h := keepsRoutes s (tset 0 (tset 0 s.routes (5 * a + b) (bestRoute s a b)) (5 * b + a) (bestRoute s a b)) hz
    (fun h => tset_rising _ _ _ _ (tset_rising _ _ _ _ h))
  have h2 (l d g k m : Nat) := releasePair_keeps a b _ (linkAlarm_keeps 0x0404 l d g k m _ h)
  exact outEvt hz (keepsIte (quarterFault_keeps _ _ _ (h2 _ _ _ _ _)) (h2 _ _ _ _ _))

theorem retrainLinks_keeps (q : Nat) (s : State) {z : State} (hz : Keeps z s) : Keeps z (retrainLinks q s) := by
  unfold retrainLinks
  with_reducible repeat' first
    | assumption | apply setLink_keeps | apply abandonLink_keeps | refine keepsFold _ (fun _ _ _ => ?_) _ ?_
    | fail_if_no_progress refine keepsMk rfl ?_ | refine keepsIte ?_ ?_

theorem trainDir_keeps (l dir : Nat) (fresh : Bool) (ok : W16) (s : State) {z : State} (hz : Keeps z s) : Keeps z (trainDir l dir fresh ok s) := by
  unfold trainDir
  with_reducible repeat' first
    | assumption | apply modGroup_keeps | apply linkAlarm_keeps | refine keepsFold _ (fun _ _ _ => ?_) _ ?_
    | fail_if_no_progress refine keepsMk rfl ?_ | refine keepsIte ?_ ?_

theorem linkUp_keeps (l : Nat) (s : State) {z : State} (hz : Keeps z s) : Keeps z (linkUp l s) := by
  unfold linkUp
  with_reducible repeat' first
    | assumption | apply setLink_keeps | apply linkDown_keeps | fail_if_no_progress refine keepsMk rfl ?_ | refine keepsIte ?_ ?_

theorem guestTrained_keeps (n : Nat) (s : State) {z : State} (hz : Keeps z s) : Keeps z (guestTrained n s) := by
  unfold guestTrained
  with_reducible repeat' first
    | assumption | apply setLink_keeps | apply guestDrain_keeps | apply guestReplay_keeps | apply linkDown_keeps
    | fail_if_no_progress refine keepsMk rfl ?_ | refine keepsIte ?_ ?_

theorem execLinkTraining_keeps (l : Nat) (fwd rev : BitVec 16) (s : State) {z : State} (hz : Keeps z s) : OutKeeps z (execLinkTraining l fwd rev s) := by
  unfold execLinkTraining
  with_reducible repeat' first
    | assumption | refine outEvt ?_ ?_ | refine outNext ?_ | refine outIte ?_ ?_ | apply trainDir_keeps | apply linkUp_keeps
    | apply guestTrained_keeps | fail_if_no_progress refine keepsMk rfl ?_ | refine keepsIte ?_ ?_

theorem beatPoisoned_keeps (h i : Nat) (s : State) {z : State} (hz : Keeps z s) : Keeps z (beatPoisoned h i s) := by
  unfold beatPoisoned
  with_reducible repeat' first
    | assumption | apply writeBytes_keeps | apply answer_keeps | apply answerAtom_keeps | apply takeReq_keeps
    | fail_if_no_progress refine keepsMk rfl ?_ | refine keepsIte ?_ ?_ | dsimp only | split

theorem execVbusUncorrectable_keeps (q bus : Nat) (at_ : Nat × Option (Nat × Nat)) (s : State) {z : State} (hz : Keeps z s) : OutKeeps z (execVbusUncorrectable q bus at_ s) := by
  unfold execVbusUncorrectable
  with_reducible repeat' first
    | assumption | refine outEvt ?_ ?_ | refine outNext ?_ | refine outIte ?_ ?_ | apply alarmW_keeps | apply coreReset_keeps
    | apply quarterFault_keeps | apply fenceWay_keeps | apply beatPoisoned_keeps | refine keepsSnd ‹_› ?_ | fail_if_no_progress refine keepsMk rfl ?_
    | refine keepsIte ?_ ?_ | dsimp only | split

theorem execVbusCeRate_keeps (q bus i n : Nat) (s : State) {z : State} (hz : Keeps z s) : OutKeeps z (execVbusCeRate q bus i n s) := by
  unfold execVbusCeRate
  with_reducible repeat' first
    | assumption | refine outEvt ?_ ?_ | refine outNext ?_ | refine outIte ?_ ?_ | apply bump_keeps | apply alarmW_keeps | apply busRec_keeps
    | refine keepsFold _ (fun _ _ _ => ?_) _ ?_ | fail_if_no_progress refine keepsMk rfl ?_ | refine keepsIte ?_ ?_

/-! ## Lpddr -/

theorem stackLoss_keeps (q : Nat) (s : State) {z : State} (hz : Keeps z s) : Keeps z (stackLoss q s) := by
  unfold stackLoss
  with_reducible repeat' first
    | assumption | apply abandonRun_keeps | apply failRun_keeps | refine keepsFold _ (fun _ _ _ => ?_) _ ?_
    | fail_if_no_progress refine keepsMk rfl ?_ | refine keepsIte ?_ ?_ | dsimp only | split

theorem lpDeliver_keeps (m : Nat) (r : MReq) (slot : Option Nat) (d : W512 × Bool) (s : State) {z : State} (hz : Keeps z s) : Keeps z (lpDeliver m r slot d s) := by
  unfold lpDeliver
  with_reducible repeat' first
    | assumption | apply setStack_keeps | apply fillArrive_keeps | refine keepsSnd ‹_› ?_ | fail_if_no_progress refine keepsMk rfl ?_ | dsimp only
    | split

theorem lpDrop_keeps (m : Nat) (r : MReq) (s : State) {z : State} (hz : Keeps z s) : Keeps z (lpDrop m r s) := by
  unfold lpDrop
  with_reducible repeat' first
    | assumption | apply setStack_keeps

theorem lpGive_keeps (m : Nat) (r : MReq) (x : W512 × W32) (bad : Bool) (s : State) {z : State} (hz : Keeps z s) : Keeps z (lpGive m r x bad s) := by
  unfold lpGive
  with_reducible repeat' first
    | assumption | apply countRd_keeps | apply lpDeliver_keeps | apply lpDrop_keeps

theorem lpLost_keeps (m : Nat) (s : State) (r : MReq) {z : State} (hz : Keeps z s) : Keeps z (lpLost m s r) := by
  unfold lpLost
  with_reducible repeat' first
    | assumption | apply keepsId | apply bump_keeps | apply write_keeps | apply poisonRec_keeps | apply lpDeliver_keeps | apply lpDrop_keeps
    | fail_if_no_progress refine keepsMk rfl ?_ | refine keepsIte ?_ ?_

theorem stackFail_keeps (m : Nat) (s : State) {z : State} (hz : Keeps z s) : Keeps z (stackFail m s) := by
  unfold stackFail
  with_reducible repeat' first
    | assumption | apply setStack_keeps | apply alarmW_keeps | apply lpLost_keeps | refine keepsFold _ (fun _ _ _ => ?_) _ ?_

theorem chanFail_keeps (m ch : Nat) (s : State) {z : State} (hz : Keeps z s) : Keeps z (chanFail m ch s) := by
  unfold chanFail
  with_reducible repeat' first
    | assumption | apply setStack_keeps | apply alarmW_keeps | apply stackLoss_keeps | apply lpLost_keeps | refine keepsFold _ (fun _ _ _ => ?_) _ ?_

theorem execStackTraining_keeps (m : Nat) (gen : Option (Nat × List (Nat × Nat))) (cmdOk : Bool) (eyes107 eyes96 : List (Nat × Nat × Nat)) (s : State) {z : State} (hz : Keeps z s) : OutKeeps z (execStackTraining m gen cmdOk eyes107 eyes96 s) := by
  unfold execStackTraining
  with_reducible repeat' first
    | assumption | refine outEvt ?_ ?_ | refine outNext ?_ | refine outIte ?_ ?_ | apply setStack_keeps | apply alarmW_keeps | apply stackFail_keeps
    | refine keepsFold _ (fun _ _ _ => ?_) _ ?_ | fail_if_no_progress refine keepsMk rfl ?_ | refine keepsIte ?_ ?_

theorem zeroStack_keeps (m : Nat) (s : State) {z : State} (hz : Keeps z s) : Keeps z (zeroStack m s) := by
  unfold zeroStack
  exact keepsLpddr _ _ _ (setStack_keeps _ _ _ hz) (filter_wf _ _)

theorem execStackZeroFillDone_keeps (m : Nat) (s : State) {z : State} (hz : Keeps z s) : OutKeeps z (execStackZeroFillDone m s) := by
  unfold execStackZeroFillDone
  with_reducible repeat' first
    | assumption | refine outEvt ?_ ?_ | refine outNext ?_ | refine outIte ?_ ?_ | apply setStack_keeps | apply zeroStack_keeps

theorem portsOf_keeps (m : Nat) (s : State) {z : State} (hz : Keeps z s) : Keeps z (portsOf m s) := by
  unfold portsOf
  with_reducible repeat' first
    | assumption | apply setStack_keeps | apply lpEnter_keeps | refine keepsFold _ (fun _ _ _ => ?_) _ ?_

theorem portDrain_keeps (m : Nat) (s : State) {z : State} (hz : Keeps z s) : Keeps z (portDrain m s) := by
  unfold portDrain
  with_reducible repeat' first
    | assumption | apply portsOf_keeps

theorem noteView_keeps (stage : Option Nat) (cls master pa : Nat) (s : State) {z : State} (hz : Keeps z s) : Keeps z (noteView stage cls master pa s) := by
  unfold noteView
  with_reducible repeat' first
    | assumption | apply countAcc_keeps | apply noteSector_keeps | fail_if_no_progress refine keepsMk rfl ?_ | refine keepsIte ?_ ?_

theorem noteRow_keeps (n g : Nat) (stage : Option Nat) (j : SampleJob) (l : List Nat) (s : State) {z : State} (hz : Keeps z s) : Keeps z (noteRow n g stage j l s) := by
  unfold noteRow
  with_reducible repeat' first
    | assumption | apply noteView_keeps | refine keepsFold _ (fun _ _ _ => ?_) _ ?_

theorem execLpddrRequest_keeps (m : Nat) (write : Bool) (master y slot : Nat) (data : BitVec 512) (poison : Bool) (s : State) {z : State} (hz : Keeps z s) : OutKeeps z (execLpddrRequest m write master y slot data poison s) := by
  unfold execLpddrRequest
  with_reducible repeat' first
    | assumption | refine outEvt ?_ ?_ | refine outNext ?_ | refine outIte ?_ ?_ | apply keepsId | apply setStack_keeps | apply lpIssue_keeps
    | apply write_keeps | apply burstWrite_keeps | apply lpLost_keeps | fail_if_no_progress refine keepsMk rfl ?_ | refine keepsIte ?_ ?_

theorem sampleWire_keeps (q : Nat) (levels : List (Nat × Bool × Nat × Nat)) (s : State) (master : Nat) {z : State} (hz : Keeps z s) : Keeps z (sampleWire q levels s master) := by
  unfold sampleWire
  with_reducible repeat' first
    | assumption | fail_if_no_progress refine keepsMk rfl ?_

theorem sampleWires_keeps (q : Nat) (levels : List (Nat × Bool × Nat × Nat)) (s : State) {z : State} (hz : Keeps z s) : Keeps z (sampleWires q levels s) := by
  unfold sampleWires
  with_reducible repeat' first
    | assumption | apply sampleWire_keeps | refine keepsFold _ (fun _ _ _ => ?_) _ ?_

theorem lpWritten_keeps (m : Nat) (s : State) (r : MReq) {z : State} (hz : Keeps z s) : Keeps z (lpWritten m s r) := by
  unfold lpWritten
  with_reducible repeat' first
    | assumption | apply bump_keeps | apply lpStore_keeps | apply lpDrop_keeps | apply lpGive_keeps | refine keepsFold _ (fun _ _ _ => ?_) _ ?_

theorem writesDone_keeps (m ch : Nat) (s : State) {z : State} (hz : Keeps z s) : Keeps z (writesDone m ch s) := by
  unfold writesDone
  with_reducible repeat' first
    | assumption | apply keepsId | apply write_keeps | apply lpWritten_keeps | refine keepsFold _ (fun _ _ _ => ?_) _ ?_

theorem issueReq_keeps (m ch : Nat) (r : MReq) (ctr : Option Nat) (s : State) {z : State} (hz : Keeps z s) : Keeps z (issueReq m ch r ctr s) := by
  unfold issueReq
  with_reducible repeat' first
    | assumption | apply keepsId | apply setStack_keeps | apply bump_keeps | fail_if_no_progress refine keepsMk rfl ?_ | refine keepsIte ?_ ?_
    | dsimp only | split

theorem refreshBank_keeps (m ch bank n : Nat) (left : Int) (s : State) {z : State} (hz : Keeps z s) : Keeps z (refreshBank m ch bank n left s) := by
  unfold refreshBank
  with_reducible repeat' first
    | assumption | apply setStack_keeps | apply bump_keeps

theorem slotServe_keeps (m ch : Nat) (s : State) {z : State} (hz : Keeps z s) : Keeps z (slotServe m ch s) := by
  unfold slotServe
  with_reducible repeat' first
    | assumption | apply issueReq_keeps | apply refreshBank_keeps | fail_if_no_progress refine keepsMk rfl ?_ | dsimp only | split

theorem execChannelSlot_keeps (m : Nat) (slot : Nat × List (Nat × Bool × Nat × Nat)) (s : State) {z : State} (hz : Keeps z s) : OutKeeps z (execChannelSlot m slot s) := by
  unfold execChannelSlot
  with_reducible repeat' first
    | assumption | refine outEvt ?_ ?_ | refine outNext ?_ | apply setStack_keeps | apply portDrain_keeps | apply sampleWires_keeps
    | apply writesDone_keeps | apply slotServe_keeps

theorem execRefreshDue_keeps (m ch bank : Nat) (s : State) {z : State} (hz : Keeps z s) : OutKeeps z (execRefreshDue m ch bank s) := by
  unfold execRefreshDue
  with_reducible repeat' first
    | assumption | refine outEvt ?_ ?_ | refine outNext ?_ | refine outIte ?_ ?_ | apply setStack_keeps | apply refreshBank_keeps
    | fail_if_no_progress refine keepsMk rfl ?_ | refine keepsIte ?_ ?_

theorem refreshFallback_keeps (m die : Nat) (s : State) {z : State} (hz : Keeps z s) : Keeps z (refreshFallback m die s) := by
  unfold refreshFallback
  with_reducible repeat' first
    | assumption | apply setStack_keeps | apply alarmW_keeps

theorem execRefreshRatePoll_keeps (m die : Nat) (rate : Option Nat) (s : State) {z : State} (hz : Keeps z s) : OutKeeps z (execRefreshRatePoll m die rate s) := by
  unfold execRefreshRatePoll
  with_reducible repeat' first
    | assumption | refine outEvt ?_ ?_ | refine outNext ?_ | refine outIte ?_ ?_ | apply setStack_keeps | apply refreshFallback_keeps
    | fail_if_no_progress refine keepsMk rfl ?_ | refine keepsIte ?_ ?_ | dsimp only | split

theorem execRefreshRateTimeout_keeps (m die : Nat) (s : State) {z : State} (hz : Keeps z s) : OutKeeps z (execRefreshRateTimeout m die s) := by
  unfold execRefreshRateTimeout
  with_reducible repeat' first
    | assumption | refine outEvt ?_ ?_ | refine outNext ?_ | refine outIte ?_ ?_ | apply refreshFallback_keeps

theorem execUrgencyWireTimeout_keeps (q master : Nat) (s : State) {z : State} (hz : Keeps z s) : OutKeeps z (execUrgencyWireTimeout q master s) := by
  unfold execUrgencyWireTimeout
  with_reducible repeat' first
    | assumption | refine outEvt ?_ ?_ | refine outNext ?_ | apply alarmW_keeps | fail_if_no_progress refine keepsMk rfl ?_

theorem execChannelTimingAdjust_keeps (m ch : Nat) (s : State) {z : State} (hz : Keeps z s) : OutKeeps z (execChannelTimingAdjust m ch s) := by
  unfold execChannelTimingAdjust
  with_reducible repeat' first
    | assumption | refine outEvt ?_ ?_ | refine outNext ?_ | refine outIte ?_ ?_ | apply setStack_keeps

theorem lpFlip_keeps (pa left : Nat) (s : State) {z : State} (hz : Keeps z s) : Keeps z (lpFlip pa left s) := by
  unfold lpFlip
  dsimp only
  split
  · exact hz
  · exact lpStore_keeps _ _ _ hz

theorem lpRepair_keeps (m y : Nat) (s : State) {z : State} (hz : Keeps z s) : Keeps z (lpRepair m y s) := by
  unfold lpRepair
  with_reducible repeat' first
    | assumption | apply setStack_keeps | apply bump_keeps | fail_if_no_progress refine keepsMk rfl ?_ | refine keepsIte ?_ ?_

theorem lpCe_keeps (m y finder bits_ : Nat) (s : State) {z : State} (hz : Keeps z s) : Keeps z (lpCe m y finder bits_ s) := by
  unfold lpCe
  with_reducible repeat' first
    | assumption | apply setStack_keeps | apply reportCe_keeps

theorem lpUe_keeps (m y finder : Nat) (s : State) {z : State} (hz : Keeps z s) : Keeps z (lpUe m y finder s) := by
  unfold lpUe
  with_reducible repeat' first
    | assumption | apply setStack_keeps | apply alarmW_keeps | apply reportUe_keeps | fail_if_no_progress refine keepsMk rfl ?_
    | refine keepsIte ?_ ?_

theorem execLpddrReadReturn_keeps (m id : Nat) (err : BitVec 576) (s : State) {z : State} (hz : Keeps z s) : OutKeeps z (execLpddrReadReturn m id err s) := by
  unfold execLpddrReadReturn
  with_reducible repeat' first
    | assumption | refine outEvt ?_ ?_ | refine outNext ?_ | refine outIte ?_ ?_ | apply keepsId | apply write_keeps | apply lpGive_keeps
    | apply portDrain_keeps | apply lpFlip_keeps | apply lpRepair_keeps | apply lpCe_keeps | apply lpUe_keeps
    | fail_if_no_progress refine keepsMk rfl ?_ | refine keepsIte ?_ ?_ | dsimp only | split

theorem execCrcRetry_keeps (m : Nat) (burst : Nat × BitVec 576) (s : State) {z : State} (hz : Keeps z s) : OutKeeps z (execCrcRetry m burst s) := by
  unfold execCrcRetry
  with_reducible repeat' first
    | assumption | refine outEvt ?_ ?_ | refine outNext ?_ | refine outIte ?_ ?_ | apply keepsId | apply setStack_keeps | apply bump_keeps
    | refine keepsSnd ‹_› ?_ | fail_if_no_progress refine keepsMk rfl ?_ | refine keepsIte ?_ ?_ | dsimp only | split

theorem execChannelRetrain_keeps (m ch : Nat) (s : State) {z : State} (hz : Keeps z s) : OutKeeps z (execChannelRetrain m ch s) := by
  unfold execChannelRetrain
  with_reducible repeat' first
    | assumption | refine outEvt ?_ ?_ | refine outNext ?_ | refine outIte ?_ ?_ | apply setStack_keeps

theorem execChannelRetrainDone_keeps (m ch : Nat) (ok : Bool) (s : State) {z : State} (hz : Keeps z s) : OutKeeps z (execChannelRetrainDone m ch ok s) := by
  unfold execChannelRetrainDone
  with_reducible repeat' first
    | assumption | refine outEvt ?_ ?_ | refine outNext ?_ | refine outIte ?_ ?_ | apply setStack_keeps | apply chanFail_keeps
    | fail_if_no_progress refine keepsMk rfl ?_ | refine keepsIte ?_ ?_

theorem execLpddrRequestTimeout_keeps (m id : Nat) (s : State) {z : State} (hz : Keeps z s) : OutKeeps z (execLpddrRequestTimeout m id s) := by
  unfold execLpddrRequestTimeout
  with_reducible repeat' first
    | assumption | refine outEvt ?_ ?_ | refine outNext ?_ | apply keepsId | apply setStack_keeps | apply alarmW_keeps | apply lpLost_keeps
    | fail_if_no_progress refine keepsMk rfl ?_ | refine keepsIte ?_ ?_ | dsimp only | split

/-! ## Integrity -/

theorem gleanReport_keeps (h way set pa : Nat) (e : Nat × Decoded) (s : State) {z : State} (hz : Keeps z s) : Keeps z (gleanReport h way set pa e s) := by
  unfold gleanReport
  with_reducible repeat' first
    | assumption | apply grnCe_keeps | apply reportWords_keeps | fail_if_no_progress refine keepsMk rfl ?_ | refine keepsIte ?_ ?_ | dsimp only
    | split

theorem gleanLine_keeps (h : Nat) (l : Line) (i err : Nat) (s : State) {z : State} (hz : Keeps z s) : Keeps z (gleanLine h l i err s) := by
  unfold gleanLine
  with_reducible repeat' first
    | assumption | apply setHalf_keeps | apply useWay_keeps | apply reportRefetch_keeps | apply gleanReport_keeps
    | refine keepsFold _ (fun _ _ _ => ?_) _ ?_ | refine keepsSnd ‹_› ?_ | fail_if_no_progress refine keepsMk rfl ?_ | refine keepsIte ?_ ?_

theorem gleanPlot_keeps (h pa off err : Nat) (s : State) {z : State} (hz : Keeps z s) : Keeps z (gleanPlot h pa off err s) := by
  unfold gleanPlot
  with_reducible repeat' first
    | assumption | apply gleanReport_keeps | apply useWay_keeps | exact fun _ => by decide | exact fun _ => BitVec.isLt _
    | exact fun h => tset_rising _ _ _ _ (tset_rising _ _ _ _ h) | exact tRising_tdel _ _
    | exact fun h => stWrite_wf _ _ _ _ _ (stWrite_wf _ _ _ _ _ h) | exact fun h => h | exact mwrite_wf _ _ _ | exact filter_wf _ _
    | exact stWrite_wf _ _ _ _ _ | exact stClear_wf _ _ _ _ | refine keepsIte ?_ ?_ | dsimp only | fail_if_no_progress refine keepsMk rfl ?_ | split
    | refine keepsPlots _ _ ?_ ?_

theorem gleanWord_keeps (h err : Nat) (w : GWord) (s : State) {z : State} (hz : Keeps z s) : Keeps z (gleanWord h err w s) := by
  unfold gleanWord
  with_reducible repeat' first
    | assumption | apply grnState_keeps | apply tagRead_keeps | apply gleanLine_keeps | apply gleanPlot_keeps
    | fail_if_no_progress refine keepsMk rfl ?_ | refine keepsIte ?_ ?_ | dsimp only | split

theorem walkHalf_keeps (h err : Nat) (s : State) {z : State} (hz : Keeps z s) : Keeps z (walkHalf h err s) := by
  unfold walkHalf
  with_reducible repeat' first
    | assumption | apply setHalf_keeps | apply bump_keeps | apply gleanWord_keeps | refine keepsSnd ‹_› ?_ | fail_if_no_progress refine keepsMk rfl ?_
    | refine keepsIte ?_ ?_ | dsimp only | split

theorem repairHalf_keeps (h err : Nat) (s : State) {z : State} (hz : Keeps z s) : Keeps z (repairHalf h err s) := by
  unfold repairHalf
  with_reducible repeat' first
    | assumption | apply setHalf_keeps | apply gleanWord_keeps | fail_if_no_progress refine keepsMk rfl ?_ | refine keepsIte ?_ ?_ | dsimp only
    | split

theorem gleanTilth_keeps (n word err : Nat) (s : State) {z : State} (hz : Keeps z s) : Keeps z (gleanTilth n word err s) :=
  readTilth_keeps n word 1 _ _ (tilState_keeps _ _ _ _ hz)

theorem walkTilth_keeps (n err : Nat) (s : State) {z : State} (hz : Keeps z s) : Keeps z (walkTilth n err s) := by
  unfold walkTilth
  with_reducible repeat' first
    | assumption | apply setCore_keeps | apply bump_keeps | apply readCached_keeps | apply gleanTilth_keeps
    | fail_if_no_progress refine keepsMk rfl ?_ | dsimp only | split

theorem repairTilth_keeps (n err : Nat) (s : State) {z : State} (hz : Keeps z s) : Keeps z (repairTilth n err s) := by
  unfold repairTilth
  with_reducible repeat' first
    | assumption | apply setCore_keeps | apply readCached_keeps | apply gleanTilth_keeps | fail_if_no_progress refine keepsMk rfl ?_
    | refine keepsIte ?_ ?_ | dsimp only | split

theorem lpRewritten_keeps (m : Nat) (s : State) {z : State} (hz : Keeps z s) : Keeps z (lpRewritten m s) := by
  unfold lpRewritten
  with_reducible repeat' first
    | assumption | apply bump_keeps

theorem lpPoison_keeps (y m : Nat) (s : State) {z : State} (hz : Keeps z s) : Keeps z (lpPoison y m s) := by
  unfold lpPoison
  exact lpRewritten_keeps _ _ (lpStore_keeps _ _ _ hz)

theorem gleanBurst_keeps (m y err : Nat) (repair : Bool) (s : State) {z : State} (hz : Keeps z s) : Keeps z (gleanBurst m y err repair s) := by
  unfold gleanBurst
  with_reducible repeat' first
    | assumption | apply bump_keeps | apply lpFlip_keeps | apply lpRepair_keeps | apply lpCe_keeps | apply lpUe_keeps | apply lpRewritten_keeps
    | apply lpPoison_keeps | fail_if_no_progress refine keepsMk rfl ?_ | refine keepsIte ?_ ?_ | dsimp only | split

theorem walkStack_keeps (m err : Nat) (s : State) {z : State} (hz : Keeps z s) : Keeps z (walkStack m err s) := by
  unfold walkStack
  with_reducible repeat' first
    | assumption | apply setStack_keeps | apply gleanBurst_keeps | fail_if_no_progress refine keepsMk rfl ?_ | refine keepsIte ?_ ?_

theorem repairStack_keeps (m err : Nat) (s : State) {z : State} (hz : Keeps z s) : Keeps z (repairStack m err s) := by
  unfold repairStack
  with_reducible repeat' first
    | assumption | apply setStack_keeps | apply gleanBurst_keeps | fail_if_no_progress refine keepsMk rfl ?_ | refine keepsIte ?_ ?_ | dsimp only
    | split

theorem execWalkerRead_keeps (kind unit : Nat) (err : BitVec 576) (s : State) {z : State} (hz : Keeps z s) : OutKeeps z (execWalkerRead kind unit err s) := by
  unfold execWalkerRead
  with_reducible repeat' first
    | assumption | refine outEvt ?_ ?_ | refine outNext ?_ | apply walkHalf_keeps | apply walkTilth_keeps | apply walkStack_keeps
    | fail_if_no_progress refine keepsMk rfl ?_ | refine keepsIte ?_ ?_ | dsimp only | split

theorem execRepairRewrite_keeps (kind unit : Nat) (err : BitVec 576) (s : State) {z : State} (hz : Keeps z s) : OutKeeps z (execRepairRewrite kind unit err s) := by
  unfold execRepairRewrite
  with_reducible repeat' first
    | assumption | refine outEvt ?_ ?_ | refine outNext ?_ | apply repairHalf_keeps | apply repairTilth_keeps | apply repairStack_keeps
    | fail_if_no_progress refine keepsMk rfl ?_ | refine keepsIte ?_ ?_ | dsimp only | split

theorem bootStop_keeps (code : Nat) (s : State) {z : State} (hz : Keeps z s) : Keeps z (bootStop code s) := by
  unfold bootStop
  with_reducible repeat' first
    | assumption | fail_if_no_progress refine keepsMk rfl ?_

theorem checkerFail_keeps (kind unit : Nat) (s : State) {z : State} (hz : Keeps z s) : Keeps z (checkerFail kind unit s) := by
  unfold checkerFail
  with_reducible repeat' first
    | assumption | apply fenceCore_keeps | apply fenceQuarter_keeps | apply stackFail_keeps | apply bootStop_keeps
    | fail_if_no_progress refine keepsMk rfl ?_ | refine keepsIte ?_ ?_ | dsimp only | split

theorem execCheckerSelfTest_keeps (kind unit : Nat) (pass : Bool) (s : State) {z : State} (hz : Keeps z s) : OutKeeps z (execCheckerSelfTest kind unit pass s) := by
  unfold execCheckerSelfTest
  with_reducible repeat' first
    | assumption | refine outEvt ?_ ?_ | refine outNext ?_ | refine outIte ?_ ?_ | apply alarmW_keeps | apply errRec_keeps | apply checkerFail_keeps
    | fail_if_no_progress refine keepsMk rfl ?_ | refine keepsIte ?_ ?_

theorem mapFail_keeps (unit : Nat) (s : State) {z : State} (hz : Keeps z s) : Keeps z (mapFail unit s) := by
  unfold mapFail
  with_reducible repeat' first
    | assumption | apply alarmW_keeps | apply fenceCore_keeps | apply errRec_keeps | apply fenceQuarter_keeps
    | fail_if_no_progress refine keepsMk rfl ?_ | refine keepsIte ?_ ?_

theorem fusesIn_keeps (s : State) {z : State} (hz : Keeps z s) : Keeps z (fusesIn s) := by
  unfold fusesIn
  with_reducible repeat' first
    | assumption | apply bootStop_keeps | fail_if_no_progress refine keepsMk rfl ?_ | refine keepsIte ?_ ?_

theorem execFuseLoad_keeps (unit : Nat) (a b d : List Byte) (s : State) {z : State} (hz : Keeps z s) : OutKeeps z (execFuseLoad unit a b d s) := by
  unfold execFuseLoad
  with_reducible repeat' first
    | assumption | refine outEvt ?_ ?_ | refine outNext ?_ | refine outIte ?_ ?_ | apply alarmW_keeps | apply bootStop_keeps | apply mapFail_keeps
    | apply fusesIn_keeps | fail_if_no_progress refine keepsMk rfl ?_ | refine keepsIte ?_ ?_

end Sys2Proof.Machine
end

