-- ==== Sys2Proof/Laws/KeepsControl.lean ====
section
/-! SUPPORT. One lemma for each operation and each command: what sheaf control, the sampler, power, Pelseso and the tally keep (Safety.Keeps): the queue of waiting commands, fuses that are only blown,
the ranges of their counts, the time base, the canonical form. -/
namespace Sys2Proof.Machine

/-! ## SheafCtl -/

theorem braBody_keeps (v : Env) (s : State) {z : State} (hz : Keeps z s) : ResKeeps z (braBody v s) := by
  unfold braBody
  with_reducible repeat' first
    | assumption | refine resGo ?_ | exact resFault | exact resWait | refine resIte ?_ ?_ | apply put_keeps

theorem callBody_keeps (v : Env) (s : State) {z : State} (hz : Keeps z s) : ResKeeps z (callBody v s) := by
  unfold callBody
  with_reducible repeat' first
    | assumption | refine resGo ?_ | exact resFault | exact resWait | refine resIte ?_ ?_ | apply write_keeps

theorem pairJump_keeps (sp : Nat) (v : Env) (s : State) {z : State} (hz : Keeps z s) : ResKeeps z (pairJump sp v s) := by
  unfold pairJump
  with_reducible repeat' first
    | assumption | refine resGo ?_ | exact resFault | exact resWait | refine resIte ?_ ?_

theorem exitBody_keeps (v : Env) (s : State) {z : State} (hz : Keeps z s) : ResKeeps z (exitBody v s) := by
  unfold exitBody
  with_reducible repeat' first
    | assumption | refine resGo ?_ | exact resFault | exact resWait | refine resIte ?_ ?_ | apply put_keeps

theorem barBody_keeps (v : Env) (s : State) {z : State} (hz : Keeps z s) : ResKeeps z (barBody v s) := by
  unfold barBody
  with_reducible repeat' first
    | assumption | refine resGo ?_ | exact resFault | exact resWait | refine resIte ?_ ?_ | apply setCore_keeps | apply advance_keeps
    | apply put_keeps

theorem flagDeliver_keeps (x : W32) (s : State) (w : FlagWait) {z : State} (hz : Keeps z s) : Keeps z (flagDeliver x s w) := by
  unfold flagDeliver
  with_reducible repeat' first
    | assumption | apply setSheaf_keeps | fail_if_no_progress refine keepsMk rfl ?_ | refine keepsIte ?_ ?_ | dsimp only | split

theorem flagUpdate_keeps (q i : Nat) (g : W32 → W32) (s : State) {z : State} (hz : Keeps z s) : Keeps z (flagUpdate q i g s) := by
  unfold flagUpdate
  with_reducible repeat' first
    | assumption | apply setFlagStore_keeps | apply flagDeliver_keeps | refine keepsFold _ (fun _ _ _ => ?_) _ ?_

theorem flagBody_keeps (add : Bool) (v : Env) (s : State) {z : State} (hz : Keeps z s) : ResKeeps z (flagBody add v s) := by
  unfold flagBody
  with_reducible repeat' first
    | assumption | refine resGo ?_ | exact resFault | exact resWait | refine resIte ?_ ?_ | apply flagUpdate_keeps

theorem flagWaitBody_keeps (v : Env) (s : State) {z : State} (hz : Keeps z s) : ResKeeps z (flagWaitBody v s) := by
  unfold flagWaitBody
  with_reducible repeat' first
    | assumption | refine resGo ?_ | exact resFault | exact resWait | refine resIte ?_ ?_ | apply setFlagStore_keeps | apply put_keeps
    | apply write_keeps

theorem fenceBody_keeps (v : Env) (s : State) {z : State} (hz : Keeps z s) : ResKeeps z (fenceBody v s) := by
  unfold fenceBody
  with_reducible repeat' first
    | assumption | refine resGo ?_ | exact resFault | exact resWait | refine resIte ?_ ?_ | apply invalAll_keeps

theorem invalBody_keeps (v : Env) (s : State) {z : State} (hz : Keeps z s) : ResKeeps z (invalBody v s) := by
  unfold invalBody
  with_reducible repeat' first
    | assumption | refine resGo ?_ | exact resFault | exact resWait | refine resIte ?_ ?_ | apply setCore_keeps | apply invalAll_keeps

theorem rndLanes_keeps (v : Env) (nb : Nat) (x0 : List Nat) (s : State) {z : State} (hz : Keeps z s) : Keeps z (rndLanes v nb x0 s).2 := by
  induction x0 generalizing s with
  | nil => exact hz
  | cons a t ih =>
    unfold rndLanes
    with_reducible repeat' first
      | assumption | cases ‹a :: t = _› | apply ih | refine keepsSnd ‹_› ?_ | apply drawStream_keeps

theorem rndBody_keeps (flt : Bool) (v : Env) (s : State) {z : State} (hz : Keeps z s) : ResKeeps z (rndBody flt v s) := by
  unfold rndBody
  with_reducible repeat' first
    | assumption | refine resGo ?_ | exact resFault | exact resWait | refine resIte ?_ ?_ | apply write_keeps | apply rndLanes_keeps

theorem sampleBody_keeps (v : Env) (s : State) {z : State} (hz : Keeps z s) : ResKeeps z (sampleBody v s) := by
  unfold sampleBody
  with_reducible repeat' first
    | assumption | refine resGo ?_ | exact resFault | exact resWait | refine resIte ?_ ?_ | apply setCore_keeps | apply setSheaf_keeps
    | fail_if_no_progress refine keepsMk rfl ?_ | refine keepsIte ?_ ?_ | dsimp only | split

theorem roleBody_keeps (v : Env) (s : State) {z : State} (hz : Keeps z s) : ResKeeps z (roleBody v s) := by
  unfold roleBody
  with_reducible repeat' first
    | assumption | refine resGo ?_ | exact resFault | exact resWait | refine resIte ?_ ?_ | apply write_keeps

theorem startStook_keeps (n launch idx st base : Nat) (slots : List Nat) (r : Run) (s : State) {z : State} (hz : Keeps z s) : Keeps z (startStook n launch idx st base slots r s) := by
  unfold startStook
  with_reducible repeat' first
    | assumption | apply setCore_keeps | apply modRun_keeps | apply clearScratch_keeps

theorem execStookStart_keeps (q c : Nat) (s : State) {z : State} (hz : Keeps z s) : OutKeeps z (execStookStart q c s) := by
  unfold execStookStart
  with_reducible repeat' first
    | assumption | refine outEvt ?_ ?_ | refine outNext ?_ | refine outIte ?_ ?_ | apply startStook_keeps | fail_if_no_progress refine keepsMk rfl ?_
    | refine keepsIte ?_ ?_ | dsimp only | split

theorem execStookEnd_keeps (q c st : Nat) (s : State) {z : State} (hz : Keeps z s) : OutKeeps z (execStookEnd q c st s) := by
  unfold execStookEnd
  with_reducible repeat' first
    | assumption | refine outEvt ?_ ?_ | refine outNext ?_ | refine outIte ?_ ?_ | apply signal_keeps | apply freeStook_keeps
    | fail_if_no_progress refine keepsMk rfl ?_ | refine keepsIte ?_ ?_ | dsimp only | split

theorem markThreads_keeps (n launch : Nat) (lanes : List Nat) (s : State) {z : State} (hz : Keeps z s) : Keeps z (markThreads n launch lanes s) := by
  unfold markThreads
  with_reducible repeat' first
    | assumption | apply modRun_keeps | refine keepsFold _ (fun _ _ _ => ?_) _ ?_

theorem replay_keeps (n sl : Nat) (s : State) {z : State} (hz : Keeps z s) : Keeps z (replay n sl s) := by
  unfold replay
  with_reducible repeat' first
    | assumption | apply setCore_keeps

theorem zeroPoison_keeps (n sl launch : Nat) (r : FaultRec) (s : State) {z : State} (hz : Keeps z s) : Keeps z (zeroPoison n sl launch r s) := by
  unfold zeroPoison
  with_reducible repeat' first
    | assumption | apply setSheaf_keeps | apply advance_keeps | apply markThreads_keeps | apply replay_keeps | apply keepsId
    | fail_if_no_progress refine keepsMk rfl ?_ | refine keepsIte ?_ ?_ | dsimp only | split

theorem resolveFault_keeps (n sl : Nat) (t : Stook) (r : FaultRec) (run : Run) (s : State) {z : State} (hz : Keeps z s) : Keeps z (resolveFault n sl t r run s) := by
  unfold resolveFault
  with_reducible repeat' first
    | assumption | apply killStook_keeps | apply abandonRun_keeps | apply replay_keeps | apply zeroPoison_keeps
    | fail_if_no_progress refine keepsMk rfl ?_ | refine keepsIte ?_ ?_ | dsimp only | split

theorem execFaultResolve_keeps (q c sl : Nat) (s : State) {z : State} (hz : Keeps z s) : OutKeeps z (execFaultResolve q c sl s) := by
  unfold execFaultResolve
  with_reducible repeat' first
    | assumption | refine outEvt ?_ ?_ | refine outNext ?_ | apply setCore_keeps | apply logFault_keeps | apply resolveFault_keeps
    | refine keepsSnd ‹_› ?_ | fail_if_no_progress refine keepsMk rfl ?_ | refine keepsIte ?_ ?_ | dsimp only | split

theorem dogSheaf_keeps (n : Nat) (g : Nat) (s : State) (sl : Nat) {z : State} (hz : Keeps z s) : Keeps z (dogSheaf n g s sl) := by
  unfold dogSheaf
  with_reducible repeat' first
    | assumption | apply setSheaf_keeps | apply raiseFault_keeps | fail_if_no_progress refine keepsMk rfl ?_ | refine keepsIte ?_ ?_

theorem execStookWatchdog_keeps (q c st : Nat) (s : State) {z : State} (hz : Keeps z s) : OutKeeps z (execStookWatchdog q c st s) := by
  unfold execStookWatchdog
  with_reducible repeat' first
    | assumption | refine outEvt ?_ ?_ | refine outNext ?_ | refine outIte ?_ ?_ | apply killStook_keeps
    | apply dogSheaf_keeps | refine keepsFold _ (fun _ _ _ => ?_) _ ?_ | fail_if_no_progress refine keepsMk rfl ?_ | refine keepsIte ?_ ?_
    | dsimp only | split

/-! ## Sampler -/

theorem sampleDraw_keeps (s : State) (n launch : Nat) (d : List Byte) (ctr : W64) (scores : List Num) {z : State} (hz : Keeps z s) :
    Keeps z (sampleDraw s n launch d ctr scores).2 := by
  unfold sampleDraw
  with_reducible repeat' first
    | assumption | apply drawStream_keeps | refine keepsThd ‹_› ?_ | refine keepsIte ?_ ?_ | dsimp only
    | split

theorem sampleRun_keeps {s : State} {n launch : Nat} {r : Run} {base : Nat} {j : SampleJob} {x : SampleEnd × State}
    (h : sampleRun s n launch r base j = .ok x) {z : State} (hz : Keeps z s) : Keeps z x.2 := by
  unfold sampleRun at h
  dsimp only at h
  split at h
  · cases h; exact hz
  · split at h <;> cases h
    · exact noteRow_keeps _ _ _ _ _ _ (keepsFold _ (fun _ _ _ => logMismatch_keeps _ _ _ ‹_›) _ hz)
    · exact sampleDraw_keeps _ _ _ _ _ _ (noteRow_keeps _ _ _ _ _ _ (keepsFold _ (fun _ _ _ => logMismatch_keeps _ _ _ ‹_›) _ hz))

theorem smpDone_keeps (n launch base : Nat) (j : SampleJob) (x : SampleEnd) (s : State) {z : State} (hz : Keeps z s) : Keeps z (smpDone n launch base j x s) := by
  unfold smpDone
  with_reducible repeat' first
    | assumption | apply setCore_keeps | apply setSheaf_keeps | apply modRun_keeps | apply scrWrite_keeps | fail_if_no_progress refine keepsMk rfl ?_
    | refine keepsIte ?_ ?_

theorem holdRow_keeps (n : Nat) (j : SampleJob) (t : Option W64) (s : State) {z : State} (hz : Keeps z s) : Keeps z (holdRow n j t s) := by
  unfold holdRow
  with_reducible repeat' first
    | assumption | apply setCore_keeps

theorem execSampleService_keeps (q c : Nat) (s : State) {z : State} (hz : Keeps z s) : OutKeeps z (execSampleService q c s) := by
  unfold execSampleService
  with_reducible repeat' first
    | assumption | refine outEvt ?_ ?_ | refine outNext ?_ | apply bump_keeps | apply failRun_keeps | refine sampleRun_keeps ‹_› ?_ | apply smpDone_keeps
    | apply holdRow_keeps | refine keepsSnd ‹_› ?_ | fail_if_no_progress refine keepsMk rfl ?_ | refine keepsIte ?_ ?_ | dsimp only | split

theorem execRowTimeout_keeps (q c : Nat) (s : State) {z : State} (hz : Keeps z s) : OutKeeps z (execRowTimeout q c s) := by
  unfold execRowTimeout
  with_reducible repeat' first
    | assumption | refine outEvt ?_ ?_ | refine outNext ?_ | refine outIte ?_ ?_ | apply smpDone_keeps | fail_if_no_progress refine keepsMk rfl ?_
    | refine keepsIte ?_ ?_ | dsimp only | split

theorem modSeed_keeps (n : Nat) (f : Seedbox → Seedbox) (s : State) {z : State} (hz : Keeps z s) : Keeps z (modSeed n f s) := by
  unfold modSeed
  with_reducible repeat' first
    | assumption | apply setCore_keeps

theorem roundKeyFail_keeps (n : Nat) (s : State) {z : State} (hz : Keeps z s) : Keeps z (roundKeyFail n s) := by
  unfold roundKeyFail
  with_reducible repeat' first
    | assumption | apply setCore_keeps | apply alarmW_keeps | apply syncRoles_keeps | apply resetCore_keeps | apply setPoint_keeps

theorem askRound_keeps (n : Nat) (s : State) {z : State} (hz : Keeps z s) : Keeps z (askRound n s) := by
  unfold askRound
  with_reducible repeat' first
    | assumption | apply setCore_keeps | apply roundKeyFail_keeps | fail_if_no_progress refine keepsMk rfl ?_ | refine keepsIte ?_ ?_

theorem execRoundingKeyFetch_keeps (q c : Nat) (s : State) {z : State} (hz : Keeps z s) : OutKeeps z (execRoundingKeyFetch q c s) := by
  unfold execRoundingKeyFetch
  with_reducible repeat' first
    | assumption | refine outEvt ?_ ?_ | refine outNext ?_ | apply askRound_keeps

theorem enterService_keeps (n : Nat) (s : State) {z : State} (hz : Keeps z s) : Keeps z (enterService n s) := by
  unfold enterService
  with_reducible repeat' first
    | assumption | apply setCore_keeps | apply syncRing_keeps | fail_if_no_progress refine keepsMk rfl ?_ | refine keepsIte ?_ ?_

theorem execKeyDelivery_keeps (q c : Nat) (launch : Option Nat) (s : State) {z : State} (hz : Keeps z s) : OutKeeps z (execKeyDelivery q c launch s) := by
  unfold execKeyDelivery
  with_reducible repeat' first
    | assumption | refine outEvt ?_ ?_ | refine outNext ?_ | refine outIte ?_ ?_ | apply drawEntropy_keeps | refine keepsSnd ‹_› ?_
    | apply modSeed_keeps | apply enterService_keeps | fail_if_no_progress refine keepsMk rfl ?_ | refine keepsIte ?_ ?_ | dsimp only | split

theorem launchKeyFail_keeps (n l : Nat) (s : State) {z : State} (hz : Keeps z s) : Keeps z (launchKeyFail n l s) := by
  unfold launchKeyFail
  with_reducible repeat' first
    | assumption | apply alarmW_keeps | apply failRun_keeps

theorem execKeyRequestTimeout_keeps (q c : Nat) (launch : Option Nat) (s : State) {z : State} (hz : Keeps z s) : OutKeeps z (execKeyRequestTimeout q c launch s) := by
  unfold execKeyRequestTimeout
  with_reducible repeat' first
    | assumption | refine outEvt ?_ ?_ | refine outNext ?_ | refine outIte ?_ ?_ | apply roundKeyFail_keeps | apply launchKeyFail_keeps
    | fail_if_no_progress refine keepsMk rfl ?_ | refine keepsIte ?_ ?_ | dsimp only | split

theorem execRoundingKeyRetry_keeps (q c : Nat) (s : State) {z : State} (hz : Keeps z s) : OutKeeps z (execRoundingKeyRetry q c s) := by
  unfold execRoundingKeyRetry
  with_reducible repeat' first
    | assumption | refine outEvt ?_ ?_ | refine outNext ?_ | apply modSeed_keeps | apply askRound_keeps

theorem failKeys_keeps (s : State) {z : State} (hz : Keeps z s) : Keeps z (failKeys s) := by
  unfold failKeys
  with_reducible repeat' first
    | assumption | apply roundKeyFail_keeps | apply launchKeyFail_keeps | refine keepsFold _ (fun _ _ _ => ?_) _ ?_
    | fail_if_no_progress refine keepsMk rfl ?_ | refine keepsIte ?_ ?_

/-! ## Power -/

theorem coldState_keeps (s : State) {z : State} (hz : Keeps z s) : Keeps z (coldState s) := by
  refine keepsTrans (b := s) ⟨rfl, Fuses.le_of_blown rfl, fun x => ⟨x.svnFloor, x.epochUsed, x.epochSpoiled, x.offset, x.cores⟩, .inr ⟨rfl, rfl⟩, fun x => ?_⟩ hz
  exact (canonSplit _).2 ⟨rfl, rfl, rfl, rfl, rfl, rfl, rfl, rfl, rfl, rfl, rfl, rfl, rfl, rfl, rfl, rfl, rfl, rfl, rfl, rfl⟩

theorem loseModule_keeps (code : Nat) (s : State) {z : State} (hz : Keeps z s) : Keeps z (loseModule code s) := by
  unfold loseModule
  with_reducible repeat' first
    | assumption | apply coldState_keeps | fail_if_no_progress refine keepsMk rfl ?_

theorem sendLast_keeps (s : State) {z : State} (hz : Keeps z s) : Keeps z (sendLast s) := by
  unfold sendLast
  with_reducible repeat' first
    | assumption | apply datagram_keeps | refine keepsSnd ‹_› ?_ | apply mgmtSend_keeps | fail_if_no_progress refine keepsMk rfl ?_
    | refine keepsIte ?_ ?_ | dsimp only | split

theorem takeReports_keeps (l : List (Nat × Nat)) (s : State) {z : State} (hz : Keeps z s) : Keeps z (takeReports l s) := by
  unfold takeReports
  with_reducible repeat' first
    | assumption | refine keepsFold _ (fun _ _ _ => ?_) _ ?_ | fail_if_no_progress refine keepsMk rfl ?_

theorem takeInput_keeps (current : Nat) (s : State) {z : State} (hz : Keeps z s) : Keeps z (takeInput current s) := by
  unfold takeInput
  with_reducible repeat' first
    | assumption | fail_if_no_progress refine keepsMk rfl ?_

theorem inputAct_keeps (s : State) {z : State} (hz : Keeps z s) : Keeps z (inputAct s) := by
  unfold inputAct
  with_reducible repeat' first
    | assumption | apply alarmW_keeps | apply loseModule_keeps | apply sendLast_keeps | fail_if_no_progress refine keepsMk rfl ?_
    | refine keepsIte ?_ ?_ | dsimp only | split

theorem execInputVoltageSample_keeps (reports : List (Nat × Nat)) (current : Nat) (s : State) {z : State} (hz : Keeps z s) : OutKeeps z (execInputVoltageSample reports current s) := by
  unfold execInputVoltageSample
  with_reducible repeat' first
    | assumption | refine outEvt ?_ ?_ | refine outNext ?_ | refine outIte ?_ ?_ | apply takeReports_keeps | apply takeInput_keeps
    | apply inputAct_keeps | fail_if_no_progress refine keepsMk rfl ?_ | refine keepsIte ?_ ?_

theorem execInputRestored_keeps (s : State) {z : State} (hz : Keeps z s) : OutKeeps z (execInputRestored s) := by
  unfold execInputRestored
  with_reducible repeat' first
    | assumption | refine outEvt ?_ ?_ | refine outNext ?_ | refine outIte ?_ ?_ | fail_if_no_progress refine keepsMk rfl ?_ | refine keepsIte ?_ ?_

theorem execPowerGood_keeps (buses : List Nat) (s : State) {z : State} (hz : Keeps z s) : OutKeeps z (execPowerGood buses s) := by
  unfold execPowerGood
  with_reducible repeat' first
    | assumption | refine outEvt ?_ ?_ | refine outNext ?_ | refine outIte ?_ ?_ | apply coldState_keeps | fail_if_no_progress refine keepsMk rfl ?_

theorem execAuxiliarySupplyChange_keeps (mv : Nat) (s : State) {z : State} (hz : Keeps z s) : OutKeeps z (execAuxiliarySupplyChange mv s) := by
  unfold execAuxiliarySupplyChange
  with_reducible repeat' first
    | assumption | refine outEvt ?_ ?_ | refine outNext ?_ | refine outIte ?_ ?_ | exact fun _ => by decide | exact fun _ => BitVec.isLt _
    | exact fun h => tset_rising _ _ _ _ (tset_rising _ _ _ _ h) | exact tRising_tdel _ _
    | exact fun h => stWrite_wf _ _ _ _ _ (stWrite_wf _ _ _ _ _ h) | exact fun h => h | exact mwrite_wf _ _ _ | exact filter_wf _ _
    | exact stWrite_wf _ _ _ _ _ | exact stClear_wf _ _ _ _ | refine keepsIte ?_ ?_ | dsimp only | fail_if_no_progress refine keepsMk rfl ?_ | split
    | refine keepsIdst _ _ _ _ ?_ rfl ?_

theorem quarterRailsOff_keeps (q : Nat) (s : State) {z : State} (hz : Keeps z s) : Keeps z (quarterRailsOff q s) := by
  unfold quarterRailsOff
  with_reducible repeat' first
    | assumption | apply setQuarter_keeps | apply fenceQuarter_keeps | apply stackFail_keeps | refine keepsFold _ (fun _ _ _ => ?_) _ ?_

theorem busAct_keeps (b : Nat) (s : State) {z : State} (hz : Keeps z s) : Keeps z (busAct b s) := by
  unfold busAct
  with_reducible repeat' first
    | assumption | apply alarmW_keeps | apply quarterFault_keeps | apply loseModule_keeps | apply quarterRailsOff_keeps
    | fail_if_no_progress refine keepsMk rfl ?_ | refine keepsIte ?_ ?_

theorem execConverterFail_keeps (sc : Nat) (s : State) {z : State} (hz : Keeps z s) : OutKeeps z (execConverterFail sc s) := by
  unfold execConverterFail
  with_reducible repeat' first
    | assumption | refine outEvt ?_ ?_ | refine outNext ?_ | apply bump_keeps | apply alarmW_keeps | apply busAct_keeps
    | fail_if_no_progress refine keepsMk rfl ?_

theorem quarterCapAdjust_keeps (q ma : Nat) (s : State) {z : State} (hz : Keeps z s) : Keeps z (quarterCapAdjust q ma s) := by
  unfold quarterCapAdjust
  with_reducible repeat' first
    | assumption | fail_if_no_progress refine keepsMk rfl ?_ | refine keepsIte ?_ ?_

theorem execDomainCapAdjust_keeps (q d ma : Nat) (s : State) {z : State} (hz : Keeps z s) : OutKeeps z (execDomainCapAdjust q d ma s) := by
  unfold execDomainCapAdjust
  with_reducible repeat' first
    | assumption | refine outEvt ?_ ?_ | refine outNext ?_ | refine outIte ?_ ?_ | apply setDomain_keeps | apply quarterCapAdjust_keeps
    | fail_if_no_progress refine keepsMk rfl ?_ | refine keepsIte ?_ ?_

theorem setPoints_keeps (s : State) {z : State} (hz : Keeps z s) : Keeps z (setPoints s) := by
  unfold setPoints
  with_reducible repeat' first
    | assumption | apply setPoint_keeps | refine keepsFold _ (fun _ _ _ => ?_) _ ?_

theorem quarterRails_keeps (q : Nat) (s : State) {z : State} (hz : Keeps z s) : Keeps z (quarterRails q s) := by
  unfold quarterRails
  with_reducible repeat' first
    | assumption | apply setDomain_keeps | refine keepsFold _ (fun _ _ _ => ?_) _ ?_

theorem execDroopSensorReading_keeps (q d sensor mv : Nat) (s : State) {z : State} (hz : Keeps z s) : OutKeeps z (execDroopSensorReading q d sensor mv s) := by
  unfold execDroopSensorReading
  with_reducible repeat' first
    | assumption | refine outEvt ?_ ?_ | refine outNext ?_ | refine outIte ?_ ?_ | apply setDomain_keeps

theorem execTinMinvStampRead_keeps (q d : Nat) (s : State) {z : State} (hz : Keeps z s) : OutKeeps z (execTinMinvStampRead q d s) := by
  unfold execTinMinvStampRead
  with_reducible repeat' first
    | assumption | refine outEvt ?_ ?_ | refine outNext ?_ | refine outIte ?_ ?_ | apply setDomain_keeps | fail_if_no_progress refine keepsMk rfl ?_

theorem account_keeps (power : Nat) (s : State) {z : State} (hz : Keeps z s) : Keeps z (account power s) := by
  unfold account
  with_reducible repeat' first
    | assumption | apply bump_keeps | fail_if_no_progress refine keepsMk rfl ?_ | refine keepsIte ?_ ?_

theorem energy_keeps (power ballast : Nat) (s : State) {z : State} (hz : Keeps z s) : Keeps z (energy power ballast s) := by
  unfold energy
  with_reducible repeat' first
    | assumption | apply bumps_keeps | fail_if_no_progress refine keepsMk rfl ?_

theorem pace_keeps (power : Nat) (s : State) {z : State} (hz : Keeps z s) : Keeps z (pace power s) := by
  unfold pace
  with_reducible repeat' first
    | assumption | apply bump_keeps | apply energy_keeps | fail_if_no_progress refine keepsMk rfl ?_ | refine keepsIte ?_ ?_

theorem execPowerManagerTick_keeps (power demand : Nat) (s : State) {z : State} (hz : Keeps z s) : OutKeeps z (execPowerManagerTick power demand s) := by
  unfold execPowerManagerTick tickActed tickBrake tickPace tickAccount
  with_reducible repeat' first
    | assumption | refine outEvt ?_ ?_ | refine outNext ?_ | refine outIte ?_ ?_ | apply bump_keeps | apply account_keeps | apply pace_keeps
    | fail_if_no_progress refine keepsMk rfl ?_ | refine keepsIte ?_ ?_

theorem execOffsetUpdate_keeps (avg : Nat) (s : State) {z : State} (hz : Keeps z s) : OutKeeps z (execOffsetUpdate avg s) := by
  unfold execOffsetUpdate
  with_reducible repeat' first
    | assumption | refine outEvt ?_ ?_ | refine outNext ?_ | refine outIte ?_ ?_ | apply setPoints_keeps | fail_if_no_progress refine keepsMk rfl ?_

theorem execBrakeInput_keeps (asserted : Bool) (s : State) {z : State} (hz : Keeps z s) : OutKeeps z (execBrakeInput asserted s) := by
  unfold execBrakeInput
  with_reducible repeat' first
    | assumption | refine outEvt ?_ ?_ | refine outNext ?_ | refine outIte ?_ ?_ | fail_if_no_progress refine keepsMk rfl ?_

theorem execBrakeHeldAlarm_keeps (s : State) {z : State} (hz : Keeps z s) : OutKeeps z (execBrakeHeldAlarm s) := by
  unfold execBrakeHeldAlarm
  with_reducible repeat' first
    | assumption | refine outEvt ?_ ?_ | refine outNext ?_ | refine outIte ?_ ?_ | apply alarmW_keeps | fail_if_no_progress refine keepsMk rfl ?_

theorem enterFallow_keeps (n fs : Nat) (s : State) {z : State} (hz : Keeps z s) : Keeps z (enterFallow n fs s) := by
  unfold enterFallow
  with_reducible repeat' first
    | assumption | apply setCore_keeps | apply clearTilth_keeps | apply setPoint_keeps | fail_if_no_progress refine keepsMk rfl ?_
    | refine keepsIte ?_ ?_

theorem execFallowEntry_keeps (q c fs : Nat) (s : State) {z : State} (hz : Keeps z s) : OutKeeps z (execFallowEntry q c fs s) := by
  unfold execFallowEntry
  with_reducible repeat' first
    | assumption | apply syncRoles_keeps | refine outEvt ?_ ?_ | refine outNext ?_ | refine outIte ?_ ?_ | apply enterFallow_keeps

theorem requestWake_keeps (n : Nat) (s : State) {z : State} (hz : Keeps z s) : Keeps z (requestWake n s) := by
  unfold requestWake
  with_reducible repeat' first
    | assumption | fail_if_no_progress refine keepsMk rfl ?_ | refine keepsIte ?_ ?_

theorem execWakeRequest_keeps (q c : Nat) (s : State) {z : State} (hz : Keeps z s) : OutKeeps z (execWakeRequest q c s) := by
  unfold execWakeRequest
  with_reducible repeat' first
    | assumption | refine outEvt ?_ ?_ | refine outNext ?_ | refine outIte ?_ ?_ | apply requestWake_keeps

theorem beginWake_keeps (n : Nat) (s : State) {z : State} (hz : Keeps z s) : Keeps z (beginWake n s) := by
  unfold beginWake
  with_reducible repeat' first
    | assumption | apply setCore_keeps | apply bump_keeps | apply askRound_keeps | fail_if_no_progress refine keepsMk rfl ?_ | refine keepsIte ?_ ?_

theorem grantWake_keeps (w : Wake) (s : State) {z : State} (hz : Keeps z s) : Keeps z (grantWake w s) := by
  unfold grantWake
  with_reducible repeat' first
    | assumption | apply bump_keeps | apply beginWake_keeps | fail_if_no_progress refine keepsMk rfl ?_ | refine keepsIte ?_ ?_

theorem execWakeGrant_keeps (q ma : Nat) (s : State) {z : State} (hz : Keeps z s) : OutKeeps z (execWakeGrant q ma s) := by
  unfold execWakeGrant
  with_reducible repeat' first
    | assumption | refine outEvt ?_ ?_ | refine outNext ?_ | apply grantWake_keeps | fail_if_no_progress refine keepsMk rfl ?_ | refine keepsIte ?_ ?_
    | dsimp only | split

theorem execWakeForced_keeps (q c cap : Nat) (s : State) {z : State} (hz : Keeps z s) : OutKeeps z (execWakeForced q c cap s) := by
  unfold execWakeForced
  with_reducible repeat' first
    | assumption | refine outEvt ?_ ?_ | refine outNext ?_ | refine outIte ?_ ?_ | apply bump_keeps | apply grantWake_keeps
    | fail_if_no_progress refine keepsMk rfl ?_ | refine keepsIte ?_ ?_ | dsimp only | split

theorem wakesDone_keeps (s : State) {z : State} (hz : Keeps z s) : Keeps z (wakesDone s) := by
  unfold wakesDone
  with_reducible repeat' first
    | assumption | apply endCmd_keeps | refine keepsFold _ (fun _ _ _ => ?_) _ ?_ | fail_if_no_progress refine keepsMk rfl ?_ | refine keepsIte ?_ ?_

theorem wakeDone_keeps (n : Nat) (rows : List Nat) (other : Bool) (s : State) {z : State} (hz : Keeps z s) : Keeps z (wakeDone n rows other s) := by
  unfold wakeDone
  with_reducible repeat' first
    | assumption | apply setCore_keeps | apply clearTilth_keeps | apply testResult_keeps | apply setPoint_keeps
    | fail_if_no_progress refine keepsMk rfl ?_ | refine keepsIte ?_ ?_

theorem execWakeComplete_keeps (q c : Nat) (rows : List Nat) (other : Bool) (s : State) {z : State} (hz : Keeps z s) : OutKeeps z (execWakeComplete q c rows other s) := by
  unfold execWakeComplete
  with_reducible repeat' first
    | assumption | apply syncRoles_keeps | refine outEvt ?_ ?_ | refine outNext ?_ | refine outIte ?_ ?_ | apply wakesDone_keeps | apply wakeDone_keeps

theorem domainDark_keeps (q d : Nat) (s : State) {z : State} (hz : Keeps z s) : Keeps z (domainDark q d s) := by
  unfold domainDark
  with_reducible repeat' first
    | assumption | apply setDomain_keeps | apply alarmW_keeps | apply fenceCore_keeps | apply setPoint_keeps
    | fail_if_no_progress refine keepsMk rfl ?_

theorem execTineFail_keeps (q t : Nat) (s : State) {z : State} (hz : Keeps z s) : OutKeeps z (execTineFail q t s) := by
  unfold execTineFail
  with_reducible repeat' first
    | assumption | refine outEvt ?_ ?_ | refine outNext ?_ | refine outIte ?_ ?_ | apply setDomain_keeps | apply bump_keeps | apply alarmW_keeps
    | apply quarterFault_keeps | apply domainDark_keeps | fail_if_no_progress refine keepsMk rfl ?_ | refine keepsIte ?_ ?_

/-! ## Admin -/

theorem started_keeps (x : Cmd) (s : State) {z : State} (hz : Keeps z s) : Keeps z (started x s) := by
  unfold started
  with_reducible repeat' first
    | assumption | apply modCmd_keeps | apply readCopies_keeps

theorem waits_keeps (x : Cmd) (s : State) {z : State} (hz : Keeps z s) : Keeps z (waits x s) := by
  unfold waits
  with_reducible repeat' first
    | assumption | apply modCmd_keeps

theorem adminRow_keeps (qu op : Nat) (mine : Cmd → Bool) (body : Cmd → State → State) (hb : ∀ x s a, Keeps a s → Keeps a (body x s)) (s : State) {a : State} (k : Keeps a s) :
    OutKeeps a (adminRow qu op mine body s) := by
  unfold adminRow
  with_reducible repeat' first
    | assumption | refine outEvt ?_ ?_ | refine outNext ?_ | apply hb | apply endCmd_keeps | apply started_keeps | refine keepsIte ?_ ?_ | dsimp only
    | split

theorem checks_keeps (x : Cmd) (l : List (Bool × Nat)) (f : State → State) (hf : ∀ s a, Keeps a s → Keeps a (f s)) (s : State) {a : State} (k : Keeps a s) :
    Keeps a (checks x l f s) := by
  unfold checks
  with_reducible repeat' first
    | exact done_keeps _ _ _ k | exact hf _ _ k | split

theorem noteMismatch_keeps (stage : Option Nat) (slot : Nat) (l : List (Nat × Nat)) (s : State) {z : State} (hz : Keeps z s) : Keeps z (noteMismatch stage slot l s) := by
  unfold noteMismatch
  with_reducible repeat' first
    | assumption | apply logMismatch_keeps | refine keepsFold _ (fun _ _ _ => ?_) _ ?_

theorem noteCuts_keeps (stage : Option Nat) (l : List (Nat × Nat)) (s : State) {z : State} (hz : Keeps z s) : Keeps z (noteCuts stage l s) := by
  unfold noteCuts
  with_reducible repeat' first
    | assumption | apply noteView_keeps | refine keepsFold _ (fun _ _ _ => ?_) _ ?_

theorem cmdRead_keeps (stage : Option Nat) (slot : Nat) (l : List (Nat × Nat)) (s : State) {z : State} (hz : Keeps z s) : Keeps z (cmdRead stage slot l s).2 := by
  unfold cmdRead
  with_reducible repeat' first
    | assumption | apply noteMismatch_keeps | apply noteCuts_keeps | fail_if_no_progress refine keepsMk rfl ?_ | refine keepsIte ?_ ?_ | dsimp only | split

theorem holdCmd_keeps (x : Cmd) (k : Nat) (s : State) {z : State} (hz : Keeps z s) : Keeps z (holdCmd x k s) := by
  unfold holdCmd
  with_reducible repeat' first
    | assumption | apply bump_keeps | apply modCmd_keeps

theorem onRead_keeps (x : Cmd) (r : Fetched × State) (f : List Byte → State → State) (hf : ∀ b s a, Keeps a s → Keeps a (f b s)) {a : State} (k : Keeps a r.2) :
    Keeps a (onRead x r f) := by
  unfold onRead
  with_reducible repeat' first
    | exact hf _ _ _ (modCmd_keeps _ _ _ _ k) | exact modCmd_keeps _ _ _ _ k | exact endCmd_keeps _ _ _ _ _ k
    | exact holdCmd_keeps _ _ _ k | split

theorem reslot_keeps (slot pa : Nat) (b : List Byte) (psn : Bool) (s : State) {z : State} (hz : Keeps z s) : Keeps z (reslot slot pa b psn s) := by
  unfold reslot
  with_reducible repeat' first
    | assumption | apply setHalf_keeps | apply burstWrite_keeps | apply writeBack_keeps | fail_if_no_progress refine keepsMk rfl ?_
    | refine keepsIte ?_ ?_ | dsimp only | split

theorem slotPut_keeps (stage : Option Nat) (slot pa : Nat) (b : List Byte) (psn : Bool) (s : State) {z : State} (hz : Keeps z s) : Keeps z (slotPut stage slot pa b psn s) := by
  unfold slotPut
  with_reducible repeat' first
    | assumption | apply sectorWrite_keeps | apply logMismatch_keeps | apply reslot_keeps | fail_if_no_progress refine keepsMk rfl ?_
    | refine keepsIte ?_ ?_

theorem putCuts_keeps (stage : Option Nat) (slot : Nat) (x0 : List (Nat × Nat)) (x1 : List Byte) (s : State) {z : State} (hz : Keeps z s) : Keeps z (putCuts stage slot x0 x1 s) := by
  induction x0 generalizing x1 s with
  | nil => exact hz
  | cons a t ih =>
    unfold putCuts
    with_reducible repeat' first
      | assumption | cases ‹a :: t = _› | apply ih | apply slotPut_keeps

theorem cmdWrite_keeps (stage : Option Nat) (slot : Nat) (l : List (Nat × Nat)) (b : List Byte) (s : State) {z : State} (hz : Keeps z s) : Keeps z (cmdWrite stage slot l b s) := by
  unfold cmdWrite
  with_reducible repeat' first
    | assumption | apply noteCuts_keeps | apply putCuts_keeps

theorem writeDone_keeps (x : Cmd) (slot : Nat) (l : List (Nat × Nat)) (b : List Byte) (s t : State) {z : State} (hz : Keeps z s) (ht : Keeps z t) :
    Keeps z (writeDone x slot l b s t) := by
  unfold writeDone
  with_reducible repeat' first
    | assumption | apply endCmd_keeps | apply holdCmd_keeps | apply done_keeps | apply cmdWrite_keeps | fail_if_no_progress refine keepsMk rfl ?_
    | refine keepsIte ?_ ?_

theorem helloBody_keeps (x : Cmd) (s : State) {z : State} (hz : Keeps z s) : Keeps z (helloBody x s) := by
  unfold helloBody
  with_reducible repeat' first
    | assumption | apply setMb_keeps | apply endCmd_keeps | apply done_keeps | refine writeDone_keeps _ _ _ _ _ _ ?_ ?_
    | refine checks_keeps _ _ _ (fun _ _ _ => ?_) _ ?_ | fail_if_no_progress refine keepsMk rfl ?_ | refine keepsIte ?_ ?_ | dsimp only | split

theorem execHello_keeps (qu : Nat) (s : State) {z : State} (hz : Keeps z s) : OutKeeps z (execHello qu s) := by
  unfold execHello
  with_reducible repeat' first
    | assumption | refine outEvt ?_ ?_ | refine outNext ?_ | refine outIte ?_ ?_ | apply helloBody_keeps
    | refine adminRow_keeps _ _ _ _ (fun _ _ _ _ => ?_) _ ?_

theorem execGoodbye_keeps (qu : Nat) (s : State) {z : State} (hz : Keeps z s) : OutKeeps z (execGoodbye qu s) := by
  unfold execGoodbye
  with_reducible repeat' first
    | assumption | refine outEvt ?_ ?_ | refine outNext ?_ | refine adminRow_keeps _ _ _ _ (fun _ _ _ _ => ?_) _ ?_
    | refine checks_keeps _ _ _ (fun _ _ _ => ?_) _ ?_ | apply setMb_keeps | apply done_keeps

theorem wakeDeep_keeps (s : State) {z : State} (hz : Keeps z s) : Keeps z (wakeDeep s) := by
  unfold wakeDeep
  with_reducible repeat' first
    | assumption | apply requestWake_keeps | refine keepsFold _ (fun _ _ _ => ?_) _ ?_ | fail_if_no_progress refine keepsMk rfl ?_
    | refine keepsIte ?_ ?_

theorem groupSetBody_keeps (x : Cmd) (s : State) {z : State} (hz : Keeps z s) : Keeps z (groupSetBody x s) := by
  unfold groupSetBody
  with_reducible repeat' first
    | assumption | apply wakesDone_keeps | apply done_keeps | apply waits_keeps | apply wakeDeep_keeps
    | refine checks_keeps _ _ _ (fun _ _ _ => ?_) _ ?_ | fail_if_no_progress refine keepsMk rfl ?_ | refine keepsIte ?_ ?_

theorem execGroupSet_keeps (qu : Nat) (s : State) {z : State} (hz : Keeps z s) : OutKeeps z (execGroupSet qu s) := by
  unfold execGroupSet
  with_reducible repeat' first
    | assumption | refine outEvt ?_ ?_ | refine outNext ?_ | refine outIte ?_ ?_ | apply groupSetBody_keeps
    | refine adminRow_keeps _ _ _ _ (fun _ _ _ _ => ?_) _ ?_

theorem execGroupSetDelete_keeps (qu : Nat) (s : State) {z : State} (hz : Keeps z s) : OutKeeps z (execGroupSetDelete qu s) := by
  unfold execGroupSetDelete
  with_reducible repeat' first
    | assumption | refine outEvt ?_ ?_ | refine outNext ?_ | refine adminRow_keeps _ _ _ _ (fun _ _ _ _ => ?_) _ ?_
    | refine checks_keeps _ _ _ (fun _ _ _ => ?_) _ ?_ | apply done_keeps | fail_if_no_progress refine keepsMk rfl ?_

theorem queueCreateBody_keeps (x : Cmd) (s : State) {z : State} (hz : Keeps z s) : Keeps z (queueCreateBody x s) := by
  unfold queueCreateBody
  with_reducible repeat' first
    | assumption | apply setQueue_keeps | refine writeDone_keeps _ _ _ _ _ _ ?_ ?_ | refine checks_keeps _ _ _ (fun _ _ _ => ?_) _ ?_

theorem execQueueCreate_keeps (qu : Nat) (s : State) {z : State} (hz : Keeps z s) : OutKeeps z (execQueueCreate qu s) := by
  unfold execQueueCreate
  with_reducible repeat' first
    | assumption | refine outEvt ?_ ?_ | refine outNext ?_ | refine outIte ?_ ?_ | apply queueCreateBody_keeps
    | refine adminRow_keeps _ _ _ _ (fun _ _ _ _ => ?_) _ ?_

theorem queueStateBody_keeps (f : Nat → Queue → Cmd → State → State) (hf : ∀ w k x s a, Keeps a s → Keeps a (f w k x s)) (x : Cmd) (s : State) {a : State} (k : Keeps a s) :
    Keeps a (queueStateBody f x s) := by
  unfold queueStateBody
  with_reducible repeat' first
    | exact checks_keeps _ _ _ (hf _ _ _) _ k | exact checks_keeps _ _ _ (fun _ _ h => keepsId h) _ k | dsimp only | split

theorem execQueueResume_keeps (qu : Nat) (s : State) {z : State} (hz : Keeps z s) : OutKeeps z (execQueueResume qu s) := by
  unfold execQueueResume
  with_reducible repeat' first
    | assumption | refine outEvt ?_ ?_ | refine outNext ?_ | refine outIte ?_ ?_ | apply setQueue_keeps | apply done_keeps
    | refine adminRow_keeps _ _ _ _ (fun _ _ _ _ => ?_) _ ?_ | refine queueStateBody_keeps _ (fun _ _ _ _ _ _ => ?_) _ _ ?_
    | fail_if_no_progress refine keepsMk rfl ?_ | refine keepsIte ?_ ?_

theorem execQueuePause_keeps (qu : Nat) (s : State) {z : State} (hz : Keeps z s) : OutKeeps z (execQueuePause qu s) := by
  unfold execQueuePause
  with_reducible repeat' first
    | assumption | refine outEvt ?_ ?_ | refine outNext ?_ | refine outIte ?_ ?_ | refine adminRow_keeps _ _ _ _ (fun _ _ _ _ => ?_) _ ?_
    | refine queueStateBody_keeps _ (fun _ _ _ _ _ _ => ?_) _ _ ?_ | apply setQueue_keeps | apply done_keeps

theorem queueGone_keeps (w : Nat) (s : State) {z : State} (hz : Keeps z s) : Keeps z (queueGone w s) := by
  unfold queueGone
  with_reducible repeat' first
    | assumption | apply done_keeps | refine keepsFold _ (fun _ _ _ => ?_) _ ?_ | exact fun _ => by decide | exact fun _ => BitVec.isLt _
    | exact fun h => tset_rising _ _ _ _ (tset_rising _ _ _ _ h) | exact tRising_tdel _ _
    | exact fun h => stWrite_wf _ _ _ _ _ (stWrite_wf _ _ _ _ _ h) | exact fun h => h | exact mwrite_wf _ _ _ | exact filter_wf _ _
    | exact stWrite_wf _ _ _ _ _ | exact stClear_wf _ _ _ _ | refine keepsIte ?_ ?_ | dsimp only | fail_if_no_progress refine keepsMk rfl ?_ | split
    | refine keepsQueues _ _ _ ?_ ?_

theorem execQueueDelete_keeps (qu : Nat) (s : State) {z : State} (hz : Keeps z s) : OutKeeps z (execQueueDelete qu s) := by
  unfold execQueueDelete
  with_reducible repeat' first
    | assumption | refine outEvt ?_ ?_ | refine outNext ?_ | refine adminRow_keeps _ _ _ _ (fun _ _ _ _ => ?_) _ ?_
    | refine queueStateBody_keeps _ (fun _ _ _ _ _ _ => ?_) _ _ ?_ | apply setQueue_keeps | apply waits_keeps | apply queueGone_keeps

theorem claimPlots_keeps (pa n slot : Nat) (s : State) {z : State} (hz : Keeps z s) : Keeps z (claimPlots pa n slot s) := by
  unfold claimPlots
  with_reducible repeat' first
    | assumption | apply setHalf_keeps | refine keepsFold _ (fun _ _ _ => ?_) _ ?_

theorem mapBody_keeps (x : Cmd) (s : State) {z : State} (hz : Keeps z s) : Keeps z (mapBody x s) := by
  unfold mapBody
  with_reducible repeat' first
    | assumption | apply write_keeps | apply done_keeps | apply claimPlots_keeps | refine checks_keeps _ _ _ (fun _ _ _ => ?_) _ ?_
    | fail_if_no_progress refine keepsMk rfl ?_

theorem execMap_keeps (qu : Nat) (s : State) {z : State} (hz : Keeps z s) : OutKeeps z (execMap qu s) := by
  unfold execMap
  with_reducible repeat' first
    | assumption | refine outEvt ?_ ?_ | refine outNext ?_ | refine outIte ?_ ?_ | apply mapBody_keeps
    | refine adminRow_keeps _ _ _ _ (fun _ _ _ _ => ?_) _ ?_

theorem execUnmap_keeps (qu : Nat) (s : State) {z : State} (hz : Keeps z s) : OutKeeps z (execUnmap qu s) := by
  unfold execUnmap
  with_reducible repeat' first
    | assumption | refine outEvt ?_ ?_ | refine outNext ?_ | refine adminRow_keeps _ _ _ _ (fun _ _ _ _ => ?_) _ ?_
    | refine checks_keeps _ _ _ (fun _ _ _ => ?_) _ ?_ | apply done_keeps | fail_if_no_progress refine keepsMk rfl ?_

theorem afterNames_keeps (x : Cmd) (f : State → State) (hf : ∀ s a, Keeps a s → Keeps a (f s)) (s : State) {a : State} (k : Keeps a s) :
    Keeps a (afterNames x f s) := by
  unfold afterNames
  with_reducible repeat' first
    | exact keepsIte k (hf _ _ k)

theorem streamKey_keeps (kind : Nat) (key : Nat) (s : State) {z : State} (hz : Keeps z s) : Keeps z (streamKey kind key s).2 := by
  unfold streamKey
  with_reducible repeat' first
    | assumption | apply drawEntropy_keeps | refine keepsSnd ‹_› ?_ | fail_if_no_progress refine keepsMk rfl ?_ | refine keepsIte ?_ ?_ | dsimp only
    | split

theorem contextCreateBody_keeps (x : Cmd) (s : State) {z : State} (hz : Keeps z s) : Keeps z (contextCreateBody x s) := by
  unfold contextCreateBody
  with_reducible repeat' first
    | assumption | refine checks_keeps _ _ _ (fun _ _ _ => ?_) _ ?_ | apply alarmW_keeps | apply done_keeps | apply streamKey_keeps
    | refine keepsSnd ‹_› ?_ | fail_if_no_progress refine keepsMk rfl ?_ | dsimp only | split

theorem execContextCreate_keeps (qu : Nat) (s : State) {z : State} (hz : Keeps z s) : OutKeeps z (execContextCreate qu s) := by
  unfold execContextCreate
  with_reducible repeat' first
    | assumption | refine outEvt ?_ ?_ | refine outNext ?_ | refine adminRow_keeps _ _ _ _ (fun _ _ _ _ => ?_) _ ?_
    | refine afterNames_keeps _ _ (fun _ _ _ => ?_) _ ?_ | apply contextCreateBody_keeps

theorem destroysDone_keeps (s : State) {z : State} (hz : Keeps z s) : Keeps z (destroysDone s) := by
  unfold destroysDone
  with_reducible repeat' first
    | assumption | apply done_keeps | refine keepsFold _ (fun _ _ _ => ?_) _ ?_ | fail_if_no_progress refine keepsMk rfl ?_ | refine keepsIte ?_ ?_

theorem execContextDestroy_keeps (qu : Nat) (s : State) {z : State} (hz : Keeps z s) : OutKeeps z (execContextDestroy qu s) := by
  unfold execContextDestroy
  with_reducible repeat' first
    | assumption | refine outEvt ?_ ?_ | refine outNext ?_ | refine adminRow_keeps _ _ _ _ (fun _ _ _ _ => ?_) _ ?_
    | refine checks_keeps _ _ _ (fun _ _ _ => ?_) _ ?_ | apply waits_keeps | apply destroysDone_keeps

theorem execContextReseed_keeps (qu : Nat) (s : State) {z : State} (hz : Keeps z s) : OutKeeps z (execContextReseed qu s) := by
  unfold execContextReseed
  with_reducible repeat' first
    | assumption | refine outEvt ?_ ?_ | refine outNext ?_ | refine adminRow_keeps _ _ _ _ (fun _ _ _ _ => ?_) _ ?_
    | refine checks_keeps _ _ _ (fun _ _ _ => ?_) _ ?_ | refine afterNames_keeps _ _ (fun _ _ _ => ?_) _ ?_ | apply alarmW_keeps | apply done_keeps
    | apply streamKey_keeps | refine keepsSnd ‹_› ?_ | fail_if_no_progress refine keepsMk rfl ?_ | refine keepsIte ?_ ?_ | dsimp only | split

theorem execContextQuery_keeps (qu : Nat) (s : State) {z : State} (hz : Keeps z s) : OutKeeps z (execContextQuery qu s) := by
  unfold execContextQuery
  with_reducible repeat' first
    | assumption | refine outEvt ?_ ?_ | refine outNext ?_ | refine writeDone_keeps _ _ _ _ _ _ ?_ ?_
    | refine adminRow_keeps _ _ _ _ (fun _ _ _ _ => ?_) _ ?_ | refine checks_keeps _ _ _ (fun _ _ _ => ?_) _ ?_
    | refine afterNames_keeps _ _ (fun _ _ _ => ?_) _ ?_ | apply done_keeps | fail_if_no_progress refine keepsMk rfl ?_ | refine keepsIte ?_ ?_
    | dsimp only | split

/-! ## Carve -/

theorem foldTput_wf (f : Nat × Byte → Nat) (l : Mem) (a : Mem) (hl : ∀ e ∈ l, e.2 ≠ 0) (ha : Memory.wf a = true) :
    Memory.wf (l.foldl (fun a e => tput a (f e) e.2) a) = true := by
  induction l generalizing a with
  | nil => exact ha
  | cons e t ih =>
    refine ih _ (fun x hx => hl x (List.mem_cons_of_mem _ hx)) ?_
    rw [wf_iff] at ha ⊢
    refine ⟨tRising_tput _ _ _ ha.1, fun x hx => ?_⟩
    rcases mem_tput _ _ _ _ hx with rfl | hx
    · exact hl e (List.mem_cons_self ..)
    · exact ha.2 x hx
theorem moveTab_wf (old new : State) (k unit : Nat) (m : Mem) (h : Memory.wf m = true) : Memory.wf (moveTab old new k unit m) = true := by
  unfold moveTab
  exact foldTput_wf _ m [] ((wf_iff m).1 h).2 rfl
theorem keepsLocal (s : State) (l : List Nat) (m : Mem) (q : Tab W32) {a : State} (k : Keeps a s)
    (h : Memory.wf s.mem.lpddr = true → Memory.wf m = true) :
    Keeps a { s with mem := { s.mem with lpddr := m, lpSide := q }, pel := { s.pel with local_ := l } } :=
  keepsLpddr { s with pel := { s.pel with local_ := l } } m q (keepsTrans (b := s) (keepsSame rfl) k) h
theorem setMode_keeps (k mode : Nat) (s : State) {z : State} (hz : Keeps z s) : Keeps z (setMode k mode s) := by
  unfold setMode
  with_reducible repeat' first
    | assumption | exact moveTab_wf _ _ _ _ _ | refine keepsFold _ (fun _ _ _ => ?_) _ ?_ | apply setHalf_keeps | apply writeBack_keeps
    | apply unpinRange_keeps | apply unask_keeps | dsimp only | refine keepsLocal _ _ _ _ ?_ ?_ | fail_if_no_progress refine keepsMk rfl ?_

theorem execHomingSet_keeps (qu : Nat) (s : State) {z : State} (hz : Keeps z s) : OutKeeps z (execHomingSet qu s) := by
  unfold execHomingSet
  with_reducible repeat' first
    | assumption | refine outEvt ?_ ?_ | refine outNext ?_ | refine outIte ?_ ?_ | refine adminRow_keeps _ _ _ _ (fun _ _ _ _ => ?_) _ ?_
    | refine checks_keeps _ _ _ (fun _ _ _ => ?_) _ ?_ | apply done_keeps | apply setMode_keeps | fail_if_no_progress refine keepsMk rfl ?_
    | refine keepsIte ?_ ?_

theorem carveBody_keeps (x : Cmd) (s : State) {z : State} (hz : Keeps z s) : Keeps z (carveBody x s) := by
  unfold carveBody
  with_reducible repeat' first
    | assumption | refine checks_keeps _ _ _ (fun _ _ _ => ?_) _ ?_ | apply setHalf_keeps | apply endCmd_keeps | apply waits_keeps
    | fail_if_no_progress refine keepsMk rfl ?_ | refine keepsIte ?_ ?_

theorem execGranaryCarve_keeps (qu : Nat) (s : State) {z : State} (hz : Keeps z s) : OutKeeps z (execGranaryCarve qu s) := by
  unfold execGranaryCarve
  with_reducible repeat' first
    | assumption | refine outEvt ?_ ?_ | refine outNext ?_ | refine outIte ?_ ?_ | apply carveBody_keeps
    | refine adminRow_keeps _ _ _ _ (fun _ _ _ _ => ?_) _ ?_

theorem execPlotCreate_keeps (qu : Nat) (s : State) {z : State} (hz : Keeps z s) : OutKeeps z (execPlotCreate qu s) := by
  unfold execPlotCreate
  with_reducible repeat' first
    | assumption | refine outEvt ?_ ?_ | refine outNext ?_ | refine adminRow_keeps _ _ _ _ (fun _ _ _ _ => ?_) _ ?_
    | refine checks_keeps _ _ _ (fun _ _ _ => ?_) _ ?_ | apply setHalf_keeps | apply done_keeps | refine keepsIte ?_ ?_ | dsimp only
    | fail_if_no_progress refine keepsMk rfl ?_ | refine keepsPlots _ _ ?_ ?_ | exact stClear_wf _ _ _ _

theorem execPlotDelete_keeps (qu : Nat) (s : State) {z : State} (hz : Keeps z s) : OutKeeps z (execPlotDelete qu s) := by
  unfold execPlotDelete
  with_reducible repeat' first
    | assumption | refine outEvt ?_ ?_ | refine outNext ?_ | refine adminRow_keeps _ _ _ _ (fun _ _ _ _ => ?_) _ ?_
    | refine checks_keeps _ _ _ (fun _ _ _ => ?_) _ ?_ | apply setHalf_keeps | apply done_keeps | refine keepsIte ?_ ?_ | dsimp only
    | fail_if_no_progress refine keepsMk rfl ?_ | refine keepsPlots _ _ ?_ ?_ | exact stClear_wf _ _ _ _

theorem pinBody_keeps (x : Cmd) (s : State) {z : State} (hz : Keeps z s) : Keeps z (pinBody x s) := by
  unfold pinBody
  with_reducible repeat' first
    | assumption | refine checks_keeps _ _ _ (fun _ _ _ => ?_) _ ?_ | apply setHalf_keeps | apply endCmd_keeps | apply signal_keeps
    | apply waits_keeps | refine keepsFold _ (fun _ _ _ => ?_) _ ?_ | fail_if_no_progress refine keepsMk rfl ?_ | refine keepsIte ?_ ?_

theorem execGranaryPin_keeps (qu : Nat) (s : State) {z : State} (hz : Keeps z s) : OutKeeps z (execGranaryPin qu s) := by
  unfold execGranaryPin
  with_reducible repeat' first
    | assumption | refine outEvt ?_ ?_ | refine outNext ?_ | refine outIte ?_ ?_ | apply pinBody_keeps
    | refine adminRow_keeps _ _ _ _ (fun _ _ _ _ => ?_) _ ?_

theorem execGranaryUnpin_keeps (qu : Nat) (s : State) {z : State} (hz : Keeps z s) : OutKeeps z (execGranaryUnpin qu s) := by
  unfold execGranaryUnpin
  with_reducible repeat' first
    | assumption | refine outEvt ?_ ?_ | refine outNext ?_ | refine outIte ?_ ?_ | refine adminRow_keeps _ _ _ _ (fun _ _ _ _ => ?_) _ ?_
    | refine checks_keeps _ _ _ (fun _ _ _ => ?_) _ ?_ | apply done_keeps | apply releasePin_keeps | fail_if_no_progress refine keepsMk rfl ?_
    | refine keepsIte ?_ ?_

theorem execMemQos_keeps (qu : Nat) (s : State) {z : State} (hz : Keeps z s) : OutKeeps z (execMemQos qu s) := by
  unfold execMemQos
  with_reducible repeat' first
    | assumption | refine outEvt ?_ ?_ | refine outNext ?_ | refine adminRow_keeps _ _ _ _ (fun _ _ _ _ => ?_) _ ?_
    | refine checks_keeps _ _ _ (fun _ _ _ => ?_) _ ?_ | apply setStack_keeps | apply done_keeps | refine keepsFold _ (fun _ _ _ => ?_) _ ?_

theorem execGleanerSet_keeps (qu : Nat) (s : State) {z : State} (hz : Keeps z s) : OutKeeps z (execGleanerSet qu s) := by
  unfold execGleanerSet
  with_reducible repeat' first
    | assumption | refine outEvt ?_ ?_ | refine outNext ?_ | refine adminRow_keeps _ _ _ _ (fun _ _ _ _ => ?_) _ ?_
    | refine checks_keeps _ _ _ (fun _ _ _ => ?_) _ ?_ | apply done_keeps | fail_if_no_progress refine keepsMk rfl ?_

theorem execSelftestSet_keeps (qu : Nat) (s : State) {z : State} (hz : Keeps z s) : OutKeeps z (execSelftestSet qu s) := by
  unfold execSelftestSet
  with_reducible repeat' first
    | assumption | refine outEvt ?_ ?_ | refine outNext ?_ | refine adminRow_keeps _ _ _ _ (fun _ _ _ _ => ?_) _ ?_
    | refine checks_keeps _ _ _ (fun _ _ _ => ?_) _ ?_ | apply done_keeps | fail_if_no_progress refine keepsMk rfl ?_

theorem execCoreRetest_keeps (qu : Nat) (rows : List Nat) (other : Bool) (s : State) {z : State} (hz : Keeps z s) : OutKeeps z (execCoreRetest qu rows other s) := by
  unfold execCoreRetest
  with_reducible repeat' first
    | assumption | refine outEvt ?_ ?_ | refine outNext ?_ | refine outIte ?_ ?_ | refine adminRow_keeps _ _ _ _ (fun _ _ _ _ => ?_) _ ?_
    | refine checks_keeps _ _ _ (fun _ _ _ => ?_) _ ?_ | apply done_keeps | apply resetCore_keeps | apply setPoint_keeps | apply testResult_keeps

theorem execHedgerowRule_keeps (qu : Nat) (s : State) {z : State} (hz : Keeps z s) : OutKeeps z (execHedgerowRule qu s) := by
  unfold execHedgerowRule
  with_reducible repeat' first
    | assumption | refine outEvt ?_ ?_ | refine outNext ?_ | refine adminRow_keeps _ _ _ _ (fun _ _ _ _ => ?_) _ ?_
    | refine checks_keeps _ _ _ (fun _ _ _ => ?_) _ ?_ | apply done_keeps | fail_if_no_progress refine keepsMk rfl ?_

theorem execGuestRetrain_keeps (qu : Nat) (s : State) {z : State} (hz : Keeps z s) : OutKeeps z (execGuestRetrain qu s) := by
  unfold execGuestRetrain
  with_reducible repeat' first
    | assumption | refine outEvt ?_ ?_ | refine outNext ?_ | refine outIte ?_ ?_ | refine adminRow_keeps _ _ _ _ (fun _ _ _ _ => ?_) _ ?_
    | refine checks_keeps _ _ _ (fun _ _ _ => ?_) _ ?_ | apply setLink_keeps | apply done_keeps | fail_if_no_progress refine keepsMk rfl ?_
    | refine keepsIte ?_ ?_

/-! ## Keys -/

theorem execKeySlotLoad_keeps (qu : Nat) (s : State) {z : State} (hz : Keeps z s) : OutKeeps z (execKeySlotLoad qu s) := by
  unfold execKeySlotLoad
  with_reducible repeat' first
    | assumption | refine outEvt ?_ ?_ | refine outNext ?_ | refine adminRow_keeps _ _ _ _ (fun _ _ _ _ => ?_) _ ?_
    | refine checks_keeps _ _ _ (fun _ _ _ => ?_) _ ?_ | refine onRead_keeps _ _ _ (fun _ _ _ _ => ?_) ?_ | apply bump_keeps | apply done_keeps
    | apply cmdRead_keeps | fail_if_no_progress refine keepsMk rfl ?_ | refine keepsIte ?_ ?_ | dsimp only | split

theorem execKeySlotClear_keeps (qu : Nat) (s : State) {z : State} (hz : Keeps z s) : OutKeeps z (execKeySlotClear qu s) := by
  unfold execKeySlotClear
  with_reducible repeat' first
    | assumption | refine outEvt ?_ ?_ | refine outNext ?_ | refine adminRow_keeps _ _ _ _ (fun _ _ _ _ => ?_) _ ?_
    | refine checks_keeps _ _ _ (fun _ _ _ => ?_) _ ?_ | apply done_keeps | fail_if_no_progress refine keepsMk rfl ?_

theorem takeEpoch_keeps (spoil : Nat) (s : State) {z : State} (hz : Keeps z s) : Keeps z (takeEpoch spoil s).2 := by
  unfold takeEpoch
  dsimp only
  split
  · refine keepsTrans (b := s) ⟨rfl, ?_, fun x => ?_, .inl ⟨rfl, rfl⟩, fun x => x⟩ hz
    · exact ⟨rfl, rfl, rfl, rfl, BitVec.and_self, Nat.le_refl _, rfl, rfl, rfl, rfl, Nat.le_max_left .., Nat.le_add_right .., by dsimp only; omega, rfl, rfl, rfl, rfl, rfl, rfl, rfl⟩
    · have := x.epochUsed
      have := x.epochSpoiled
      exact ⟨x.svnFloor, by dsimp only; omega, by dsimp only; omega, x.offset, x.cores⟩
  · refine keepsTrans (b := s) ⟨rfl, ?_, fun x => ?_, .inl ⟨rfl, rfl⟩, fun x => x⟩ hz
    · exact ⟨rfl, rfl, rfl, rfl, BitVec.and_self, Nat.le_refl _, rfl, rfl, rfl, rfl, by dsimp only; omega, Nat.le_add_right .., by dsimp only; omega, rfl, rfl, rfl, rfl, rfl, rfl, rfl⟩
    · have := x.epochUsed
      have := x.epochSpoiled
      exact ⟨x.svnFloor, by dsimp only; omega, by dsimp only; omega, x.offset, x.cores⟩

theorem firstSign_keeps (s : State) {z : State} (hz : Keeps z s) : Keeps z (firstSign s) := by
  unfold firstSign
  with_reducible repeat' first
    | assumption | apply alarmW_keeps | fail_if_no_progress refine keepsMk rfl ?_ | refine keepsIte ?_ ?_

theorem takeLeaf_keeps (spoil : Nat) (flashFail : Bool) (s : State) {z : State} (hz : Keeps z s) : Keeps z (takeLeaf spoil flashFail s).2 := by
  unfold takeLeaf
  with_reducible repeat' first
    | assumption | apply bump_keeps | apply alarmW_keeps | apply takeEpoch_keeps | refine keepsSnd ‹_› ?_ | apply firstSign_keeps
    | fail_if_no_progress refine keepsMk rfl ?_ | refine keepsIte ?_ ?_ | dsimp only | split

theorem execAttest_keeps (qu spoil : Nat) (flashFail : Bool) (s : State) {z : State} (hz : Keeps z s) : OutKeeps z (execAttest qu spoil flashFail s) := by
  unfold execAttest
  with_reducible repeat' first
    | assumption | refine outEvt ?_ ?_ | refine outNext ?_ | refine outIte ?_ ?_ | refine adminRow_keeps _ _ _ _ (fun _ _ _ _ => ?_) _ ?_
    | refine checks_keeps _ _ _ (fun _ _ _ => ?_) _ ?_ | apply endCmd_keeps | apply done_keeps | apply holdCmd_keeps | apply cmdWrite_keeps
    | apply takeLeaf_keeps | refine keepsSnd ‹_› ?_ | fail_if_no_progress refine keepsMk rfl ?_ | refine keepsIte ?_ ?_ | dsimp only | split

/-! ## Launch -/

theorem workRow_keeps (qu op : Nat) (body : Cmd → State → State) (hb : ∀ x s a, Keeps a s → Keeps a (body x s)) (s : State) {a : State} (k : Keeps a s) :
    OutKeeps a (workRow qu op body s) := by
  unfold workRow
  with_reducible repeat' first
    | assumption | refine outEvt ?_ ?_ | refine outNext ?_ | apply hb | apply endCmd_keeps | apply started_keeps | refine keepsIte ?_ ?_ | dsimp only
    | split

theorem giveFlags_keeps (q launch : Nat) (l : List (Nat × Nat)) (s : State) {z : State} (hz : Keeps z s) : Keeps z (giveFlags q launch l s) := by
  unfold giveFlags
  with_reducible repeat' first
    | assumption | apply setFlagStore_keeps

theorem takeFlags_keeps (x : Cmd) (s : State) {z : State} (hz : Keeps z s) : Keeps z (takeFlags x s).2 := by
  unfold takeFlags
  with_reducible repeat' first
    | assumption | apply modCmd_keeps | apply giveFlags_keeps | fail_if_no_progress refine keepsMk rfl ?_ | refine keepsIte ?_ ?_ | dsimp only | split

theorem awaitFlags_keeps (x : Cmd) (s : State) {z : State} (hz : Keeps z s) : Keeps z (awaitFlags x s) := by
  unfold awaitFlags
  with_reducible repeat' first
    | assumption | apply modCmd_keeps | fail_if_no_progress refine keepsMk rfl ?_

theorem launchBody_keeps (x : Cmd) (s : State) {z : State} (hz : Keeps z s) : Keeps z (launchBody x s) := by
  unfold launchBody
  with_reducible repeat' first
    | assumption | refine checks_keeps _ _ _ (fun _ _ _ => ?_) _ ?_ | refine afterNames_keeps _ _ (fun _ _ _ => ?_) _ ?_ | apply started_keeps
    | apply takeFlags_keeps | apply awaitFlags_keeps | fail_if_no_progress refine keepsMk rfl ?_ | refine keepsIte ?_ ?_

theorem execLaunch_keeps (qu : Nat) (s : State) {z : State} (hz : Keeps z s) : OutKeeps z (execLaunch qu s) := by
  unfold execLaunch
  with_reducible repeat' first
    | assumption | refine outEvt ?_ ?_ | refine outNext ?_ | refine outIte ?_ ?_ | apply launchBody_keeps
    | refine workRow_keeps _ _ _ (fun _ _ _ _ => ?_) _ ?_

theorem execCopy_keeps (qu : Nat) (s : State) {z : State} (hz : Keeps z s) : OutKeeps z (execCopy qu s) := by
  unfold execCopy
  with_reducible repeat' first
    | assumption | refine outEvt ?_ ?_ | refine outNext ?_ | refine outIte ?_ ?_ | apply started_keeps
    | refine workRow_keeps _ _ _ (fun _ _ _ _ => ?_) _ ?_ | refine checks_keeps _ _ _ (fun _ _ _ => ?_) _ ?_ | apply keepsId

theorem execMark_keeps (qu : Nat) (s : State) {z : State} (hz : Keeps z s) : OutKeeps z (execMark qu s) := by
  unfold execMark
  with_reducible repeat' first
    | assumption | refine outEvt ?_ ?_ | refine outNext ?_ | refine outIte ?_ ?_ | apply started_keeps
    | refine workRow_keeps _ _ _ (fun _ _ _ _ => ?_) _ ?_ | refine checks_keeps _ _ _ (fun _ _ _ => ?_) _ ?_ | apply keepsId

theorem execLaunchFlagsFreed_keeps (s : State) {z : State} (hz : Keeps z s) : OutKeeps z (execLaunchFlagsFreed s) := by
  unfold execLaunchFlagsFreed
  with_reducible repeat' first
    | assumption | refine outEvt ?_ ?_ | refine outNext ?_ | refine outIte ?_ ?_ | apply takeFlags_keeps | refine keepsSnd ‹_› ?_
    | fail_if_no_progress refine keepsMk rfl ?_ | refine keepsIte ?_ ?_ | dsimp only | split

theorem stageOne_keeps (st slot pa : Nat) (b : List Byte) (psn : List Nat) (s : State) {z : State} (hz : Keeps z s) : OptKeeps z (stageOne st slot pa b psn s) := by
  unfold stageOne
  with_reducible repeat' first
    | assumption | exact optNone | refine optSome ?_ | refine optIte ?_ ?_ | apply resolveConflict_keeps | apply spillRoom_keeps
    | apply noteCuts_keeps | apply slotPut_keeps | refine keepsFold _ (fun _ _ _ => ?_) _ ?_ | fail_if_no_progress refine keepsMk rfl ?_
    | refine keepsIte ?_ ?_ | refine optOf ‹_› ?_ | dsimp only | split

theorem stageAll_keeps (st slot : Nat) (x0 : List (Nat × List Byte × List Nat)) (s : State) {z : State} (hz : Keeps z s) : OptKeeps z (stageAll st slot x0 s) := by
  induction x0 generalizing s with
  | nil => exact optSome hz
  | cons a t ih =>
    unfold stageAll
    with_reducible repeat' first
      | assumption | cases ‹a :: t = _› | apply ih | refine optSome ?_ | exact optNone | refine optIte ?_ ?_ | apply stageOne_keeps
      | refine optSome ?_ | exact optNone | refine optIte ?_ ?_ | refine optOf ‹_› ?_ | fail_if_no_progress refine keepsMk rfl ?_
      | refine keepsIte ?_ ?_ | dsimp only | split

theorem deliver_keeps (launch : Nat) (r : Run) (s : State) {z : State} (hz : Keeps z s) : Keeps z (deliver launch r s) := by
  unfold deliver
  with_reducible repeat' first
    | assumption | apply setCore_keeps | apply signal_keeps | apply launchKeyFail_keeps | refine keepsFold _ (fun _ _ _ => ?_) _ ?_
    | fail_if_no_progress refine keepsMk rfl ?_ | refine keepsIte ?_ ?_

theorem openRun_keeps (x : Cmd) (launch st : Nat) (r : Run) (s : State) {z : State} (hz : Keeps z s) : Keeps z (openRun x launch st r s) := by
  unfold openRun
  with_reducible repeat' first
    | assumption | apply syncRoles_keeps | apply modCmd_keeps | fail_if_no_progress refine keepsMk rfl ?_

theorem beginViews_keeps (x : Cmd) (launch st : Nat) (r0 : Run) (ctxs : List Nat) (s : State) {z : State} (hz : Keeps z s) : Keeps z (beginViews x launch st r0 ctxs s) := by
  unfold beginViews
  with_reducible repeat' first
    | assumption | refine optSome ?_ | exact optNone | refine optIte ?_ ?_ | refine optOf ‹_› ?_ | refine checks_keeps _ _ _ (fun _ _ _ => ?_) _ ?_
    | apply endCmd_keeps | apply done_keeps | apply holdCmd_keeps | apply stageAll_keeps | apply deliver_keeps | apply openRun_keeps
    | fail_if_no_progress refine keepsMk rfl ?_ | refine keepsIte ?_ ?_ | dsimp only | split

theorem beginLaunch_keeps (x : Cmd) (launch st : Nat) (cores : List Nat) (s : State) {z : State} (hz : Keeps z s) : Keeps z (beginLaunch x launch st cores s) := by
  unfold beginLaunch
  with_reducible repeat' first
    | assumption | refine onRead_keeps _ _ _ (fun _ _ _ _ => ?_) ?_ | apply done_keeps | apply cmdRead_keeps | apply beginViews_keeps
    | fail_if_no_progress refine keepsMk rfl ?_ | refine keepsIte ?_ ?_ | dsimp only | split

theorem tidyFlags_keeps (x : Cmd) (launch : Nat) (s : State) {z : State} (hz : Keeps z s) : Keeps z (tidyFlags x launch s) := by
  unfold tidyFlags
  with_reducible repeat' first
    | assumption | apply freeFlags_keeps | fail_if_no_progress refine keepsMk rfl ?_ | refine keepsIte ?_ ?_ | dsimp only | split

theorem beginRun_keeps (x : Cmd) (launch st : Nat) (s : State) {z : State} (hz : Keeps z s) : Keeps z (beginRun x launch st s) := by
  unfold beginRun
  with_reducible repeat' first
    | assumption | apply endCmd_keeps | apply done_keeps | apply openRun_keeps | apply beginLaunch_keeps | apply tidyFlags_keeps
    | fail_if_no_progress refine keepsMk rfl ?_ | refine keepsIte ?_ ?_

theorem execRunStart_keeps (qu seq : Nat) (s : State) {z : State} (hz : Keeps z s) : OutKeeps z (execRunStart qu seq s) := by
  unfold execRunStart
  with_reducible repeat' first
    | assumption | refine outEvt ?_ ?_ | refine outNext ?_ | refine outIte ?_ ?_ | apply beginRun_keeps | fail_if_no_progress refine keepsMk rfl ?_
    | refine keepsIte ?_ ?_ | dsimp only | split

theorem execRedispatch_keeps (qu seq : Nat) (s : State) {z : State} (hz : Keeps z s) : OutKeeps z (execRedispatch qu seq s) := by
  unfold execRedispatch
  with_reducible repeat' first
    | assumption | refine outEvt ?_ ?_ | refine outNext ?_ | refine outIte ?_ ?_ | apply modCmd_keeps | apply readAt_keeps | apply holdCmd_keeps
    | apply takeFlags_keeps | apply awaitFlags_keeps | apply beginRun_keeps | refine keepsSnd ‹_› ?_ | fail_if_no_progress refine keepsMk rfl ?_
    | refine keepsIte ?_ ?_ | dsimp only | split

theorem copyRun_keeps (x : Cmd) (launch st : Nat) (r : Run) (s : State) {z : State} (hz : Keeps z s) : Keeps z (copyRun x launch st r s) := by
  unfold copyRun
  with_reducible repeat' first
    | assumption | refine optSome ?_ | exact optNone | refine optIte ?_ ?_ | refine optOf ‹_› ?_ | apply write_keeps | apply modRun_keeps
    | apply modCmd_keeps | apply failRun_keeps | apply readAt_keeps | apply noteMismatch_keeps | apply noteCuts_keeps | apply holdCmd_keeps
    | apply stageAll_keeps | refine keepsSnd ‹_› ?_ | fail_if_no_progress refine keepsMk rfl ?_ | refine keepsIte ?_ ?_ | dsimp only | split

theorem execRunEnded_keeps (qu seq : Nat) (s : State) {z : State} (hz : Keeps z s) : OutKeeps z (execRunEnded qu seq s) := by
  unfold execRunEnded
  with_reducible repeat' first
    | assumption | refine outEvt ?_ ?_ | refine outNext ?_ | refine outIte ?_ ?_ | apply modCmd_keeps | apply copyRun_keeps
    | fail_if_no_progress refine keepsMk rfl ?_ | refine keepsIte ?_ ?_ | dsimp only | split

theorem stopCmd_keeps (x : Cmd) (status : Nat) (s : State) {z : State} (hz : Keeps z s) : Keeps z (stopCmd x status s) := by
  unfold stopCmd
  with_reducible repeat' first
    | assumption | apply freeFlags_keeps | apply failRun_keeps | apply done_keeps | fail_if_no_progress refine keepsMk rfl ?_ | refine keepsIte ?_ ?_
    | dsimp only | split

theorem dropPinOf_keeps (x : Cmd) (s : State) {z : State} (hz : Keeps z s) : Keeps z (dropPinOf x s) := by
  unfold dropPinOf
  with_reducible repeat' first
    | assumption | apply releasePin_keeps | fail_if_no_progress refine keepsMk rfl ?_ | refine keepsIte ?_ ?_ | dsimp only | split

theorem execCommandTimeout_keeps (qu seq : Nat) (s : State) {z : State} (hz : Keeps z s) : OutKeeps z (execCommandTimeout qu seq s) := by
  unfold execCommandTimeout
  with_reducible repeat' first
    | assumption | refine outEvt ?_ ?_ | refine outNext ?_ | refine outIte ?_ ?_ | apply stopCmd_keeps | apply dropPinOf_keeps
    | fail_if_no_progress refine keepsMk rfl ?_ | refine keepsIte ?_ ?_ | dsimp only | split

theorem execCommandReadTimeout_keeps (qu seq : Nat) (s : State) {z : State} (hz : Keeps z s) : OutKeeps z (execCommandReadTimeout qu seq s) := by
  unfold execCommandReadTimeout
  with_reducible repeat' first
    | assumption | refine outEvt ?_ ?_ | refine outNext ?_ | refine outIte ?_ ?_ | apply modCmd_keeps | apply failRun_keeps | apply readAt_keeps
    | apply stopCmd_keeps | fail_if_no_progress refine keepsMk rfl ?_ | refine keepsIte ?_ ?_ | dsimp only | split

/-! ## Tally -/

theorem putWords_keeps (slot pa : Nat) (b : List Byte) (psn : List Nat) (s : State) {z : State} (hz : Keeps z s) : Keeps z (putWords slot pa b psn s) := by
  unfold putWords
  with_reducible repeat' first
    | assumption | apply slotPut_keeps | refine keepsFold _ (fun _ _ _ => ?_) _ ?_

theorem putSectors_keeps (slot : Nat) (l : Line) (s : State) {z : State} (hz : Keeps z s) : Keeps z (putSectors slot l s) := by
  unfold putSectors
  with_reducible repeat' first
    | assumption | apply putWords_keeps | refine keepsFold _ (fun _ _ _ => ?_) _ ?_

theorem foldLine_keeps (h slot : Nat) (l : Line) (s : State) {z : State} (hz : Keeps z s) : Keeps z (foldLine h slot l s) := by
  unfold foldLine
  with_reducible repeat' first
    | assumption | apply setHalf_keeps | apply putSectors_keeps | fail_if_no_progress refine keepsMk rfl ?_ | refine keepsIte ?_ ?_

theorem foldHalf_keeps (st slot : Nat) (s : State) (h : Nat) {z : State} (hz : Keeps z s) : Keeps z (foldHalf st slot s h) := by
  unfold foldHalf
  with_reducible repeat' first
    | assumption | apply foldLine_keeps | refine keepsFold _ (fun _ _ _ => ?_) _ ?_

theorem foldSpills_keeps (st slot : Nat) (s : State) (q : Nat) {z : State} (hz : Keeps z s) : Keeps z (foldSpills st slot s q) := by
  unfold foldSpills
  with_reducible repeat' first
    | assumption | apply putWords_keeps | refine keepsFold _ (fun _ _ _ => ?_) _ ?_

theorem foldStage_keeps (st slot : Nat) (s : State) {z : State} (hz : Keeps z s) : Keeps z (foldStage st slot s) := by
  unfold foldStage
  with_reducible repeat' first
    | assumption | apply foldHalf_keeps | apply foldSpills_keeps | refine keepsFold _ (fun _ _ _ => ?_) _ ?_

theorem commitCtxs_keeps (r : Run) (b : List Byte) (s : State) {z : State} (hz : Keeps z s) : Keeps z (commitCtxs r b s) := by
  unfold commitCtxs
  with_reducible repeat' first
    | assumption | refine keepsFold _ (fun _ _ _ => ?_) _ ?_ | fail_if_no_progress refine keepsMk rfl ?_ | refine keepsIte ?_ ?_ | dsimp only | split

theorem noticeRec_keeps (k : Queue) (qu : Nat) (rec : List Byte) (s : State) {z : State} (hz : Keeps z s) : Keeps z (noticeRec k qu rec s) := by
  unfold noticeRec
  with_reducible repeat' first
    | assumption | apply notifyMb_keeps | refine keepsFold _ (fun _ _ _ => ?_) _ ?_

theorem postAdmin_keeps (qu seq : Nat) (k : Queue) (rec : List Byte) (s : State) {z : State} (hz : Keeps z s) : Keeps z (postAdmin qu seq k rec s) := by
  unfold postAdmin
  with_reducible repeat' first
    | assumption | apply setMb_keeps | apply setQueue_keeps | apply bump_keeps | apply noticeRec_keeps

theorem postWork_keeps (qu seq : Nat) (k : Queue) (rec : List Byte) (s : State) {z : State} (hz : Keeps z s) : Keeps z (postWork qu seq k rec s) := by
  unfold postWork
  with_reducible repeat' first
    | assumption | apply setQueue_keeps | apply bump_keeps | apply alarmW_keeps | apply cmdWrite_keeps | apply noticeRec_keeps
    | fail_if_no_progress refine keepsMk rfl ?_ | refine keepsIte ?_ ?_

theorem afterPost_keeps (x : Cmd) (s : State) {z : State} (hz : Keeps z s) : Keeps z (afterPost x s) := by
  unfold afterPost
  with_reducible repeat' first
    | assumption | apply setMb_keeps | apply queueGone_keeps | apply destroysDone_keeps | fail_if_no_progress refine keepsMk rfl ?_
    | refine keepsIte ?_ ?_

theorem post_keeps (x : Cmd) (status detail : Nat) (i : Bool × Nat × Nat × Nat) (s : State) {z : State} (hz : Keeps z s) : Keeps z (post x status detail i s) := by
  unfold post
  with_reducible repeat' first
    | assumption | apply postAdmin_keeps | apply postWork_keeps | apply afterPost_keeps | fail_if_no_progress refine keepsMk rfl ?_
    | refine keepsIte ?_ ?_ | dsimp only | split

theorem decideAbandon_keeps (x : Cmd) (launch : Nat) (r : Run) (status detail : Nat) (s : State) {z : State} (hz : Keeps z s) : Keeps z (decideAbandon x launch r status detail s) := by
  unfold decideAbandon
  with_reducible repeat' first
    | assumption | apply stopRun_keeps | apply post_keeps

theorem decideCommit_keeps (x : Cmd) (launch st : Nat) (r : Run) (status : Nat) (views : List Byte) (v : List (Nat × Nat)) (s : State) {z : State} (hz : Keeps z s) : Keeps z (decideCommit x launch st r status views v s) := by
  unfold decideCommit
  with_reducible repeat' first
    | assumption | apply stopRun_keeps | apply cmdWrite_keeps | apply foldStage_keeps | apply commitCtxs_keeps | apply post_keeps

theorem decideRun_keeps (x : Cmd) (launch st : Nat) (r : Run) (s : State) {z : State} (hz : Keeps z s) : Keeps z (decideRun x launch st r s) := by
  unfold decideRun
  with_reducible repeat' first
    | assumption | apply write_keeps | apply modCmd_keeps | apply holdCmd_keeps | apply readAt_keeps | apply cmdRead_keeps | refine keepsSnd ‹_› ?_
    | apply decideAbandon_keeps | apply decideCommit_keeps | fail_if_no_progress refine keepsMk rfl ?_ | refine keepsIte ?_ ?_ | dsimp only | split

theorem execCommandDecide_keeps (qu : Nat) (s : State) {z : State} (hz : Keeps z s) : OutKeeps z (execCommandDecide qu s) := by
  unfold execCommandDecide
  with_reducible repeat' first
    | assumption | refine outEvt ?_ ?_ | refine outNext ?_ | refine outIte ?_ ?_ | apply post_keeps | apply holdCmd_keeps | apply decideRun_keeps
    | fail_if_no_progress refine keepsMk rfl ?_ | refine keepsIte ?_ ?_ | dsimp only | split

end Sys2Proof.Machine
end

