-- ==== Sys2Proof/Laws/KeepsRows.lean ====
section
/-! SUPPORT. What every sheaf instruction keeps: the issue keeps where the row's body does. -/
namespace Sys2Proof.Machine

theorem rowReserved_keeps : RowKeeps rowReserved := fun _ _ _ _ => resWait
theorem issue_keeps (q c sl fmt op : Nat) (w0 e0 : W64) (form : Nat → Form) (mem : Bool) (hidden : Nat → List Nat) (body : Env → State → Res)
    (hb : ∀ v s a, Keeps a s → ResKeeps a (body v s)) (s : State) {a : State} (k : Keeps a s) :
    Keeps a (issue q c sl fmt op w0 e0 form mem hidden body s) := by
  unfold issue
  dsimp only
  split
  · exact k
  · refine keepsIte k (keepsIte k (keepsIte (fetchWait_keeps _ _ _ _ _ _ k) (keepsIte k (begins_keeps _ _ ?_ _ k))))
    split
    · exact hb
    · exact rowReserved_keeps
theorem issueRow_keeps (q c sl fmt op : Nat) (w0 e0 : W64) (r : SheafRow) (hb : RowKeeps r) (s : State) {a : State} (k : Keeps a s) :
    OutKeeps a (.next (issueRow q c sl fmt op w0 e0 r s)) := outNext (issue_keeps _ _ _ _ _ _ _ _ _ _ _ hb s k)
theorem opRow_keeps (ar : Nat) (types : List Nat) (okMod : Nat → Nat → Bool) (immOk : Bool) (fn : LaneFn) : RowKeeps (opRow ar types okMod immOk fn) :=
  fun v s _ k => aluBody_keeps ar fn v s k

theorem execAissue_keeps (q c sl : Nat) (w ext : W64) (s : State) {z : State} (hz : Keeps z s) : OutKeeps z (execAissue q c sl w ext s) :=
  issueRow_keeps _ _ _ _ _ _ _ _ (fun v s _ k => aissueBody_keeps v s k) s hz
theorem execAwait_keeps (q c sl : Nat) (w ext : W64) (s : State) {z : State} (hz : Keeps z s) : OutKeeps z (execAwait q c sl w ext s) :=
  issueRow_keeps _ _ _ _ _ _ _ _ (fun v s _ k => awaitBody_keeps v s k) s hz
theorem execAquery_keeps (q c sl : Nat) (w ext : W64) (s : State) {z : State} (hz : Keeps z s) : OutKeeps z (execAquery q c sl w ext s) :=
  issueRow_keeps _ _ _ _ _ _ _ _ (fun v s _ k => aqueryBody_keeps v s k) s hz
theorem execAdd_keeps (q c sl : Nat) (w ext : W64) (s : State) {z : State} (hz : Keeps z s) : OutKeeps z (execAdd q c sl w ext s) :=
  issueRow_keeps _ _ _ _ _ _ _ _ (opRow_keeps _ _ _ _ _) s hz
theorem execSub_keeps (q c sl : Nat) (w ext : W64) (s : State) {z : State} (hz : Keeps z s) : OutKeeps z (execSub q c sl w ext s) :=
  issueRow_keeps _ _ _ _ _ _ _ _ (opRow_keeps _ _ _ _ _) s hz
theorem execMul_keeps (q c sl : Nat) (w ext : W64) (s : State) {z : State} (hz : Keeps z s) : OutKeeps z (execMul q c sl w ext s) :=
  issueRow_keeps _ _ _ _ _ _ _ _ (opRow_keeps _ _ _ _ _) s hz
theorem execMulhi_keeps (q c sl : Nat) (w ext : W64) (s : State) {z : State} (hz : Keeps z s) : OutKeeps z (execMulhi q c sl w ext s) :=
  issueRow_keeps _ _ _ _ _ _ _ _ (opRow_keeps _ _ _ _ _) s hz
theorem execMad_keeps (q c sl : Nat) (w ext : W64) (s : State) {z : State} (hz : Keeps z s) : OutKeeps z (execMad q c sl w ext s) :=
  issueRow_keeps _ _ _ _ _ _ _ _ (opRow_keeps _ _ _ _ _) s hz
theorem execMin_keeps (q c sl : Nat) (w ext : W64) (s : State) {z : State} (hz : Keeps z s) : OutKeeps z (execMin q c sl w ext s) :=
  issueRow_keeps _ _ _ _ _ _ _ _ (opRow_keeps _ _ _ _ _) s hz
theorem execMax_keeps (q c sl : Nat) (w ext : W64) (s : State) {z : State} (hz : Keeps z s) : OutKeeps z (execMax q c sl w ext s) :=
  issueRow_keeps _ _ _ _ _ _ _ _ (opRow_keeps _ _ _ _ _) s hz
theorem execAbs_keeps (q c sl : Nat) (w ext : W64) (s : State) {z : State} (hz : Keeps z s) : OutKeeps z (execAbs q c sl w ext s) :=
  issueRow_keeps _ _ _ _ _ _ _ _ (opRow_keeps _ _ _ _ _) s hz
theorem execNeg_keeps (q c sl : Nat) (w ext : W64) (s : State) {z : State} (hz : Keeps z s) : OutKeeps z (execNeg q c sl w ext s) :=
  issueRow_keeps _ _ _ _ _ _ _ _ (opRow_keeps _ _ _ _ _) s hz
theorem execDiv_keeps (q c sl : Nat) (w ext : W64) (s : State) {z : State} (hz : Keeps z s) : OutKeeps z (execDiv q c sl w ext s) :=
  issueRow_keeps _ _ _ _ _ _ _ _ (opRow_keeps _ _ _ _ _) s hz
theorem execRem_keeps (q c sl : Nat) (w ext : W64) (s : State) {z : State} (hz : Keeps z s) : OutKeeps z (execRem q c sl w ext s) :=
  issueRow_keeps _ _ _ _ _ _ _ _ (opRow_keeps _ _ _ _ _) s hz
theorem execSqrt_keeps (q c sl : Nat) (w ext : W64) (s : State) {z : State} (hz : Keeps z s) : OutKeeps z (execSqrt q c sl w ext s) :=
  issueRow_keeps _ _ _ _ _ _ _ _ (opRow_keeps _ _ _ _ _) s hz
theorem execRcp_keeps (q c sl : Nat) (w ext : W64) (s : State) {z : State} (hz : Keeps z s) : OutKeeps z (execRcp q c sl w ext s) :=
  issueRow_keeps _ _ _ _ _ _ _ _ (opRow_keeps _ _ _ _ _) s hz
theorem execRsqrt_keeps (q c sl : Nat) (w ext : W64) (s : State) {z : State} (hz : Keeps z s) : OutKeeps z (execRsqrt q c sl w ext s) :=
  issueRow_keeps _ _ _ _ _ _ _ _ (opRow_keeps _ _ _ _ _) s hz
theorem execExp2_keeps (q c sl : Nat) (w ext : W64) (s : State) {z : State} (hz : Keeps z s) : OutKeeps z (execExp2 q c sl w ext s) :=
  issueRow_keeps _ _ _ _ _ _ _ _ (opRow_keeps _ _ _ _ _) s hz
theorem execLog2_keeps (q c sl : Nat) (w ext : W64) (s : State) {z : State} (hz : Keeps z s) : OutKeeps z (execLog2 q c sl w ext s) :=
  issueRow_keeps _ _ _ _ _ _ _ _ (opRow_keeps _ _ _ _ _) s hz
theorem execSin_keeps (q c sl : Nat) (w ext : W64) (s : State) {z : State} (hz : Keeps z s) : OutKeeps z (execSin q c sl w ext s) :=
  issueRow_keeps _ _ _ _ _ _ _ _ (opRow_keeps _ _ _ _ _) s hz
theorem execCos_keeps (q c sl : Nat) (w ext : W64) (s : State) {z : State} (hz : Keeps z s) : OutKeeps z (execCos q c sl w ext s) :=
  issueRow_keeps _ _ _ _ _ _ _ _ (opRow_keeps _ _ _ _ _) s hz
theorem execAnd_keeps (q c sl : Nat) (w ext : W64) (s : State) {z : State} (hz : Keeps z s) : OutKeeps z (execAnd q c sl w ext s) :=
  issueRow_keeps _ _ _ _ _ _ _ _ (opRow_keeps _ _ _ _ _) s hz
theorem execOr_keeps (q c sl : Nat) (w ext : W64) (s : State) {z : State} (hz : Keeps z s) : OutKeeps z (execOr q c sl w ext s) :=
  issueRow_keeps _ _ _ _ _ _ _ _ (opRow_keeps _ _ _ _ _) s hz
theorem execXor_keeps (q c sl : Nat) (w ext : W64) (s : State) {z : State} (hz : Keeps z s) : OutKeeps z (execXor q c sl w ext s) :=
  issueRow_keeps _ _ _ _ _ _ _ _ (opRow_keeps _ _ _ _ _) s hz
theorem execNot_keeps (q c sl : Nat) (w ext : W64) (s : State) {z : State} (hz : Keeps z s) : OutKeeps z (execNot q c sl w ext s) :=
  issueRow_keeps _ _ _ _ _ _ _ _ (opRow_keeps _ _ _ _ _) s hz
theorem execShl_keeps (q c sl : Nat) (w ext : W64) (s : State) {z : State} (hz : Keeps z s) : OutKeeps z (execShl q c sl w ext s) :=
  issueRow_keeps _ _ _ _ _ _ _ _ (opRow_keeps _ _ _ _ _) s hz
theorem execShr_keeps (q c sl : Nat) (w ext : W64) (s : State) {z : State} (hz : Keeps z s) : OutKeeps z (execShr q c sl w ext s) :=
  issueRow_keeps _ _ _ _ _ _ _ _ (opRow_keeps _ _ _ _ _) s hz
theorem execRotl_keeps (q c sl : Nat) (w ext : W64) (s : State) {z : State} (hz : Keeps z s) : OutKeeps z (execRotl q c sl w ext s) :=
  issueRow_keeps _ _ _ _ _ _ _ _ (opRow_keeps _ _ _ _ _) s hz
theorem execPopc_keeps (q c sl : Nat) (w ext : W64) (s : State) {z : State} (hz : Keeps z s) : OutKeeps z (execPopc q c sl w ext s) :=
  issueRow_keeps _ _ _ _ _ _ _ _ (opRow_keeps _ _ _ _ _) s hz
theorem execClz_keeps (q c sl : Nat) (w ext : W64) (s : State) {z : State} (hz : Keeps z s) : OutKeeps z (execClz q c sl w ext s) :=
  issueRow_keeps _ _ _ _ _ _ _ _ (opRow_keeps _ _ _ _ _) s hz
theorem execMov_keeps (q c sl : Nat) (w ext : W64) (s : State) {z : State} (hz : Keeps z s) : OutKeeps z (execMov q c sl w ext s) :=
  issueRow_keeps _ _ _ _ _ _ _ _ (opRow_keeps _ _ _ _ _) s hz
theorem execSel_keeps (q c sl : Nat) (w ext : W64) (s : State) {z : State} (hz : Keeps z s) : OutKeeps z (execSel q c sl w ext s) :=
  issueRow_keeps _ _ _ _ _ _ _ _ (fun v s _ k => selBody_keeps v s k) s hz
theorem execSetp_keeps (q c sl : Nat) (w ext : W64) (s : State) {z : State} (hz : Keeps z s) : OutKeeps z (execSetp q c sl w ext s) :=
  issueRow_keeps _ _ _ _ _ _ _ _ (fun v s _ k => setpBody_keeps v s k) s hz
theorem execCvt_keeps (q c sl : Nat) (w ext : W64) (s : State) {z : State} (hz : Keeps z s) : OutKeeps z (execCvt q c sl w ext s) :=
  issueRow_keeps _ _ _ _ _ _ _ _ (fun v s _ k => cvtBody_keeps v s k) s hz
theorem execShfl_keeps (q c sl : Nat) (w ext : W64) (s : State) {z : State} (hz : Keeps z s) : OutKeeps z (execShfl q c sl w ext s) :=
  issueRow_keeps _ _ _ _ _ _ _ _ (fun v s _ k => shflBody_keeps v s k) s hz
theorem execRedu_keeps (q c sl : Nat) (w ext : W64) (s : State) {z : State} (hz : Keeps z s) : OutKeeps z (execRedu q c sl w ext s) :=
  issueRow_keeps _ _ _ _ _ _ _ _ (fun v s _ k => reduBody_keeps v s k) s hz
theorem execVote_keeps (q c sl : Nat) (w ext : W64) (s : State) {z : State} (hz : Keeps z s) : OutKeeps z (execVote q c sl w ext s) :=
  issueRow_keeps _ _ _ _ _ _ _ _ (fun v s _ k => voteBody_keeps v s k) s hz
theorem execLd_keeps (q c sl : Nat) (w ext : W64) (s : State) {z : State} (hz : Keeps z s) : OutKeeps z (execLd q c sl w ext s) :=
  issueRow_keeps _ _ _ _ _ _ _ _ (fun v s _ k => ldBody_keeps v s k) s hz
theorem execSt_keeps (q c sl : Nat) (w ext : W64) (s : State) {z : State} (hz : Keeps z s) : OutKeeps z (execSt q c sl w ext s) :=
  issueRow_keeps _ _ _ _ _ _ _ _ (fun v s _ k => stBody_keeps v s k) s hz
theorem execPfs_keeps (q c sl : Nat) (w ext : W64) (s : State) {z : State} (hz : Keeps z s) : OutKeeps z (execPfs q c sl w ext s) :=
  issueRow_keeps _ _ _ _ _ _ _ _ (fun v s _ k => bulkBody_keeps _ v s k) s hz
theorem execPwb_keeps (q c sl : Nat) (w ext : W64) (s : State) {z : State} (hz : Keeps z s) : OutKeeps z (execPwb q c sl w ext s) :=
  issueRow_keeps _ _ _ _ _ _ _ _ (fun v s _ k => bulkBody_keeps _ v s k) s hz
theorem execPfr_keeps (q c sl : Nat) (w ext : W64) (s : State) {z : State} (hz : Keeps z s) : OutKeeps z (execPfr q c sl w ext s) :=
  issueRow_keeps _ _ _ _ _ _ _ _ (fun v s _ k => pfrBody_keeps v s k) s hz
theorem execAtomAdd_keeps (q c sl : Nat) (w ext : W64) (s : State) {z : State} (hz : Keeps z s) : OutKeeps z (execAtomAdd q c sl w ext s) :=
  issueRow_keeps _ _ _ _ _ _ _ _ (fun v s _ k => atomBody_keeps _ v s k) s hz
theorem execAtomMin_keeps (q c sl : Nat) (w ext : W64) (s : State) {z : State} (hz : Keeps z s) : OutKeeps z (execAtomMin q c sl w ext s) :=
  issueRow_keeps _ _ _ _ _ _ _ _ (fun v s _ k => atomBody_keeps _ v s k) s hz
theorem execAtomMax_keeps (q c sl : Nat) (w ext : W64) (s : State) {z : State} (hz : Keeps z s) : OutKeeps z (execAtomMax q c sl w ext s) :=
  issueRow_keeps _ _ _ _ _ _ _ _ (fun v s _ k => atomBody_keeps _ v s k) s hz
theorem execAtomAnd_keeps (q c sl : Nat) (w ext : W64) (s : State) {z : State} (hz : Keeps z s) : OutKeeps z (execAtomAnd q c sl w ext s) :=
  issueRow_keeps _ _ _ _ _ _ _ _ (fun v s _ k => atomBody_keeps _ v s k) s hz
theorem execAtomOr_keeps (q c sl : Nat) (w ext : W64) (s : State) {z : State} (hz : Keeps z s) : OutKeeps z (execAtomOr q c sl w ext s) :=
  issueRow_keeps _ _ _ _ _ _ _ _ (fun v s _ k => atomBody_keeps _ v s k) s hz
theorem execAtomXor_keeps (q c sl : Nat) (w ext : W64) (s : State) {z : State} (hz : Keeps z s) : OutKeeps z (execAtomXor q c sl w ext s) :=
  issueRow_keeps _ _ _ _ _ _ _ _ (fun v s _ k => atomBody_keeps _ v s k) s hz
theorem execAtomXchg_keeps (q c sl : Nat) (w ext : W64) (s : State) {z : State} (hz : Keeps z s) : OutKeeps z (execAtomXchg q c sl w ext s) :=
  issueRow_keeps _ _ _ _ _ _ _ _ (fun v s _ k => atomBody_keeps _ v s k) s hz
theorem execAtomCas_keeps (q c sl : Nat) (w ext : W64) (s : State) {z : State} (hz : Keeps z s) : OutKeeps z (execAtomCas q c sl w ext s) :=
  issueRow_keeps _ _ _ _ _ _ _ _ (fun v s _ k => atomBody_keeps _ v s k) s hz
theorem execLockAcq_keeps (q c sl : Nat) (w ext : W64) (s : State) {z : State} (hz : Keeps z s) : OutKeeps z (execLockAcq q c sl w ext s) :=
  issueRow_keeps _ _ _ _ _ _ _ _ (fun v s _ k => lockAcqBody_keeps v s k) s hz
theorem execLockRel_keeps (q c sl : Nat) (w ext : W64) (s : State) {z : State} (hz : Keeps z s) : OutKeeps z (execLockRel q c sl w ext s) :=
  issueRow_keeps _ _ _ _ _ _ _ _ (fun v s _ k => lockRelBody_keeps v s k) s hz
theorem execBra_keeps (q c sl : Nat) (w ext : W64) (s : State) {z : State} (hz : Keeps z s) : OutKeeps z (execBra q c sl w ext s) :=
  issueRow_keeps _ _ _ _ _ _ _ _ (fun v s _ k => braBody_keeps v s k) s hz
theorem execJmp_keeps (q c sl : Nat) (w ext : W64) (s : State) {z : State} (hz : Keeps z s) : OutKeeps z (execJmp q c sl w ext s) :=
  issueRow_keeps _ _ _ _ _ _ _ _ (fun _ _ _ k => resGo k) s hz
theorem execCall_keeps (q c sl : Nat) (w ext : W64) (s : State) {z : State} (hz : Keeps z s) : OutKeeps z (execCall q c sl w ext s) :=
  issueRow_keeps _ _ _ _ _ _ _ _ (fun v s _ k => callBody_keeps v s k) s hz
theorem execJmpr_keeps (q c sl : Nat) (w ext : W64) (s : State) {z : State} (hz : Keeps z s) : OutKeeps z (execJmpr q c sl w ext s) :=
  issueRow_keeps _ _ _ _ _ _ _ _ (fun v s _ k => pairJump_keeps _ v s k) s hz
theorem execRet_keeps (q c sl : Nat) (w ext : W64) (s : State) {z : State} (hz : Keeps z s) : OutKeeps z (execRet q c sl w ext s) :=
  issueRow_keeps _ _ _ _ _ _ _ _ (fun v s _ k => pairJump_keeps _ v s k) s hz
theorem execExit_keeps (q c sl : Nat) (w ext : W64) (s : State) {z : State} (hz : Keeps z s) : OutKeeps z (execExit q c sl w ext s) :=
  issueRow_keeps _ _ _ _ _ _ _ _ (fun v s _ k => exitBody_keeps v s k) s hz
theorem execBar_keeps (q c sl : Nat) (w ext : W64) (s : State) {z : State} (hz : Keeps z s) : OutKeeps z (execBar q c sl w ext s) :=
  issueRow_keeps _ _ _ _ _ _ _ _ (fun v s _ k => barBody_keeps v s k) s hz
theorem execFlagSet_keeps (q c sl : Nat) (w ext : W64) (s : State) {z : State} (hz : Keeps z s) : OutKeeps z (execFlagSet q c sl w ext s) :=
  issueRow_keeps _ _ _ _ _ _ _ _ (fun v s _ k => flagBody_keeps _ v s k) s hz
theorem execFlagAdd_keeps (q c sl : Nat) (w ext : W64) (s : State) {z : State} (hz : Keeps z s) : OutKeeps z (execFlagAdd q c sl w ext s) :=
  issueRow_keeps _ _ _ _ _ _ _ _ (fun v s _ k => flagBody_keeps _ v s k) s hz
theorem execFlagWait_keeps (q c sl : Nat) (w ext : W64) (s : State) {z : State} (hz : Keeps z s) : OutKeeps z (execFlagWait q c sl w ext s) :=
  issueRow_keeps _ _ _ _ _ _ _ _ (fun v s _ k => flagWaitBody_keeps v s k) s hz
theorem execNop_keeps (q c sl : Nat) (w ext : W64) (s : State) {z : State} (hz : Keeps z s) : OutKeeps z (execNop q c sl w ext s) :=
  issueRow_keeps _ _ _ _ _ _ _ _ (fun _ _ _ k => resGo k) s hz
theorem execFence_keeps (q c sl : Nat) (w ext : W64) (s : State) {z : State} (hz : Keeps z s) : OutKeeps z (execFence q c sl w ext s) :=
  issueRow_keeps _ _ _ _ _ _ _ _ (fun v s _ k => fenceBody_keeps v s k) s hz
theorem execInval_keeps (q c sl : Nat) (w ext : W64) (s : State) {z : State} (hz : Keeps z s) : OutKeeps z (execInval q c sl w ext s) :=
  issueRow_keeps _ _ _ _ _ _ _ _ (fun v s _ k => invalBody_keeps v s k) s hz
theorem execRndU32_keeps (q c sl : Nat) (w ext : W64) (s : State) {z : State} (hz : Keeps z s) : OutKeeps z (execRndU32 q c sl w ext s) :=
  issueRow_keeps _ _ _ _ _ _ _ _ (fun v s _ k => rndBody_keeps _ v s k) s hz
theorem execRndF32_keeps (q c sl : Nat) (w ext : W64) (s : State) {z : State} (hz : Keeps z s) : OutKeeps z (execRndF32 q c sl w ext s) :=
  issueRow_keeps _ _ _ _ _ _ _ _ (fun v s _ k => rndBody_keeps _ v s k) s hz
theorem execSample_keeps (q c sl : Nat) (w ext : W64) (s : State) {z : State} (hz : Keeps z s) : OutKeeps z (execSample q c sl w ext s) :=
  issueRow_keeps _ _ _ _ _ _ _ _ (fun v s _ k => sampleBody_keeps v s k) s hz
theorem execRole_keeps (q c sl : Nat) (w ext : W64) (s : State) {z : State} (hz : Keeps z s) : OutKeeps z (execRole q c sl w ext s) :=
  issueRow_keeps _ _ _ _ _ _ _ _ (fun v s _ k => roleBody_keeps v s k) s hz
theorem execStamp_keeps (q c sl : Nat) (w ext : W64) (s : State) {z : State} (hz : Keeps z s) : OutKeeps z (execStamp q c sl w ext s) :=
  issueRow_keeps _ _ _ _ _ _ _ _ (fun _ _ _ k => resGo (write_keeps _ _ _ _ _ k)) s hz

end Sys2Proof.Machine
end

