-- ==== Sys2Proof/Laws/KeepsModule.lean ====
section
/-! SUPPORT. One lemma for each operation and each command: what the ports, the boot, resets, temperature, identity and the register accesses keep (Safety.Keeps): the queue of waiting commands, fuses that are only blown,
the ranges of their counts, the time base, the canonical form. -/
namespace Sys2Proof.Machine

/-! ## Ports -/

theorem alternate_keeps (p : Nat) (s : State) {z : State} (hz : Keeps z s) : Keeps z (alternate p s) := by
  unfold alternate
  with_reducible repeat' first
    | assumption | apply setPort_keeps

theorem execPortRateAlternate_keeps (p : Nat) (s : State) {z : State} (hz : Keeps z s) : OutKeeps z (execPortRateAlternate p s) := by
  unfold execPortRateAlternate
  with_reducible repeat' first
    | assumption | refine outEvt ?_ ?_ | refine outNext ?_ | refine outIte ?_ ?_ | apply alternate_keeps

theorem execMgmtRateAlternate_keeps (s : State) {z : State} (hz : Keeps z s) : OutKeeps z (execMgmtRateAlternate s) := by
  unfold execMgmtRateAlternate
  with_reducible repeat' first
    | assumption | refine outEvt ?_ ?_ | refine outNext ?_ | refine outIte ?_ ?_ | apply alternate_keeps

theorem execPortLock_keeps (p : Nat) (s : State) {z : State} (hz : Keeps z s) : OutKeeps z (execPortLock p s) := by
  unfold execPortLock
  with_reducible repeat' first
    | assumption | refine outEvt ?_ ?_ | refine outNext ?_ | refine outIte ?_ ?_ | apply setPort_keeps

theorem execPortLockAlarm_keeps (p : Nat) (s : State) {z : State} (hz : Keeps z s) : OutKeeps z (execPortLockAlarm p s) := by
  unfold execPortLockAlarm
  with_reducible repeat' first
    | assumption | refine outEvt ?_ ?_ | refine outNext ?_ | refine outIte ?_ ?_ | apply setPort_keeps | apply raiseAlarm_keeps

theorem resendFlow_keeps (n flow : Nat) (s : State) {z : State} (hz : Keeps z s) : Keeps z (resendFlow n flow s) := by
  unfold resendFlow
  with_reducible repeat' first
    | assumption | apply bump_keeps | apply sendOn_keeps | refine keepsFold _ (fun _ _ _ => ?_) _ ?_ | fail_if_no_progress refine keepsMk rfl ?_
    | refine keepsIte ?_ ?_ | dsimp only | split

theorem retrainPort_keeps (p : Nat) (s : State) {z : State} (hz : Keeps z s) : Keeps z (retrainPort p s) := by
  unfold retrainPort
  with_reducible repeat' first
    | assumption | apply setPort_keeps

theorem execPortDown_keeps (p uncorr : Nat) (s : State) {z : State} (hz : Keeps z s) : OutKeeps z (execPortDown p uncorr s) := by
  unfold execPortDown
  with_reducible repeat' first
    | assumption | refine outEvt ?_ ?_ | refine outNext ?_ | refine outIte ?_ ?_ | apply bump_keeps | apply alarmW_keeps | apply resendFlow_keeps
    | apply retrainPort_keeps | refine keepsFold _ (fun _ _ _ => ?_) _ ?_

theorem execPfcPauseReceive_keeps (p prio : Nat) (pause : Bool) (s : State) {z : State} (hz : Keeps z s) : OutKeeps z (execPfcPauseReceive p prio pause s) := by
  unfold execPfcPauseReceive
  with_reducible repeat' first
    | assumption | refine outEvt ?_ ?_ | refine outNext ?_ | refine outIte ?_ ?_ | apply setPort_keeps

theorem execPfcPauseTimeout_keeps (p prio : Nat) (s : State) {z : State} (hz : Keeps z s) : OutKeeps z (execPfcPauseTimeout p prio s) := by
  unfold execPfcPauseTimeout
  with_reducible repeat' first
    | assumption | refine outEvt ?_ ?_ | refine outNext ?_ | refine outIte ?_ ?_ | apply setPort_keeps | apply alarmW_keeps

theorem cnpSend_keeps (i : Nat) (s : State) {z : State} (hz : Keeps z s) : Keeps z (cnpSend i s) := by
  unfold cnpSend
  with_reducible repeat' first
    | assumption | apply emit_keeps | apply setQp_keeps | fail_if_no_progress refine keepsMk rfl ?_ | refine keepsIte ?_ ?_

theorem roceMeets_keeps (f : List Byte) (s : State) {z : State} (hz : Keeps z s) : Keeps z (roceMeets f s) := by
  unfold roceMeets
  with_reducible repeat' first
    | assumption | apply roceNak_keeps | apply cnpSend_keeps | fail_if_no_progress refine keepsMk rfl ?_ | refine keepsIte ?_ ?_ | dsimp only | split

theorem pauseRequest_keeps (p fill : Nat) (s : State) {z : State} (hz : Keeps z s) : Keeps z (pauseRequest p fill s) := by
  unfold pauseRequest
  with_reducible repeat' first
    | assumption | apply setPort_keeps | fail_if_no_progress refine keepsMk rfl ?_ | refine keepsIte ?_ ?_

theorem execFrameReceive_keeps (p : Nat × Nat) (frame : List Byte) (s : State) {z : State} (hz : Keeps z s) : OutKeeps z (execFrameReceive p frame s) := by
  unfold execFrameReceive
  with_reducible repeat' first
    | assumption | refine outEvt ?_ ?_ | refine outNext ?_ | refine outIte ?_ ?_ | apply bump_keeps | apply ringPut_keeps | apply roceMeets_keeps
    | apply pauseRequest_keeps | fail_if_no_progress refine keepsMk rfl ?_ | refine keepsIte ?_ ?_

theorem hostqPtrWrite_keeps (p r v : Nat) (s : State) {z : State} (hz : Keeps z s) : Keeps z (hostqPtrWrite p r v s) := by
  unfold hostqPtrWrite
  with_reducible repeat' first
    | assumption | apply setPort_keeps | apply logIgnored_keeps | fail_if_no_progress refine keepsMk rfl ?_ | refine keepsIte ?_ ?_

theorem execFabHostqPtrWrite_keeps (p r : Nat) (v : BitVec 64) (s : State) {z : State} (hz : Keeps z s) : OutKeeps z (execFabHostqPtrWrite p r v s) := by
  unfold execFabHostqPtrWrite
  with_reducible repeat' first
    | assumption | refine outEvt ?_ ?_ | refine outNext ?_ | refine outIte ?_ ?_ | apply hostqPtrWrite_keeps

theorem hostqCfgWrite_keeps (p r v : Nat) (s : State) {z : State} (hz : Keeps z s) : Keeps z (hostqCfgWrite p r v s) := by
  unfold hostqCfgWrite
  with_reducible repeat' first
    | assumption | apply setPort_keeps | apply logIgnored_keeps | fail_if_no_progress refine keepsMk rfl ?_ | refine keepsIte ?_ ?_

theorem execHostTxSend_keeps (p r : Nat) (s : State) {z : State} (hz : Keeps z s) : OutKeeps z (execHostTxSend p r s) := by
  unfold execHostTxSend
  with_reducible repeat' first
    | assumption | refine outEvt ?_ ?_ | refine outNext ?_ | refine outIte ?_ ?_ | apply setPort_keeps | apply bump_keeps | apply cohWrite_keeps
    | apply noteRange_keeps | fail_if_no_progress refine keepsMk rfl ?_ | refine keepsIte ?_ ?_

theorem listenWrite_keeps (off v : Nat) (s : State) {z : State} (hz : Keeps z s) : Keeps z (listenWrite off v s) := by
  unfold listenWrite
  with_reducible repeat' first
    | assumption | apply logIgnored_keeps | apply put_keeps | exact fun _ => by decide | exact fun _ => BitVec.isLt _
    | exact fun h => tset_rising _ _ _ _ (tset_rising _ _ _ _ h) | exact tRising_tdel _ _
    | exact fun h => stWrite_wf _ _ _ _ _ (stWrite_wf _ _ _ _ _ h) | exact fun h => h | exact mwrite_wf _ _ _ | exact filter_wf _ _
    | exact stWrite_wf _ _ _ _ _ | exact stClear_wf _ _ _ _ | refine keepsIte ?_ ?_ | dsimp only | fail_if_no_progress refine keepsMk rfl ?_ | split
    | refine keepsListen _ _ ?_ ?_

theorem execListenEntryWrite_keeps (off : Nat) (v : BitVec 64) (s : State) {z : State} (hz : Keeps z s) : OutKeeps z (execListenEntryWrite off v s) := by
  unfold execListenEntryWrite
  with_reducible repeat' first
    | assumption | refine outEvt ?_ ?_ | refine outNext ?_ | refine outIte ?_ ?_ | apply listenWrite_keeps

theorem qpWrite_keeps (off v : Nat) (s : State) {z : State} (hz : Keeps z s) : Keeps z (qpWrite off v s) := by
  unfold qpWrite
  with_reducible repeat' first
    | assumption | apply logIgnored_keeps | apply put_keeps | apply setQp_keeps | exact fun _ => by decide | exact fun _ => BitVec.isLt _
    | exact fun h => tset_rising _ _ _ _ (tset_rising _ _ _ _ h) | exact tRising_tdel _ _
    | exact fun h => stWrite_wf _ _ _ _ _ (stWrite_wf _ _ _ _ _ h) | exact fun h => h | exact mwrite_wf _ _ _ | exact filter_wf _ _
    | exact stWrite_wf _ _ _ _ _ | exact stClear_wf _ _ _ _ | refine keepsIte ?_ ?_ | dsimp only | fail_if_no_progress refine keepsMk rfl ?_ | split
    | refine keepsQpTab _ _ ?_ ?_

theorem execQpEntryWrite_keeps (off : Nat) (v : BitVec 64) (s : State) {z : State} (hz : Keeps z s) : OutKeeps z (execQpEntryWrite off v s) := by
  unfold execQpEntryWrite
  with_reducible repeat' first
    | assumption | refine outEvt ?_ ?_ | refine outNext ?_ | refine outIte ?_ ?_ | apply qpWrite_keeps

theorem execPtpMessage_keeps (p : Nat) (ptp : BitVec 64) (rate : Int) (s : State) {z : State} (hz : Keeps z s) : OutKeeps z (execPtpMessage p ptp rate s) := by
  unfold execPtpMessage
  with_reducible repeat' first
    | assumption | refine outEvt ?_ ?_ | refine outNext ?_ | refine outIte ?_ ?_ | fail_if_no_progress refine keepsMk rfl ?_

theorem execPtpHoldover_keeps (s : State) {z : State} (hz : Keeps z s) : OutKeeps z (execPtpHoldover s) := by
  unfold execPtpHoldover
  with_reducible repeat' first
    | assumption | refine outEvt ?_ ?_ | refine outNext ?_ | refine outIte ?_ ?_ | apply alarmW_keeps | fail_if_no_progress refine keepsMk rfl ?_

theorem execPpsEdge_keeps (s : State) {z : State} (hz : Keeps z s) : OutKeeps z (execPpsEdge s) := by
  unfold execPpsEdge
  with_reducible repeat' first
    | assumption | refine outEvt ?_ ?_ | refine outNext ?_ | refine outIte ?_ ?_ | apply alarmW_keeps | fail_if_no_progress refine keepsMk rfl ?_
    | refine keepsIte ?_ ?_ | dsimp only | split

theorem execPpsLost_keeps (s : State) {z : State} (hz : Keeps z s) : OutKeeps z (execPpsLost s) := by
  unfold execPpsLost
  with_reducible repeat' first
    | assumption | refine outEvt ?_ ?_ | refine outNext ?_ | refine outIte ?_ ?_ | apply alarmW_keeps | fail_if_no_progress refine keepsMk rfl ?_

/-! ## Boot -/

theorem execHubPllLock_keeps (ok : Bool) (s : State) {z : State} (hz : Keeps z s) : OutKeeps z (execHubPllLock ok s) := by
  unfold execHubPllLock
  dsimp only
  have h1 : Keeps z { s with
      clk := { (if s.clk.pllLocked then s.clk else { s.clk with tb := 0, frac := 0, pllLocked := true } : Clocks) with locked := hubClocks s }
      boot := { s.boot with step := 2 } } := by
    refine keepsTrans (b := s) ⟨rfl, Fuses.Le.refl _, fun x => ⟨x.svnFloor, x.epochUsed, x.epochSpoiled, x.offset, x.cores⟩, ?_, fun x => x⟩ hz
    dsimp only
    split
    · exact .inl ⟨rfl, rfl⟩
    · exact .inr ⟨rfl, rfl⟩
  refine outEvt hz (keepsIte (retrainPort_keeps _ _ h1) (bootStop_keeps _ _ hz))

theorem execFwRecoverInput_keeps (asserted : Bool) (s : State) {z : State} (hz : Keeps z s) : OutKeeps z (execFwRecoverInput asserted s) := by
  unfold execFwRecoverInput
  with_reducible repeat' first
    | assumption | refine outEvt ?_ ?_ | refine outNext ?_ | refine outIte ?_ ?_ | fail_if_no_progress refine keepsMk rfl ?_

theorem startPelseso_keeps (img : List Byte) (recovered : Bool) (s : State) {z : State} (hz : Keeps z s) : Keeps z (startPelseso img recovered s) := by
  unfold startPelseso
  with_reducible repeat' first
    | assumption | apply retrainPort_keeps | refine keepsFold _ (fun _ _ _ => ?_) _ ?_ | fail_if_no_progress refine keepsMk rfl ?_

theorem execFirmwareVerify_keeps (s : State) {z : State} (hz : Keeps z s) : OutKeeps z (execFirmwareVerify s) := by
  unfold execFirmwareVerify
  with_reducible repeat' first
    | assumption | refine outEvt ?_ ?_ | refine outNext ?_ | refine outIte ?_ ?_ | apply startPelseso_keeps
    | fail_if_no_progress refine keepsMk rfl ?_ | refine keepsIte ?_ ?_

theorem tftpAsk_keeps (n : Nat) (s : State) {z : State} (hz : Keeps z s) : Keeps z (tftpAsk n s) := by
  unfold tftpAsk
  with_reducible repeat' first
    | assumption | apply modFrame_keeps

theorem fetchFail_keeps (s : State) {z : State} (hz : Keeps z s) : Keeps z (fetchFail s) := by
  unfold fetchFail
  with_reducible repeat' first
    | assumption | apply alarmW_keeps | apply startPelseso_keeps | fail_if_no_progress refine keepsMk rfl ?_ | refine keepsIte ?_ ?_

theorem imageFetched_keeps (img : List Byte) (wrong : List (Nat × Byte)) (s : State) {z : State} (hz : Keeps z s) : Keeps z (imageFetched img wrong s) := by
  unfold imageFetched
  with_reducible repeat' first
    | assumption | apply startPelseso_keeps | apply fetchFail_keeps | refine keepsFold _ (fun _ _ _ => ?_) _ ?_
    | fail_if_no_progress refine keepsMk rfl ?_ | refine keepsIte ?_ ?_

theorem execRecoveryFetch_keeps (s : State) {z : State} (hz : Keeps z s) : OutKeeps z (execRecoveryFetch s) := by
  unfold execRecoveryFetch
  with_reducible repeat' first
    | assumption | refine outEvt ?_ ?_ | refine outNext ?_ | refine outIte ?_ ?_ | apply tftpAsk_keeps | fail_if_no_progress refine keepsMk rfl ?_

theorem execTftpBlockReceive_keeps (block : Nat) (data : List Byte) (wrong : List (Nat × BitVec 8)) (s : State) {z : State} (hz : Keeps z s) : OutKeeps z (execTftpBlockReceive block data wrong s) := by
  unfold execTftpBlockReceive
  with_reducible repeat' first
    | assumption | refine outEvt ?_ ?_ | refine outNext ?_ | refine outIte ?_ ?_ | apply modFrame_keeps | apply tftpAsk_keeps
    | apply imageFetched_keeps | fail_if_no_progress refine keepsMk rfl ?_ | refine keepsIte ?_ ?_ | dsimp only | split

theorem execTftpBlockTimeout_keeps (s : State) {z : State} (hz : Keeps z s) : OutKeeps z (execTftpBlockTimeout s) := by
  unfold execTftpBlockTimeout
  with_reducible repeat' first
    | assumption | refine outEvt ?_ ?_ | refine outNext ?_ | refine outIte ?_ ?_ | apply tftpAsk_keeps | apply fetchFail_keeps
    | fail_if_no_progress refine keepsMk rfl ?_ | refine keepsIte ?_ ?_ | dsimp only | split

theorem execDhcpAttempt_keeps (s : State) {z : State} (hz : Keeps z s) : OutKeeps z (execDhcpAttempt s) := by
  unfold execDhcpAttempt
  with_reducible repeat' first
    | assumption | refine outEvt ?_ ?_ | refine outNext ?_ | refine outIte ?_ ?_ | apply modFrame_keeps | fail_if_no_progress refine keepsMk rfl ?_

theorem execDhcpOffer_keeps (addr : BitVec 32) (opt43 : List Byte) (s : State) {z : State} (hz : Keeps z s) : OutKeeps z (execDhcpOffer addr opt43 s) := by
  unfold execDhcpOffer
  with_reducible repeat' first
    | assumption | refine outEvt ?_ ?_ | refine outNext ?_ | refine outIte ?_ ?_ | fail_if_no_progress refine keepsMk rfl ?_

theorem execConsoleInput_keeps (src : BitVec 32) (_port : Nat) (bytes : List Byte) (s : State) {z : State} (hz : Keeps z s) : OutKeeps z (execConsoleInput src _port bytes s) := by
  unfold execConsoleInput
  with_reducible repeat' first
    | assumption | refine outEvt ?_ ?_ | refine outNext ?_ | refine outIte ?_ ?_ | fail_if_no_progress refine keepsMk rfl ?_

theorem idxFrom_length (a n : Nat) : (idxFrom a n).length = n := by
  induction n generalizing a with
  | zero => rfl
  | succ n ih => simp [idxFrom, ih]
/-- The rollback-floor fuses to be blown stay within the bank of 64. -/
theorem floorFuses_bound (s : State) (h : s.fuse.svnFloor ≤ 64) : s.fuse.svnFloor + (floorFuses s).length ≤ 64 := by
  unfold floorFuses
  dsimp only
  rw [idxFrom_length]
  split <;> omega
theorem orFold (l : List Nat) (f : Nat → BitVec 4) (v : BitVec 4) : v &&& l.foldl (fun a i => a ||| f i) v = v := by
  have h : ∀ (l : List Nat) (a : BitVec 4), v &&& a = v → v &&& l.foldl (fun a i => a ||| f i) a = v := by
    intro l
    induction l with
    | nil => intro a ha; exact ha
    | cons e t ih =>
      intro a ha
      refine ih _ ?_
      refine BitVec.eq_of_getLsbD_eq (fun i hi => ?_)
      have := congrArg (fun x : BitVec 4 => x.getLsbD i) ha
      simp only [BitVec.getLsbD_and] at this
      simp only [BitVec.getLsbD_and, BitVec.getLsbD_or]
      revert this
      cases v.getLsbD i <;> cases a.getLsbD i <;> simp
  exact h l v BitVec.and_self
theorem execFuseBlow_keeps (partly : List Nat) (s : State) {z : State} (hz : Keeps z s) : OutKeeps z (execFuseBlow partly s) := by
  unfold execFuseBlow
  dsimp only
  refine outEvt hz (keepsFold _ (fun _ _ h => alarmW_keeps _ _ _ _ h) _ ?_)
  refine keepsTrans (b := s) ⟨rfl, ?_, fun x => ?_, .inl ⟨rfl, rfl⟩, fun x => x⟩ hz
  · exact ⟨rfl, rfl, rfl, rfl, orFold _ _ _, Nat.le_add_right .., rfl, rfl, rfl, rfl, Nat.le_refl _, Nat.le_refl _, Nat.le_refl _, rfl, rfl, rfl, rfl, rfl, rfl, rfl⟩
  · have h1 := floorFuses_bound s x.svnFloor
    have h2 := List.length_filter_le (fun i => !partly.contains i) (floorFuses s)
    exact ⟨by dsimp only; omega, x.epochUsed, x.epochSpoiled, x.offset, x.cores⟩

theorem execBootKeyGenerate_keeps (s : State) {z : State} (hz : Keeps z s) : OutKeeps z (execBootKeyGenerate s) := by
  unfold execBootKeyGenerate
  with_reducible repeat' first
    | assumption | refine outEvt ?_ ?_ | refine outNext ?_ | refine outIte ?_ ?_ | apply drawEntropy_keeps | refine keepsSnd ‹_› ?_
    | fail_if_no_progress refine keepsMk rfl ?_

theorem execEntropyTestFail_keeps (s : State) {z : State} (hz : Keeps z s) : OutKeeps z (execEntropyTestFail s) := by
  unfold execEntropyTestFail
  with_reducible repeat' first
    | assumption | refine outEvt ?_ ?_ | refine outNext ?_ | apply bump_keeps | apply alarmW_keeps | apply failKeys_keeps
    | fail_if_no_progress refine keepsMk rfl ?_

theorem execEntropyStartUpTest_keeps (s : State) {z : State} (hz : Keeps z s) : OutKeeps z (execEntropyStartUpTest s) := by
  unfold execEntropyStartUpTest
  with_reducible repeat' first
    | assumption | refine outEvt ?_ ?_ | refine outNext ?_ | fail_if_no_progress refine keepsMk rfl ?_

theorem execOsCoreRelease_keeps (s : State) {z : State} (hz : Keeps z s) : OutKeeps z (execOsCoreRelease s) := by
  unfold execOsCoreRelease
  with_reducible repeat' first
    | assumption | refine outEvt ?_ ?_ | refine outNext ?_ | refine outIte ?_ ?_ | fail_if_no_progress refine keepsMk rfl ?_

/-! ## Resets -/

theorem execReferenceCheck_keeps (dev : Int) (missed : Nat) (s : State) {z : State} (hz : Keeps z s) : OutKeeps z (execReferenceCheck dev missed s) := by
  unfold execReferenceCheck
  with_reducible repeat' first
    | assumption | refine outEvt ?_ ?_ | refine outNext ?_ | refine outIte ?_ ?_ | apply bump_keeps | apply alarmW_keeps
    | fail_if_no_progress refine keepsMk rfl ?_ | refine keepsIte ?_ ?_ | dsimp only | split

theorem execLoopUnlock_keeps (q cd : Nat) (s : State) {z : State} (hz : Keeps z s) : OutKeeps z (execLoopUnlock q cd s) := by
  unfold execLoopUnlock
  with_reducible repeat' first
    | assumption | refine outEvt ?_ ?_ | refine outNext ?_ | apply alarmW_keeps | apply quarterFault_keeps | fail_if_no_progress refine keepsMk rfl ?_

theorem execTimeBaseSync_keeps (q : Nat) (s : State) {z : State} (hz : Keeps z s) : OutKeeps z (execTimeBaseSync q s) := by
  unfold execTimeBaseSync
  with_reducible repeat' first
    | assumption | refine outEvt ?_ ?_ | refine outNext ?_ | refine outIte ?_ ?_ | fail_if_no_progress refine keepsMk rfl ?_

theorem execCoreReset_keeps (q c : Nat) (s : State) {z : State} (hz : Keeps z s) : OutKeeps z (execCoreReset q c s) := by
  unfold execCoreReset
  with_reducible repeat' first
    | assumption | refine outEvt ?_ ?_ | refine outNext ?_ | apply coreReset_keeps

theorem execClusterReset_keeps (q k : Nat) (s : State) {z : State} (hz : Keeps z s) : OutKeeps z (execClusterReset q k s) := by
  unfold execClusterReset
  with_reducible repeat' first
    | assumption | refine outEvt ?_ ?_ | refine outNext ?_ | refine outIte ?_ ?_ | apply clusterReset_keeps

theorem execCoreHeadland_keeps (q c : Nat) (s : State) {z : State} (hz : Keeps z s) : OutKeeps z (execCoreHeadland q c s) := by
  unfold execCoreHeadland
  with_reducible repeat' first
    | assumption | refine outEvt ?_ ?_ | refine outNext ?_ | refine outIte ?_ ?_ | apply setCore_keeps

theorem execQuarterFault_keeps (q : Nat) (stay : Bool) (s : State) {z : State} (hz : Keeps z s) : OutKeeps z (execQuarterFault q stay s) := by
  unfold execQuarterFault
  with_reducible repeat' first
    | assumption | refine outEvt ?_ ?_ | refine outNext ?_ | refine outIte ?_ ?_ | apply quarterFault_keeps

theorem abandonReq_keeps (r : GReq) (s : State) {z : State} (hz : Keeps z s) : Keeps z (abandonReq r s) := by
  unfold abandonReq
  with_reducible repeat' first
    | assumption | apply bump_keeps | apply abandonRun_keeps | fail_if_no_progress refine keepsMk rfl ?_ | refine keepsIte ?_ ?_ | dsimp only | split

theorem closeHalf_keeps (h : Nat) (s : State) {z : State} (hz : Keeps z s) : Keeps z (closeHalf h s) := by
  unfold closeHalf
  with_reducible repeat' first
    | assumption | apply setHalf_keeps | apply bump_keeps | apply settleReds_keeps | apply abandonReq_keeps
    | refine keepsFold _ (fun _ _ _ => ?_) _ ?_

theorem closeMcasts_keeps (q : Nat) (s : State) {z : State} (hz : Keeps z s) : Keeps z (closeMcasts q s) := by
  unfold closeMcasts
  with_reducible repeat' first
    | assumption | apply mcastMod_keeps | refine keepsFold _ (fun _ _ _ => ?_) _ ?_

theorem flushStack_keeps (m : Nat) (s : State) {z : State} (hz : Keeps z s) : Keeps z (flushStack m s) := by
  unfold flushStack
  with_reducible repeat' first
    | assumption | apply setStack_keeps | apply write_keeps | apply lpWritten_keeps | refine keepsFold _ (fun _ _ _ => ?_) _ ?_

theorem stackSleep_keeps (m : Nat) (s0 : State) {z : State} (hz : Keeps z s0) : Keeps z (stackSleep m s0) := by
  unfold stackSleep
  with_reducible repeat' first
    | assumption | apply setStack_keeps | apply flushStack_keeps

theorem execHeadlandEnd_keeps (q : Nat) (s : State) {z : State} (hz : Keeps z s) : OutKeeps z (execHeadlandEnd q s) := by
  unfold execHeadlandEnd shutQuarter
  with_reducible repeat' first
    | assumption | refine outEvt ?_ ?_ | refine outNext ?_ | refine outIte ?_ ?_ | apply setQuarter_keeps | apply closeHalf_keeps
    | apply closeMcasts_keeps | apply stackSleep_keeps | refine keepsFold _ (fun _ _ _ => ?_) _ ?_

theorem sleepCore_keeps (n : Nat) (s : State) {z : State} (hz : Keeps z s) : Keeps z (sleepCore n s) := by
  unfold sleepCore
  with_reducible repeat' first
    | assumption | apply setCore_keeps | apply resetEndpoint_keeps | apply dropReqs_keeps | apply clearTilth_keeps | apply setPoint_keeps
    | fail_if_no_progress refine keepsMk rfl ?_ | refine keepsIte ?_ ?_

theorem loseFlags_keeps (s : State) (l : Nat) {z : State} (hz : Keeps z s) : Keeps z (loseFlags s l) := by
  unfold loseFlags
  with_reducible repeat' first
    | assumption | apply modCmd_keeps | apply abandonRun_keeps | fail_if_no_progress refine keepsMk rfl ?_ | refine keepsIte ?_ ?_ | dsimp only
    | split

theorem baseDieReset_keeps (q : Nat) (s : State) {z : State} (hz : Keeps z s) : Keeps z (baseDieReset q s) := by
  unfold baseDieReset
  with_reducible repeat' first
    | assumption | refine quarterCores_keeps _ _ (fun _ _ _ _ => ?_) _ ?_ | apply setHalf_keeps | apply setQuarter_keeps | apply setFlagStore_keeps
    | apply bump_keeps | apply retrainLinks_keeps | apply flushStack_keeps | apply sleepCore_keeps | apply loseFlags_keeps
    | refine keepsFold _ (fun _ _ _ => ?_) _ ?_ | fail_if_no_progress refine keepsMk rfl ?_

theorem execBaseDieReset_keeps (q rise : Nat) (s : State) {z : State} (hz : Keeps z s) : OutKeeps z (execBaseDieReset q rise s) := by
  unfold execBaseDieReset
  with_reducible repeat' first
    | assumption | refine outEvt ?_ ?_ | refine outNext ?_ | refine outIte ?_ ?_ | apply setQuarter_keeps | apply baseDieReset_keeps

theorem stackWake_keeps (m : Nat) (s : State) {z : State} (hz : Keeps z s) : Keeps z (stackWake m s) := by
  unfold stackWake
  with_reducible repeat' first
    | assumption | apply setStack_keeps

theorem stepDone_keeps (q : Nat) (s : State) {z : State} (hz : Keeps z s) : Keeps z (stepDone q s) := by
  unfold stepDone
  with_reducible repeat' first
    | assumption | apply setQuarter_keeps | apply fenceQuarter_keeps | apply quarterRails_keeps | apply stackWake_keeps
    | refine keepsFold _ (fun _ _ _ => ?_) _ ?_ | fail_if_no_progress refine keepsMk rfl ?_ | refine keepsIte ?_ ?_ | dsimp only | split

theorem execQuarterResetStep_keeps (q : Nat) (ok : Bool) (s : State) {z : State} (hz : Keeps z s) : OutKeeps z (execQuarterResetStep q ok s) := by
  unfold execQuarterResetStep
  with_reducible repeat' first
    | assumption | refine outEvt ?_ ?_ | refine outNext ?_ | refine outIte ?_ ?_ | apply fenceQuarter_keeps | apply stepDone_keeps
    | fail_if_no_progress refine keepsMk rfl ?_ | refine keepsIte ?_ ?_

theorem execRetryLaterReissue_keeps (i : Nat) (s : State) {z : State} (hz : Keeps z s) : OutKeeps z (execRetryLaterReissue i s) := by
  unfold execRetryLaterReissue
  with_reducible repeat' first
    | assumption | refine outEvt ?_ ?_ | refine outNext ?_ | refine outIte ?_ ?_ | apply sendReq_keeps | fail_if_no_progress refine keepsMk rfl ?_
    | refine keepsIte ?_ ?_ | dsimp only | split

theorem calibrate_keeps (n : Nat) (s : State) {z : State} (hz : Keeps z s) : Keeps z (calibrate n s) := by
  unfold calibrate
  with_reducible repeat' first
    | assumption | apply setCore_keeps

theorem waveCore_keeps (cal : Bool) (fails : List (Nat × Nat)) (n : Nat) (s : State) {z : State} (hz : Keeps z s) : Keeps z (waveCore cal fails n s) := by
  unfold waveCore
  with_reducible repeat' first
    | assumption | apply bump_keeps | apply setPoint_keeps | apply beginWake_keeps | apply wakeDone_keeps | apply calibrate_keeps
    | fail_if_no_progress refine keepsMk rfl ?_ | refine keepsIte ?_ ?_

theorem runWave_keeps (q wv : Nat) (fails : List (Nat × Nat)) (settled : Bool) (s : State) {z : State} (hz : Keeps z s) : Keeps z (runWave q wv fails settled s) := by
  unfold runWave
  with_reducible repeat' first
    | assumption | apply setQuarter_keeps | apply bump_keeps | apply alarmW_keeps | apply fenceQuarter_keeps | apply waveCore_keeps
    | refine keepsFold _ (fun _ _ _ => ?_) _ ?_ | fail_if_no_progress refine keepsMk rfl ?_ | refine keepsIte ?_ ?_

theorem execHarrowWave_keeps (q wv : Nat) (fails : List (Nat × Nat)) (settled : Bool) (s : State) {z : State} (hz : Keeps z s) : OutKeeps z (execHarrowWave q wv fails settled s) := by
  unfold execHarrowWave
  with_reducible repeat' first
    | assumption | refine outEvt ?_ ?_ | refine outNext ?_ | refine outIte ?_ ?_ | apply setQuarter_keeps | apply runWave_keeps
    | fail_if_no_progress refine keepsMk rfl ?_ | refine keepsIte ?_ ?_

theorem writeBackAll_keeps (s : State) {z : State} (hz : Keeps z s) : Keeps z (writeBackAll s) := by
  unfold writeBackAll
  with_reducible repeat' first
    | assumption | apply writeBack_keeps | apply flushStack_keeps | refine keepsFold _ (fun _ _ _ => ?_) _ ?_

theorem restart_keeps (kind : Nat) (counted : Bool) (s : State) {z : State} (hz : Keeps z s) : Keeps z (restart kind counted s) := by
  refine keepsTrans (b := s) ⟨rfl, Fuses.le_of_blown rfl, fun x => ⟨x.svnFloor, x.epochUsed, x.epochSpoiled, x.offset, x.cores⟩, .inl ⟨rfl, rfl⟩, fun x => ?_⟩ hz
  exact (canonSplit _).2 ⟨((canonSplit s).1 x).1, rfl, rfl, rfl, rfl, rfl, rfl, rfl, rfl, rfl, rfl, rfl, rfl, rfl, rfl, rfl, rfl, rfl, rfl, rfl⟩

theorem resetModule_keeps (kind : Nat) (s : State) {z : State} (hz : Keeps z s) : Keeps z (resetModule kind s) := by
  unfold resetModule
  with_reducible repeat' first
    | assumption | apply writeBackAll_keeps | apply restart_keeps | fail_if_no_progress refine keepsMk rfl ?_ | refine keepsIte ?_ ?_

theorem startDrain_keeps (s : State) {z : State} (hz : Keeps z s) : Keeps z (startDrain s) := by
  unfold startDrain
  with_reducible repeat' first
    | assumption | fail_if_no_progress refine keepsMk rfl ?_

theorem execModuleReset_keeps (s : State) {z : State} (hz : Keeps z s) : OutKeeps z (execModuleReset s) := by
  unfold execModuleReset
  with_reducible repeat' first
    | assumption | refine outEvt ?_ ?_ | refine outNext ?_ | refine outIte ?_ ?_ | apply resetModule_keeps | apply startDrain_keeps
    | fail_if_no_progress refine keepsMk rfl ?_ | refine keepsIte ?_ ?_

theorem execModuleDrainTimeout_keeps (s : State) {z : State} (hz : Keeps z s) : OutKeeps z (execModuleDrainTimeout s) := by
  unfold execModuleDrainTimeout
  with_reducible repeat' first
    | assumption | refine outEvt ?_ ?_ | refine outNext ?_ | refine outIte ?_ ?_ | apply resetModule_keeps

theorem execModResetInput_keeps (asserted : Bool) (s : State) {z : State} (hz : Keeps z s) : OutKeeps z (execModResetInput asserted s) := by
  unfold execModResetInput
  with_reducible repeat' first
    | assumption | refine outEvt ?_ ?_ | refine outNext ?_ | refine outIte ?_ ?_ | apply restart_keeps | apply resetModule_keeps
    | apply startDrain_keeps | fail_if_no_progress refine keepsMk rfl ?_ | refine keepsIte ?_ ?_

theorem execModResetHeld_keeps (s : State) {z : State} (hz : Keeps z s) : OutKeeps z (execModResetHeld s) := by
  unfold execModResetHeld
  with_reducible repeat' first
    | assumption | refine outEvt ?_ ?_ | refine outNext ?_ | refine outIte ?_ ?_ | apply resetModule_keeps

/-! ## Thermal -/

theorem takeChan_keeps (temps : List (Nat × Int)) (q i : Nat) (s : State) {z : State} (hz : Keeps z s) : Keeps z (takeChan temps q i s) := by
  unfold takeChan
  with_reducible repeat' first
    | assumption | apply putChan_keeps | fail_if_no_progress refine keepsMk rfl ?_ | refine keepsIte ?_ ?_

theorem takeRange_keeps (top : Int) (i : Nat) (r : Option Int) (s : State) {z : State} (hz : Keeps z s) : Keeps z (takeRange top i r s) := by
  unfold takeRange
  with_reducible repeat' first
    | assumption | apply putChan_keeps | fail_if_no_progress refine keepsMk rfl ?_ | refine keepsIte ?_ ?_

theorem takeRails_keeps (q : Nat) (volts amps tines : List Int) (s : State) {z : State} (hz : Keeps z s) : Keeps z (takeRails q volts amps tines s) := by
  unfold takeRails
  with_reducible repeat' first
    | assumption | apply takeRange_keeps | refine keepsFold _ (fun _ _ _ => ?_) _ ?_

theorem midRound_keeps (h : Nat) (s : State) {z : State} (hz : Keeps z s) : Keeps z (midRound h s).2 := by
  unfold midRound
  with_reducible repeat' first
    | assumption | apply bump_keeps | apply alarmW_keeps | fail_if_no_progress refine keepsMk rfl ?_ | refine keepsIte ?_ ?_

theorem ceSecond_keeps (h : Nat) (s : State) {z : State} (hz : Keeps z s) : Keeps z (ceSecond h s) := by
  unfold ceSecond
  with_reducible repeat' first
    | assumption | apply setHalf_keeps | apply alarmW_keeps | fail_if_no_progress refine keepsMk rfl ?_ | refine keepsIte ?_ ?_

theorem roundUse_keeps (h : Nat) (s : State) {z : State} (hz : Keeps z s) : Keeps z (roundUse h s) := by
  unfold roundUse
  with_reducible repeat' first
    | assumption | apply setHalf_keeps

theorem levelAlarm_keeps (i old : Nat) (s : State) {z : State} (hz : Keeps z s) : Keeps z (levelAlarm i old s) := by
  unfold levelAlarm
  with_reducible repeat' first
    | assumption | apply alarmW_keeps | fail_if_no_progress refine keepsMk rfl ?_ | refine keepsIte ?_ ?_

theorem setRegion_keeps (s : State) (i : Nat) (r : Region) {a : State} (k : Keeps a s) : Keeps a (s.setRegion i r) := by
  refine keepsTrans (keepsCanon (s := s) rfl rfl rfl rfl rfl (fun y => ?_)) k
  obtain ⟨h0, h1, h2, h3, h4, h5, h6, h7, h8, h9, h10, h11, h12, h13, h14, h15, h16, h17, h18, h19⟩ := (canonSplit s).1 y
  exact (canonSplit _).2 ⟨h0, h1, h2, h3, h4, h5, h6, h7, h8, h9, h10, h11, h12, h13, h14, h15, h16, h17, h18, tset_rising _ _ _ _ h19⟩

theorem regionRound_keeps (i : Nat) (stack : Bool) (e : Option Int) (s : State) {z : State} (hz : Keeps z s) : Keeps z (regionRound i stack e s) := by
  unfold regionRound
  with_reducible repeat' first
    | assumption | apply alarmW_keeps | apply levelAlarm_keeps | apply setRegion_keeps | fail_if_no_progress refine keepsMk rfl ?_
    | refine keepsIte ?_ ?_ | dsimp only | split

theorem tripCore_keeps (n : Nat) (s : State) {z : State} (hz : Keeps z s) : Keeps z (tripCore n s) := by
  unfold tripCore
  with_reducible repeat' first
    | assumption | apply setCore_keeps | apply bump_keeps | apply alarmW_keeps | apply coreReset_keeps | apply fenceCore_keeps | apply setPoint_keeps
    | fail_if_no_progress refine keepsMk rfl ?_ | refine keepsIte ?_ ?_

theorem tripQuarter_keeps (q : Nat) (s : State) {z : State} (hz : Keeps z s) : Keeps z (tripQuarter q s) := by
  unfold tripQuarter
  with_reducible repeat' first
    | assumption | apply setQuarter_keeps | apply bump_keeps | apply alarmW_keeps | apply quarterFault_keeps | apply sleepCore_keeps
    | refine quarterCores_keeps _ _ (fun _ _ _ _ => ?_) _ ?_

theorem tripsOf_keeps (q : Nat) (before : List Nat) (s : State) {z : State} (hz : Keeps z s) : Keeps z (tripsOf q before s) := by
  unfold tripsOf
  with_reducible repeat' first
    | assumption | apply tripCore_keeps | apply tripQuarter_keeps | refine keepsFold _ (fun _ _ _ => ?_) _ ?_
    | fail_if_no_progress refine keepsMk rfl ?_ | refine keepsIte ?_ ?_

theorem untrip_keeps (i : Nat) (s : State) {z : State} (hz : Keeps z s) : Keeps z (untrip i s) := by
  unfold untrip
  with_reducible repeat' first
    | assumption | apply levelAlarm_keeps | apply setRegion_keeps | fail_if_no_progress refine keepsMk rfl ?_ | refine keepsIte ?_ ?_

theorem coreHold_keeps (n : Nat) (s : State) {z : State} (hz : Keeps z s) : Keeps z (coreHold n s) := by
  unfold coreHold
  with_reducible repeat' first
    | assumption | apply setCore_keeps | apply requestWake_keeps | apply untrip_keeps | fail_if_no_progress refine keepsMk rfl ?_
    | refine keepsIte ?_ ?_

theorem quarterHold_keeps (q : Nat) (s : State) {z : State} (hz : Keeps z s) : Keeps z (quarterHold q s) := by
  unfold quarterHold
  with_reducible repeat' first
    | assumption | apply setQuarter_keeps | apply untrip_keeps | refine keepsFold _ (fun _ _ _ => ?_) _ ?_ | fail_if_no_progress refine keepsMk rfl ?_
    | refine keepsIte ?_ ?_ | dsimp only | split

theorem halfRound_keeps (second : Bool) (s : State) (h : Nat) {z : State} (hz : Keeps z s) : Keeps z (halfRound second s h) := by
  unfold halfRound
  exact keepsIte (ceSecond_keeps _ _ (roundUse_keeps _ _ hz)) (roundUse_keeps _ _ hz)

theorem roundEnds_keeps (t : Nat) (s : State) {z : State} (hz : Keeps z s) : Keeps z (roundEnds t s) := by
  unfold roundEnds
  exact bump_keeps _ _ _ (keepsMk rfl (keepsFold _ (fun _ _ h => halfRound_keeps _ _ _ h) _ hz))

theorem execHousekeepingRound_keeps (s : State) {z : State} (hz : Keeps z s) : OutKeeps z (execHousekeepingRound s) := by
  unfold execHousekeepingRound
  exact outEvt hz (roundEnds_keeps _ _ hz)

theorem limitRound_keeps (n : Nat) (s : State) {z : State} (hz : Keeps z s) : Keeps z (limitRound n s) := by
  unfold limitRound
  with_reducible repeat' first
    | assumption | apply setCore_keeps | apply bump_keeps | apply setPoint_keeps | apply pace_keeps | fail_if_no_progress refine keepsMk rfl ?_
    | refine keepsIte ?_ ?_

theorem minRound_keeps (q : Nat) (e : Nat × BitVec 64) (s : State) {z : State} (hz : Keeps z s) : Keeps z (minRound q e s) := by
  unfold minRound
  with_reducible repeat' first
    | assumption | apply setDomain_keeps | apply logRec_keeps | apply raiseAlarm_keeps | fail_if_no_progress refine keepsMk rfl ?_
    | refine keepsIte ?_ ?_

theorem middleRound_keeps (q : Nat) (s : State) {z : State} (hz : Keeps z s) : Keeps z (middleRound q s) :=
  regionRound_keeps _ _ _ _ (regionRound_keeps _ _ _ _ (midRound_keeps _ _ (midRound_keeps _ _ hz)))

theorem dieRound_keeps (q : Nat) (s : State) {z : State} (hz : Keeps z s) : Keeps z (dieRound q s) :=
  keepsFold _ (fun _ _ h => regionRound_keeps _ _ _ _ h) _ (keepsFold _ (fun _ _ h => regionRound_keeps _ _ _ _ h) _ hz)

theorem coreRound_keeps (q : Nat) (s : State) {z : State} (hz : Keeps z s) : Keeps z (coreRound q s) :=
  keepsFold _ (fun _ _ h => regionRound_keeps _ _ _ _ h) _ hz

theorem actRound_keeps (q : Nat) (s : State) {z : State} (hz : Keeps z s) : Keeps z (actRound q s) :=
  keepsFold _ (fun _ _ h => limitRound_keeps _ _ h) _ (quarterHold_keeps _ _ (keepsFold _ (fun _ _ h => coreHold_keeps _ _ h) _ hz))

theorem quarterRound_keeps (q : Nat) (temps : List (Nat × Int)) (minv : List (Nat × BitVec 64)) (volts amps tines : List Int) (s : State) {z : State}
    (hz : Keeps z s) : Keeps z (quarterRound q temps minv volts amps tines s) := by
  unfold quarterRound
  refine keepsFold _ (fun _ _ h => minRound_keeps _ _ _ h) _ (actRound_keeps _ _ (tripsOf_keeps _ _ _ (coreRound_keeps _ _ (dieRound_keeps _ _
    (middleRound_keeps _ _ (takeRails_keeps _ _ _ _ _ (correctScan_keeps _ _ (keepsFold _ (fun _ _ h => takeChan_keeps _ _ _ _ h) _ hz))))))))

theorem hubActions_keeps (s : State) {z : State} (hz : Keeps z s) : Keeps z (hubActions s) := by
  unfold hubActions
  with_reducible repeat' first
    | assumption | apply bump_keeps | apply alarmW_keeps | apply loseModule_keeps | fail_if_no_progress refine keepsMk rfl ?_ | refine keepsIte ?_ ?_

theorem coolRound_keeps (s : State) {z : State} (hz : Keeps z s) : Keeps z (coolRound s) := by
  unfold coolRound
  with_reducible repeat' first
    | assumption | apply alarmW_keeps | fail_if_no_progress refine keepsMk rfl ?_ | refine keepsIte ?_ ?_

theorem hubRound_keeps (temps : List (Nat × Int)) (s : State) {z : State} (hz : Keeps z s) : Keeps z (hubRound temps s) := by
  unfold hubRound
  with_reducible repeat' first
    | assumption | apply correctScan_keeps | apply takeChan_keeps | apply regionRound_keeps | apply hubActions_keeps | apply coolRound_keeps
    | refine keepsFold _ (fun _ _ _ => ?_) _ ?_

theorem arrivedNow_keeps (q : Nat) (s : State) {z : State} (hz : Keeps z s) : Keeps z (arrivedNow q s) := by
  unfold arrivedNow
  with_reducible repeat' first
    | assumption | fail_if_no_progress refine keepsMk rfl ?_

theorem execRoundResults_keeps (q : Nat) (temps : List (Nat × Int)) (minv : List (Nat × BitVec 64)) (volts amps tines : List Int) (s : State) {z : State} (hz : Keeps z s) : OutKeeps z (execRoundResults q temps minv volts amps tines s) := by
  unfold execRoundResults
  with_reducible repeat' first
    | assumption | refine outEvt ?_ ?_ | refine outNext ?_ | refine outIte ?_ ?_ | apply quarterRound_keeps | apply hubRound_keeps
    | apply arrivedNow_keeps | fail_if_no_progress refine keepsMk rfl ?_ | refine keepsIte ?_ ?_

theorem execRoundMissing_keeps (q : Nat) (s : State) {z : State} (hz : Keeps z s) : OutKeeps z (execRoundMissing q s) := by
  unfold execRoundMissing
  with_reducible repeat' first
    | assumption | refine outEvt ?_ ?_ | refine outNext ?_ | refine outIte ?_ ?_ | apply bump_keeps | apply alarmW_keeps | apply quarterFault_keeps
    | fail_if_no_progress refine keepsMk rfl ?_ | refine keepsIte ?_ ?_

theorem execCriticalLimitStep_keeps (q c : Nat) (s : State) {z : State} (hz : Keeps z s) : OutKeeps z (execCriticalLimitStep q c s) := by
  unfold execCriticalLimitStep
  with_reducible repeat' first
    | assumption | refine outEvt ?_ ?_ | refine outNext ?_ | apply setCore_keeps | apply setPoint_keeps

theorem execTripRecheck_keeps (q : Nat) (s : State) {z : State} (hz : Keeps z s) : OutKeeps z (execTripRecheck q s) := by
  unfold execTripRecheck
  with_reducible repeat' first
    | assumption | refine outEvt ?_ ?_ | refine outNext ?_ | refine outIte ?_ ?_ | apply quarterRailsOff_keeps

theorem raiseLevel_keeps (n lv : Nat) (s : State) {z : State} (hz : Keeps z s) : Keeps z (raiseLevel n lv s) := by
  unfold raiseLevel
  with_reducible repeat' first
    | assumption | apply levelAlarm_keeps | apply setRegion_keeps | fail_if_no_progress refine keepsMk rfl ?_ | refine keepsIte ?_ ?_

theorem paceNoted_keeps (n : Nat) (tp : Int) (s : State) {z : State} (hz : Keeps z s) : Keeps z (paceNoted n tp s) := by
  unfold paceNoted
  with_reducible repeat' first
    | assumption | apply setCore_keeps | apply bump_keeps | apply alarmW_keeps | apply pace_keeps | apply tripCore_keeps | apply raiseLevel_keeps
    | fail_if_no_progress refine keepsMk rfl ?_ | refine keepsIte ?_ ?_

theorem execPaceInterval_keeps (q c count mv : Nat) (s : State) {z : State} (hz : Keeps z s) : OutKeeps z (execPaceInterval q c count mv s) := by
  unfold execPaceInterval
  with_reducible repeat' first
    | assumption | refine outEvt ?_ ?_ | refine outNext ?_ | apply paceNoted_keeps

/-! ## Identity -/

theorem execIdSetOffset_keeps (bytes : List (BitVec 8)) (s : State) {z : State} (hz : Keeps z s) : OutKeeps z (execIdSetOffset bytes s) := by
  unfold execIdSetOffset
  with_reducible repeat' first
    | assumption | refine outEvt ?_ ?_ | refine outNext ?_ | refine outIte ?_ ?_ | exact fun _ => by decide | exact fun _ => BitVec.isLt _
    | exact fun h => tset_rising _ _ _ _ (tset_rising _ _ _ _ h) | exact tRising_tdel _ _
    | exact fun h => stWrite_wf _ _ _ _ _ (stWrite_wf _ _ _ _ _ h) | exact fun h => h | exact mwrite_wf _ _ _ | exact filter_wf _ _
    | exact stWrite_wf _ _ _ _ _ | exact stClear_wf _ _ _ _ | refine keepsIte ?_ ?_ | dsimp only | fail_if_no_progress refine keepsMk rfl ?_ | split
    | refine keepsIdst _ _ _ _ ?_ rfl ?_

theorem execIdRead_keeps (n : Nat) (s : State) {z : State} (hz : Keeps z s) : OutKeeps z (execIdRead n s) := by
  unfold execIdRead
  with_reducible repeat' first
    | assumption | refine outEvt ?_ ?_ | refine outNext ?_ | refine outIte ?_ ?_ | exact fun _ => by decide | exact fun _ => BitVec.isLt _
    | exact fun h => tset_rising _ _ _ _ (tset_rising _ _ _ _ h) | exact tRising_tdel _ _
    | exact fun h => stWrite_wf _ _ _ _ _ (stWrite_wf _ _ _ _ _ h) | exact fun h => h | exact mwrite_wf _ _ _ | exact filter_wf _ _
    | exact stWrite_wf _ _ _ _ _ | exact stClear_wf _ _ _ _ | refine keepsIte ?_ ?_ | dsimp only | fail_if_no_progress refine keepsMk rfl ?_

theorem execIdSclTimeout_keeps (s : State) {z : State} (hz : Keeps z s) : OutKeeps z (execIdSclTimeout s) := by
  unfold execIdSclTimeout
  with_reducible repeat' first
    | assumption | refine outEvt ?_ ?_ | refine outNext ?_ | refine outIte ?_ ?_ | exact fun _ => by decide | exact fun _ => BitVec.isLt _
    | exact fun h => tset_rising _ _ _ _ (tset_rising _ _ _ _ h) | exact tRising_tdel _ _
    | exact fun h => stWrite_wf _ _ _ _ _ (stWrite_wf _ _ _ _ _ h) | exact fun h => h | exact mwrite_wf _ _ _ | exact filter_wf _ _
    | exact stWrite_wf _ _ _ _ _ | exact stClear_wf _ _ _ _ | refine keepsIte ?_ ?_ | dsimp only | fail_if_no_progress refine keepsMk rfl ?_

/-! ## Regs -/

theorem readClears_keeps (off width : Nat) (s : State) {z : State} (hz : Keeps z s) : Keeps z (readClears off width s) := by
  unfold readClears
  with_reducible repeat' first
    | assumption | apply setDomain_keeps | fail_if_no_progress refine keepsMk rfl ?_ | refine keepsIte ?_ ?_

theorem fabCfgWrite_keeps (v : Nat) (s : State) {z : State} (hz : Keeps z s) : Keeps z (fabCfgWrite v s) := by
  unfold fabCfgWrite
  with_reducible repeat' first
    | assumption | apply logIgnored_keeps | fail_if_no_progress refine keepsMk rfl ?_ | refine keepsIte ?_ ?_

theorem timeCfgWrite_keeps (v : Nat) (s : State) {z : State} (hz : Keeps z s) : Keeps z (timeCfgWrite v s) := by
  unfold timeCfgWrite
  with_reducible repeat' first
    | assumption | fail_if_no_progress refine keepsMk rfl ?_ | refine keepsIte ?_ ?_

theorem regWrite_keeps (off v : Nat) (s : State) {z : State} (hz : Keeps z s) : Keeps z (regWrite off v s) := by
  unfold regWrite
  with_reducible repeat' first
    | assumption | apply traceCfgWrite_keeps | apply hostqPtrWrite_keeps | apply hostqCfgWrite_keeps | apply listenWrite_keeps | apply qpWrite_keeps
    | apply fabCfgWrite_keeps | apply timeCfgWrite_keeps | fail_if_no_progress refine keepsMk rfl ?_ | refine keepsIte ?_ ?_

theorem ctrlWrite_keeps (src off width v : Nat) (s : State) {z : State} (hz : Keeps z s) : Keeps z (ctrlWrite src off width v s) := by
  unfold ctrlWrite
  with_reducible repeat' first
    | assumption | apply logStray_keeps | apply mbWrite_keeps | apply regWrite_keeps | fail_if_no_progress refine keepsMk rfl ?_
    | refine keepsIte ?_ ?_ | dsimp only | split

theorem execRegisterWrite_keeps (off width : Nat) (v : BitVec 64) (s : State) {z : State} (hz : Keeps z s) : OutKeeps z (execRegisterWrite off width v s) := by
  unfold execRegisterWrite
  with_reducible repeat' first
    | assumption | refine outEvt ?_ ?_ | refine outNext ?_ | refine outIte ?_ ?_ | apply ctrlWrite_keeps

theorem execDevRead_keeps (off width : Nat) (s : State) {z : State} (hz : Keeps z s) : OutKeeps z (execDevRead off width s) := by
  unfold execDevRead
  with_reducible repeat' first
    | assumption | refine outEvt ?_ ?_ | refine outNext ?_ | refine outIte ?_ ?_ | apply bump_keeps | apply logStray_keeps
    | fail_if_no_progress refine keepsMk rfl ?_ | refine keepsIte ?_ ?_

/-! ## Access -/

theorem osData_keeps (k at_ : Nat) (b : List Byte) (psn : Bool) (s : State) {z : State} (hz : Keeps z s) : Keeps z (osData k at_ b psn s) := by
  unfold osData
  with_reducible repeat' first
    | assumption | apply setOs_keeps

theorem osAwait_keeps (k key off n at_ : Nat) (s : State) {z : State} (hz : Keeps z s) : Keeps z (osAwait k key off n at_ s) := by
  unfold osAwait
  with_reducible repeat' first
    | assumption | apply setOs_keeps

theorem guestAsk_keeps (k off : Nat) (write : Bool) (b : List Byte) (n at_ : Nat) (s : State) {z : State} (hz : Keeps z s) : Keeps z (guestAsk k off write b n at_ s) := by
  unfold guestAsk
  with_reducible repeat' first
    | assumption | apply write_keeps | apply guestSend_keeps | apply osAwait_keeps | fail_if_no_progress refine keepsMk rfl ?_ | refine keepsIte ?_ ?_

theorem osLoad_keeps (k : Nat) (p : Nat × Nat × Nat) (s : State) {z : State} (hz : Keeps z s) : Keeps z (osLoad k p s) := by
  unfold osLoad
  with_reducible repeat' first
    | assumption | apply logStray_keeps | apply sendReqs_keeps | apply osData_keeps | apply osAwait_keeps | apply guestAsk_keeps
    | fail_if_no_progress refine keepsMk rfl ?_ | refine keepsIte ?_ ?_ | dsimp only | split

theorem osStore_keeps (k : Nat) (v : Nat) (p : Nat × Nat × Nat) (s : State) {z : State} (hz : Keeps z s) : Keeps z (osStore k v p s) := by
  unfold osStore
  with_reducible repeat' first
    | assumption | apply logStray_keeps | apply cohWrite_keeps | apply sendReqs_keeps | apply guestAsk_keeps
    | fail_if_no_progress refine keepsMk rfl ?_ | refine keepsIte ?_ ?_ | dsimp only | split

theorem osCtrl_keeps (k : Nat) (write : Bool) (off width v : Nat) (s : State) {z : State} (hz : Keeps z s) : Keeps z (osCtrl k write off width v s) := by
  unfold osCtrl
  with_reducible repeat' first
    | assumption | apply logStray_keeps | apply write_keeps | apply readClears_keeps | apply ctrlWrite_keeps | apply osData_keeps
    | fail_if_no_progress refine keepsMk rfl ?_ | refine keepsIte ?_ ?_

theorem osFound_keeps (write : Bool) (addr width err : Nat) (s : State) {z : State} (hz : Keeps z s) : Keeps z (osFound write addr width err s) := by
  unfold osFound
  with_reducible repeat' first
    | assumption | apply demandHub_keeps | apply demandTilth_keeps | refine keepsIte ?_ ?_ | split

theorem execOsCoreAccess_keeps (core : Nat) (write : Bool) (addr width : Nat) (v : BitVec 512) (err : BitVec 78) (s : State) {z : State} (hz : Keeps z s) : OutKeeps z (execOsCoreAccess core write addr width v err s) := by
  unfold execOsCoreAccess
  with_reducible repeat' first
    | assumption | refine outEvt ?_ ?_ | refine outNext ?_ | refine outIte ?_ ?_ | apply setOs_keeps | apply bump_keeps | apply osLoad_keeps | apply osStore_keeps | apply osCtrl_keeps
    | apply osFound_keeps | refine keepsFold _ (fun _ _ _ => ?_) _ ?_ | fail_if_no_progress refine keepsMk rfl ?_ | refine keepsIte ?_ ?_ | dsimp only
    | split

end Sys2Proof.Machine
end

