-- ==== Sys2Proof/Laws/Queues.lean ====
section
/-! SUPPORT. Laws of a command of a queue that starts: what its row answers, and what its checks let through. -/
namespace Sys2Proof.Machine

/-- The row of the next admin command runs its body. -/
theorem admin_row {s : State} {qu op : Nat} {x : Cmd} {mine : Cmd → Bool} {body : Cmd → State → State} (h : adminStarts s qu op x = true)
    (hm : mine x = true) : adminRow qu op mine body s = .next (body x (started x s)) := by
  simp only [adminStarts, Bool.and_eq_true, beq_iff_eq] at h
  obtain ⟨⟨⟨⟨⟨h1, h2⟩, h3⟩, h4⟩, h5⟩, h6⟩ := h
  simp only [adminRow, h1, h2, h3, h4, h5, h6, hm, evt, decide_true, Bool.and_self, and_self, if_true]
/-- The row of a work queue's next command runs its body. -/
theorem work_row {s : State} {qu op : Nat} {x : Cmd} {body : Cmd → State → State} (h : workStarts s qu op x = true) :
    workRow qu op body s = .next (body x s) := by
  simp only [workStarts, Bool.and_eq_true, beq_iff_eq, decide_eq_true_eq] at h
  obtain ⟨⟨⟨⟨⟨⟨h1, h2⟩, h3⟩, h4⟩, h5⟩, h6⟩, h7⟩ := h
  simp only [workRow, h1, h2, h3, h4, h5, h6, h7, evt, decide_true, Bool.and_self, if_true]
/-- Checks that all hold let the body go on. -/
theorem checks_ok {x : Cmd} {l : List (Bool × Nat)} {f : State → State} {s : State} (h : l.all (fun e => e.1) = true) : checks x l f s = f s := by
  have : l.find? (fun e => !e.1) = none := by
    simp only [List.find?_eq_none, List.all_eq_true] at *
    intro a ha; simp [h a ha]
  simp only [checks, this]
/-- A command that no earlier one of its context holds back goes on. -/
theorem after_names {x : Cmd} {f : State → State} {s : State} (h : earlierNames s x = false) : afterNames x f s = f s := by
  simp only [afterNames, h, Bool.false_eq_true, if_false]

end Sys2Proof.Machine
end

