-- ==== Sys2Proof/Laws/State.lean ====
section
/-! SUPPORT. The small lemmas of the state's updates: what each update leaves as it was, field by field, and what is read back after it. -/
namespace Sys2Proof.Machine

variable (s : State)

/-! ## State.setCore -/

@[simp] theorem State.setCore_fuse (n : Nat) (c : Core) : (s.setCore n c).fuse = s.fuse := rfl
@[simp] theorem State.setCore_clk (n : Nat) (c : Core) : (s.setCore n c).clk = s.clk := rfl
@[simp] theorem State.setCore_boot (n : Nat) (c : Core) : (s.setCore n c).boot = s.boot := rfl
@[simp] theorem State.setCore_quarters (n : Nat) (c : Core) : (s.setCore n c).quarters = s.quarters := rfl
@[simp] theorem State.setCore_mem (n : Nat) (c : Core) : (s.setCore n c).mem = s.mem := rfl
@[simp] theorem State.setCore_halves (n : Nat) (c : Core) : (s.setCore n c).halves = s.halves := rfl
@[simp] theorem State.setCore_stackTab (n : Nat) (c : Core) : (s.setCore n c).stackTab = s.stackTab := rfl
@[simp] theorem State.setCore_links (n : Nat) (c : Core) : (s.setCore n c).links = s.links := rfl
@[simp] theorem State.setCore_routes (n : Nat) (c : Core) : (s.setCore n c).routes = s.routes := rfl
@[simp] theorem State.setCore_vbus (n : Nat) (c : Core) : (s.setCore n c).vbus = s.vbus := rfl
@[simp] theorem State.setCore_ctl (n : Nat) (c : Core) : (s.setCore n c).ctl = s.ctl := rfl
@[simp] theorem State.setCore_flags (n : Nat) (c : Core) : (s.setCore n c).flags = s.flags := rfl
@[simp] theorem State.setCore_guest (n : Nat) (c : Core) : (s.setCore n c).guest = s.guest := rfl
@[simp] theorem State.setCore_pel (n : Nat) (c : Core) : (s.setCore n c).pel = s.pel := rfl
@[simp] theorem State.setCore_fab (n : Nat) (c : Core) : (s.setCore n c).fab = s.fab := rfl
@[simp] theorem State.setCore_mgmt (n : Nat) (c : Core) : (s.setCore n c).mgmt = s.mgmt := rfl
@[simp] theorem State.setCore_pwr (n : Nat) (c : Core) : (s.setCore n c).pwr = s.pwr := rfl
@[simp] theorem State.setCore_thm (n : Nat) (c : Core) : (s.setCore n c).thm = s.thm := rfl
@[simp] theorem State.setCore_sec (n : Nat) (c : Core) : (s.setCore n c).sec = s.sec := rfl
@[simp] theorem State.setCore_wdr (n : Nat) (c : Core) : (s.setCore n c).wdr = s.wdr := rfl
@[simp] theorem State.setCore_idst (n : Nat) (c : Core) : (s.setCore n c).idst = s.idst := rfl
@[simp] theorem State.setCore_urgent (n : Nat) (c : Core) : (s.setCore n c).urgent = s.urgent := rfl
@[simp] theorem State.setCore_urgIgnored (n : Nat) (c : Core) : (s.setCore n c).urgIgnored = s.urgIgnored := rfl
@[simp] theorem State.setCore_counters (n : Nat) (c : Core) : (s.setCore n c).counters = s.counters := rfl
@[simp] theorem State.setCore_os (n : Nat) (c : Core) : (s.setCore n c).os = s.os := rfl
@[simp] theorem State.setCore_readData (n : Nat) (c : Core) : (s.setCore n c).readData = s.readData := rfl
@[simp] theorem State.setCore_readErr (n : Nat) (c : Core) : (s.setCore n c).readErr = s.readErr := rfl
@[simp] theorem State.setCore_free (n : Nat) (c : Core) : (s.setCore n c).free = s.free := rfl
@[simp] theorem State.setCore_pending (n : Nat) (c : Core) : (s.setCore n c).pending = s.pending := rfl

/-! ## State.setSheaf -/

@[simp] theorem State.setSheaf_fuse (n sl : Nat) (f : Sheaf) : (s.setSheaf n sl f).fuse = s.fuse := rfl
@[simp] theorem State.setSheaf_clk (n sl : Nat) (f : Sheaf) : (s.setSheaf n sl f).clk = s.clk := rfl
@[simp] theorem State.setSheaf_boot (n sl : Nat) (f : Sheaf) : (s.setSheaf n sl f).boot = s.boot := rfl
@[simp] theorem State.setSheaf_quarters (n sl : Nat) (f : Sheaf) : (s.setSheaf n sl f).quarters = s.quarters := rfl
@[simp] theorem State.setSheaf_mem (n sl : Nat) (f : Sheaf) : (s.setSheaf n sl f).mem = s.mem := rfl
@[simp] theorem State.setSheaf_halves (n sl : Nat) (f : Sheaf) : (s.setSheaf n sl f).halves = s.halves := rfl
@[simp] theorem State.setSheaf_stackTab (n sl : Nat) (f : Sheaf) : (s.setSheaf n sl f).stackTab = s.stackTab := rfl
@[simp] theorem State.setSheaf_links (n sl : Nat) (f : Sheaf) : (s.setSheaf n sl f).links = s.links := rfl
@[simp] theorem State.setSheaf_routes (n sl : Nat) (f : Sheaf) : (s.setSheaf n sl f).routes = s.routes := rfl
@[simp] theorem State.setSheaf_vbus (n sl : Nat) (f : Sheaf) : (s.setSheaf n sl f).vbus = s.vbus := rfl
@[simp] theorem State.setSheaf_ctl (n sl : Nat) (f : Sheaf) : (s.setSheaf n sl f).ctl = s.ctl := rfl
@[simp] theorem State.setSheaf_flags (n sl : Nat) (f : Sheaf) : (s.setSheaf n sl f).flags = s.flags := rfl
@[simp] theorem State.setSheaf_guest (n sl : Nat) (f : Sheaf) : (s.setSheaf n sl f).guest = s.guest := rfl
@[simp] theorem State.setSheaf_pel (n sl : Nat) (f : Sheaf) : (s.setSheaf n sl f).pel = s.pel := rfl
@[simp] theorem State.setSheaf_fab (n sl : Nat) (f : Sheaf) : (s.setSheaf n sl f).fab = s.fab := rfl
@[simp] theorem State.setSheaf_mgmt (n sl : Nat) (f : Sheaf) : (s.setSheaf n sl f).mgmt = s.mgmt := rfl
@[simp] theorem State.setSheaf_pwr (n sl : Nat) (f : Sheaf) : (s.setSheaf n sl f).pwr = s.pwr := rfl
@[simp] theorem State.setSheaf_thm (n sl : Nat) (f : Sheaf) : (s.setSheaf n sl f).thm = s.thm := rfl
@[simp] theorem State.setSheaf_sec (n sl : Nat) (f : Sheaf) : (s.setSheaf n sl f).sec = s.sec := rfl
@[simp] theorem State.setSheaf_wdr (n sl : Nat) (f : Sheaf) : (s.setSheaf n sl f).wdr = s.wdr := rfl
@[simp] theorem State.setSheaf_idst (n sl : Nat) (f : Sheaf) : (s.setSheaf n sl f).idst = s.idst := rfl
@[simp] theorem State.setSheaf_urgent (n sl : Nat) (f : Sheaf) : (s.setSheaf n sl f).urgent = s.urgent := rfl
@[simp] theorem State.setSheaf_urgIgnored (n sl : Nat) (f : Sheaf) : (s.setSheaf n sl f).urgIgnored = s.urgIgnored := rfl
@[simp] theorem State.setSheaf_counters (n sl : Nat) (f : Sheaf) : (s.setSheaf n sl f).counters = s.counters := rfl
@[simp] theorem State.setSheaf_os (n sl : Nat) (f : Sheaf) : (s.setSheaf n sl f).os = s.os := rfl
@[simp] theorem State.setSheaf_readData (n sl : Nat) (f : Sheaf) : (s.setSheaf n sl f).readData = s.readData := rfl
@[simp] theorem State.setSheaf_readErr (n sl : Nat) (f : Sheaf) : (s.setSheaf n sl f).readErr = s.readErr := rfl
@[simp] theorem State.setSheaf_free (n sl : Nat) (f : Sheaf) : (s.setSheaf n sl f).free = s.free := rfl
@[simp] theorem State.setSheaf_pending (n sl : Nat) (f : Sheaf) : (s.setSheaf n sl f).pending = s.pending := rfl

/-! ## State.setHalf -/

@[simp] theorem State.setHalf_fuse (h : Nat) (x : Half) : (s.setHalf h x).fuse = s.fuse := rfl
@[simp] theorem State.setHalf_clk (h : Nat) (x : Half) : (s.setHalf h x).clk = s.clk := rfl
@[simp] theorem State.setHalf_boot (h : Nat) (x : Half) : (s.setHalf h x).boot = s.boot := rfl
@[simp] theorem State.setHalf_quarters (h : Nat) (x : Half) : (s.setHalf h x).quarters = s.quarters := rfl
@[simp] theorem State.setHalf_mem (h : Nat) (x : Half) : (s.setHalf h x).mem = s.mem := rfl
@[simp] theorem State.setHalf_cores (h : Nat) (x : Half) : (s.setHalf h x).cores = s.cores := rfl
@[simp] theorem State.setHalf_stackTab (h : Nat) (x : Half) : (s.setHalf h x).stackTab = s.stackTab := rfl
@[simp] theorem State.setHalf_links (h : Nat) (x : Half) : (s.setHalf h x).links = s.links := rfl
@[simp] theorem State.setHalf_routes (h : Nat) (x : Half) : (s.setHalf h x).routes = s.routes := rfl
@[simp] theorem State.setHalf_vbus (h : Nat) (x : Half) : (s.setHalf h x).vbus = s.vbus := rfl
@[simp] theorem State.setHalf_ctl (h : Nat) (x : Half) : (s.setHalf h x).ctl = s.ctl := rfl
@[simp] theorem State.setHalf_flags (h : Nat) (x : Half) : (s.setHalf h x).flags = s.flags := rfl
@[simp] theorem State.setHalf_guest (h : Nat) (x : Half) : (s.setHalf h x).guest = s.guest := rfl
@[simp] theorem State.setHalf_pel (h : Nat) (x : Half) : (s.setHalf h x).pel = s.pel := rfl
@[simp] theorem State.setHalf_fab (h : Nat) (x : Half) : (s.setHalf h x).fab = s.fab := rfl
@[simp] theorem State.setHalf_mgmt (h : Nat) (x : Half) : (s.setHalf h x).mgmt = s.mgmt := rfl
@[simp] theorem State.setHalf_pwr (h : Nat) (x : Half) : (s.setHalf h x).pwr = s.pwr := rfl
@[simp] theorem State.setHalf_thm (h : Nat) (x : Half) : (s.setHalf h x).thm = s.thm := rfl
@[simp] theorem State.setHalf_sec (h : Nat) (x : Half) : (s.setHalf h x).sec = s.sec := rfl
@[simp] theorem State.setHalf_wdr (h : Nat) (x : Half) : (s.setHalf h x).wdr = s.wdr := rfl
@[simp] theorem State.setHalf_idst (h : Nat) (x : Half) : (s.setHalf h x).idst = s.idst := rfl
@[simp] theorem State.setHalf_urgent (h : Nat) (x : Half) : (s.setHalf h x).urgent = s.urgent := rfl
@[simp] theorem State.setHalf_urgIgnored (h : Nat) (x : Half) : (s.setHalf h x).urgIgnored = s.urgIgnored := rfl
@[simp] theorem State.setHalf_counters (h : Nat) (x : Half) : (s.setHalf h x).counters = s.counters := rfl
@[simp] theorem State.setHalf_os (h : Nat) (x : Half) : (s.setHalf h x).os = s.os := rfl
@[simp] theorem State.setHalf_readData (h : Nat) (x : Half) : (s.setHalf h x).readData = s.readData := rfl
@[simp] theorem State.setHalf_readErr (h : Nat) (x : Half) : (s.setHalf h x).readErr = s.readErr := rfl
@[simp] theorem State.setHalf_free (h : Nat) (x : Half) : (s.setHalf h x).free = s.free := rfl
@[simp] theorem State.setHalf_pending (h : Nat) (x : Half) : (s.setHalf h x).pending = s.pending := rfl

/-! ## State.setStack -/

@[simp] theorem State.setStack_fuse (m : Nat) (x : Stack) : (s.setStack m x).fuse = s.fuse := rfl
@[simp] theorem State.setStack_clk (m : Nat) (x : Stack) : (s.setStack m x).clk = s.clk := rfl
@[simp] theorem State.setStack_boot (m : Nat) (x : Stack) : (s.setStack m x).boot = s.boot := rfl
@[simp] theorem State.setStack_quarters (m : Nat) (x : Stack) : (s.setStack m x).quarters = s.quarters := rfl
@[simp] theorem State.setStack_mem (m : Nat) (x : Stack) : (s.setStack m x).mem = s.mem := rfl
@[simp] theorem State.setStack_cores (m : Nat) (x : Stack) : (s.setStack m x).cores = s.cores := rfl
@[simp] theorem State.setStack_halves (m : Nat) (x : Stack) : (s.setStack m x).halves = s.halves := rfl
@[simp] theorem State.setStack_links (m : Nat) (x : Stack) : (s.setStack m x).links = s.links := rfl
@[simp] theorem State.setStack_routes (m : Nat) (x : Stack) : (s.setStack m x).routes = s.routes := rfl
@[simp] theorem State.setStack_vbus (m : Nat) (x : Stack) : (s.setStack m x).vbus = s.vbus := rfl
@[simp] theorem State.setStack_ctl (m : Nat) (x : Stack) : (s.setStack m x).ctl = s.ctl := rfl
@[simp] theorem State.setStack_flags (m : Nat) (x : Stack) : (s.setStack m x).flags = s.flags := rfl
@[simp] theorem State.setStack_guest (m : Nat) (x : Stack) : (s.setStack m x).guest = s.guest := rfl
@[simp] theorem State.setStack_pel (m : Nat) (x : Stack) : (s.setStack m x).pel = s.pel := rfl
@[simp] theorem State.setStack_fab (m : Nat) (x : Stack) : (s.setStack m x).fab = s.fab := rfl
@[simp] theorem State.setStack_mgmt (m : Nat) (x : Stack) : (s.setStack m x).mgmt = s.mgmt := rfl
@[simp] theorem State.setStack_pwr (m : Nat) (x : Stack) : (s.setStack m x).pwr = s.pwr := rfl
@[simp] theorem State.setStack_thm (m : Nat) (x : Stack) : (s.setStack m x).thm = s.thm := rfl
@[simp] theorem State.setStack_sec (m : Nat) (x : Stack) : (s.setStack m x).sec = s.sec := rfl
@[simp] theorem State.setStack_wdr (m : Nat) (x : Stack) : (s.setStack m x).wdr = s.wdr := rfl
@[simp] theorem State.setStack_idst (m : Nat) (x : Stack) : (s.setStack m x).idst = s.idst := rfl
@[simp] theorem State.setStack_urgent (m : Nat) (x : Stack) : (s.setStack m x).urgent = s.urgent := rfl
@[simp] theorem State.setStack_urgIgnored (m : Nat) (x : Stack) : (s.setStack m x).urgIgnored = s.urgIgnored := rfl
@[simp] theorem State.setStack_counters (m : Nat) (x : Stack) : (s.setStack m x).counters = s.counters := rfl
@[simp] theorem State.setStack_os (m : Nat) (x : Stack) : (s.setStack m x).os = s.os := rfl
@[simp] theorem State.setStack_readData (m : Nat) (x : Stack) : (s.setStack m x).readData = s.readData := rfl
@[simp] theorem State.setStack_readErr (m : Nat) (x : Stack) : (s.setStack m x).readErr = s.readErr := rfl
@[simp] theorem State.setStack_free (m : Nat) (x : Stack) : (s.setStack m x).free = s.free := rfl
@[simp] theorem State.setStack_pending (m : Nat) (x : Stack) : (s.setStack m x).pending = s.pending := rfl

/-! ## State.setQuarter -/

@[simp] theorem State.setQuarter_fuse (q : Nat) (x : Quarter) : (s.setQuarter q x).fuse = s.fuse := rfl
@[simp] theorem State.setQuarter_clk (q : Nat) (x : Quarter) : (s.setQuarter q x).clk = s.clk := rfl
@[simp] theorem State.setQuarter_boot (q : Nat) (x : Quarter) : (s.setQuarter q x).boot = s.boot := rfl
@[simp] theorem State.setQuarter_mem (q : Nat) (x : Quarter) : (s.setQuarter q x).mem = s.mem := rfl
@[simp] theorem State.setQuarter_cores (q : Nat) (x : Quarter) : (s.setQuarter q x).cores = s.cores := rfl
@[simp] theorem State.setQuarter_halves (q : Nat) (x : Quarter) : (s.setQuarter q x).halves = s.halves := rfl
@[simp] theorem State.setQuarter_stackTab (q : Nat) (x : Quarter) : (s.setQuarter q x).stackTab = s.stackTab := rfl
@[simp] theorem State.setQuarter_links (q : Nat) (x : Quarter) : (s.setQuarter q x).links = s.links := rfl
@[simp] theorem State.setQuarter_routes (q : Nat) (x : Quarter) : (s.setQuarter q x).routes = s.routes := rfl
@[simp] theorem State.setQuarter_vbus (q : Nat) (x : Quarter) : (s.setQuarter q x).vbus = s.vbus := rfl
@[simp] theorem State.setQuarter_ctl (q : Nat) (x : Quarter) : (s.setQuarter q x).ctl = s.ctl := rfl
@[simp] theorem State.setQuarter_flags (q : Nat) (x : Quarter) : (s.setQuarter q x).flags = s.flags := rfl
@[simp] theorem State.setQuarter_guest (q : Nat) (x : Quarter) : (s.setQuarter q x).guest = s.guest := rfl
@[simp] theorem State.setQuarter_pel (q : Nat) (x : Quarter) : (s.setQuarter q x).pel = s.pel := rfl
@[simp] theorem State.setQuarter_fab (q : Nat) (x : Quarter) : (s.setQuarter q x).fab = s.fab := rfl
@[simp] theorem State.setQuarter_mgmt (q : Nat) (x : Quarter) : (s.setQuarter q x).mgmt = s.mgmt := rfl
@[simp] theorem State.setQuarter_pwr (q : Nat) (x : Quarter) : (s.setQuarter q x).pwr = s.pwr := rfl
@[simp] theorem State.setQuarter_thm (q : Nat) (x : Quarter) : (s.setQuarter q x).thm = s.thm := rfl
@[simp] theorem State.setQuarter_sec (q : Nat) (x : Quarter) : (s.setQuarter q x).sec = s.sec := rfl
@[simp] theorem State.setQuarter_wdr (q : Nat) (x : Quarter) : (s.setQuarter q x).wdr = s.wdr := rfl
@[simp] theorem State.setQuarter_idst (q : Nat) (x : Quarter) : (s.setQuarter q x).idst = s.idst := rfl
@[simp] theorem State.setQuarter_urgent (q : Nat) (x : Quarter) : (s.setQuarter q x).urgent = s.urgent := rfl
@[simp] theorem State.setQuarter_urgIgnored (q : Nat) (x : Quarter) : (s.setQuarter q x).urgIgnored = s.urgIgnored := rfl
@[simp] theorem State.setQuarter_counters (q : Nat) (x : Quarter) : (s.setQuarter q x).counters = s.counters := rfl
@[simp] theorem State.setQuarter_os (q : Nat) (x : Quarter) : (s.setQuarter q x).os = s.os := rfl
@[simp] theorem State.setQuarter_readData (q : Nat) (x : Quarter) : (s.setQuarter q x).readData = s.readData := rfl
@[simp] theorem State.setQuarter_readErr (q : Nat) (x : Quarter) : (s.setQuarter q x).readErr = s.readErr := rfl
@[simp] theorem State.setQuarter_free (q : Nat) (x : Quarter) : (s.setQuarter q x).free = s.free := rfl
@[simp] theorem State.setQuarter_pending (q : Nat) (x : Quarter) : (s.setQuarter q x).pending = s.pending := rfl

/-! ## State.setLink -/

@[simp] theorem State.setLink_fuse (l : Nat) (x : Link) : (s.setLink l x).fuse = s.fuse := rfl
@[simp] theorem State.setLink_clk (l : Nat) (x : Link) : (s.setLink l x).clk = s.clk := rfl
@[simp] theorem State.setLink_boot (l : Nat) (x : Link) : (s.setLink l x).boot = s.boot := rfl
@[simp] theorem State.setLink_quarters (l : Nat) (x : Link) : (s.setLink l x).quarters = s.quarters := rfl
@[simp] theorem State.setLink_mem (l : Nat) (x : Link) : (s.setLink l x).mem = s.mem := rfl
@[simp] theorem State.setLink_cores (l : Nat) (x : Link) : (s.setLink l x).cores = s.cores := rfl
@[simp] theorem State.setLink_halves (l : Nat) (x : Link) : (s.setLink l x).halves = s.halves := rfl
@[simp] theorem State.setLink_stackTab (l : Nat) (x : Link) : (s.setLink l x).stackTab = s.stackTab := rfl
@[simp] theorem State.setLink_routes (l : Nat) (x : Link) : (s.setLink l x).routes = s.routes := rfl
@[simp] theorem State.setLink_vbus (l : Nat) (x : Link) : (s.setLink l x).vbus = s.vbus := rfl
@[simp] theorem State.setLink_ctl (l : Nat) (x : Link) : (s.setLink l x).ctl = s.ctl := rfl
@[simp] theorem State.setLink_flags (l : Nat) (x : Link) : (s.setLink l x).flags = s.flags := rfl
@[simp] theorem State.setLink_guest (l : Nat) (x : Link) : (s.setLink l x).guest = s.guest := rfl
@[simp] theorem State.setLink_pel (l : Nat) (x : Link) : (s.setLink l x).pel = s.pel := rfl
@[simp] theorem State.setLink_fab (l : Nat) (x : Link) : (s.setLink l x).fab = s.fab := rfl
@[simp] theorem State.setLink_mgmt (l : Nat) (x : Link) : (s.setLink l x).mgmt = s.mgmt := rfl
@[simp] theorem State.setLink_pwr (l : Nat) (x : Link) : (s.setLink l x).pwr = s.pwr := rfl
@[simp] theorem State.setLink_thm (l : Nat) (x : Link) : (s.setLink l x).thm = s.thm := rfl
@[simp] theorem State.setLink_sec (l : Nat) (x : Link) : (s.setLink l x).sec = s.sec := rfl
@[simp] theorem State.setLink_wdr (l : Nat) (x : Link) : (s.setLink l x).wdr = s.wdr := rfl
@[simp] theorem State.setLink_idst (l : Nat) (x : Link) : (s.setLink l x).idst = s.idst := rfl
@[simp] theorem State.setLink_urgent (l : Nat) (x : Link) : (s.setLink l x).urgent = s.urgent := rfl
@[simp] theorem State.setLink_urgIgnored (l : Nat) (x : Link) : (s.setLink l x).urgIgnored = s.urgIgnored := rfl
@[simp] theorem State.setLink_counters (l : Nat) (x : Link) : (s.setLink l x).counters = s.counters := rfl
@[simp] theorem State.setLink_os (l : Nat) (x : Link) : (s.setLink l x).os = s.os := rfl
@[simp] theorem State.setLink_readData (l : Nat) (x : Link) : (s.setLink l x).readData = s.readData := rfl
@[simp] theorem State.setLink_readErr (l : Nat) (x : Link) : (s.setLink l x).readErr = s.readErr := rfl
@[simp] theorem State.setLink_free (l : Nat) (x : Link) : (s.setLink l x).free = s.free := rfl
@[simp] theorem State.setLink_pending (l : Nat) (x : Link) : (s.setLink l x).pending = s.pending := rfl

/-! ## State.setEp -/

@[simp] theorem State.setEp_fuse (i : Nat) (x : Endpoint) : (s.setEp i x).fuse = s.fuse := rfl
@[simp] theorem State.setEp_clk (i : Nat) (x : Endpoint) : (s.setEp i x).clk = s.clk := rfl
@[simp] theorem State.setEp_boot (i : Nat) (x : Endpoint) : (s.setEp i x).boot = s.boot := rfl
@[simp] theorem State.setEp_quarters (i : Nat) (x : Endpoint) : (s.setEp i x).quarters = s.quarters := rfl
@[simp] theorem State.setEp_mem (i : Nat) (x : Endpoint) : (s.setEp i x).mem = s.mem := rfl
@[simp] theorem State.setEp_cores (i : Nat) (x : Endpoint) : (s.setEp i x).cores = s.cores := rfl
@[simp] theorem State.setEp_halves (i : Nat) (x : Endpoint) : (s.setEp i x).halves = s.halves := rfl
@[simp] theorem State.setEp_stackTab (i : Nat) (x : Endpoint) : (s.setEp i x).stackTab = s.stackTab := rfl
@[simp] theorem State.setEp_links (i : Nat) (x : Endpoint) : (s.setEp i x).links = s.links := rfl
@[simp] theorem State.setEp_routes (i : Nat) (x : Endpoint) : (s.setEp i x).routes = s.routes := rfl
@[simp] theorem State.setEp_vbus (i : Nat) (x : Endpoint) : (s.setEp i x).vbus = s.vbus := rfl
@[simp] theorem State.setEp_flags (i : Nat) (x : Endpoint) : (s.setEp i x).flags = s.flags := rfl
@[simp] theorem State.setEp_guest (i : Nat) (x : Endpoint) : (s.setEp i x).guest = s.guest := rfl
@[simp] theorem State.setEp_pel (i : Nat) (x : Endpoint) : (s.setEp i x).pel = s.pel := rfl
@[simp] theorem State.setEp_fab (i : Nat) (x : Endpoint) : (s.setEp i x).fab = s.fab := rfl
@[simp] theorem State.setEp_mgmt (i : Nat) (x : Endpoint) : (s.setEp i x).mgmt = s.mgmt := rfl
@[simp] theorem State.setEp_pwr (i : Nat) (x : Endpoint) : (s.setEp i x).pwr = s.pwr := rfl
@[simp] theorem State.setEp_thm (i : Nat) (x : Endpoint) : (s.setEp i x).thm = s.thm := rfl
@[simp] theorem State.setEp_sec (i : Nat) (x : Endpoint) : (s.setEp i x).sec = s.sec := rfl
@[simp] theorem State.setEp_wdr (i : Nat) (x : Endpoint) : (s.setEp i x).wdr = s.wdr := rfl
@[simp] theorem State.setEp_idst (i : Nat) (x : Endpoint) : (s.setEp i x).idst = s.idst := rfl
@[simp] theorem State.setEp_urgent (i : Nat) (x : Endpoint) : (s.setEp i x).urgent = s.urgent := rfl
@[simp] theorem State.setEp_urgIgnored (i : Nat) (x : Endpoint) : (s.setEp i x).urgIgnored = s.urgIgnored := rfl
@[simp] theorem State.setEp_counters (i : Nat) (x : Endpoint) : (s.setEp i x).counters = s.counters := rfl
@[simp] theorem State.setEp_os (i : Nat) (x : Endpoint) : (s.setEp i x).os = s.os := rfl
@[simp] theorem State.setEp_readData (i : Nat) (x : Endpoint) : (s.setEp i x).readData = s.readData := rfl
@[simp] theorem State.setEp_readErr (i : Nat) (x : Endpoint) : (s.setEp i x).readErr = s.readErr := rfl
@[simp] theorem State.setEp_free (i : Nat) (x : Endpoint) : (s.setEp i x).free = s.free := rfl
@[simp] theorem State.setEp_pending (i : Nat) (x : Endpoint) : (s.setEp i x).pending = s.pending := rfl

/-! ## State.setMb -/

@[simp] theorem State.setMb_fuse (b : Nat) (x : Mailbox) : (s.setMb b x).fuse = s.fuse := rfl
@[simp] theorem State.setMb_clk (b : Nat) (x : Mailbox) : (s.setMb b x).clk = s.clk := rfl
@[simp] theorem State.setMb_boot (b : Nat) (x : Mailbox) : (s.setMb b x).boot = s.boot := rfl
@[simp] theorem State.setMb_quarters (b : Nat) (x : Mailbox) : (s.setMb b x).quarters = s.quarters := rfl
@[simp] theorem State.setMb_mem (b : Nat) (x : Mailbox) : (s.setMb b x).mem = s.mem := rfl
@[simp] theorem State.setMb_cores (b : Nat) (x : Mailbox) : (s.setMb b x).cores = s.cores := rfl
@[simp] theorem State.setMb_halves (b : Nat) (x : Mailbox) : (s.setMb b x).halves = s.halves := rfl
@[simp] theorem State.setMb_stackTab (b : Nat) (x : Mailbox) : (s.setMb b x).stackTab = s.stackTab := rfl
@[simp] theorem State.setMb_links (b : Nat) (x : Mailbox) : (s.setMb b x).links = s.links := rfl
@[simp] theorem State.setMb_routes (b : Nat) (x : Mailbox) : (s.setMb b x).routes = s.routes := rfl
@[simp] theorem State.setMb_vbus (b : Nat) (x : Mailbox) : (s.setMb b x).vbus = s.vbus := rfl
@[simp] theorem State.setMb_ctl (b : Nat) (x : Mailbox) : (s.setMb b x).ctl = s.ctl := rfl
@[simp] theorem State.setMb_flags (b : Nat) (x : Mailbox) : (s.setMb b x).flags = s.flags := rfl
@[simp] theorem State.setMb_guest (b : Nat) (x : Mailbox) : (s.setMb b x).guest = s.guest := rfl
@[simp] theorem State.setMb_fab (b : Nat) (x : Mailbox) : (s.setMb b x).fab = s.fab := rfl
@[simp] theorem State.setMb_mgmt (b : Nat) (x : Mailbox) : (s.setMb b x).mgmt = s.mgmt := rfl
@[simp] theorem State.setMb_pwr (b : Nat) (x : Mailbox) : (s.setMb b x).pwr = s.pwr := rfl
@[simp] theorem State.setMb_thm (b : Nat) (x : Mailbox) : (s.setMb b x).thm = s.thm := rfl
@[simp] theorem State.setMb_sec (b : Nat) (x : Mailbox) : (s.setMb b x).sec = s.sec := rfl
@[simp] theorem State.setMb_wdr (b : Nat) (x : Mailbox) : (s.setMb b x).wdr = s.wdr := rfl
@[simp] theorem State.setMb_idst (b : Nat) (x : Mailbox) : (s.setMb b x).idst = s.idst := rfl
@[simp] theorem State.setMb_urgent (b : Nat) (x : Mailbox) : (s.setMb b x).urgent = s.urgent := rfl
@[simp] theorem State.setMb_urgIgnored (b : Nat) (x : Mailbox) : (s.setMb b x).urgIgnored = s.urgIgnored := rfl
@[simp] theorem State.setMb_counters (b : Nat) (x : Mailbox) : (s.setMb b x).counters = s.counters := rfl
@[simp] theorem State.setMb_os (b : Nat) (x : Mailbox) : (s.setMb b x).os = s.os := rfl
@[simp] theorem State.setMb_readData (b : Nat) (x : Mailbox) : (s.setMb b x).readData = s.readData := rfl
@[simp] theorem State.setMb_readErr (b : Nat) (x : Mailbox) : (s.setMb b x).readErr = s.readErr := rfl
@[simp] theorem State.setMb_free (b : Nat) (x : Mailbox) : (s.setMb b x).free = s.free := rfl
@[simp] theorem State.setMb_pending (b : Nat) (x : Mailbox) : (s.setMb b x).pending = s.pending := rfl

/-! ## State.setQueue -/

@[simp] theorem State.setQueue_fuse (q : Nat) (x : Queue) : (s.setQueue q x).fuse = s.fuse := rfl
@[simp] theorem State.setQueue_clk (q : Nat) (x : Queue) : (s.setQueue q x).clk = s.clk := rfl
@[simp] theorem State.setQueue_boot (q : Nat) (x : Queue) : (s.setQueue q x).boot = s.boot := rfl
@[simp] theorem State.setQueue_quarters (q : Nat) (x : Queue) : (s.setQueue q x).quarters = s.quarters := rfl
@[simp] theorem State.setQueue_mem (q : Nat) (x : Queue) : (s.setQueue q x).mem = s.mem := rfl
@[simp] theorem State.setQueue_cores (q : Nat) (x : Queue) : (s.setQueue q x).cores = s.cores := rfl
@[simp] theorem State.setQueue_halves (q : Nat) (x : Queue) : (s.setQueue q x).halves = s.halves := rfl
@[simp] theorem State.setQueue_stackTab (q : Nat) (x : Queue) : (s.setQueue q x).stackTab = s.stackTab := rfl
@[simp] theorem State.setQueue_links (q : Nat) (x : Queue) : (s.setQueue q x).links = s.links := rfl
@[simp] theorem State.setQueue_routes (q : Nat) (x : Queue) : (s.setQueue q x).routes = s.routes := rfl
@[simp] theorem State.setQueue_vbus (q : Nat) (x : Queue) : (s.setQueue q x).vbus = s.vbus := rfl
@[simp] theorem State.setQueue_ctl (q : Nat) (x : Queue) : (s.setQueue q x).ctl = s.ctl := rfl
@[simp] theorem State.setQueue_flags (q : Nat) (x : Queue) : (s.setQueue q x).flags = s.flags := rfl
@[simp] theorem State.setQueue_guest (q : Nat) (x : Queue) : (s.setQueue q x).guest = s.guest := rfl
@[simp] theorem State.setQueue_fab (q : Nat) (x : Queue) : (s.setQueue q x).fab = s.fab := rfl
@[simp] theorem State.setQueue_mgmt (q : Nat) (x : Queue) : (s.setQueue q x).mgmt = s.mgmt := rfl
@[simp] theorem State.setQueue_pwr (q : Nat) (x : Queue) : (s.setQueue q x).pwr = s.pwr := rfl
@[simp] theorem State.setQueue_thm (q : Nat) (x : Queue) : (s.setQueue q x).thm = s.thm := rfl
@[simp] theorem State.setQueue_sec (q : Nat) (x : Queue) : (s.setQueue q x).sec = s.sec := rfl
@[simp] theorem State.setQueue_wdr (q : Nat) (x : Queue) : (s.setQueue q x).wdr = s.wdr := rfl
@[simp] theorem State.setQueue_idst (q : Nat) (x : Queue) : (s.setQueue q x).idst = s.idst := rfl
@[simp] theorem State.setQueue_urgent (q : Nat) (x : Queue) : (s.setQueue q x).urgent = s.urgent := rfl
@[simp] theorem State.setQueue_urgIgnored (q : Nat) (x : Queue) : (s.setQueue q x).urgIgnored = s.urgIgnored := rfl
@[simp] theorem State.setQueue_counters (q : Nat) (x : Queue) : (s.setQueue q x).counters = s.counters := rfl
@[simp] theorem State.setQueue_os (q : Nat) (x : Queue) : (s.setQueue q x).os = s.os := rfl
@[simp] theorem State.setQueue_readData (q : Nat) (x : Queue) : (s.setQueue q x).readData = s.readData := rfl
@[simp] theorem State.setQueue_readErr (q : Nat) (x : Queue) : (s.setQueue q x).readErr = s.readErr := rfl
@[simp] theorem State.setQueue_free (q : Nat) (x : Queue) : (s.setQueue q x).free = s.free := rfl
@[simp] theorem State.setQueue_pending (q : Nat) (x : Queue) : (s.setQueue q x).pending = s.pending := rfl

/-! ## State.setPort -/

@[simp] theorem State.setPort_fuse (p : Nat) (x : Port) : (s.setPort p x).fuse = s.fuse := rfl
@[simp] theorem State.setPort_clk (p : Nat) (x : Port) : (s.setPort p x).clk = s.clk := rfl
@[simp] theorem State.setPort_boot (p : Nat) (x : Port) : (s.setPort p x).boot = s.boot := rfl
@[simp] theorem State.setPort_quarters (p : Nat) (x : Port) : (s.setPort p x).quarters = s.quarters := rfl
@[simp] theorem State.setPort_mem (p : Nat) (x : Port) : (s.setPort p x).mem = s.mem := rfl
@[simp] theorem State.setPort_cores (p : Nat) (x : Port) : (s.setPort p x).cores = s.cores := rfl
@[simp] theorem State.setPort_halves (p : Nat) (x : Port) : (s.setPort p x).halves = s.halves := rfl
@[simp] theorem State.setPort_stackTab (p : Nat) (x : Port) : (s.setPort p x).stackTab = s.stackTab := rfl
@[simp] theorem State.setPort_links (p : Nat) (x : Port) : (s.setPort p x).links = s.links := rfl
@[simp] theorem State.setPort_routes (p : Nat) (x : Port) : (s.setPort p x).routes = s.routes := rfl
@[simp] theorem State.setPort_vbus (p : Nat) (x : Port) : (s.setPort p x).vbus = s.vbus := rfl
@[simp] theorem State.setPort_ctl (p : Nat) (x : Port) : (s.setPort p x).ctl = s.ctl := rfl
@[simp] theorem State.setPort_flags (p : Nat) (x : Port) : (s.setPort p x).flags = s.flags := rfl
@[simp] theorem State.setPort_guest (p : Nat) (x : Port) : (s.setPort p x).guest = s.guest := rfl
@[simp] theorem State.setPort_pel (p : Nat) (x : Port) : (s.setPort p x).pel = s.pel := rfl
@[simp] theorem State.setPort_mgmt (p : Nat) (x : Port) : (s.setPort p x).mgmt = s.mgmt := rfl
@[simp] theorem State.setPort_pwr (p : Nat) (x : Port) : (s.setPort p x).pwr = s.pwr := rfl
@[simp] theorem State.setPort_thm (p : Nat) (x : Port) : (s.setPort p x).thm = s.thm := rfl
@[simp] theorem State.setPort_sec (p : Nat) (x : Port) : (s.setPort p x).sec = s.sec := rfl
@[simp] theorem State.setPort_wdr (p : Nat) (x : Port) : (s.setPort p x).wdr = s.wdr := rfl
@[simp] theorem State.setPort_idst (p : Nat) (x : Port) : (s.setPort p x).idst = s.idst := rfl
@[simp] theorem State.setPort_urgent (p : Nat) (x : Port) : (s.setPort p x).urgent = s.urgent := rfl
@[simp] theorem State.setPort_urgIgnored (p : Nat) (x : Port) : (s.setPort p x).urgIgnored = s.urgIgnored := rfl
@[simp] theorem State.setPort_counters (p : Nat) (x : Port) : (s.setPort p x).counters = s.counters := rfl
@[simp] theorem State.setPort_os (p : Nat) (x : Port) : (s.setPort p x).os = s.os := rfl
@[simp] theorem State.setPort_readData (p : Nat) (x : Port) : (s.setPort p x).readData = s.readData := rfl
@[simp] theorem State.setPort_readErr (p : Nat) (x : Port) : (s.setPort p x).readErr = s.readErr := rfl
@[simp] theorem State.setPort_free (p : Nat) (x : Port) : (s.setPort p x).free = s.free := rfl
@[simp] theorem State.setPort_pending (p : Nat) (x : Port) : (s.setPort p x).pending = s.pending := rfl

/-! ## State.setQp -/

@[simp] theorem State.setQp_fuse (i : Nat) (x : Qp) : (s.setQp i x).fuse = s.fuse := rfl
@[simp] theorem State.setQp_clk (i : Nat) (x : Qp) : (s.setQp i x).clk = s.clk := rfl
@[simp] theorem State.setQp_boot (i : Nat) (x : Qp) : (s.setQp i x).boot = s.boot := rfl
@[simp] theorem State.setQp_quarters (i : Nat) (x : Qp) : (s.setQp i x).quarters = s.quarters := rfl
@[simp] theorem State.setQp_mem (i : Nat) (x : Qp) : (s.setQp i x).mem = s.mem := rfl
@[simp] theorem State.setQp_cores (i : Nat) (x : Qp) : (s.setQp i x).cores = s.cores := rfl
@[simp] theorem State.setQp_halves (i : Nat) (x : Qp) : (s.setQp i x).halves = s.halves := rfl
@[simp] theorem State.setQp_stackTab (i : Nat) (x : Qp) : (s.setQp i x).stackTab = s.stackTab := rfl
@[simp] theorem State.setQp_links (i : Nat) (x : Qp) : (s.setQp i x).links = s.links := rfl
@[simp] theorem State.setQp_routes (i : Nat) (x : Qp) : (s.setQp i x).routes = s.routes := rfl
@[simp] theorem State.setQp_vbus (i : Nat) (x : Qp) : (s.setQp i x).vbus = s.vbus := rfl
@[simp] theorem State.setQp_ctl (i : Nat) (x : Qp) : (s.setQp i x).ctl = s.ctl := rfl
@[simp] theorem State.setQp_flags (i : Nat) (x : Qp) : (s.setQp i x).flags = s.flags := rfl
@[simp] theorem State.setQp_guest (i : Nat) (x : Qp) : (s.setQp i x).guest = s.guest := rfl
@[simp] theorem State.setQp_pel (i : Nat) (x : Qp) : (s.setQp i x).pel = s.pel := rfl
@[simp] theorem State.setQp_mgmt (i : Nat) (x : Qp) : (s.setQp i x).mgmt = s.mgmt := rfl
@[simp] theorem State.setQp_pwr (i : Nat) (x : Qp) : (s.setQp i x).pwr = s.pwr := rfl
@[simp] theorem State.setQp_thm (i : Nat) (x : Qp) : (s.setQp i x).thm = s.thm := rfl
@[simp] theorem State.setQp_sec (i : Nat) (x : Qp) : (s.setQp i x).sec = s.sec := rfl
@[simp] theorem State.setQp_wdr (i : Nat) (x : Qp) : (s.setQp i x).wdr = s.wdr := rfl
@[simp] theorem State.setQp_idst (i : Nat) (x : Qp) : (s.setQp i x).idst = s.idst := rfl
@[simp] theorem State.setQp_urgent (i : Nat) (x : Qp) : (s.setQp i x).urgent = s.urgent := rfl
@[simp] theorem State.setQp_urgIgnored (i : Nat) (x : Qp) : (s.setQp i x).urgIgnored = s.urgIgnored := rfl
@[simp] theorem State.setQp_counters (i : Nat) (x : Qp) : (s.setQp i x).counters = s.counters := rfl
@[simp] theorem State.setQp_os (i : Nat) (x : Qp) : (s.setQp i x).os = s.os := rfl
@[simp] theorem State.setQp_readData (i : Nat) (x : Qp) : (s.setQp i x).readData = s.readData := rfl
@[simp] theorem State.setQp_readErr (i : Nat) (x : Qp) : (s.setQp i x).readErr = s.readErr := rfl
@[simp] theorem State.setQp_free (i : Nat) (x : Qp) : (s.setQp i x).free = s.free := rfl
@[simp] theorem State.setQp_pending (i : Nat) (x : Qp) : (s.setQp i x).pending = s.pending := rfl

/-! ## State.setDomain -/

@[simp] theorem State.setDomain_fuse (q d : Nat) (x : Domain) : (s.setDomain q d x).fuse = s.fuse := rfl
@[simp] theorem State.setDomain_clk (q d : Nat) (x : Domain) : (s.setDomain q d x).clk = s.clk := rfl
@[simp] theorem State.setDomain_boot (q d : Nat) (x : Domain) : (s.setDomain q d x).boot = s.boot := rfl
@[simp] theorem State.setDomain_quarters (q d : Nat) (x : Domain) : (s.setDomain q d x).quarters = s.quarters := rfl
@[simp] theorem State.setDomain_mem (q d : Nat) (x : Domain) : (s.setDomain q d x).mem = s.mem := rfl
@[simp] theorem State.setDomain_cores (q d : Nat) (x : Domain) : (s.setDomain q d x).cores = s.cores := rfl
@[simp] theorem State.setDomain_halves (q d : Nat) (x : Domain) : (s.setDomain q d x).halves = s.halves := rfl
@[simp] theorem State.setDomain_stackTab (q d : Nat) (x : Domain) : (s.setDomain q d x).stackTab = s.stackTab := rfl
@[simp] theorem State.setDomain_links (q d : Nat) (x : Domain) : (s.setDomain q d x).links = s.links := rfl
@[simp] theorem State.setDomain_routes (q d : Nat) (x : Domain) : (s.setDomain q d x).routes = s.routes := rfl
@[simp] theorem State.setDomain_vbus (q d : Nat) (x : Domain) : (s.setDomain q d x).vbus = s.vbus := rfl
@[simp] theorem State.setDomain_ctl (q d : Nat) (x : Domain) : (s.setDomain q d x).ctl = s.ctl := rfl
@[simp] theorem State.setDomain_flags (q d : Nat) (x : Domain) : (s.setDomain q d x).flags = s.flags := rfl
@[simp] theorem State.setDomain_guest (q d : Nat) (x : Domain) : (s.setDomain q d x).guest = s.guest := rfl
@[simp] theorem State.setDomain_pel (q d : Nat) (x : Domain) : (s.setDomain q d x).pel = s.pel := rfl
@[simp] theorem State.setDomain_fab (q d : Nat) (x : Domain) : (s.setDomain q d x).fab = s.fab := rfl
@[simp] theorem State.setDomain_mgmt (q d : Nat) (x : Domain) : (s.setDomain q d x).mgmt = s.mgmt := rfl
@[simp] theorem State.setDomain_thm (q d : Nat) (x : Domain) : (s.setDomain q d x).thm = s.thm := rfl
@[simp] theorem State.setDomain_sec (q d : Nat) (x : Domain) : (s.setDomain q d x).sec = s.sec := rfl
@[simp] theorem State.setDomain_wdr (q d : Nat) (x : Domain) : (s.setDomain q d x).wdr = s.wdr := rfl
@[simp] theorem State.setDomain_idst (q d : Nat) (x : Domain) : (s.setDomain q d x).idst = s.idst := rfl
@[simp] theorem State.setDomain_urgent (q d : Nat) (x : Domain) : (s.setDomain q d x).urgent = s.urgent := rfl
@[simp] theorem State.setDomain_urgIgnored (q d : Nat) (x : Domain) : (s.setDomain q d x).urgIgnored = s.urgIgnored := rfl
@[simp] theorem State.setDomain_counters (q d : Nat) (x : Domain) : (s.setDomain q d x).counters = s.counters := rfl
@[simp] theorem State.setDomain_os (q d : Nat) (x : Domain) : (s.setDomain q d x).os = s.os := rfl
@[simp] theorem State.setDomain_readData (q d : Nat) (x : Domain) : (s.setDomain q d x).readData = s.readData := rfl
@[simp] theorem State.setDomain_readErr (q d : Nat) (x : Domain) : (s.setDomain q d x).readErr = s.readErr := rfl
@[simp] theorem State.setDomain_free (q d : Nat) (x : Domain) : (s.setDomain q d x).free = s.free := rfl
@[simp] theorem State.setDomain_pending (q d : Nat) (x : Domain) : (s.setDomain q d x).pending = s.pending := rfl

/-! ## State.setFlagStore -/

@[simp] theorem State.setFlagStore_fuse (q : Nat) (x : FlagStore) : (s.setFlagStore q x).fuse = s.fuse := rfl
@[simp] theorem State.setFlagStore_clk (q : Nat) (x : FlagStore) : (s.setFlagStore q x).clk = s.clk := rfl
@[simp] theorem State.setFlagStore_boot (q : Nat) (x : FlagStore) : (s.setFlagStore q x).boot = s.boot := rfl
@[simp] theorem State.setFlagStore_quarters (q : Nat) (x : FlagStore) : (s.setFlagStore q x).quarters = s.quarters := rfl
@[simp] theorem State.setFlagStore_mem (q : Nat) (x : FlagStore) : (s.setFlagStore q x).mem = s.mem := rfl
@[simp] theorem State.setFlagStore_cores (q : Nat) (x : FlagStore) : (s.setFlagStore q x).cores = s.cores := rfl
@[simp] theorem State.setFlagStore_halves (q : Nat) (x : FlagStore) : (s.setFlagStore q x).halves = s.halves := rfl
@[simp] theorem State.setFlagStore_stackTab (q : Nat) (x : FlagStore) : (s.setFlagStore q x).stackTab = s.stackTab := rfl
@[simp] theorem State.setFlagStore_links (q : Nat) (x : FlagStore) : (s.setFlagStore q x).links = s.links := rfl
@[simp] theorem State.setFlagStore_routes (q : Nat) (x : FlagStore) : (s.setFlagStore q x).routes = s.routes := rfl
@[simp] theorem State.setFlagStore_vbus (q : Nat) (x : FlagStore) : (s.setFlagStore q x).vbus = s.vbus := rfl
@[simp] theorem State.setFlagStore_ctl (q : Nat) (x : FlagStore) : (s.setFlagStore q x).ctl = s.ctl := rfl
@[simp] theorem State.setFlagStore_guest (q : Nat) (x : FlagStore) : (s.setFlagStore q x).guest = s.guest := rfl
@[simp] theorem State.setFlagStore_pel (q : Nat) (x : FlagStore) : (s.setFlagStore q x).pel = s.pel := rfl
@[simp] theorem State.setFlagStore_fab (q : Nat) (x : FlagStore) : (s.setFlagStore q x).fab = s.fab := rfl
@[simp] theorem State.setFlagStore_mgmt (q : Nat) (x : FlagStore) : (s.setFlagStore q x).mgmt = s.mgmt := rfl
@[simp] theorem State.setFlagStore_pwr (q : Nat) (x : FlagStore) : (s.setFlagStore q x).pwr = s.pwr := rfl
@[simp] theorem State.setFlagStore_thm (q : Nat) (x : FlagStore) : (s.setFlagStore q x).thm = s.thm := rfl
@[simp] theorem State.setFlagStore_sec (q : Nat) (x : FlagStore) : (s.setFlagStore q x).sec = s.sec := rfl
@[simp] theorem State.setFlagStore_wdr (q : Nat) (x : FlagStore) : (s.setFlagStore q x).wdr = s.wdr := rfl
@[simp] theorem State.setFlagStore_idst (q : Nat) (x : FlagStore) : (s.setFlagStore q x).idst = s.idst := rfl
@[simp] theorem State.setFlagStore_urgent (q : Nat) (x : FlagStore) : (s.setFlagStore q x).urgent = s.urgent := rfl
@[simp] theorem State.setFlagStore_urgIgnored (q : Nat) (x : FlagStore) : (s.setFlagStore q x).urgIgnored = s.urgIgnored := rfl
@[simp] theorem State.setFlagStore_counters (q : Nat) (x : FlagStore) : (s.setFlagStore q x).counters = s.counters := rfl
@[simp] theorem State.setFlagStore_os (q : Nat) (x : FlagStore) : (s.setFlagStore q x).os = s.os := rfl
@[simp] theorem State.setFlagStore_readData (q : Nat) (x : FlagStore) : (s.setFlagStore q x).readData = s.readData := rfl
@[simp] theorem State.setFlagStore_readErr (q : Nat) (x : FlagStore) : (s.setFlagStore q x).readErr = s.readErr := rfl
@[simp] theorem State.setFlagStore_free (q : Nat) (x : FlagStore) : (s.setFlagStore q x).free = s.free := rfl
@[simp] theorem State.setFlagStore_pending (q : Nat) (x : FlagStore) : (s.setFlagStore q x).pending = s.pending := rfl

/-! ## State.setOs -/

@[simp] theorem State.setOs_fuse (i : Nat) (x : OsCore) : (s.setOs i x).fuse = s.fuse := rfl
@[simp] theorem State.setOs_clk (i : Nat) (x : OsCore) : (s.setOs i x).clk = s.clk := rfl
@[simp] theorem State.setOs_boot (i : Nat) (x : OsCore) : (s.setOs i x).boot = s.boot := rfl
@[simp] theorem State.setOs_quarters (i : Nat) (x : OsCore) : (s.setOs i x).quarters = s.quarters := rfl
@[simp] theorem State.setOs_mem (i : Nat) (x : OsCore) : (s.setOs i x).mem = s.mem := rfl
@[simp] theorem State.setOs_cores (i : Nat) (x : OsCore) : (s.setOs i x).cores = s.cores := rfl
@[simp] theorem State.setOs_halves (i : Nat) (x : OsCore) : (s.setOs i x).halves = s.halves := rfl
@[simp] theorem State.setOs_stackTab (i : Nat) (x : OsCore) : (s.setOs i x).stackTab = s.stackTab := rfl
@[simp] theorem State.setOs_links (i : Nat) (x : OsCore) : (s.setOs i x).links = s.links := rfl
@[simp] theorem State.setOs_routes (i : Nat) (x : OsCore) : (s.setOs i x).routes = s.routes := rfl
@[simp] theorem State.setOs_vbus (i : Nat) (x : OsCore) : (s.setOs i x).vbus = s.vbus := rfl
@[simp] theorem State.setOs_ctl (i : Nat) (x : OsCore) : (s.setOs i x).ctl = s.ctl := rfl
@[simp] theorem State.setOs_flags (i : Nat) (x : OsCore) : (s.setOs i x).flags = s.flags := rfl
@[simp] theorem State.setOs_guest (i : Nat) (x : OsCore) : (s.setOs i x).guest = s.guest := rfl
@[simp] theorem State.setOs_pel (i : Nat) (x : OsCore) : (s.setOs i x).pel = s.pel := rfl
@[simp] theorem State.setOs_fab (i : Nat) (x : OsCore) : (s.setOs i x).fab = s.fab := rfl
@[simp] theorem State.setOs_mgmt (i : Nat) (x : OsCore) : (s.setOs i x).mgmt = s.mgmt := rfl
@[simp] theorem State.setOs_pwr (i : Nat) (x : OsCore) : (s.setOs i x).pwr = s.pwr := rfl
@[simp] theorem State.setOs_thm (i : Nat) (x : OsCore) : (s.setOs i x).thm = s.thm := rfl
@[simp] theorem State.setOs_sec (i : Nat) (x : OsCore) : (s.setOs i x).sec = s.sec := rfl
@[simp] theorem State.setOs_wdr (i : Nat) (x : OsCore) : (s.setOs i x).wdr = s.wdr := rfl
@[simp] theorem State.setOs_idst (i : Nat) (x : OsCore) : (s.setOs i x).idst = s.idst := rfl
@[simp] theorem State.setOs_urgent (i : Nat) (x : OsCore) : (s.setOs i x).urgent = s.urgent := rfl
@[simp] theorem State.setOs_urgIgnored (i : Nat) (x : OsCore) : (s.setOs i x).urgIgnored = s.urgIgnored := rfl
@[simp] theorem State.setOs_counters (i : Nat) (x : OsCore) : (s.setOs i x).counters = s.counters := rfl
@[simp] theorem State.setOs_readData (i : Nat) (x : OsCore) : (s.setOs i x).readData = s.readData := rfl
@[simp] theorem State.setOs_readErr (i : Nat) (x : OsCore) : (s.setOs i x).readErr = s.readErr := rfl
@[simp] theorem State.setOs_free (i : Nat) (x : OsCore) : (s.setOs i x).free = s.free := rfl
@[simp] theorem State.setOs_pending (i : Nat) (x : OsCore) : (s.setOs i x).pending = s.pending := rfl

/-! ## State.setRegion -/

@[simp] theorem State.setRegion_fuse (i : Nat) (x : Region) : (s.setRegion i x).fuse = s.fuse := rfl
@[simp] theorem State.setRegion_clk (i : Nat) (x : Region) : (s.setRegion i x).clk = s.clk := rfl
@[simp] theorem State.setRegion_boot (i : Nat) (x : Region) : (s.setRegion i x).boot = s.boot := rfl
@[simp] theorem State.setRegion_quarters (i : Nat) (x : Region) : (s.setRegion i x).quarters = s.quarters := rfl
@[simp] theorem State.setRegion_mem (i : Nat) (x : Region) : (s.setRegion i x).mem = s.mem := rfl
@[simp] theorem State.setRegion_cores (i : Nat) (x : Region) : (s.setRegion i x).cores = s.cores := rfl
@[simp] theorem State.setRegion_halves (i : Nat) (x : Region) : (s.setRegion i x).halves = s.halves := rfl
@[simp] theorem State.setRegion_stackTab (i : Nat) (x : Region) : (s.setRegion i x).stackTab = s.stackTab := rfl
@[simp] theorem State.setRegion_links (i : Nat) (x : Region) : (s.setRegion i x).links = s.links := rfl
@[simp] theorem State.setRegion_routes (i : Nat) (x : Region) : (s.setRegion i x).routes = s.routes := rfl
@[simp] theorem State.setRegion_vbus (i : Nat) (x : Region) : (s.setRegion i x).vbus = s.vbus := rfl
@[simp] theorem State.setRegion_ctl (i : Nat) (x : Region) : (s.setRegion i x).ctl = s.ctl := rfl
@[simp] theorem State.setRegion_flags (i : Nat) (x : Region) : (s.setRegion i x).flags = s.flags := rfl
@[simp] theorem State.setRegion_guest (i : Nat) (x : Region) : (s.setRegion i x).guest = s.guest := rfl
@[simp] theorem State.setRegion_pel (i : Nat) (x : Region) : (s.setRegion i x).pel = s.pel := rfl
@[simp] theorem State.setRegion_fab (i : Nat) (x : Region) : (s.setRegion i x).fab = s.fab := rfl
@[simp] theorem State.setRegion_mgmt (i : Nat) (x : Region) : (s.setRegion i x).mgmt = s.mgmt := rfl
@[simp] theorem State.setRegion_pwr (i : Nat) (x : Region) : (s.setRegion i x).pwr = s.pwr := rfl
@[simp] theorem State.setRegion_sec (i : Nat) (x : Region) : (s.setRegion i x).sec = s.sec := rfl
@[simp] theorem State.setRegion_wdr (i : Nat) (x : Region) : (s.setRegion i x).wdr = s.wdr := rfl
@[simp] theorem State.setRegion_idst (i : Nat) (x : Region) : (s.setRegion i x).idst = s.idst := rfl
@[simp] theorem State.setRegion_urgent (i : Nat) (x : Region) : (s.setRegion i x).urgent = s.urgent := rfl
@[simp] theorem State.setRegion_urgIgnored (i : Nat) (x : Region) : (s.setRegion i x).urgIgnored = s.urgIgnored := rfl
@[simp] theorem State.setRegion_counters (i : Nat) (x : Region) : (s.setRegion i x).counters = s.counters := rfl
@[simp] theorem State.setRegion_os (i : Nat) (x : Region) : (s.setRegion i x).os = s.os := rfl
@[simp] theorem State.setRegion_readData (i : Nat) (x : Region) : (s.setRegion i x).readData = s.readData := rfl
@[simp] theorem State.setRegion_readErr (i : Nat) (x : Region) : (s.setRegion i x).readErr = s.readErr := rfl
@[simp] theorem State.setRegion_free (i : Nat) (x : Region) : (s.setRegion i x).free = s.free := rfl
@[simp] theorem State.setRegion_pending (i : Nat) (x : Region) : (s.setRegion i x).pending = s.pending := rfl

/-! ## bump -/

@[simp] theorem bump_fuse (off k : Nat) : (bump off k s).fuse = s.fuse := rfl
@[simp] theorem bump_clk (off k : Nat) : (bump off k s).clk = s.clk := rfl
@[simp] theorem bump_boot (off k : Nat) : (bump off k s).boot = s.boot := rfl
@[simp] theorem bump_quarters (off k : Nat) : (bump off k s).quarters = s.quarters := rfl
@[simp] theorem bump_mem (off k : Nat) : (bump off k s).mem = s.mem := rfl
@[simp] theorem bump_cores (off k : Nat) : (bump off k s).cores = s.cores := rfl
@[simp] theorem bump_halves (off k : Nat) : (bump off k s).halves = s.halves := rfl
@[simp] theorem bump_stackTab (off k : Nat) : (bump off k s).stackTab = s.stackTab := rfl
@[simp] theorem bump_links (off k : Nat) : (bump off k s).links = s.links := rfl
@[simp] theorem bump_routes (off k : Nat) : (bump off k s).routes = s.routes := rfl
@[simp] theorem bump_vbus (off k : Nat) : (bump off k s).vbus = s.vbus := rfl
@[simp] theorem bump_ctl (off k : Nat) : (bump off k s).ctl = s.ctl := rfl
@[simp] theorem bump_flags (off k : Nat) : (bump off k s).flags = s.flags := rfl
@[simp] theorem bump_guest (off k : Nat) : (bump off k s).guest = s.guest := rfl
@[simp] theorem bump_pel (off k : Nat) : (bump off k s).pel = s.pel := rfl
@[simp] theorem bump_fab (off k : Nat) : (bump off k s).fab = s.fab := rfl
@[simp] theorem bump_mgmt (off k : Nat) : (bump off k s).mgmt = s.mgmt := rfl
@[simp] theorem bump_pwr (off k : Nat) : (bump off k s).pwr = s.pwr := rfl
@[simp] theorem bump_thm (off k : Nat) : (bump off k s).thm = s.thm := rfl
@[simp] theorem bump_sec (off k : Nat) : (bump off k s).sec = s.sec := rfl
@[simp] theorem bump_wdr (off k : Nat) : (bump off k s).wdr = s.wdr := rfl
@[simp] theorem bump_idst (off k : Nat) : (bump off k s).idst = s.idst := rfl
@[simp] theorem bump_urgent (off k : Nat) : (bump off k s).urgent = s.urgent := rfl
@[simp] theorem bump_urgIgnored (off k : Nat) : (bump off k s).urgIgnored = s.urgIgnored := rfl
@[simp] theorem bump_os (off k : Nat) : (bump off k s).os = s.os := rfl
@[simp] theorem bump_readData (off k : Nat) : (bump off k s).readData = s.readData := rfl
@[simp] theorem bump_readErr (off k : Nat) : (bump off k s).readErr = s.readErr := rfl
@[simp] theorem bump_free (off k : Nat) : (bump off k s).free = s.free := rfl
@[simp] theorem bump_pending (off k : Nat) : (bump off k s).pending = s.pending := rfl

/-! ## tick -/

@[simp] theorem tick_fuse : (tick s).fuse = s.fuse := rfl
@[simp] theorem tick_boot : (tick s).boot = s.boot := rfl
@[simp] theorem tick_quarters : (tick s).quarters = s.quarters := rfl
@[simp] theorem tick_mem : (tick s).mem = s.mem := rfl
@[simp] theorem tick_cores : (tick s).cores = s.cores := rfl
@[simp] theorem tick_halves : (tick s).halves = s.halves := rfl
@[simp] theorem tick_stackTab : (tick s).stackTab = s.stackTab := rfl
@[simp] theorem tick_links : (tick s).links = s.links := rfl
@[simp] theorem tick_routes : (tick s).routes = s.routes := rfl
@[simp] theorem tick_vbus : (tick s).vbus = s.vbus := rfl
@[simp] theorem tick_ctl : (tick s).ctl = s.ctl := rfl
@[simp] theorem tick_flags : (tick s).flags = s.flags := rfl
@[simp] theorem tick_guest : (tick s).guest = s.guest := rfl
@[simp] theorem tick_pel : (tick s).pel = s.pel := rfl
@[simp] theorem tick_fab : (tick s).fab = s.fab := rfl
@[simp] theorem tick_mgmt : (tick s).mgmt = s.mgmt := rfl
@[simp] theorem tick_pwr : (tick s).pwr = s.pwr := rfl
@[simp] theorem tick_thm : (tick s).thm = s.thm := rfl
@[simp] theorem tick_sec : (tick s).sec = s.sec := rfl
@[simp] theorem tick_wdr : (tick s).wdr = s.wdr := rfl
@[simp] theorem tick_idst : (tick s).idst = s.idst := rfl
@[simp] theorem tick_urgent : (tick s).urgent = s.urgent := rfl
@[simp] theorem tick_urgIgnored : (tick s).urgIgnored = s.urgIgnored := rfl
@[simp] theorem tick_counters : (tick s).counters = s.counters := rfl
@[simp] theorem tick_os : (tick s).os = s.os := rfl
@[simp] theorem tick_readData : (tick s).readData = s.readData := rfl
@[simp] theorem tick_readErr : (tick s).readErr = s.readErr := rfl
@[simp] theorem tick_free : (tick s).free = s.free := rfl
@[simp] theorem tick_pending : (tick s).pending = s.pending := rfl

/-! ## Reading back -/

@[simp] theorem State.core_setCore_self (n : Nat) (c : Core) : (s.setCore n c).core n = c := tget_tset_self _ _ _ _
@[simp] theorem State.core_setCore_other (n k : Nat) (c : Core) (h : k ≠ n) : (s.setCore n c).core k = s.core k := tget_tset_other _ _ _ _ _ h
@[simp] theorem Core.sheaf_setSheaf_self (c : Core) (sl : Nat) (f : Sheaf) : (c.setSheaf sl f).sheaf sl = f := tget_tset_self _ _ _ _
@[simp] theorem Core.sheaf_setSheaf_other (c : Core) (sl j : Nat) (f : Sheaf) (h : j ≠ sl) : (c.setSheaf sl f).sheaf j = c.sheaf j :=
  tget_tset_other _ _ _ _ _ h
@[simp] theorem State.sheaf_setSheaf_self (n sl : Nat) (f : Sheaf) : (s.setSheaf n sl f).sheaf n sl = f := by
  simp [State.sheaf, State.setSheaf]
/-- A sheaf other than the one replaced. -/
@[simp] theorem State.sheaf_setSheaf_other (n sl k j : Nat) (f : Sheaf) (h : k ≠ n ∨ j ≠ sl) : (s.setSheaf n sl f).sheaf k j = s.sheaf k j := by
  by_cases hk : k = n
  · subst hk
    have hj : j ≠ sl := h.resolve_left (fun e => e rfl)
    simp [State.sheaf, State.setSheaf, hj]
  · simp [State.sheaf, State.setSheaf, hk]
@[simp] theorem State.half_setHalf_self (h : Nat) (x : Half) : (s.setHalf h x).half h = x := tget_tset_self _ _ _ _
@[simp] theorem State.half_setHalf_other (h k : Nat) (x : Half) (e : k ≠ h) : (s.setHalf h x).half k = s.half k := tget_tset_other _ _ _ _ _ e
@[simp] theorem State.stack_setStack_self (m : Nat) (x : Stack) : (s.setStack m x).stack m = x := tget_tset_self _ _ _ _
@[simp] theorem State.stack_setStack_other (m k : Nat) (x : Stack) (e : k ≠ m) : (s.setStack m x).stack k = s.stack k :=
  tget_tset_other _ _ _ _ _ e
@[simp] theorem State.quarter_setQuarter_self (q : Nat) (x : Quarter) : (s.setQuarter q x).quarter q = x := tget_tset_self _ _ _ _
@[simp] theorem State.quarter_setQuarter_other (q k : Nat) (x : Quarter) (e : k ≠ q) : (s.setQuarter q x).quarter k = s.quarter k :=
  tget_tset_other _ _ _ _ _ e
@[simp] theorem State.link_setLink_self (l : Nat) (x : Link) : (s.setLink l x).link l = x := tget_tset_self _ _ _ _
@[simp] theorem State.link_setLink_other (l k : Nat) (x : Link) (e : k ≠ l) : (s.setLink l x).link k = s.link k := tget_tset_other _ _ _ _ _ e
@[simp] theorem State.mb_setMb_self (b : Nat) (x : Mailbox) : (s.setMb b x).mb b = x := tget_tset_self _ _ _ _
@[simp] theorem State.mb_setMb_other (b k : Nat) (x : Mailbox) (e : k ≠ b) : (s.setMb b x).mb k = s.mb k := tget_tset_other _ _ _ _ _ e
@[simp] theorem State.queue_setQueue_self (q : Nat) (x : Queue) : (s.setQueue q x).queue? q = some x := by
  simp only [State.queue?, State.setQueue, tfind_tput_self]
@[simp] theorem State.queue_setQueue_other (q k : Nat) (x : Queue) (e : k ≠ q) : (s.setQueue q x).queue? k = s.queue? k := by
  simp only [State.queue?, State.setQueue, tfind_tput_other _ _ _ _ e]
@[simp] theorem State.port_setPort_self (p : Nat) (x : Port) : (s.setPort p x).port p = x := tget_tset_self _ _ _ _
@[simp] theorem State.port_setPort_other (p k : Nat) (x : Port) (e : k ≠ p) : (s.setPort p x).port k = s.port k := tget_tset_other _ _ _ _ _ e
@[simp] theorem State.qp_setQp_self (i : Nat) (x : Qp) : (s.setQp i x).qp i = x := tget_tset_self _ _ _ _
@[simp] theorem State.flagStore_setFlagStore_self (q : Nat) (x : FlagStore) : (s.setFlagStore q x).flagStore q = x := tget_tset_self _ _ _ _
@[simp] theorem State.flagStore_setFlagStore_other (q k : Nat) (x : FlagStore) (e : k ≠ q) :
    (s.setFlagStore q x).flagStore k = s.flagStore k := tget_tset_other _ _ _ _ _ e
@[simp] theorem State.osCore_setOs_self (i : Nat) (x : OsCore) : (s.setOs i x).osCore i = x := tget_tset_self _ _ _ _
@[simp] theorem State.region_setRegion_self (i : Nat) (x : Region) : (s.setRegion i x).region i = x := tget_tset_self _ _ _ _
/-- A counter that counts. -/
@[simp] theorem counter_bump_self (off k : Nat) : counter (bump off k s) off = counter s off + BitVec.ofNat 64 k := tget_tset_self _ _ _ _
/-- Every other counter stands. -/
@[simp] theorem counter_bump_other (off k a : Nat) (h : a ≠ off) : counter (bump off k s) a = counter s a := tget_tset_other _ _ _ _ _ h

/-! ## The move to the next word -/

/-- Reconvergence moves the program counter, the active mask and the stack of a sheaf, and nothing else. -/
theorem settle_eq (k : Nat) (f : Sheaf) :
    settle k f = { f with pc := (settle k f).pc, active := (settle k f).active, stack := (settle k f).stack } := by
  induction k generalizing f with
  | zero => rfl
  | succ k ih =>
    unfold settle
    split
    · rfl
    · split
      · split
        all_goals rw [ih]
      · rfl
/-- A sheaf that has not ended moves on alone: no barrier completes. -/
theorem advance_live (n sl : Nat) (pc : W64) (h : (s.sheaf n sl).ended = false) :
    advance n sl pc s = s.setSheaf n sl (settle 80 { s.sheaf n sl with pc := pc }) := by
  have he : (settle 80 { (s.core n).sheaf sl with pc := pc }).ended = false := by
    rw [settle_eq]
    exact h
  simp only [advance, he]
  rfl
/-- An issue is noted in the core alone, and in none of its sheaves. -/
@[simp] theorem sheaf_noteIssue (n sl : Nat) (lines : List Nat) (k j : Nat) : (noteIssue n sl lines s).sheaf k j = s.sheaf k j := by
  by_cases h : k = n
  · subst h
    simp only [noteIssue, State.sheaf, State.core_setCore_self]
    rfl
  · simp only [noteIssue, State.sheaf, State.core_setCore_other _ _ _ _ h]

end Sys2Proof.Machine
end

