-- ==== Sys2Proof/Laws/Quiet.lean ====
section
/-! SUPPORT. What an access that a unit makes in one step can change, said once: counters, ages, fills, reads of the controllers and the log; no byte that
any party reads. -/
namespace Sys2Proof.Machine

/-- A line with its age left out. -/
def Line.aged (l : Line) : Line := { l with age := 0 }
/-- The line of a number, committed or of a stage. -/
def lineOf (hf : Half) (num : Nat) (sh : Option Nat) : Option Line := hf.lines.find? (fun l => l.num == num && l.shadow == sh)
/-- The writes that a controller and its ports hold. -/
def heldWrites (k : Stack) : List MReq := (k.pool ++ k.port).filter (fun r => r.write)

/-- From a state to one in which every party reads the same bytes. -/
structure Quiet (s t : State) : Prop where
  rest : { t with halves := s.halves, stackTab := s.stackTab, counters := s.counters, wdr := s.wdr } = s
  half : ∀ h, { t.half h with lines := [], fills := [] } = { s.half h with lines := [], fills := [] }
  lines : ∀ h num sh, (lineOf (t.half h) num sh).map Line.aged = (lineOf (s.half h) num sh).map Line.aged
  stack : ∀ m, (t.stack m).st = (s.stack m).st ∧ (t.stack m).failed = (s.stack m).failed ∧ heldWrites (t.stack m) = heldWrites (s.stack m)

theorem Quiet.refl (s : State) : Quiet s s := ⟨rfl, fun _ => rfl, fun _ _ _ => rfl, fun _ => ⟨rfl, rfl, rfl⟩⟩
theorem Quiet.trans {a b c : State} (h : Quiet a b) (k : Quiet b c) : Quiet a c where
  rest := (congrArg (fun x : State => { x with halves := a.halves, stackTab := a.stackTab, counters := a.counters, wdr := a.wdr }) k.rest).trans h.rest
  half := fun i => (k.half i).trans (h.half i)
  lines := fun i num sh => (k.lines i num sh).trans (h.lines i num sh)
  stack := fun m => ⟨(k.stack m).1.trans (h.stack m).1, (k.stack m).2.1.trans (h.stack m).2.1, (k.stack m).2.2.trans (h.stack m).2.2⟩

variable {z s : State}

theorem quiet_bump (off n : Nat) (h : Quiet z s) : Quiet z (bump off n s) := h.trans ⟨rfl, fun _ => rfl, fun _ _ _ => rfl, fun _ => ⟨rfl, rfl, rfl⟩⟩
theorem quiet_wdr (w : Windrow) (h : Quiet z s) : Quiet z { s with wdr := w } := h.trans ⟨rfl, fun _ => rfl, fun _ _ _ => rfl, fun _ => ⟨rfl, rfl, rfl⟩⟩
theorem quiet_logRec (sev src code : Nat) (p : List Byte) (h : Quiet z s) : Quiet z (logRec sev src code p s) := by
  unfold logRec countDrop
  dsimp only
  split
  · exact quiet_wdr _ h
  · split
    · exact quiet_wdr _ (quiet_bump _ _ h)
    · exact quiet_wdr _ (quiet_bump _ _ (quiet_wdr _ h))
theorem quiet_setHalf (i : Nat) (x : Half) (h : Quiet z s) (hr : { x with lines := [], fills := [] } = { s.half i with lines := [], fills := [] })
    (hl : ∀ num sh, (lineOf x num sh).map Line.aged = (lineOf (s.half i) num sh).map Line.aged) : Quiet z (s.setHalf i x) := by
  refine h.trans ⟨rfl, fun j => ?_, fun j num sh => ?_, fun _ => ⟨rfl, rfl, rfl⟩⟩
  · by_cases e : j = i
    · subst e; rw [State.half_setHalf_self]; exact hr
    · rw [State.half_setHalf_other _ _ _ _ e]
  · by_cases e : j = i
    · subst e; rw [State.half_setHalf_self]; exact hl num sh
    · rw [State.half_setHalf_other _ _ _ _ e]
theorem quiet_setStack (m : Nat) (x : Stack) (h : Quiet z s) (h1 : x.st = (s.stack m).st) (h2 : x.failed = (s.stack m).failed)
    (h3 : heldWrites x = heldWrites (s.stack m)) : Quiet z (s.setStack m x) := by
  refine h.trans ⟨rfl, fun _ => rfl, fun _ _ _ => rfl, fun j => ?_⟩
  by_cases e : j = m
  · subst e; rw [State.stack_setStack_self]; exact ⟨h1, h2, h3⟩
  · rw [State.stack_setStack_other _ _ _ _ e]; exact ⟨rfl, rfl, rfl⟩

theorem quiet_countAcc (i cls : Nat) (hit : Bool) (h : Quiet z s) : Quiet z (countAcc i cls hit s) := by
  unfold countAcc
  dsimp only
  split
  · exact quiet_bump _ _ (quiet_bump _ _ h)
  · exact quiet_bump _ _ h
theorem quiet_countHit (i cls : Nat) (l : Line) (h : Quiet z s) : Quiet z (countHit i cls l s) := by
  unfold countHit
  split
  · exact quiet_bump _ _ h
  · exact quiet_countAcc _ _ _ h
/-- A read enters a controller, or waits at its port. -/
theorem quiet_lpIssue (m : Nat) (r : MReq) (hw : r.write = false) (h : Quiet z s) : Quiet z (lpIssue m r s) := by
  have hk : Quiet z (s.setStack m { s.stack m with nextId := (s.stack m).nextId + 1 }) := quiet_setStack _ _ h rfl rfl rfl
  unfold lpIssue lpEnter
  dsimp only
  split
  · refine quiet_setStack _ _ hk rfl rfl ?_
    simp [heldWrites, List.filter_append, hw]
  · refine quiet_setStack _ _ hk rfl rfl ?_
    simp [heldWrites, List.filter_append, hw]
theorem quiet_fillTake (i num sec : Nat) (inst : Bool) (slot : Option Nat) (d : W512 × Bool) (h : Quiet z s) : Quiet z (fillTake i num sec inst slot d s) := by
  unfold fillTake
  dsimp only
  split
  · exact h
  · exact quiet_setHalf _ _ h rfl (fun _ _ => rfl)
theorem quiet_fillRead (i num master : Nat) (inst : Bool) (sec : Nat) (h : Quiet z s) : Quiet z (fillRead i num master inst s sec) := by
  unfold fillRead poisonRec errRec
  dsimp only
  split
  · exact quiet_fillTake _ _ _ _ _ _ (quiet_logRec _ _ _ _ h)
  · exact quiet_lpIssue _ _ rfl h
theorem quiet_fold {α : Type} (g : State → α → State) (hg : ∀ a e, Quiet z a → Quiet z (g a e)) (l : List α) {s : State} (h : Quiet z s) :
    Quiet z (l.foldl g s) := by
  induction l generalizing s with
  | nil => exact h
  | cons e t ih => exact ih (hg _ _ h)
theorem quiet_startFill (i pa cls master : Nat) (inst pin : Bool) (w : List GReq) (h : Quiet z s) : Quiet z (startFill i pa cls master inst pin w s) := by
  unfold startFill
  dsimp only
  exact quiet_fold _ (fun _ _ k => quiet_fillRead _ _ _ _ _ k) _ (quiet_setHalf _ _ h rfl (fun _ _ => rfl))
/-- A line put back with another age is found as before. -/
theorem lineOf_putAge (hf : Half) (num : Nat) {l : Line} (hl : findLine hf num = some l) (num' : Nat) (sh : Option Nat) :
    (lineOf (putLine hf { l with age := 0 }) num' sh).map Line.aged = (lineOf hf num' sh).map Line.aged := by
  have hp := List.find?_some hl
  simp only [Bool.and_eq_true, beq_iff_eq] at hp
  obtain ⟨h1, h2⟩ := hp
  unfold lineOf putLine
  simp only [List.find?_map]
  have e : ((fun x : Line => x.num == num' && x.shadow == sh) ∘ fun x : Line => if x.num = l.num ∧ x.shadow = l.shadow then { l with age := 0 } else x) =
      fun x => x.num == num' && x.shadow == sh := by
    funext x
    simp only [Function.comp]
    split
    · rename_i hx; rw [hx.1, hx.2]
    · rfl
  rw [e]
  cases hx : hf.lines.find? (fun x => x.num == num' && x.shadow == sh) with
  | none => rfl
  | some x =>
    simp only [Option.map_some, Option.some.injEq]
    split
    · rename_i hk
      have hq := List.find?_some hx
      simp only [Bool.and_eq_true, beq_iff_eq] at hq
      have : some x = some l := by
        rw [← hx, ← hl, findLine, ← hq.1, ← hq.2, hk.1, hk.2, h1, h2]
      rw [Option.some.inj this]; rfl
    · rfl
/-- The age of one line changes. -/
theorem quiet_touch (i cls num : Nat) (h : Quiet z s) : Quiet z (touch i cls num s) := by
  unfold touch
  dsimp only
  split
  · split
    · exact h
    · rename_i l hl _
      exact quiet_setHalf _ _ h rfl (fun _ _ => lineOf_putAge _ _ hl _ _)
  · exact h
theorem quiet_noteSector (cls master pa : Nat) (h : Quiet z s) : Quiet z (noteSector cls master pa s) := by
  unfold noteSector
  dsimp only
  split
  · exact quiet_bump _ _ h
  · split
    · exact quiet_touch _ _ _ (quiet_countHit _ _ _ h)
    · split
      · exact quiet_countAcc _ _ _ h
      · exact quiet_startFill _ _ _ _ _ _ _ (quiet_countAcc _ _ _ h)
  · exact h
/-- The granary accesses of a fetch change no byte. -/
theorem quiet_fetchCount (n g w : Nat) (pc : W64) (h : Quiet z s) : Quiet z (fetchCount n g w pc s) := by
  unfold fetchCount
  exact quiet_fold _ (fun _ _ k => quiet_noteSector _ _ _ k) _ h

/-! ## What a party reads -/

theorem quiet_eq {t : State} (h : Quiet s t) : t = { s with halves := t.halves, stackTab := t.stackTab, counters := t.counters, wdr := t.wdr } := by
  have := h.rest
  rw [← this]
theorem quiet_lineOf {t : State} (h : Quiet s t) (i num : Nat) (sh : Option Nat) :
    (lineOf (t.half i) num sh = none ∧ lineOf (s.half i) num sh = none) ∨
    ∃ a b, lineOf (t.half i) num sh = some a ∧ lineOf (s.half i) num sh = some b ∧ a.present = b.present ∧ a.bytes = b.bytes ∧ a.psn = b.psn := by
  have e := h.lines i num sh
  cases ha : lineOf (t.half i) num sh <;> cases hb : lineOf (s.half i) num sh <;> rw [ha, hb] at e
  · exact .inl ⟨rfl, rfl⟩
  · cases e
  · cases e
  · rename_i a b
    have e' : a.aged = b.aged := Option.some.inj e
    exact .inr ⟨a, b, rfl, rfl, (by have := congrArg (fun x : Line => x.present) e'; exact this), (by have := congrArg (fun x : Line => x.bytes) e'; exact this), (by have := congrArg (fun x : Line => x.psn) e'; exact this)⟩
theorem find?_reverse_filter {α : Type} (l : List α) (p q : α → Bool) : l.reverse.find? (fun x => p x && q x) = (l.filter p).reverse.find? q := by
  rw [← List.filter_reverse, List.find?_filter]
  congr 1
  funext x
  simp
theorem quiet_lpHeld {t : State} (h : Quiet s t) (m y : Nat) : lpHeld t m y = lpHeld s m y := by
  unfold lpHeld
  rw [find?_reverse_filter _ (fun r : MReq => r.write) (fun r => r.y == y), find?_reverse_filter _ (fun r : MReq => r.write) (fun r => r.y == y)]
  have := (h.stack m).2.2
  unfold heldWrites at this
  rw [this]
theorem quiet_chanDead {t : State} (h : Quiet s t) (m ch : Nat) : chanDead t m ch = chanDead s m ch := by
  unfold chanDead
  rw [(h.stack m).1, (h.stack m).2.1, quiet_eq h]
  rfl
theorem quiet_burstData {t : State} (h : Quiet s t) (pa : Nat) : burstData t pa = burstData s pa := by
  have hl : ∀ x, lpLoc t x = lpLoc s x := fun x => by rw [quiet_eq h]; rfl
  unfold burstData lpBits
  simp only [hl, quiet_chanDead h, quiet_lpHeld h]
  split
  · rfl
  · rw [quiet_eq h]; rfl
theorem quiet_place {t : State} (h : Quiet s t) (pa : Nat) : place t pa = place s pa := by rw [quiet_eq h]; rfl
theorem quiet_homeHalf {t : State} (h : Quiet s t) (pa : Nat) : homeHalf t pa = homeHalf s pa := by rw [quiet_eq h]; rfl
theorem quiet_plot {t : State} (h : Quiet s t) (i off : Nat) :
    plotAt (t.half i) off = plotAt (s.half i) off ∧ plotFenced (t.half i) off = plotFenced (s.half i) off := by
  have e := h.half i
  have e1 : (t.half i).plots = (s.half i).plots := by have := congrArg (fun x : Half => x.plots) e; exact this
  have e2 : (t.half i).fenced = (s.half i).fenced := by have := congrArg (fun x : Half => x.fenced) e; exact this
  exact ⟨by rw [plotAt, plotAt, e1], by rw [plotFenced, plotFenced, e2]⟩
theorem quiet_committed {t : State} (h : Quiet s t) (pa : Nat) : committedSector t pa = committedSector s pa := by
  have hm : t.mem = s.mem := by rw [quiet_eq h]
  unfold committedSector
  simp only [quiet_place h, quiet_homeHalf h, (quiet_plot h _ _).1, (quiet_plot h _ _).2, hm, quiet_burstData h]
  cases place s (pa / 64 * 64) with
  | plot => rfl
  | _ =>
    rcases quiet_lineOf h (homeHalf s (pa / 64 * 64)) (pa / 64 * 64 / 256) none with ⟨ha, hb⟩ | ⟨a, b, ha, hb, h1, h2, h3⟩
    all_goals
      simp only [findLine]
      unfold lineOf at ha hb
      rw [ha, hb]
      try simp only [lineSector, h1, h2, h3]
theorem quiet_shadow {t : State} (h : Quiet s t) (st pa : Nat) : shadowSector t st pa = shadowSector s st pa := by
  have hs : ∀ q a, spillOf t q st a = spillOf s q st a := fun q a => by rw [quiet_eq h]; rfl
  unfold shadowSector
  simp only [quiet_homeHalf h, hs]
  rcases quiet_lineOf h (homeHalf s (pa / 64 * 64)) (pa / 64 * 64 / 256) (some st) with ⟨ha, hb⟩ | ⟨a, b, ha, hb, h1, h2, h3⟩
  all_goals
    simp only [findShadow]
    unfold lineOf at ha hb
    rw [ha, hb]
    try simp only [lineSector, h1, h2, h3]
/-- Every party reads every sector as before. -/
theorem quiet_sectorView {t : State} (h : Quiet s t) (stage : Option Nat) (pa : Nat) : sectorView t stage pa = sectorView s stage pa := by
  have hs : ∀ st a, hubShadow t st a = hubShadow s st a := fun st a => by rw [quiet_eq h]; rfl
  have hm : t.mem = s.mem := by rw [quiet_eq h]
  unfold sectorView
  simp only [quiet_place h, hs, quiet_shadow h, quiet_committed h, hm]

/-! ## The issue of an instruction is noted -/

theorem fetchCount_cores (n g w : Nat) (pc : W64) (s : State) : (fetchCount n g w pc s).cores = s.cores := by
  rw [quiet_eq (quiet_fetchCount n g w pc (Quiet.refl s))]
@[simp] theorem noted_clk (v : Env) (s : State) : (v.noted s).clk = s.clk := by
  have e := quiet_eq (quiet_fetchCount v.n v.run.group v.w v.f.pc (Quiet.refl s))
  simp only [Env.noted, noteIssue]
  rw [e]; rfl
@[simp] theorem noted_sheaf (v : Env) (s : State) (k j : Nat) : (v.noted s).sheaf k j = s.sheaf k j := by
  rw [Env.noted, sheaf_noteIssue, State.sheaf, State.core, fetchCount_cores]; rfl
theorem noted_core_other (v : Env) (s : State) (k : Nat) (h : k ≠ v.n) : (v.noted s).core k = s.core k := by
  simp only [Env.noted, noteIssue, State.core_setCore_other _ _ _ _ h]
  rw [State.core, fetchCount_cores]; rfl

end Sys2Proof.Machine
end

