-- ==== Sys2Proof/Tests/Slice0.lean ====
section
/-! SUPPORT. The package's own tests: commands that well-formedness refuses, the spec's worked examples, and for every statement with hypotheses a
state and operands that meet them all together. -/
open Sys2Proof Sys2Proof.Machine

set_option linter.unusedVariables false

/-! ## Commands that name no unit are refused, one for each check -/

theorem test_wf_accepts : wfInstr (.add 3 63 63 0 0) = true ∧ wfInstr (.launch 0xF_FFFF) = true ∧ wfInstr (.registerWrite 0 8 0) = true := by decide
theorem test_wf_register_write_width : wfInstr (.registerWrite 0 3 0) = false := by decide
theorem test_wf_os_access_width : wfInstr (.osCoreAccess 0 false 0 3 0 0) = false := by decide
theorem test_wf_os_access_core : wfInstr (.osCoreAccess 16 false 0 4 0 0) = false := by decide
theorem test_wf_doorbell_mailbox : wfInstr (.mbDoorbell 32 0) = false := by decide
theorem test_wf_ack_head_mailbox : wfInstr (.mbAckHeadWrite 32 0) = false := by decide
theorem test_wf_cpl_head_mailbox : wfInstr (.mbCplHeadWrite 32 0) = false := by decide
theorem test_wf_stamp_domain : wfInstr (.tinMinvStampRead 0 67) = false := by decide
theorem test_wf_stamp_quarter : wfInstr (.tinMinvStampRead 4 0) = false := by decide
theorem test_wf_sheaf_slot : wfInstr (.add 0 0 64 0 0) = false := by decide
theorem test_wf_sheaf_core : wfInstr (.add 0 64 0 0 0) = false := by decide
theorem test_wf_sheaf_quarter : wfInstr (.add 4 0 0 0 0) = false := by decide
theorem test_wf_array_core : wfInstr (.arrayCommandStart 0 64) = false := by decide
theorem test_wf_array_furrow : wfInstr (.arrayFault 0 0 4) = false := by decide
theorem test_wf_stook_slot : wfInstr (.stookEnd 0 0 32) = false := by decide
theorem test_wf_watchdog_slot : wfInstr (.stookWatchdog 0 0 32) = false := by decide
theorem test_wf_half : wfInstr (.granaryStore 8 0) = false := by decide
theorem test_wf_queue : wfInstr (.launch 0x10_0000) = false := by decide
theorem test_wf_split_low : wfInstr (.tilthSplitChange 0 0 0) = false := by decide
theorem test_wf_split_high : wfInstr (.tilthSplitChange 0 0 32) = false := by decide
theorem test_wf_group_link : wfInstr (.groupStop 9 0 0) = false := by decide
theorem test_wf_group_direction : wfInstr (.groupStop 0 2 0) = false := by decide
theorem test_wf_group_number : wfInstr (.groupStop 0 0 16) = false := by decide
theorem test_wf_abandoned_link : wfInstr (.linkAbandon 9) = false := by decide
theorem test_wf_route_end : wfInstr (.routeChange 5 0) = false := by decide
theorem test_wf_route_other_end : wfInstr (.routeChange 0 5) = false := by decide
theorem test_wf_message_length : wfInstr (.controlMessage 0 [0]) = false := by decide
theorem test_wf_multicast_quarter : wfInstr (.multicast 4 []) = false := by decide
theorem test_wf_multicast_length : wfInstr (.multicast 0 [0]) = false := by decide
theorem test_wf_multicast_block : wfInstr (.mcastBlockTimeout 4 0) = false := by decide
theorem test_wf_vbus_quarter : wfInstr (.vbusUncorrectable 4 3 (0, none)) = false := by decide
theorem test_wf_vbus_port : wfInstr (.vbusUncorrectable 0 0 (64, none)) = false := by decide
theorem test_wf_vbus_way : wfInstr (.vbusUncorrectable 0 1 (5, none)) = false := by decide
theorem test_wf_vbus_tag : wfInstr (.vbusUncorrectable 0 2 (2, none)) = false := by decide
theorem test_wf_vbus_control : wfInstr (.vbusUncorrectable 0 3 (1, none)) = false := by decide
theorem test_wf_vbus_kind : wfInstr (.vbusUncorrectable 0 4 (0, none)) = false := by decide
theorem test_wf_guest_flit : wfInstr (.guestFlit []) = false := by decide
theorem test_wf_guest_request : wfInstr (.guestRequest []) = false := by decide
theorem test_wf_guest_response : wfInstr (.guestResponse []) = false := by decide
theorem test_wf_request_stack : wfInstr (.lpddrRequest 8 false 0 0 0 0 false) = false := by decide
theorem test_wf_request_address : wfInstr (.lpddrRequest 0 false 0 0x14_0000_0000 0 0 false) = false := by decide
theorem test_wf_request_slot : wfInstr (.lpddrRequest 0 false 0 0 64 0 false) = false := by decide
theorem test_wf_channel_stack : wfInstr (.channelSlot 8 (0, [])) = false := by decide
theorem test_wf_channel_number : wfInstr (.channelSlot 0 (64, [])) = false := by decide
theorem test_wf_return_stack : wfInstr (.crcRetry 8 (0, 0)) = false := by decide
theorem test_wf_bank : wfInstr (.refreshDue 0 0 16) = false := by decide
theorem test_wf_die : wfInstr (.refreshRateTimeout 0 16) = false := by decide
theorem test_wf_zero_fill_stack : wfInstr (.stackZeroFillDone 8) = false := by decide
theorem test_wf_walker_half : wfInstr (.walkerRead 0 8 0) = false := by decide
theorem test_wf_walker_core : wfInstr (.walkerRead 1 256 0) = false := by decide
theorem test_wf_walker_stack : wfInstr (.walkerRead 2 8 0) = false := by decide
theorem test_wf_walker_kind : wfInstr (.walkerRead 3 0 0) = false := by decide
theorem test_wf_checker_half : wfInstr (.checkerSelfTest 0 8 false) = false := by decide
theorem test_wf_checker_voter : wfInstr (.checkerSelfTest 2 265 false) = false := by decide
theorem test_wf_checker_kind : wfInstr (.checkerSelfTest 7 0 false) = false := by decide
theorem test_wf_spoiled_fuses : wfInstr (.attest 0 16385 false) = false := by decide
theorem test_wf_port : wfInstr (.portLock 9) = false := by decide
theorem test_wf_pause_priority : wfInstr (.pfcPauseTimeout 0 8) = false := by decide
theorem test_wf_host_ring : wfInstr (.hostTxSend 0 16) = false := by decide
theorem test_wf_ring_port : wfInstr (.hostTxSend 9 0) = false := by decide
theorem test_wf_ptp_port : wfInstr (.roceSend 9 0 0 []) = false := by decide
theorem test_wf_converter : wfInstr (.converterFail 24) = false := by decide
theorem test_wf_cap_domain : wfInstr (.domainCapAdjust 0 68 0) = false := by decide
theorem test_wf_fallow_state : wfInstr (.fallowEntry 0 0 4) = false := by decide
theorem test_wf_grant_quarter : wfInstr (.wakeGrant 4 0) = false := by decide
theorem test_wf_forced_cap_low : wfInstr (.wakeForced 0 0 0) = false := by decide
theorem test_wf_forced_cap_high : wfInstr (.wakeForced 0 0 65) = false := by decide
theorem test_wf_tine : wfInstr (.tineFail 0 640) = false := by decide
theorem test_wf_tine_quarter : wfInstr (.tineFail 4 0) = false := by decide
theorem test_wf_round_sender : wfInstr (.roundMissing 4) = false := by decide
theorem test_wf_cluster : wfInstr (.clusterReset 0 16) = false := by decide
theorem test_wf_cluster_quarter : wfInstr (.clusterReset 4 0) = false := by decide
theorem test_wf_headland_quarter : wfInstr (.headlandEnd 4) = false := by decide
theorem test_wf_severity : wfInstr (.logRecord 6 0 0 []) = false := by decide
theorem test_wf_telemetry_low : wfInstr (.telemetrySend 0) = false := by decide
theorem test_wf_telemetry_high : wfInstr (.telemetrySend 5) = false := by decide
theorem test_wf_collector : wfInstr (.traceRecord 5 0 0 0) = false := by decide
theorem test_wf_device_width : wfInstr (.devRead 0 3) = false := by decide
theorem test_wf_training_link : wfInstr (.linkTraining 9 0 0) = false := by decide
theorem test_wf_fuse_unit : wfInstr (.fuseLoad 266 [] [] []) = false := by decide

/-! ## The spec's worked examples -/

/-- 10 R306, 07 R214: on 4A with region 3 quarter-local, 0x0006_0000_1300 is in M1.CH09, row 1,536; home half Q0 east, set 0x0_0069. -/
theorem test_map_local : let s : State := { State.reset with pel := { State.reset.pel with local_ := [3] } }
    lpLoc s 0x6_0000_1300 = (1, 0xC000_0900) ∧ lpChan 0xC000_0900 = 9 ∧ lpLocal 0xC000_0900 = 0x0300_0000 ∧ lpCol 0xC000_0900 = 0 ∧ lpBank 0xC000_0900 = 0 ∧
    lpRow 0xC000_0900 = 1536 ∧ homeHalf s 0x6_0000_1300 = 1 ∧ setOf s 0x6_0000_1300 = 0x69 := by decide +kernel
/-- 10 R306: on 4B with region 0 in fine mode, 0xA00 is in M5.CH01 at channel-local 0, home quarter Q2. -/
theorem test_map_fine : let s : State := { State.reset with fuse := { State.reset.fuse with part := .b4 } }
    lpLoc s 0xA00 = (5, 0x100) ∧ lpChan 0x100 = 1 ∧ lpLocal 0x100 = 0 ∧ homeQuarter s 0xA00 = 2 := by decide +kernel
/-- 01 R23: on 4B, quarter-local region 3 gives Q1 one GiB from 0x5_0000_0000 and Q3 one from 0x5_C000_0000. -/
theorem test_map_shares : let s : State := { State.reset with fuse := { State.reset.fuse with part := .b4 }, pel := { State.reset.pel with local_ := [3] } }
    homeQuarter s 0x4_8000_0000 = 0 ∧ homeQuarter s 0x4_FFFF_FFFF = 0 ∧ homeQuarter s 0x5_0000_0000 = 1 ∧ homeQuarter s 0x5_4000_0000 = 2 ∧
    homeQuarter s 0x5_C000_0000 = 3 := by decide +kernel
/-- 01 Table 1-6: Q2.C02, Q2.T017, stack M3, M3.CH17. -/
theorem test_sources : srcCore 130 = 0x3002 ∧ srcTine 2 17 = 0x3411 ∧ srcStack 3 = 0x53 ∧ srcChan 3 17 = 0x60D1 := by decide
/-- 05: ADD.f32 v3, v3, 1.5 is 0x3FC0_0006_0310_0001 and passes every encoding check. -/
theorem test_add_word : (0x0FF00 <<< 46 ||| 3 <<< 33 ||| 3 <<< 24 ||| 4 <<< 18 ||| 1 : Nat) = 0x3FC0_0006_0310_0001 ∧
    encOk 0x3FC0_0006_0310_0001 0 (aluForm 2 [0, 1, 2, 3, 4, 5, 6] modSat true 0x3FC0_0006_0310_0001) = true := by decide
/-- 05: LD.global.32 v12, [u4:u5 + 0x40] passes; the odd pair u5 is reserved; v20 lies beyond 16 registers. -/
theorem test_ld_word : encOk 0x0040_2608_0C00_0002 0 (memForm true 0x0040_2608_0C00_0002) = true ∧
    encOk 0x0040_260A_0C00_0002 0 (memForm true 0x0040_260A_0C00_0002) = false ∧
    encOk 0x0040_2608_1400_0002 0 (memForm true 0x0040_2608_1400_0002) = true ∧ beyond 0x0040_2608_1400_0002 16 (memForm true 0x0040_2608_1400_0002) = true := by decide
/-- 03 R87, R93: 3,000 at exponent −12 and 1,000 at −11 give 2,500 at −11, which drains to INT32 as 5,000. -/
theorem test_mxint : intAcc 0 (.int 3000 (-12)) 1000 (-11) = .int 2500 (-11) := by decide
/-- 03: 250 is code 0x78 to nearest and 0x77 toward zero in E4M3; −0.075 is 0x9A. -/
theorem test_e4m3 : (fenc e4m3 .rne (.fin false 250 0) 0).1 = 0x78 ∧ (fenc e4m3 .rtz (.fin false 250 0) 0).1 = 0x77 ∧
    (fenc e4m3 .rne (.fin true 5033165 (-26)) 0).1 = 0x9A := by decide +kernel
/-- 03 R97: 0x3F80_5A00 to BF16 with four bits rounds up for six of the sixteen draws. -/
theorem test_stochastic : (List.range 16).filter (fun r => (fenc bf16 (.sto 4 0) (fdec f32 0x3F80_5A00) r).1 == 0x3F81) = [10, 11, 12, 13, 14, 15] := by decide +kernel
/-- 01 R32: of two records with one stamp, that of core Q2.C02 comes before that of tine Q2.T017, whichever came first. -/
theorem test_equal_stamps : let r (n : Nat) : LogRec := { sev := 5, src := n, code := 0x8800, stamp := 9, payload := [] }
    joinRec (r (srcCore 130)) [r 0, r (srcTine 2 17)] = [r 0, r (srcCore 130), r (srcTine 2 17)] ∧
    joinRec (r (srcTine 2 17)) [r 0, r (srcCore 130)] = [r 0, r (srcCore 130), r (srcTine 2 17)] := by decide
/-- 01 R13, R14: 0.75 V gives 1.92 G steps/s at 70 °C, 0.76 V a fifth of the way to 2.20, and 90 °C takes 3 % off. -/
theorem test_min_rate : minStep 15 = 1920 ∧ minStep 16 = 1976 ∧ minStep 30 = 2600 ∧ rateAt 1920 (90 * 16) = 160000 * 1920 * 97 / 100 := by decide
/-- 20 Table 20-10: FUS_PART of each part reads as the example of 00 gives it once the fuses are loaded. -/
theorem test_fus_part : (let s : State := { State.reset with fuse := { State.reset.fuse with part := .b4, loaded := true } }; fusPart s) = 0x0E08_7702 := by decide

/-! ## States that the witnesses use -/

/-- A run of group 1 on core 0, in stage 0. -/
def wRun : Run where
  queue := 33
  seq := 0
  group := 1
  opcode := 0x40
  stage := some 0
  cores := [0]
  qmask := 1
  entry := 0x10000
  arg := 0
  viewAddr := 0
  stooks := 1
  regs := 32
  sheaves := 1
  scratch := 4096
  cunits := 7
  trapMask := 0
  poisonPolicy := false
  lockUs := 1000
  limitUs := 1000000
  ring := false
  cols := []
  flags := (0, [(0, 8)])
  poisonedThreads := 0
  kill := none
  left := 1
  begun := [0]
  copyPoison := false
/-- Group 1's mapping of 64 KiB at 0x10000 to LPDDR. -/
def wMap : Mapping where
  group := 1
  va := 0x10000
  pa := 0x10000
  size := 0x10000
  page := 0
  read := true
  write := true
  exec := true
  cls := 0
/-- Group 1's mapping of 64 KiB at 0x40000 to hub SRAM. -/
def wHub : Mapping := { wMap with va := 0x40000, pa := 0x0120_0000_0000 }
/-- A sheaf in its lane 0 at the run's entry. -/
def wSheaf : Sheaf := { Sheaf.dflt with
  live := true
  pc := 0x10000
  active := 1
  v := [(0, 5), (32, 7)]
  u := [(2, 0x10000), (4, 0x40000), (8, 3)]
  p := [(0, 0xFFFF_FFFF)] }
/-- Its stook. -/
def wStook : Stook where
  launch := 1
  index := 0
  slots := [0]
  base := 0
  size := 4096
  blocks := 4
  start := 0
  bars := []
  killed := none
/-- A core in service that runs the stook. -/
def wCore : Core := { Core.dflt with
  inService := true
  fallow := 0
  sheaves := [(0, wSheaf)]
  stooks := [(0, wStook)]
  seed := { Seedbox.dflt with roundKey := some 1, launch := [(1, { key := 1, ctr := 0 })] } }
/-- The module in service with that run. -/
def wState : State := { State.reset with
  boot := { State.reset.boot with step := 6 }
  quarters := [(0, { Quarter.dflt with st := 0 }), (1, { Quarter.dflt with st := 0 }), (2, { Quarter.dflt with st := 0 }), (3, { Quarter.dflt with st := 0 })]
  cores := [(0, wCore)]
  pel := { State.reset.pel with runs := [(1, wRun)], maps := [wMap, wHub], stages := [0] } }
/-- The same with one field of the sheaf, the core or the run changed. -/
def withSheaf (f : Sheaf → Sheaf) (s : State) : State := s.setSheaf 0 0 (f (s.sheaf 0 0))
/-- Change core 0. -/
def withCore (f : Core → Core) (s : State) : State := s.setCore 0 (f (s.core 0))
/-- What an instruction of sheaf 0 of core 0 meets. -/
def envOf (w0 e0 : W64) (s : State) : Env :=
  let f := s.sheaf 0 0
  let t := (stookOf s 0 f).getD wStook
  { n := 0, sl := 0, w := w0.toNat, e := e0.toNat, f := f, m := execLanes w0.toNat f, stook := t, run := (runOf s t.launch).getD wRun }

/-- A ring-fed command of the array. -/
def wRing : ArrCmd where
  desc := { mode := 0, semiring := 0, afmt := 0, bfmt := 0, outfmt := 0, round := 0, rclass := false, accInit := 0, drain := true, aring := true
            fwd := false, dir := false, twoLevel := false, hops := 1, tag := 5, m := 32, n := 32, k := 32, aAddr := 0, aStride := 0x20040, aScale := 0
            bAddr := 1024, bStride := 64, bScale := 0, cAddr := 2048, cStride := 64, segScale := 0, statusAddr := 3968, poisonAddr := 0 }
  stook := 0
  sheaf := 0
  launch := 1
  tainted := false
/-- A PFR that waits for it. -/
def wPfr : BulkOp where
  id := 7
  kind := 2
  scr := 0
  lines := [0x10000]
  stook := 0
  sheaf := 0
  tag := 5
  panel := 0
  slot := 0
  begun := false
  done := 0
  poison := false
  pc := 0x10000
  active := 1
  instr := 0
  held := false
/-- A queued PFS of one line. -/
def wPfs : BulkOp := { wPfr with kind := 0 }
/-- A claimed ring slot. -/
def wSlot : RingSlot where
  slot := 0
  off := 0
  len := 64
  fwd := false
  dir := false
  tag := 5
  visits := 1
  panel := 0
  poison := false
  complete := false
  consumed := false
  forwarded := false
  fwdSince := none
/-- A lock wait of lane 0 on a word of the hub SRAM. -/
def wLock : LockWait := { mask := 1, glob := true, addrs := [(0, 0x0120_0000_0000)], failed := 0, woken := false }
/-- The sheaf waits for it since time 0, at a time in ns. -/
def waitState (t : W64) : State :=
  let s := withSheaf (fun f => { f with lockWait := some wLock, lockSince := [(0, 0)] }) wState
  { s with clk := { s.clk with tb := t } }
/-- The lock word at scratch offset 0 is held by lane 0 of the sheaf, of generation 0. -/
def lockedState : State := scrWrite 0 0 (natLE 8 (2 ^ 63)) false wState
/-- A fault record of sheaf 0. -/
def wFault : FaultRec where
  cause := 6
  detail := 0
  sheaf := 0
  stook := 0
  launch := 1
  pc := 0x10000
  active := 1
  lanes := 1
  addr := 0
  instr := 0
  stamp := 0
  source := 0x1000
  depth := 0
  gen := 0
  seq := 0
/-- A rounding key and a launch key are requested; the entropy source passes. -/
def keyState : State :=
  let s := withCore (fun c => { c with seed := { Seedbox.dflt with roundReq := some 0, launchReq := [(3, 0)] } }) wState
  { s with sec := { s.sec with entropyOk := true } }
/-- A running array command of one tile, with or without DRAIN, after some tiles. -/
def wArrRun (drain : Bool) (tile : Nat) : ArrRun where
  cmd := { wRing with desc := { wRing.desc with drain := drain, aring := false, aStride := 64 } }
  fill := 0
  tile := tile
  bank := []
  panels := []
  panel := 0
  outs := []
  maps := []
  psnOuts := []
  lost := false
  prows := []
  cols := 0
  ringSince := none
  mapped := false
/-- Core 0's array runs it. -/
def runState (drain : Bool) (tile : Nat) : State := withCore (fun c => { c with arr := { c.arr with run := some (wArrRun drain tile) } }) wState
/-- A ring-fed command waits for a slot since time 0. -/
def wRingRun : ArrRun := { wArrRun true 0 with cmd := wRing, ringSince := some 0 }
/-- A complete slot that owes a forward. -/
def fSlot : RingSlot := { wSlot with fwd := true, visits := 2, complete := true }
/-- A panel in an inbound port. -/
def wPanel : Panel := { tag := 5, visits := 1, panel := 0, poison := false, bytes := [], psn := [], src := 1, srcSlot := 0 }
/-- A descriptor of a 1 × 1 × 8 command lies at scratch offset 0. -/
def descState : State := scrWrite 0 0 ([0x201100, 0, 1, 1, 8, 64, 64, 0, 128, 64, 0, 192, 64, 0, 256, 0].flatMap (natLE 4)) false wState
/-- Change half 0. -/
def withHalf (f : Half → Half) (s : State) : State := s.setHalf 0 (f (s.half 0))
/-- A fill of line 0. -/
def wFill : Fill where
  num := 0
  cls := 0
  master := 1
  slot := 0
  waiters := []
  want := []
  got := []
  install := true
  waiting := false
  pin := false
/-- A request of sheaf 0 for sector 0. -/
def wReq (op : GOp) : GReq where
  pa := 0
  op := op
  req := .store 0 0 0
  cls := 0
  master := 1
  slot := 0
  stage := none
  retry := none
/-- A pin of nothing that queue 33's command 0 asked for. -/
def wPin : Pin where
  priority := 0
  base := 0
  size := 0
  order := 0
  accepted := [0]
  cmd := some (33, 0)
/-- Link 0 is up. -/
def linkState : State := wState.setLink 0 { wState.link 0 with st := 1 }
/-- A 4G module whose port is up. -/
def guestState : State :=
  let s := wState.setLink 8 { wState.link 8 with st := 1 }
  { s with fuse := { s.fuse with part := .g4 } }
/-- Stack 0 is up. -/
def stackState : State := wState.setStack 0 { wState.stack 0 with st := 1, rate := 2 }
/-- An issued read of burst 0. -/
def wBurst : MReq where
  id := 0
  write := false
  master := 0
  y := 0
  data := 0
  side := 0
  src := .port
  since := 0
  issued := true
  tries := 0
/-- A multicast message of Pelseso to no core, of TYPE 1. -/
def mcastMsg : List Byte := ((List.replicate 64 0).set 0x0B 1).set 0 1
/-- It holds a retry slot since time 0. -/
def wMcast : Mcast where
  msg := mcastMsg
  src := 0
  tag := 0
  targets := 0
  entered := 0
  delivered := 0
  blocked := 0
  bounced := 0
  since := 0
/-- Bytes of a descriptor: opcode, and fields (offset, bytes, value). -/
def wDesc (op : Nat) (l : List (Nat × Nat × Nat)) : List Byte :=
  l.foldl (fun d f => d.take f.1 ++ natLE f.2.1 f.2.2 ++ d.drop (f.1 + f.2.1)) (natLE 64 op)
/-- Command 0 of a queue, accepted at version 2.0. -/
def wCmd (op qu : Nat) (l : List (Nat × Nat × Nat)) : Cmd where
  queue := qu
  seq := 0
  desc := wDesc op l
  bad := (false, false)
  verMajor := 2
  verMinor := 0
  mailbox := 0
  order := 0
  st := .accepted
  first := none
  start := none
  runs := 0
  abandons := 0
  status := 0
  detail := 0
  waitFlags := false
  launch := 0
  readAt := none
  retry := none
  quarters := 0
/-- It is the one command, and mailbox 0 is attached but for a HELLO. -/
def cmdState (op qu : Nat) (l : List (Nat × Nat × Nat)) : State :=
  let s := wState.setMb 0 { wState.mb 0 with st := if op = 1 then 0 else 1 }
  { s with pel := { s.pel with cmds := [wCmd op qu l] } }
/-- An active queue of group 9. -/
def wQueue : Queue where
  group := 9
  depthLog2 := 6
  mbMask := 1
  cqAddr := 0
  nextSeq := 0
  posted := 0
  consumed := 0
  st := 0
  delCmd := none
  ptr := 0
/-- A context of group 9. -/
def wCtx : Context where
  group := 9
  key := 0
  counter := 0
  kvRoot := 0
  kvLen := 0
  temp := 0
  topK := 0
  topP := 1
  token := none
/-- Fields of a LAUNCH of one stook of one sheaf in quarter 0 that takes 4,096 flags. -/
def launchFields : List (Nat × Nat × Nat) := [(32, 4, 1), (36, 4, 0xC010000), (40, 4, 0x102)]
/-- It is the next command of queue 32 of group 9. -/
def launchState : State :=
  let s := cmdState 0x40 32 launchFields
  State.setQueue { s with pel := { s.pel with groups := [(9, { keySlot := 0, qmask := 1, wakeUs := 0 })] } } 32 wQueue
/-- With no stage in use the first is free. -/
theorem free_stage {s : State} (h : s.pel.stages = []) : freeStage s = some 0 := by
  rw [freeStage, List.find?_range_eq_some]
  exact ⟨by rw [h]; rfl, by simp, by omega⟩
/-- Fabric port 0 and the management port in a state (0 training, 1 up) at a time in ns. -/
def portAt (st : Nat) (t : W64) : State :=
  let s := (wState.setPort 0 { wState.port 0 with st := st }).setPort 8 { wState.port 8 with st := st }
  { s with clk := { s.clk with tb := t, pllLocked := true } }
/-- A drill connection of mailbox 0 with zero keys. -/
def wConn : Conn where
  peer := 0
  v4 := false
  mailbox := 0
  group := none
  version := 2
  flows := 1
  peerConn := 0
  ctrIn := none
  ctrOut := 0
  keyIn := 0
  keyOut := 0
  pending := none
  flowTab := []
/-- It is connection 0. -/
def connState : State := { wState with fab := { wState.fab with conns := [(0, wConn)] } }
/-- A frame of it with CTR 0 and no payload. -/
def wFrame (typ : Nat) (tag : List Nat) : List Byte := [0, BitVec.ofNat 8 typ] ++ List.replicate 46 0 ++ bytesOf tag
/-- A CONNECT with no authenticator. -/
def wConnect : List Byte :=
  [0, 1] ++ List.replicate 38 0 ++ natLE 2 1632 ++ List.replicate 6 0 ++ [3] ++ List.replicate 39 0 ++ [0x94, 0xda, 0x62, 0x80, 0xb2, 0x40, 0xea, 0x6a] ++
  List.replicate 1584 0
/-- An entry of the listen table is in force, and the module has a boot key. -/
def connectState : State :=
  { wState with fab := { wState.fab with listen := [(0, 1), (4, 3), (5, 1)] }, sec := { wState.sec with ek := [1] } }
/-- Queue pair 0 is ready, and fabric port 0 is up. -/
def qpState : State :=
  let s := portAt 1 0
  State.setQp { s with fab := { s.fab with qpTab := [(0, 1)] } } 0 { s.qp 0 with st := 1 }
/-- An open alarm. -/
def wAlarm : Alarm where
  code := 0x0101
  src := 0
  closed := false
  count := 1
  first := 0
  last := 0
  detail := []
  sentCount := 0
  seq := 0
  logged := false
/-- A wake of core 0 that waits. -/
def wWake : Wake where
  core := 0
  since := 0
/-- A trip holds quarter 0, whose middle die still reads 130 °C. -/
def hotState : State :=
  let s := wState.setQuarter 0 { wState.quarter 0 with tripHold := some 0, trips := [0] }
  { s with thm := { s.thm with regions := [(300, { s.region 300 with est := some (deg 130) })] }, clk := { s.clk with tb := 100000000 } }
/-- Recovery, with the management port up and a fetch in progress or none. -/
def fetchState (f : Option (Nat × Nat × W64)) : State :=
  let s := portAt 1 0
  { s with boot := { s.boot with step := 8 }, mgmt := { s.mgmt with recovery := some (0, 0), fetch := f } }
/-- Pelseso runs, the quarters are in service and every stack is up. -/
def releaseState : State :=
  let s := (List.range 8).foldl (fun (a : State) m => a.setStack m { a.stack m with st := 1 }) wState
  { s with boot := { s.boot with step := 5 } }

/-- A wait of sheaf 0 of core 0 for flag 0. -/
def wFlag : FlagWait := { core := 0, sheaf := 0, flag := 0, threshold := 4 }
/-- The state in which it is registered. -/
def flagWaitState : State :=
  (withSheaf (fun f => { f with flagWait := some 0x102 }) wState).setFlagStore 0 { vals := [], owned := [], waits := [wFlag] }

/-! ## Table 11-3 -/

/-- 11 Table 11-3: a load that meets two wrong bits in a written word of hub SRAM faults, and the word is poisoned and counted. -/
theorem test_hub_uncorrectable :
    (match exec (.osCoreAccess 0 false 0x0120_0200_0000 8 0 3) { wState with mem := { wState.mem with hub := { wState.mem.hub with wr := [0x40_0000] } } } with
     | .next t => (t.osCore 0).fault && t.mem.hub.psn == [0x40_0000] && tget 0 t.counters 0x0084_0128 == 1
     | _ => false) = true := by decide +kernel
/-- 11 R319, R324: one wrong bit is corrected, and the load returns. -/
theorem test_hub_correctable :
    (match exec (.osCoreAccess 0 false 0x0120_0200_0000 8 0 1) { wState with mem := { wState.mem with hub := { wState.mem.hub with wr := [0x40_0000] } } } with
     | .next t => !(t.osCore 0).fault && t.mem.hub.psn.isEmpty && tget 0 t.counters 0x0084_0120 == 1
     | _ => false) = true := by decide +kernel

/-! ## The hypotheses of every statement are met together -/

theorem witness_ArithmeticCompletes_1 : ∃ (v : Env) (w e : W64) (s : State),
    (issues (aluFmt w) 0x0 w e (aluForm 2 [0, 1, 2, 3, 4, 5, 6] modSat true) false (fun _ => []) s v = true) ∧ (v.traps 2 lnAdd = none) :=
  ⟨envOf 0xff8040003000000 0 wState, 0xff8040003000000, 0, wState, by decide⟩
theorem witness_ArithmeticCompletes_2 : ∃ (v : Env) (w e : W64) (s : State),
    (issues (aluFmt w) 0x1 w e (aluForm 2 [0, 1, 2, 3, 4, 5, 6] modSat true) false (fun _ => []) s v = true) ∧ (v.traps 2 lnSub = none) :=
  ⟨envOf 0xff8040003000010 0 wState, 0xff8040003000010, 0, wState, by decide⟩
theorem witness_ArithmeticCompletes_3 : ∃ (v : Env) (w e : W64) (s : State),
    (issues (aluFmt w) 0x2 w e (aluForm 2 [0, 1, 2, 3, 4, 5, 6] modRound true) false (fun _ => []) s v = true) ∧ (v.traps 2 lnMul = none) :=
  ⟨envOf 0xff8040003000020 0 wState, 0xff8040003000020, 0, wState, by decide⟩
theorem witness_ArithmeticCompletes_4 : ∃ (v : Env) (w e : W64) (s : State),
    (issues (aluFmt w) 0x3 w e (aluForm 2 [0, 1, 2, 3] modZero true) false (fun _ => []) s v = true) ∧ (v.traps 2 lnMulhi = none) :=
  ⟨envOf 0xff8040003000030 0 wState, 0xff8040003000030, 0, wState, by decide⟩
theorem witness_ArithmeticCompletes_5 : ∃ (v : Env) (w e : W64) (s : State),
    (issues (aluFmt w) 0x4 w e (aluForm 3 [0, 1, 4, 5, 6] modRound false) false (fun _ => []) s v = true) ∧ (v.traps 3 lnMad = none) :=
  ⟨envOf 0x40003000040 0 wState, 0x40003000040, 0, wState, by decide⟩
theorem witness_ArithmeticCompletes_6 : ∃ (v : Env) (w e : W64) (s : State),
    (issues (aluFmt w) 0x5 w e (aluForm 2 [0, 1, 2, 3, 4, 5, 6] modRound true) false (fun _ => []) s v = true) ∧ (v.traps 2 lnMin = none) :=
  ⟨envOf 0xff8040003000050 0 wState, 0xff8040003000050, 0, wState, by decide⟩
theorem witness_ArithmeticCompletes_7 : ∃ (v : Env) (w e : W64) (s : State),
    (issues (aluFmt w) 0x6 w e (aluForm 2 [0, 1, 2, 3, 4, 5, 6] modRound true) false (fun _ => []) s v = true) ∧ (v.traps 2 lnMax = none) :=
  ⟨envOf 0xff8040003000060 0 wState, 0xff8040003000060, 0, wState, by decide⟩
theorem witness_ArithmeticCompletes_8 : ∃ (v : Env) (w e : W64) (s : State),
    (issues (aluFmt w) 0x7 w e (aluForm 1 [0, 2, 4, 5, 6] modRound true) false (fun _ => []) s v = true) ∧ (v.traps 1 lnAbs = none) :=
  ⟨envOf 0xffffc0003000070 0 wState, 0xffffc0003000070, 0, wState, by decide⟩
theorem witness_ArithmeticCompletes_9 : ∃ (v : Env) (w e : W64) (s : State),
    (issues (aluFmt w) 0x8 w e (aluForm 1 [0, 2, 4, 5, 6] modRound true) false (fun _ => []) s v = true) ∧ (v.traps 1 lnNeg = none) :=
  ⟨envOf 0xffffc0003000080 0 wState, 0xffffc0003000080, 0, wState, by decide⟩
theorem witness_ArithmeticCompletes_10 : ∃ (v : Env) (w e : W64) (s : State),
    (issues (aluFmt w) 0x9 w e (aluForm 2 [0, 1, 2, 3, 4] modRound true) false (fun _ => []) s v = true) ∧ (v.traps 2 lnDiv = none) :=
  ⟨envOf 0xff8040003000090 0 wState, 0xff8040003000090, 0, wState, by decide⟩
theorem witness_ArithmeticCompletes_11 : ∃ (v : Env) (w e : W64) (s : State),
    (issues (aluFmt w) 0xa w e (aluForm 2 [0, 1, 2, 3] modZero true) false (fun _ => []) s v = true) ∧ (v.traps 2 lnRem = none) :=
  ⟨envOf 0xff80400030000a0 0 wState, 0xff80400030000a0, 0, wState, by decide⟩
theorem witness_FunctionsComplete_1 : ∃ (v : Env) (w e : W64) (s : State),
    (issues (aluFmt w) 0xb w e (aluForm 1 [4] modRound true) false (fun _ => []) s v = true) ∧ (v.traps 1 lnSqrt = none) :=
  ⟨envOf 0xffffc00031000b0 0 wState, 0xffffc00031000b0, 0, wState, by decide⟩
theorem witness_FunctionsComplete_2 : ∃ (v : Env) (w e : W64) (s : State),
    (issues (aluFmt w) 0xc w e (aluForm 1 [4] modRound true) false (fun _ => []) s v = true) ∧ (v.traps 1 lnRcp = none) :=
  ⟨envOf 0xffffc00031000c0 0 wState, 0xffffc00031000c0, 0, wState, by decide⟩
theorem witness_FunctionsComplete_3 : ∃ (v : Env) (w e : W64) (s : State),
    (issues (aluFmt w) 0xd w e (aluForm 1 [4] modRound true) false (fun _ => []) s v = true) ∧ (v.traps 1 lnRsqrt = none) :=
  ⟨envOf 0xffffc00031000d0 0 wState, 0xffffc00031000d0, 0, wState, by decide⟩
theorem witness_FunctionsComplete_4 : ∃ (v : Env) (w e : W64) (s : State),
    (issues (aluFmt w) 0xe w e (aluForm 1 [4] modRound true) false (fun _ => []) s v = true) ∧ (v.traps 1 lnExp2 = none) :=
  ⟨envOf 0xffffc00031000e0 0 wState, 0xffffc00031000e0, 0, wState, by decide⟩
theorem witness_FunctionsComplete_5 : ∃ (v : Env) (w e : W64) (s : State),
    (issues (aluFmt w) 0xf w e (aluForm 1 [4] modRound true) false (fun _ => []) s v = true) ∧ (v.traps 1 lnLog2 = none) :=
  ⟨envOf 0xffffc00031000f0 0 wState, 0xffffc00031000f0, 0, wState, by decide⟩
theorem witness_FunctionsComplete_6 : ∃ (v : Env) (w e : W64) (s : State),
    (issues (aluFmt w) 0x10 w e (aluForm 1 [4] modRound true) false (fun _ => []) s v = true) ∧ (v.traps 1 lnSin = none) :=
  ⟨envOf 0xffffc0003100100 0 wState, 0xffffc0003100100, 0, wState, by decide⟩
theorem witness_FunctionsComplete_7 : ∃ (v : Env) (w e : W64) (s : State),
    (issues (aluFmt w) 0x11 w e (aluForm 1 [4] modRound true) false (fun _ => []) s v = true) ∧ (v.traps 1 lnCos = none) :=
  ⟨envOf 0xffffc0003100110 0 wState, 0xffffc0003100110, 0, wState, by decide⟩
theorem witness_BitsComplete_1 : ∃ (v : Env) (w e : W64) (s : State),
    (issues (aluFmt w) 0x12 w e (aluForm 2 [7, 8] modZero true) false (fun _ => []) s v = true) ∧ (v.traps 2 lnAnd = none) :=
  ⟨envOf 0xff80400031c0120 0 wState, 0xff80400031c0120, 0, wState, by decide⟩
theorem witness_BitsComplete_2 : ∃ (v : Env) (w e : W64) (s : State),
    (issues (aluFmt w) 0x13 w e (aluForm 2 [7, 8] modZero true) false (fun _ => []) s v = true) ∧ (v.traps 2 lnOr = none) :=
  ⟨envOf 0xff80400031c0130 0 wState, 0xff80400031c0130, 0, wState, by decide⟩
theorem witness_BitsComplete_3 : ∃ (v : Env) (w e : W64) (s : State),
    (issues (aluFmt w) 0x14 w e (aluForm 2 [7, 8] modZero true) false (fun _ => []) s v = true) ∧ (v.traps 2 lnXor = none) :=
  ⟨envOf 0xff80400031c0140 0 wState, 0xff80400031c0140, 0, wState, by decide⟩
theorem witness_BitsComplete_4 : ∃ (v : Env) (w e : W64) (s : State),
    (issues (aluFmt w) 0x15 w e (aluForm 1 [7, 8] modZero true) false (fun _ => []) s v = true) ∧ (v.traps 1 lnNot = none) :=
  ⟨envOf 0xffffc00031c0150 0 wState, 0xffffc00031c0150, 0, wState, by decide⟩
theorem witness_BitsComplete_5 : ∃ (v : Env) (w e : W64) (s : State),
    (issues (aluFmt w) 0x16 w e (aluForm 2 [0, 1, 2, 3, 7, 8] modZero true) false (fun _ => []) s v = true) ∧ (v.traps 2 lnShl = none) :=
  ⟨envOf 0xff80400031c0160 0 wState, 0xff80400031c0160, 0, wState, by decide⟩
theorem witness_BitsComplete_6 : ∃ (v : Env) (w e : W64) (s : State),
    (issues (aluFmt w) 0x17 w e (aluForm 2 [0, 1, 2, 3, 7, 8] modZero true) false (fun _ => []) s v = true) ∧ (v.traps 2 lnShr = none) :=
  ⟨envOf 0xff80400031c0170 0 wState, 0xff80400031c0170, 0, wState, by decide⟩
theorem witness_BitsComplete_7 : ∃ (v : Env) (w e : W64) (s : State),
    (issues (aluFmt w) 0x18 w e (aluForm 2 [0, 1, 2, 3, 7, 8] modZero true) false (fun _ => []) s v = true) ∧ (v.traps 2 lnRotl = none) :=
  ⟨envOf 0xff80400031c0180 0 wState, 0xff80400031c0180, 0, wState, by decide⟩
theorem witness_BitsComplete_8 : ∃ (v : Env) (w e : W64) (s : State),
    (issues (aluFmt w) 0x19 w e (aluForm 1 [7, 8] modZero true) false (fun _ => []) s v = true) ∧ (v.traps 1 lnPopc = none) :=
  ⟨envOf 0xffffc00031c0190 0 wState, 0xffffc00031c0190, 0, wState, by decide⟩
theorem witness_BitsComplete_9 : ∃ (v : Env) (w e : W64) (s : State),
    (issues (aluFmt w) 0x1a w e (aluForm 1 [7, 8] modZero true) false (fun _ => []) s v = true) ∧ (v.traps 1 lnClz = none) :=
  ⟨envOf 0xffffc00031c01a0 0 wState, 0xffffc00031c01a0, 0, wState, by decide⟩
theorem witness_BitsComplete_10 : ∃ (v : Env) (w e : W64) (s : State),
    (issues (aluFmt w) 0x1e w e (aluForm 1 [0, 1, 2, 3, 4, 5, 6, 7, 8] modZero true) false (fun _ => []) s v = true) ∧ (v.traps 1 lnMov = none) :=
  ⟨envOf 0xffffc00031c01e0 0 wState, 0xffffc00031c01e0, 0, wState, by decide⟩
theorem witness_PredicatesAndLanesComplete_1 : ∃ (v : Env) (w e : W64) (s : State),
    issues (aluFmt w) 0x1b w e selForm false (fun _ => []) s v = true :=
  ⟨envOf 0xa000400031c01b0 0 wState, 0xa000400031c01b0, 0, wState, by decide⟩
theorem witness_PredicatesAndLanesComplete_2 : ∃ (v : Env) (w e : W64) (s : State),
    issues (aluFmt w) 0x1c w e setpForm false (fun _ => []) s v = true :=
  ⟨envOf 0x2ff80401410001c0 0 wState, 0x2ff80401410001c0, 0, wState, by decide⟩
theorem witness_PredicatesAndLanesComplete_3 : ∃ (v : Env) (w e : W64) (s : State) (g : Nat → Nat × Exns),
    (issues (aluFmt w) 0x1d w e cvtForm false (fun _ => []) s v = true) ∧ (g = (fun l => cvtLane (wType v.w) (cvtDst v.w) (aluMod v.w) (rdN v.f (bits v.w 41 33) v.cnt l)
      (if aluMod v.w = 4 then rd32 v.f (bits v.w 50 42) l else 0))) ∧ (trapOf v.run.trapMask ((aluLanes v).map (fun l => (l, (g l).2))) = none) :=
  ⟨envOf 0x27fc00030001d0 0 wState, 0x27fc00030001d0, 0, wState, _, ⟨by decide, rfl, by decide⟩⟩
theorem witness_PredicatesAndLanesComplete_4 : ∃ (v : Env) (w e : W64) (s : State),
    issues (aluFmt w) 0x1f w e shflForm false (fun _ => []) s v = true :=
  ⟨envOf 0xff80400031c01f0 0 wState, 0xff80400031c01f0, 0, wState, by decide⟩
theorem witness_PredicatesAndLanesComplete_5 : ∃ (v : Env) (w e : W64) (s : State),
    issues (aluFmt w) 0x20 w e reduForm false (fun _ => []) s v = true :=
  ⟨envOf 0xffffc0104000200 0 wState, 0xffffc0104000200, 0, wState, by decide⟩
theorem witness_PredicatesAndLanesComplete_6 : ∃ (v : Env) (w e : W64) (s : State) (p : W32),
    (issues (aluFmt w) 0x21 w e voteForm false (fun _ => []) s v = true) ∧ (p = v.f.preg (regNum (bits v.w 41 33)) &&& v.m) :=
  ⟨envOf 0xffffe81041c0210 0 wState, 0xffffe81041c0210, 0, wState, _, ⟨by decide, rfl⟩⟩
theorem witness_IntegerLanes_1 : ∃ (ty c : Nat) (x y : BitVec (tyW ty)),
    ty ≤ 3 :=
  ⟨2, 0, 5, 7, by decide⟩
theorem witness_IntegerLanes_2 : ∃ (ty : Nat) (x y z : BitVec (tyW ty)),
    ty ≤ 1 :=
  ⟨0, 5, 7, 9, by decide⟩
theorem witness_IntegerLanes_3 : ∃ (ty c : Nat) (x y : BitVec (tyW ty)),
    ty = 0 ∨ ty = 2 :=
  ⟨0, 0, 5, 7, by decide⟩
theorem witness_IntegerLanes_4 : ∃ (ty c : Nat) (x y : BitVec (tyW ty)),
    ty = 1 ∨ ty = 3 :=
  ⟨1, 0, 5, 7, by decide⟩
theorem witness_IntegerLanes_5 : ∃ (ty c : Nat) (x y : BitVec (tyW ty)),
    ty ∈ [0, 1, 2, 3, 7, 8] :=
  ⟨0, 0, 5, 7, by decide⟩
theorem witness_IntegerLanes_6 : ∃ (ty c : Nat) (x y : BitVec (tyW ty)),
    ty = 7 ∨ ty = 8 :=
  ⟨7, 0, 5, 7, by decide⟩
theorem witness_FloatLanes_1 : ∃ (mod a b c : Nat),
    (fdec f32 a = .nan) ∧ (fdec f32 b ≠ .nan) :=
  ⟨0, 0x7FC00000, 5, 0, by decide⟩
theorem witness_FloatLanes_2 : ∃ (mod a b c m : Nat) (s t : Bool) (e g : Int),
    (fdec f32 a = .fin s (m + 1) e) ∧ (fdec f32 b = .fin t 0 g) :=
  ⟨0, 0x40000000, 0, 0, 0x7fffff, false, false, -22, -149, by decide⟩
theorem witness_FloatLanes_3 : ∃ (mod a b c m : Nat) (e : Int),
    fdec f32 a = .fin true (m + 1) e :=
  ⟨0, 0xC0000000, 0, 0, 0x7fffff, -22, by decide⟩
theorem witness_FloatLanes_4 : ∃ (mod a b c : Nat) (s : Bool) (e : Int),
    fdec f32 a = .fin s 0 e :=
  ⟨0, 0, 0, 0, false, -149, by decide⟩
theorem witness_FloatLanes_5 : ∃ (mod a b c : Nat),
    (match fdec f32 a with | .fin _ m e => trigInRange m e | _ => false) = false :=
  ⟨0, 0x7F800000, 0, 0, by decide⟩
theorem witness_FloatLanes_6 : ∃ (mod a b c : Nat),
    a < 2 ^ 32 :=
  ⟨0, 5, 0, 0, by decide⟩
theorem witness_BranchesComplete_1 : ∃ (v : Env) (w e : W64) (s : State),
    (issues 3 0 w e braForm false (fun w => [0x140 + bits w 26 24]) s v = true) ∧ (v.f.active &&& (if bit v.w 27 then ~~~v.f.preg (bits v.w 26 24) else v.f.preg (bits v.w 26 24)) = 0) :=
  ⟨envOf 0xc00028000003 0 (wState), 0xc00028000003, 0, wState, by decide⟩
theorem witness_BranchesComplete_2 : ∃ (v : Env) (w e : W64) (s : State),
    (issues 3 0 w e braForm false (fun w => [0x140 + bits w 26 24]) s v = true) ∧ (v.f.active ≠ 0) ∧ (v.f.active &&& (if bit v.w 27 then ~~~v.f.preg (bits v.w 26 24) else v.f.preg (bits v.w 26 24)) = v.f.active) :=
  ⟨envOf 0xc00020000003 0 (wState), 0xc00020000003, 0, wState, by decide⟩
theorem witness_BranchesComplete_3 : ∃ (v : Env) (w e : W64) (s : State) (t : W32),
    (issues 3 0 w e braForm false (fun w => [0x140 + bits w 26 24]) s v = true) ∧ (t = v.f.active &&& (if bit v.w 27 then ~~~v.f.preg (bits v.w 26 24) else v.f.preg (bits v.w 26 24))) ∧ (t ≠ 0) ∧ (v.f.active &&& ~~~t ≠ 0) ∧ (v.f.stack.length < 32) :=
  ⟨envOf 0xc00021000003 0 (withSheaf (fun f => { f with active := 3, p := [(1, 1)] }) wState), 0xc00021000003, 0, withSheaf (fun f => { f with active := 3, p := [(1, 1)] }) wState, 1, ⟨by decide, by decide, by decide, by decide, by decide⟩⟩
theorem witness_BranchesComplete_4 : ∃ (v : Env) (w e : W64) (s : State),
    issues 3 1 w e jmpForm false (fun _ => []) s v = true :=
  ⟨envOf 0x20000013 0 (wState), 0x20000013, 0, wState, by decide⟩
theorem witness_BranchesComplete_5 : ∃ (v : Env) (w e : W64) (s : State),
    issues 3 2 w e jmpForm false (fun _ => [0x13E, 0x13F]) s v = true :=
  ⟨envOf 0x20000023 0 (wState), 0x20000023, 0, wState, by decide⟩
theorem witness_BranchesComplete_6 : ∃ (v : Env) (w e : W64) (s : State) (a : Nat),
    (issues 3 3 w e jmprForm false (fun _ => []) s v = true) ∧ (a = rdN v.f (bits v.w 32 24) 2 0) ∧ (a % 8 = 0) :=
  ⟨envOf 0x102000033 0 (wState), 0x102000033, 0, wState, 0x10000, ⟨by decide, by decide, by decide⟩⟩
theorem witness_BranchesComplete_7 : ∃ (v : Env) (w e : W64) (s : State) (a : Nat),
    (issues 3 4 w e retForm false (fun _ => [0x13E, 0x13F]) s v = true) ∧ (a = rdN v.f 0x13E 2 0) ∧ (a % 8 = 0) :=
  ⟨envOf 0x43 0 (wState), 0x43, 0, wState, 0, ⟨by decide, by decide, by decide⟩⟩
theorem witness_BranchesComplete_8 : ∃ (v : Env) (w e : W64) (s : State),
    issues 3 5 w e exitForm false (fun _ => []) s v = true :=
  ⟨envOf 0x53 0 (wState), 0x53, 0, wState, by decide⟩
theorem witness_BarrierAndFlagInstructionsComplete_1 : ∃ (v : Env) (w e : W64) (s : State) (b : Nat) (a : State),
    (issues 5 0x20 w e barForm false (fun _ => []) s v = true) ∧ (fenceDone (v.noted s) v 0 = true) ∧ (b = bits v.w 45 42) ∧ (a = advance v.n v.sl (v.f.pc + 8) (v.put { v.f with barWait := some b } (v.noted s))) :=
  ⟨envOf 0xff80fffff000205 0 (wState), 0xff80fffff000205, 0, wState, _, _, ⟨by decide, by decide, rfl, rfl⟩⟩
theorem witness_BarrierAndFlagInstructionsComplete_2 : ∃ (v : Env) (w e : W64) (s : State) (x : W32),
    (issues 5 0x30 w e (flagForm false) false (fun _ => []) s v = true) ∧ (x = BitVec.ofNat 32 (rd32 v.f (bits v.w 50 42) 0)) :=
  ⟨envOf 0xffc2211ff000305 0 (wState), 0xffc2211ff000305, 0, wState, _, ⟨by decide, rfl⟩⟩
theorem witness_BarrierAndFlagInstructionsComplete_3 : ∃ (v : Env) (w e : W64) (s : State) (x : W32),
    (issues 5 0x31 w e (flagForm false) false (fun _ => []) s v = true) ∧ (x = BitVec.ofNat 32 (rd32 v.f (bits v.w 50 42) 0)) :=
  ⟨envOf 0xffc2211ff000315 0 (wState), 0xffc2211ff000315, 0, wState, _, ⟨by decide, rfl⟩⟩
theorem witness_BarrierAndFlagInstructionsComplete_4 : ∃ (v : Env) (w e : W64) (s : State) (x : W32),
    (issues 5 0x32 w e (flagForm true) false (fun _ => []) s v = true) ∧ (v.f.flagWait = none) ∧ (x = (tget 0 ((v.noted s).flagStore v.run.flags.1).vals (flagIndex v.run (rd32 v.f (bits v.w 41 33) 0)))) ∧ (BitVec.ofNat 32 (rd32 v.f (bits v.w 50 42) 0) ≤ x) :=
  ⟨envOf 0xffc2a1109000325 0 (wState), 0xffc2a1109000325, 0, wState, 0, ⟨by decide, by decide, by decide, by decide⟩⟩
theorem witness_BarrierAndFlagInstructionsComplete_5 : ∃ (v : Env) (w e : W64) (s : State) (x : W32) (k : FlagStore),
    (issues 5 0x32 w e (flagForm true) false (fun _ => []) s v = true) ∧ (v.f.flagWait = none) ∧ (x = BitVec.ofNat 32 (rd32 v.f (bits v.w 50 42) 0)) ∧ (k = (v.noted s).flagStore v.run.flags.1) ∧ (¬ x ≤ tget 0 k.vals (flagIndex v.run (rd32 v.f (bits v.w 41 33) 0))) :=
  ⟨envOf 0xffc221109000325 0 (wState), 0xffc221109000325, 0, wState, 3, _, ⟨by decide, by decide, by decide, rfl, by decide⟩⟩
theorem witness_SpecialInstructionsComplete_1 : ∃ (v : Env) (w e : W64) (s : State),
    issues 6 0 w e specForm false (fun _ => []) s v = true :=
  ⟨envOf 0x7ffffff000006 0 (wState), 0x7ffffff000006, 0, wState, by decide⟩
theorem witness_SpecialInstructionsComplete_2 : ∃ (v : Env) (w e : W64) (s : State),
    (issues 6 1 w e fenceForm false (fun _ => []) s v = true) ∧ ((bit v.w 53 && !fenceDone (v.noted s) v (bits v.w 52 51)) = false) :=
  ⟨envOf 0x77ffffff000016 0 (wState), 0x77ffffff000016, 0, wState, by decide⟩
theorem witness_SpecialInstructionsComplete_3 : ∃ (v : Env) (w e : W64) (s : State),
    issues 6 2 w e invalForm false (fun _ => []) s v = true :=
  ⟨envOf 0x41205ff000026 0 (wState), 0x41205ff000026, 0, wState, by decide⟩
theorem witness_SpecialInstructionsComplete_4 : ∃ (v : Env) (w e : W64) (s : State) (r : List (Nat × Nat) × State),
    (issues 6 0x10 w e rndForm false (fun _ => []) s v = true) ∧ (((tfind ((v.noted s).core v.n).seed.launch v.stook.launch.toNat).isSome) = true) ∧ (r = rndLanes v 32 (memLanes v v.dst) (v.noted s)) :=
  ⟨envOf 0x7fffe03000106 0 (wState), 0x7fffe03000106, 0, wState, _, ⟨by decide, by decide, rfl⟩⟩
theorem witness_SpecialInstructionsComplete_5 : ∃ (v : Env) (w e : W64) (s : State) (r : List (Nat × Nat) × State),
    (issues 6 0x11 w e rndForm false (fun _ => []) s v = true) ∧ (((tfind ((v.noted s).core v.n).seed.launch v.stook.launch.toNat).isSome) = true) ∧ (r = rndLanes v 24 (memLanes v v.dst) (v.noted s)) :=
  ⟨envOf 0x7fffe03000116 0 (wState), 0x7fffe03000116, 0, wState, _, ⟨by decide, by decide, rfl⟩⟩
theorem witness_SpecialInstructionsComplete_6 : ∃ (v : Env) (w e : W64) (s : State),
    issues 6 0x30 w e pairForm false (fun _ => []) s v = true :=
  ⟨envOf 0x7ffff04000306 0 (wState), 0x7ffff04000306, 0, wState, by decide⟩
theorem witness_SpecialInstructionsComplete_7 : ∃ (v : Env) (w e : W64) (s : State),
    issues 6 0x40 w e pairForm false (fun _ => []) s v = true :=
  ⟨envOf 0x7ffff04000406 0 (wState), 0x7ffff04000406, 0, wState, by decide⟩
theorem witness_MemoryInstructionsComplete_1 : ∃ (v : Env) (w e : W64) (s : State),
    (issues 2 0x00 w e (memForm true) true (fun _ => []) s v = true) ∧ (addrFault (v.noted s) v (memSpace v.w) (sizeBytes (memSize v.w)) .read (memAddrs v (memLanes v v.dst)) = none) ∧ ((ldRecord v (v.noted s)).lanes.all (fun x => match x.data with | some (_, d) => d == 0 | none => true) = true) :=
  ⟨envOf 0x260403000002 0 (wState), 0x260403000002, 0, wState, by decide⟩
theorem witness_MemoryInstructionsComplete_2 : ∃ (v : Env) (w e : W64) (s : State),
    (issues 2 0x01 w e (memForm false) true (fun _ => []) s v = true) ∧ (addrFault (v.noted s) v (memSpace v.w) (sizeBytes (memSize v.w)) .write (memAddrs v (lanesOf v.m)) = none) :=
  ⟨envOf 0x260400000012 0 (wState), 0x260400000012, 0, wState, by decide⟩
theorem witness_MemoryInstructionsComplete_3 : ∃ (v : Env) (w e : W64) (s : State) (scr va len : Nat),
    (issues 2 0x10 w e (bulkForm false) true (fun _ => []) s v = true) ∧ (scr = rd32 v.f (bits v.w 32 24) 0) ∧ (va = rdN v.f (bits v.w 41 33) 2 0) ∧ (len = rd32 v.f (bits v.w 50 42) 0) ∧ (scr % 64 = 0) ∧ (va % 64 = 0) ∧ (len % 64 = 0) ∧ (len ≠ 0) ∧ (scr + len ≤ v.stook.size) ∧ (rangeFault (v.noted s) v.run.group .read (len / 65536 + 2) va len = none) :=
  ⟨envOf 0x42a0506000102 0 (withSheaf (fun f => { f with u := [(2, 0x10000), (10, 64)] }) wState), 0x42a0506000102, 0, withSheaf (fun f => { f with u := [(2, 0x10000), (10, 64)] }) wState, 0, 0x10000, 64, ⟨by decide, by decide, by decide, by decide, by decide, by decide, by decide, by decide, by decide, by decide⟩⟩
theorem witness_MemoryInstructionsComplete_4 : ∃ (v : Env) (w e : W64) (s : State) (scr va len : Nat),
    (issues 2 0x11 w e (bulkForm false) true (fun _ => []) s v = true) ∧ (scr = rd32 v.f (bits v.w 32 24) 0) ∧ (va = rdN v.f (bits v.w 41 33) 2 0) ∧ (len = rd32 v.f (bits v.w 50 42) 0) ∧ (scr % 64 = 0) ∧ (va % 64 = 0) ∧ (len % 64 = 0) ∧ (len ≠ 0) ∧ (scr + len ≤ v.stook.size) ∧ (rangeFault (v.noted s) v.run.group .write (len / 65536 + 2) va len = none) :=
  ⟨envOf 0x42a0506000112 0 (withSheaf (fun f => { f with u := [(2, 0x10000), (10, 64)] }) wState), 0x42a0506000112, 0, withSheaf (fun f => { f with u := [(2, 0x10000), (10, 64)] }) wState, 0, 0x10000, 64, ⟨by decide, by decide, by decide, by decide, by decide, by decide, by decide, by decide, by decide, by decide⟩⟩
theorem witness_MemoryInstructionsComplete_5 : ∃ (v : Env) (w e : W64) (s : State) (va len : Nat),
    (issues 2 0x12 w e (bulkForm true) true (fun _ => []) s v = true) ∧ (va = rdN v.f (bits v.w 41 33) 2 0) ∧ (va % 64 = 0) ∧ (len = (match (ringCmds ((v.noted s).core v.n).arr).find? (fun x => x.desc.tag == bits v.w 58 51) with
      | some x => panelK x.desc * panelB x.desc.afmt
      | none => 1)) ∧ (rangeFault (v.noted s) v.run.group .read (len / 65536 + 2) va len = none) :=
  ⟨envOf 0x2c2a05ff000122 0 (wState), 0x2c2a05ff000122, 0, wState, 0x10000, 1, ⟨by decide, by decide, by decide, by decide, by decide⟩⟩
theorem witness_LoadsAndBulkOperationsEnd_2 : ∃ (q c sl ld n : Nat) (err : BitVec 132) (s s1 : State) (x : Load),
    (n = 64 * q + c) ∧ (wfSheaf q c sl = true) ∧ (tfind (s.sheaf n sl).loads ld = some x) ∧ (x.lanes.all (fun y => y.data.isSome) = true) ∧ ((s.sheaf n sl).parked = false) ∧ (oneCopy (bits err.toNat 77 72) = true) ∧ (s1 = loadFound n sl ld x (bits err.toNat 77 0) s) :=
  ⟨0, 0, 0, 4, 0, 0, withSheaf (fun f => { f with loads := [(4, { dst := 3, size := 2, sign := false, glob := false, instr := 0, pc := 0, active := 1, exec := 1, lanes := [{ lane := 0, addr := 0, data := some (9, 0) }], vaddr := [], cls := [], atomic := false })] }) wState, _, _, ⟨by decide, by decide, rfl, by decide, by decide, by decide, rfl⟩⟩
theorem witness_LoadsAndBulkOperationsEnd_3 : ∃ (q c i k n : Nat) (s : State) (op : BulkOp) (x : ArrCmd),
    (n = 64 * q + c) ∧ (wfCore q c = true) ∧ ((s.core n).pfr[i]? = some op) ∧ ((ringCmds (s.core n).arr).find? (fun y => y.desc.tag == op.tag) = some x) ∧ (freeRing (s.core n).arr x.desc = some k) ∧ (op.held = false) ∧ (rangeFault s (match tfind (s.core n).stooks op.stook with | some t => groupOf s t.launch | none => 0) .read
      (panelK x.desc * panelB x.desc.afmt / 65536 + 2) (op.lines.headD 0) (panelK x.desc * panelB x.desc.afmt) = none) :=
  ⟨0, 0, 0, 0, 0, withCore (fun c => { c with pfr := [wPfr], arr := { c.arr with queue := [wRing] } }) wState, wPfr, wRing, ⟨by decide, by decide, by decide, by decide, by decide, by decide, by decide⟩⟩
theorem witness_LoadsAndBulkOperationsEnd_4 : ∃ (q c n : Nat) (s : State) (op : BulkOp) (t : Stook) (r : Run),
    (n = 64 * q + c) ∧ (wfCore q c = true) ∧ ((s.core n).bulk.find? (fun b => !b.begun) = some op) ∧ (tfind (s.core n).stooks op.stook = some t) ∧ (runOf s t.launch = some r) :=
  ⟨0, 0, 0, withCore (fun c => { c with bulk := [wPfs] }) wState, wPfs, wStook, wRun, ⟨by decide, by decide, by decide, by decide, by decide⟩⟩
theorem witness_LoadsAndBulkOperationsEnd_5 : ∃ (q c i n : Nat) (s : State) (op : BulkOp),
    (n = 64 * q + c) ∧ (wfCore q c = true) ∧ ((s.core n).bulk[i]? = some op) ∧ (op.begun = true) ∧ (op.lines.length ≤ op.done) ∧ (op.kind ≠ 2) :=
  ⟨0, 0, 0, 0, withCore (fun c => { c with bulk := [{ wPfs with begun := true, done := 1 }] }) wState, { wPfs with begun := true, done := 1 }, ⟨by decide, by decide, by decide, by decide, by decide, by decide⟩⟩
theorem witness_LoadsAndBulkOperationsEnd_6 : ∃ (q c i n : Nat) (s : State) (op : BulkOp) (r : RingSlot),
    (n = 64 * q + c) ∧ (wfCore q c = true) ∧ ((s.core n).bulk[i]? = some op) ∧ (op.begun = true) ∧ (op.lines.length ≤ op.done) ∧ (op.kind = 2) ∧ ((s.core n).arr.ring.find? (fun y => y.tag == op.tag && y.slot == op.slot && !y.complete) = some r) :=
  ⟨0, 0, 0, 0, withCore (fun c => { c with bulk := [{ wPfr with begun := true, done := 1 }], arr := { c.arr with ring := [wSlot] } }) wState, { wPfr with begun := true, done := 1 }, wSlot, ⟨by decide, by decide, by decide, by decide, by decide, by decide, by decide⟩⟩
theorem witness_AtomicsComplete_1 : ∃ (v : Env) (w e : W64) (s : State),
    (issues 5 0 w e (atomForm 0) true (fun _ => []) s v = true) ∧ (rmwFault (v.noted s) v (atomSpace v) (atomBytes v) (atomLanes v) = none) :=
  ⟨envOf 0x1ffc220403000005 0 (wState), 0x1ffc220403000005, 0, wState, ⟨by decide, by decide⟩⟩
theorem witness_AtomicsComplete_2 : ∃ (v : Env) (w e : W64) (s : State),
    (issues 5 1 w e (atomForm 1) true (fun _ => []) s v = true) ∧ (rmwFault (v.noted s) v (atomSpace v) (atomBytes v) (atomLanes v) = none) :=
  ⟨envOf 0x1ffc220403000015 0 (wState), 0x1ffc220403000015, 0, wState, ⟨by decide, by decide⟩⟩
theorem witness_AtomicsComplete_3 : ∃ (v : Env) (w e : W64) (s : State),
    (issues 5 2 w e (atomForm 2) true (fun _ => []) s v = true) ∧ (rmwFault (v.noted s) v (atomSpace v) (atomBytes v) (atomLanes v) = none) :=
  ⟨envOf 0x1ffc220403000025 0 (wState), 0x1ffc220403000025, 0, wState, ⟨by decide, by decide⟩⟩
theorem witness_AtomicsComplete_4 : ∃ (v : Env) (w e : W64) (s : State),
    (issues 5 3 w e (atomForm 3) true (fun _ => []) s v = true) ∧ (rmwFault (v.noted s) v (atomSpace v) (atomBytes v) (atomLanes v) = none) :=
  ⟨envOf 0x1ffc2204031c0035 0 (wState), 0x1ffc2204031c0035, 0, wState, ⟨by decide, by decide⟩⟩
theorem witness_AtomicsComplete_5 : ∃ (v : Env) (w e : W64) (s : State),
    (issues 5 4 w e (atomForm 4) true (fun _ => []) s v = true) ∧ (rmwFault (v.noted s) v (atomSpace v) (atomBytes v) (atomLanes v) = none) :=
  ⟨envOf 0x1ffc2204031c0045 0 (wState), 0x1ffc2204031c0045, 0, wState, ⟨by decide, by decide⟩⟩
theorem witness_AtomicsComplete_6 : ∃ (v : Env) (w e : W64) (s : State),
    (issues 5 5 w e (atomForm 5) true (fun _ => []) s v = true) ∧ (rmwFault (v.noted s) v (atomSpace v) (atomBytes v) (atomLanes v) = none) :=
  ⟨envOf 0x1ffc2204031c0055 0 (wState), 0x1ffc2204031c0055, 0, wState, ⟨by decide, by decide⟩⟩
theorem witness_AtomicsComplete_7 : ∃ (v : Env) (w e : W64) (s : State),
    (issues 5 6 w e (atomForm 6) true (fun _ => []) s v = true) ∧ (rmwFault (v.noted s) v (atomSpace v) (atomBytes v) (atomLanes v) = none) :=
  ⟨envOf 0x1ffc2204031c0065 0 (wState), 0x1ffc2204031c0065, 0, wState, ⟨by decide, by decide⟩⟩
theorem witness_AtomicsComplete_8 : ∃ (v : Env) (w e : W64) (s : State),
    (issues 5 7 w e (atomForm 7) true (fun _ => []) s v = true) ∧ (rmwFault (v.noted s) v (atomSpace v) (atomBytes v) (atomLanes v) = none) :=
  ⟨envOf 0x18442204031c0075 0 (wState), 0x18442204031c0075, 0, wState, ⟨by decide, by decide⟩⟩
theorem witness_AtomicWord_1 : ∃ (op ty old : Nat) (l m : List (Nat × Nat × Nat)),
    ¬ (op = 0 ∧ ty = 4) :=
  ⟨0, 0, 0, [], [], by decide⟩
theorem witness_AtomicWord_2 : ∃ (op ty old i a b : Nat),
    ¬ (op = 0 ∧ ty = 4) :=
  ⟨1, 0, 0, 0, 0, 0, by decide⟩
theorem witness_AtomicWord_3 : ∃ (ty b : Nat) (x y : BitVec (tyW ty)),
    ty ≤ 3 ∨ ty = 7 ∨ ty = 8 :=
  ⟨0, 0, 0, 0, by decide⟩
theorem witness_AtomicWord_4 : ∃ (ty b : Nat) (x y : BitVec (tyW ty)),
    ty ≤ 3 :=
  ⟨0, 0, 0, 0, by decide⟩
theorem witness_LocksComplete_1 : ∃ (v : Env) (w e : W64) (s : State) (t : State) (ps : List (Nat × Nat)),
    (issues 5 0x10 w e lockAcqForm true (fun _ => []) s v = true) ∧ ((lanesOf v.m).filter (fun i => (lateLanes (v.noted s) v.f v.run).contains i) = []) ∧ (splitOver (v.noted s) v = false) ∧ (ps = (lockLanes v).map (lockPlace (v.noted s) v (atomSpace v))) ∧ (rmwFault (v.noted s) v (atomSpace v) 8 (lockLanes v) = none) ∧ (lockHeld (v.noted s) v ps = false) ∧ (lockLost (v.noted s) (atomSpace v) ps = false) ∧ (lockReady v ps (v.noted s) = some t) ∧ (winners t v (atomSpace v) ps [] ≠ []) ∧ (v.m &&& ~~~maskOf ((winners t v (atomSpace v) ps []).map Prod.fst) = 0) :=
  ⟨envOf 0x20000bffff000105 0 (wState), 0x20000bffff000105, 0, wState, _, _, ⟨by decide, by decide, by decide, rfl, by decide, by decide, by decide, rfl, by decide, by decide⟩⟩
theorem witness_LocksComplete_2 : ∃ (v : Env) (w e : W64) (s : State) (t : State) (ps win : List (Nat × Nat)) (since : Tab W64) (es : List StackEntry),
    (issues 5 0x10 w e lockAcqForm true (fun _ => []) s v = true) ∧ ((lanesOf v.m).filter (fun i => (lateLanes (v.noted s) v.f v.run).contains i) = []) ∧ (splitOver (v.noted s) v = false) ∧ (ps = (lockLanes v).map (lockPlace (v.noted s) v (atomSpace v))) ∧ (rmwFault (v.noted s) v (atomSpace v) 8 (lockLanes v) = none) ∧ (lockHeld (v.noted s) v ps = false) ∧ (lockLost (v.noted s) (atomSpace v) ps = false) ∧ (lockReady v ps (v.noted s) = some t) ∧ (win = winners t v (atomSpace v) ps []) ∧ (win ≠ []) ∧ (v.m &&& ~~~maskOf (win.map Prod.fst) ≠ 0) ∧ (es = splitEntries v.f (lockRecon v) (v.m &&& ~~~maskOf (win.map Prod.fst))) ∧ (since = (lanesOf (v.m &&& ~~~maskOf (win.map Prod.fst))).foldl (fun a i => match tfind a i with
      | some _ => a
      | none => tput a i t.clk.tb) v.f.lockSince) :=
  ⟨envOf 0x20000801ff000105 0 (withSheaf (fun f => { f with active := 3, v := [] }) wState), 0x20000801ff000105, 0, withSheaf (fun f => { f with active := 3, v := [] }) wState, _, _, _, _, _, ⟨by decide, by decide, by decide, rfl, by decide, by decide, by decide, rfl, rfl, by decide, by decide, rfl, rfl⟩⟩
theorem witness_LocksComplete_3 : ∃ (v : Env) (w e : W64) (s : State) (t : State) (ps : List (Nat × Nat)),
    (issues 5 0x10 w e lockAcqForm true (fun _ => []) s v = true) ∧ ((lanesOf v.m).filter (fun i => (lateLanes (v.noted s) v.f v.run).contains i) = []) ∧ (splitOver (v.noted s) v = false) ∧ (ps = (lockLanes v).map (lockPlace (v.noted s) v (atomSpace v))) ∧ (rmwFault (v.noted s) v (atomSpace v) 8 (lockLanes v) = none) ∧ (lockHeld (v.noted s) v ps = false) ∧ (lockLost (v.noted s) (atomSpace v) ps = false) ∧ (lockReady v ps (v.noted s) = some t) ∧ (winners t v (atomSpace v) ps [] = []) :=
  ⟨envOf 0x20000bffff000105 0 (lockedState), 0x20000bffff000105, 0, lockedState, _, _, ⟨by decide, by decide, by decide, rfl, by decide, by decide, by decide, rfl, by decide⟩⟩
theorem witness_LocksComplete_4 : ∃ (v : Env) (w e : W64) (s : State) (t : State) (ps : List (Nat × Nat)),
    (issues 5 0x11 w e lockRelForm true (fun _ => []) s v = true) ∧ (ps = (lockLanes v).map (lockPlace (v.noted s) v (atomSpace v))) ∧ (rmwFault (v.noted s) v (atomSpace v) 8 (lockLanes v) = none) ∧ (lockHeld (v.noted s) v ps = false) ∧ (released (v.noted s) v (atomSpace v) = true) ∧ (lockLost (v.noted s) (atomSpace v) ps = false) ∧ (lockReady v ps (v.noted s) = some t) ∧ (ps.all (fun e => lockRead t v (atomSpace v) e.2 == holderWord (v.noted s) v.n v.sl e.1 v.f.gen) = true) :=
  ⟨envOf 0x2fffffffff000115 0 (lockedState), 0x2fffffffff000115, 0, lockedState, _, _, ⟨by decide, rfl, by decide, by decide, by decide, by decide, rfl, by decide⟩⟩
theorem witness_LocksComplete_5 : ∃ (v : Env) (w e : W64) (s : State) (late : List Nat),
    (issues 5 0x10 w e lockAcqForm true (fun _ => []) s v = true) ∧ (late = (lanesOf v.m).filter (fun i => (lateLanes (v.noted s) v.f v.run).contains i)) ∧ (late ≠ []) :=
  ⟨envOf 0x20000bffff000105 0 ((let s := waitState 2000000; s.setSheaf 0 0 { s.sheaf 0 0 with lockWait := none })), 0x20000bffff000105, 0, (let s := waitState 2000000; s.setSheaf 0 0 { s.sheaf 0 0 with lockWait := none }), [0], ⟨by decide, by decide, by decide⟩⟩
theorem witness_LocksComplete_6 : ∃ (v : Env) (w e : W64) (s : State),
    (issues 5 0x10 w e lockAcqForm true (fun _ => []) s v = true) ∧ ((lanesOf v.m).filter (fun i => (lateLanes (v.noted s) v.f v.run).contains i) = []) ∧ (splitOver (v.noted s) v = true) :=
  ⟨envOf 0x20000801ff000105 0 (withSheaf (fun f => { f with active := 3, v := [], stack := List.replicate 31 { kind := .reconv, recon := 0, mask := 0, target := 0 } }) wState), 0x20000801ff000105, 0, withSheaf (fun f => { f with active := 3, v := [], stack := List.replicate 31 { kind := .reconv, recon := 0, mask := 0, target := 0 } }) wState, ⟨by decide, by decide, by decide⟩⟩
theorem witness_LocksComplete_7 : ∃ (q c sl n : Nat) (s : State) (t : Stook) (r : Run) (late : List Nat) (pc : W64),
    (n = 64 * q + c) ∧ (wfSheaf q c sl = true) ∧ (stookOf s n (s.sheaf n sl) = some t) ∧ (runOf s t.launch = some r) ∧ ((s.sheaf n sl).parked = false) ∧ (late = ((s.sheaf n sl).lockSince.filter (fun e => decide (r.lockUs * 1000 ≤ (s.clk.tb - e.2).toNat))).map Prod.fst) ∧ (late ≠ []) ∧ (pc = lockPc (s.sheaf n sl) late) :=
  ⟨0, 0, 0, 0, waitState 2000000, wStook, wRun, [0], _, ⟨by decide, by decide, by decide, by decide, by decide, by decide, by decide, rfl⟩⟩
theorem witness_LocksComplete_8 : ∃ (q c sl n : Nat) (s : State) (x : LockWait),
    (n = 64 * q + c) ∧ (wfSheaf q c sl = true) ∧ ((s.sheaf n sl).lockWait = some x) ∧ (x.glob = true) ∧ (x.addrs.any (fun e => servingQuarter s e.2 != some q) = true) ∧ ((s.sheaf n sl).parked = false) :=
  ⟨0, 0, 0, 0, waitState 0, wLock, ⟨by decide, by decide, by decide, by decide, by decide, by decide⟩⟩
theorem witness_StooksStartAndEnd_1 : ∃ (q c n launch idx st base : Nat) (s : State) (rest : List (Nat × Nat)) (r : Run) (free : List Nat),
    (n = 64 * q + c) ∧ (wfCore q c = true) ∧ ((s.core n).waiting = (launch, idx) :: rest) ∧ (tfind s.pel.runs launch = some r) ∧ (free = (List.range 64).filter (fun sl => !((s.core n).sheaf sl).live)) ∧ ((List.range 32).find? (fun st => (tfind (s.core n).stooks st).isNone) = some st) ∧ (firstFit ((s.core n).stooks.map (fun e => (e.2.base, e.2.size))) r.scratch (padSize (s.core n)) = some base) ∧ ((s.core n).inService = true) ∧ ((s.core n).headland = false) ∧ ((s.core n).fallow ≤ 1) ∧ ((s.core n).arr.testing = false) ∧ ((s.core n).cunits = r.cunits) ∧ ((tfind (s.core n).seed.launch launch).isSome = true) ∧ (r.sheaves ≤ free.length) ∧ (((s.core n).stooks.map (fun e => e.2.blocks)).sum + r.sheaves * (r.regs / 8) ≤ 512) :=
  ⟨0, 0, 0, 1, 4, 1, 4096, withCore (fun c => { c with waiting := [(1, 4)] }) wState, [], wRun, _, ⟨by decide, by decide, by decide, by decide, rfl, by decide, by decide, by decide, by decide, by decide, by decide, by decide, by decide, by decide, by decide⟩⟩
theorem witness_StooksStartAndEnd_2 : ∃ (q c st n : Nat) (s : State) (t : Stook),
    (n = 64 * q + c) ∧ (wfCore q c = true) ∧ (tfind (s.core n).stooks st = some t) ∧ (stookOver s n st t = true) :=
  ⟨0, 0, 0, 0, withSheaf (fun f => { f with exited := 0xFFFF_FFFF, active := 0 }) wState, wStook, ⟨by decide, by decide, by decide, by decide⟩⟩
theorem witness_StartingRegisters : ∃ (s : State) (n st idx base launch i : Nat) (r : Run) (f : Sheaf) (g : Sheaf),
    g = startSheaf s n st idx base launch r f i :=
  ⟨wState, 0, 0, 0, 0, 1, 0, wRun, wSheaf, _, rfl⟩
theorem witness_FaultsAreResolved_1 : ∃ (q c sl n : Nat) (s : State) (r : FaultRec) (t : Stook) (run : Run),
    (n = 64 * q + c) ∧ (wfSheaf q c sl = true) ∧ (tfind (s.core n).faults sl = some r) ∧ (tfind (s.core n).stooks ((s.core n).sheaf sl).stook = some t) ∧ (runOf s t.launch = some run) ∧ ((s.core n).faults.all (fun e => e.1 == sl || recFirst r e.2) = true) ∧ (t.killed = none) :=
  ⟨0, 0, 0, 0, withCore (fun c => { c with faults := [(0, wFault)] }) wState, wFault, wStook, wRun, ⟨by decide, by decide, by decide, by decide, by decide, by decide, by decide⟩⟩
theorem witness_FaultsAreResolved_2 : ∃ (n sl status : Nat) (t : Stook) (r : FaultRec) (run : Run) (s : State),
    r.cause = 3 ∧ status = 0x22 ∨ r.cause = 4 ∧ status = 0x23 ∨ r.cause = 5 ∧ status = 0x24 ∨ r.cause = 6 ∧ status = 0x25 :=
  ⟨0, 0, 0x22, wStook, { wFault with cause := 3 }, wRun, wState, by decide⟩
theorem witness_FaultsAreResolved_3 : ∃ (n sl : Nat) (t : Stook) (r : FaultRec) (run : Run) (s : State) (k : Acc2),
    (r.cause = 1) ∧ (r.instr ≠ 0) ∧ (k = (if r.detail.testBit 2 then .write else .read)) :=
  ⟨0, 0, wStook, { wFault with cause := 1, instr := 5 }, wRun, wState, .read, by decide⟩
theorem witness_FaultsAreResolved_4 : ∃ (n sl : Nat) (t : Stook) (r : FaultRec) (run : Run) (s : State),
    (r.cause = 1) ∧ (r.instr = 0) :=
  ⟨0, 0, wStook, { wFault with cause := 1, instr := 0 }, wRun, wState, by decide⟩
theorem witness_FaultsAreResolved_5 : ∃ (n sl : Nat) (t : Stook) (r : FaultRec) (run : Run) (s : State),
    (r.cause = 2) ∧ (r.instr = 0) :=
  ⟨0, 0, wStook, { wFault with cause := 2, instr := 0 }, wRun, wState, by decide⟩
theorem witness_FaultsAreResolved_6 : ∃ (n sl : Nat) (t : Stook) (r : FaultRec) (run : Run) (s : State),
    (r.cause = 2) ∧ (r.instr ≠ 0) :=
  ⟨0, 0, wStook, { wFault with cause := 2, instr := 5 }, wRun, wState, by decide⟩
theorem witness_FaultsAreResolved_7 : ∃ (n sl : Nat) (t : Stook) (r : FaultRec) (run : Run) (s : State),
    7 ≤ r.cause :=
  ⟨0, 0, wStook, { wFault with cause := 7 }, wRun, wState, by decide⟩
theorem witness_FaultsAreResolved_8 : ∃ (q c st n : Nat) (s : State) (t : Stook) (r : Run),
    (n = 64 * q + c) ∧ (wfCore q c = true) ∧ (tfind (s.core n).stooks st = some t) ∧ (runOf s t.launch = some r) ∧ (t.killed = none) ∧ (r.limitUs * 1000 ≤ (s.clk.tb - t.start).toNat) ∧ (t.slots.all (fun sl => ((s.core n).sheaf sl).ended) = false) :=
  ⟨0, 0, 0, 0, { wState with clk := { wState.clk with tb := 2000000000 } }, wStook, wRun, ⟨by decide, by decide, by decide, by decide, by decide, by decide, by decide⟩⟩
theorem witness_FaultsAreResolved_9 : ∃ (q c st n : Nat) (s : State) (t : Stook) (r : Run),
    (n = 64 * q + c) ∧ (wfCore q c = true) ∧ (tfind (s.core n).stooks st = some t) ∧ (runOf s t.launch = some r) ∧ (t.killed = none) ∧ (r.limitUs * 1000 ≤ (s.clk.tb - t.start).toNat) ∧ (t.slots.all (fun sl => ((s.core n).sheaf sl).ended) = true) ∧ ((s.core n).pfr.any (fun b => b.stook == st) = true) :=
  ⟨0, 0, 0, 0, (let s := withCore (fun c => { c with pfr := [wPfr] }) (withSheaf (fun f => { f with exited := 0xFFFF_FFFF, active := 0 }) wState); { s with clk := { s.clk with tb := 2000000000 } }), wStook, wRun, ⟨by decide, by decide, by decide, by decide, by decide, by decide, by decide, by decide⟩⟩
theorem witness_SamplesComplete_1 : ∃ (v : Env) (w e : W64) (s : State) (rel sb len row res : Nat) (d : List Byte),
    (issues 6 0x20 w e sampleForm false (fun _ => []) s v = true) ∧ (v.f.sample = none) ∧ (rel = rd32 v.f (bits v.w 41 33) 0) ∧ (d = (scrRead (v.noted s) v.n (v.stook.base + rel) 32).1) ∧ (sb = scoreBytes d) ∧ (len = fld d 4 4) ∧ (row = fld d 8 4) ∧ (res = fld d 0x1C 4) ∧ (rel % 32 = 0) ∧ (rel + 32 ≤ v.stook.size) ∧ (¬ (sb ≠ 0 ∧ row % sb ≠ 0)) ∧ (res % 16 = 0) ∧ (bit (fld d 0 4) 2 = false) ∧ (row + len * sb ≤ v.stook.size) ∧ (res + 16 ≤ v.stook.size) :=
  ⟨envOf 0x7fe0d05000206 0 (wState), 0x7fe0d05000206, 0, wState, 0, 4, 0, 0, 0, _, ⟨by decide, by decide, by decide, rfl, by decide, by decide, by decide, by decide, by decide, by decide, by decide, by decide, by decide, by decide, by decide⟩⟩
theorem witness_SamplesComplete_2 : ∃ (v : Env) (w e : W64) (s : State) (rel sb len row res : Nat) (d : List Byte),
    (issues 6 0x20 w e sampleForm false (fun _ => []) s v = true) ∧ (v.f.sample = none) ∧ (rel = rd32 v.f (bits v.w 41 33) 0) ∧ (d = (scrRead (v.noted s) v.n (v.stook.base + rel) 32).1) ∧ (sb = scoreBytes d) ∧ (len = fld d 4 4) ∧ (row = fld d 8 8) ∧ (res = fld d 0x1C 4) ∧ (rel % 32 = 0) ∧ (rel + 32 ≤ v.stook.size) ∧ (¬ (sb ≠ 0 ∧ row % sb ≠ 0)) ∧ (res % 16 = 0) ∧ (bit (fld d 0 4) 2 = true) ∧ (rangeFault (v.noted s) v.run.group .read (len * sb / 65536 + 2) row (len * sb) = none) ∧ (res + 16 ≤ v.stook.size) :=
  ⟨envOf 0x7fe0d05000206 0 (scrWrite 0 0 [4, 0xff, 0, 0, 2, 0, 0, 0, 0, 0, 1] false wState), 0x7fe0d05000206, 0, scrWrite 0 0 [4, 0xff, 0, 0, 2, 0, 0, 0, 0, 0, 1] false wState, 0, 4, 2, 0x10000, 0, _, ⟨by decide, by decide, by decide, rfl, by decide, by decide, by decide, by decide, by decide, by decide, by decide, by decide, by decide, by decide, by decide⟩⟩
theorem witness_SamplesComplete_3 : ∃ (q c n : Nat) (s : State) (j : SampleJob) (rest : List SampleJob) (t : Stook) (r : Run) (x : SampleEnd × State),
    (n = 64 * q + c) ∧ (wfCore q c = true) ∧ ((s.core n).samples = j :: rest) ∧ (tfind (s.core n).stooks j.stook = some t) ∧ (runOf s t.launch = some r) ∧ (sampleRun s n t.launch.toNat r t.base j = .ok x) :=
  ⟨0, 0, 0, withCore (fun c => { c with samples := [{ sheaf := 0, stook := 0, dst := 0x105, desc := [0], pages := [], since := none }] }) wState, { sheaf := 0, stook := 0, dst := 0x105, desc := [0], pages := [], since := none }, [], wStook, wRun, _, ⟨by decide, by decide, by decide, by decide, by decide, rfl⟩⟩
theorem witness_SamplesComplete_4 : ∃ (q c n : Nat) (s : State) (j : SampleJob) (rest : List SampleJob) (t : Stook) (r : Run) (y : W64),
    (n = 64 * q + c) ∧ (wfCore q c = true) ∧ ((s.core n).samples = j :: rest) ∧ (tfind (s.core n).stooks j.stook = some t) ∧ (runOf s t.launch = some r) ∧ (smpGlobal j.desc = true) ∧ (j.since = some y) ∧ (100000 ≤ (s.clk.tb - y).toNat) :=
  ⟨0, 0, 0, (let s := withCore (fun c => { c with samples := [{ sheaf := 0, stook := 0, dst := 0x105, desc := [4], pages := [], since := some 0 }] }) wState; { s with clk := { s.clk with tb := 100000 } }), { sheaf := 0, stook := 0, dst := 0x105, desc := [4], pages := [], since := some 0 }, [], wStook, wRun, 0, ⟨by decide, by decide, by decide, by decide, by decide, by decide, by decide, by decide⟩⟩
theorem witness_KeysComplete_1 : ∃ (q c n : Nat) (s : State),
    (n = 64 * q + c) ∧ (wfCore q c = true) ∧ (coreFitted s n = true) ∧ ((s.core n).seed.roundReq = none) ∧ ((s.core n).seed.roundFail = none) ∧ ((s.core n).seed.roundKey = none ∨ (s.core n).seed.nextKey = none) ∧ (s.sec.entropyFailed = false) :=
  ⟨0, 0, 0, wState, ⟨by decide, by decide, by decide, by decide, by decide, by decide, by decide⟩⟩
theorem witness_KeysComplete_2 : ∃ (q c n : Nat) (s : State) (y : W64),
    (n = 64 * q + c) ∧ (wfCore q c = true) ∧ ((s.core n).seed.roundReq = some y) ∧ (s.sec.entropyOk = true) ∧ ((s.clk.tb - y).toNat < 20000) :=
  ⟨0, 0, 0, keyState, 0, ⟨by decide, by decide, by decide, by decide, by decide⟩⟩
theorem witness_KeysComplete_3 : ∃ (q c n l : Nat) (s : State) (y : W64),
    (n = 64 * q + c) ∧ (wfCore q c = true) ∧ (tfind (s.core n).seed.launchReq l = some y) ∧ (s.sec.entropyOk = true) ∧ ((s.clk.tb - y).toNat < 20000) :=
  ⟨0, 0, 0, 3, keyState, 0, ⟨by decide, by decide, by decide, by decide, by decide⟩⟩
theorem witness_KeysComplete_4 : ∃ (q c n : Nat) (s : State) (y : W64),
    (n = 64 * q + c) ∧ (wfCore q c = true) ∧ ((s.core n).seed.roundReq = some y) ∧ (20000 ≤ (s.clk.tb - y).toNat) :=
  ⟨0, 0, 0, { keyState with clk := { keyState.clk with tb := 20000 } }, 0, ⟨by decide, by decide, by decide, by decide⟩⟩
theorem witness_KeysComplete_5 : ∃ (q c n l : Nat) (s : State) (y : W64),
    (n = 64 * q + c) ∧ (wfCore q c = true) ∧ (tfind (s.core n).seed.launchReq l = some y) ∧ (20000 ≤ (s.clk.tb - y).toNat) :=
  ⟨0, 0, 0, 3, { keyState with clk := { keyState.clk with tb := 20000 } }, 0, ⟨by decide, by decide, by decide, by decide⟩⟩
theorem witness_KeysComplete_6 : ∃ (q c n : Nat) (s : State) (y : W64),
    (n = 64 * q + c) ∧ (wfCore q c = true) ∧ ((s.core n).seed.roundFail = some y) ∧ ((s.core n).seed.roundReq = none) ∧ (1000000 ≤ (s.clk.tb - y).toNat) ∧ (s.sec.entropyFailed = false) :=
  ⟨0, 0, 0, (let s := withCore (fun c => { c with seed := { c.seed with roundFail := some 0 } }) wState; { s with clk := { s.clk with tb := 1000000 } }), 0, ⟨by decide, by decide, by decide, by decide, by decide, by decide⟩⟩
theorem witness_KeysComplete_7 : ∃ (q c n : Nat) (s : State),
    (n = 64 * q + c) ∧ (wfCore q c = true) ∧ (coreFitted s n = true) ∧ ((s.core n).seed.roundReq = none) ∧ ((s.core n).seed.roundFail = none) ∧ ((s.core n).seed.roundKey = none ∨ (s.core n).seed.nextKey = none) ∧ (s.sec.entropyFailed = true) :=
  ⟨0, 0, 0, { wState with sec := { wState.sec with entropyFailed := true } }, ⟨by decide, by decide, by decide, by decide, by decide, by decide, by decide⟩⟩
theorem witness_ArrayInstructionsComplete_1 : ∃ (v : Env) (w e : W64) (s : State) (c : Core) (off : Nat) (x : ArrCmd),
    (issues 4 0x00 w e aissueForm false (fun _ => []) s v = true) ∧ (pfsOut ((v.noted s).core v.n) v.sl = false) ∧ (c = (v.noted s).core v.n) ∧ (off = v.stook.base + rd32 v.f (bits v.w 41 33) 0) ∧ (descCode (v.noted s) v.n (scrRead (v.noted s) v.n off 64).1 = 0) ∧ (off + 64 ≤ padSize c) ∧ (scrFault v.stook (rd32 v.f (bits v.w 41 33) 0) 64 64 = none) ∧ (x = { desc := descOf (scrRead (v.noted s) v.n off 64).1, stook := v.f.stook, sheaf := v.sl, launch := v.stook.launch, tainted := false }) ∧ (c.arr.queue.length < 8 ∧ c.arr.waiting = []) :=
  ⟨envOf 0x20dff000004 0 (descState), 0x20dff000004, 0, descState, _, 0, _, ⟨by decide, by decide, rfl, by decide, by decide +kernel, by decide, by decide, rfl, by decide⟩⟩
theorem witness_ArrayInstructionsComplete_2 : ∃ (v : Env) (w e : W64) (s : State) (c : Core) (off : Nat) (x : ArrCmd),
    (issues 4 0x00 w e aissueForm false (fun _ => []) s v = true) ∧ (pfsOut ((v.noted s).core v.n) v.sl = false) ∧ (c = (v.noted s).core v.n) ∧ (off = v.stook.base + rd32 v.f (bits v.w 41 33) 0) ∧ (descCode (v.noted s) v.n (scrRead (v.noted s) v.n off 64).1 = 0) ∧ (off + 64 ≤ padSize c) ∧ (scrFault v.stook (rd32 v.f (bits v.w 41 33) 0) 64 64 = none) ∧ (x = { desc := descOf (scrRead (v.noted s) v.n off 64).1, stook := v.f.stook, sheaf := v.sl, launch := v.stook.launch, tainted := false }) ∧ (¬ (c.arr.queue.length < 8 ∧ c.arr.waiting = [])) :=
  ⟨envOf 0x20dff000004 0 (withCore (fun c => { c with arr := { c.arr with queue := List.replicate 8 wRing } }) descState), 0x20dff000004, 0, withCore (fun c => { c with arr := { c.arr with queue := List.replicate 8 wRing } }) descState, _, 0, _, ⟨by decide, by decide, rfl, by decide, by decide +kernel, by decide, by decide, rfl, by decide⟩⟩
theorem witness_ArrayInstructionsComplete_3 : ∃ (v : Env) (w e : W64) (s : State) (off : Nat),
    (issues 4 0x01 w e awaitForm false (fun _ => []) s v = true) ∧ (off = v.stook.base + rd32 v.f (bits v.w 41 33) 0) ∧ (scrFault v.stook (rd32 v.f (bits v.w 41 33) 0) 32 32 = none) ∧ (namesRecord ((v.noted s).core v.n).arr off = true) :=
  ⟨envOf 0x20d07000014 0 (withCore (fun c => { c with arr := { c.arr with queue := [{ wRing with desc := { wRing.desc with statusAddr := 0 } }] } }) wState), 0x20d07000014, 0, withCore (fun c => { c with arr := { c.arr with queue := [{ wRing with desc := { wRing.desc with statusAddr := 0 } }] } }) wState, 0, ⟨by decide, by decide, by decide, by decide⟩⟩
theorem witness_ArrayInstructionsComplete_4 : ∃ (v : Env) (w e : W64) (s : State) (off : Nat),
    (issues 4 0x01 w e awaitForm false (fun _ => []) s v = true) ∧ (off = v.stook.base + rd32 v.f (bits v.w 41 33) 0) ∧ (scrFault v.stook (rd32 v.f (bits v.w 41 33) 0) 32 32 = none) ∧ (namesRecord ((v.noted s).core v.n).arr off = false) ∧ ((tilRead (v.noted s) v.n off 4).2 = false) :=
  ⟨envOf 0x20d07000014 0 (wState), 0x20d07000014, 0, wState, 0, ⟨by decide, by decide, by decide, by decide, by decide⟩⟩
theorem witness_ArrayInstructionsComplete_5 : ∃ (v : Env) (w e : W64) (s : State) (a : Array2),
    (issues 4 0x02 w e aqueryForm false (fun _ => []) s v = true) ∧ (a = ((v.noted s).core v.n).arr) :=
  ⟨envOf 0x3ff07000024 0 (wState), 0x3ff07000024, 0, wState, _, ⟨by decide, rfl⟩⟩
theorem witness_ArrayInstructionsComplete_6 : ∃ (q c n : Nat) (s t : State) (x : ArrCmd) (rest : List ArrCmd),
    (n = 64 * q + c) ∧ (wfCore q c = true) ∧ ((s.core n).arr.waiting = x :: rest) ∧ ((s.core n).arr.queue.length < 8) ∧ (tagClash (s.core n).arr x.desc = false) ∧ (t = s.setCore n { s.core n with arr := { (s.core n).arr with queue := (s.core n).arr.queue ++ [x], waiting := rest } }) :=
  ⟨0, 0, 0, withCore (fun c => { c with arr := { c.arr with waiting := [wRing] } }) wState, _, wRing, [], ⟨by decide, by decide, by decide, by decide, by decide, rfl⟩⟩
theorem witness_ArrayInstructionsComplete_7 : ∃ (q c n : Nat) (s : State) (x : ArrCmd) (rest : List ArrCmd),
    (n = 64 * q + c) ∧ (wfCore q c = true) ∧ ((s.core n).arr.waiting = x :: rest) ∧ ((s.core n).arr.queue.length < 8) ∧ (tagClash (s.core n).arr x.desc = true) :=
  ⟨0, 0, 0, withCore (fun c => { c with arr := { c.arr with queue := [wRing], waiting := [wRing] } }) wState, wRing, [], ⟨by decide, by decide, by decide, by decide, by decide⟩⟩
theorem witness_ArrayCommandsRun_1 : ∃ (q c n : Nat) (s : State) (x : ArrCmd) (rest : List ArrCmd) (r : ArrRun) (t : State),
    (n = 64 * q + c) ∧ (wfCore q c = true) ∧ ((s.core n).arr.queue = x :: rest) ∧ ((s.core n).arr.run = none) ∧ ((s.core n).arr.testing = false) ∧ (r = startRun s n x) ∧ (t = s.setCore n { s.core n with arr := { (s.core n).arr with queue := rest, run := some r, pend := none, prevMode := none } }) :=
  ⟨0, 0, 0, withCore (fun c => { c with arr := { c.arr with queue := [wRing] } }) wState, wRing, [], _, _, ⟨by decide, by decide, by decide, by decide, by decide, rfl, rfl⟩⟩
theorem witness_ArrayCommandsRun_2 : ∃ (q c n : Nat) (s : State) (x : ArrRun) (dr : Drained),
    (n = 64 * q + c) ∧ (wfCore q c = true) ∧ ((s.core n).arr.run = some x) ∧ (x.lost = false) ∧ (x.tile < tilesOf x.cmd.desc (runMode (s.core n).arr x.cmd.desc)) ∧ ((!x.cmd.desc.aring || decide (panelsPerTile x.cmd.desc ≤ x.panels.length)) = true) ∧ ((x.cmd.desc.round != 2 || (s.core n).seed.roundKey.isSome) = true) ∧ (x.cmd.desc.drain = true) ∧ (dr = ((tileAccs s n x).zip (List.range (tileAccs s n x).length)).foldl (fun y p => drainRow s.free x.cmd.desc
      ((tileAt x.cmd.desc (runMode (s.core n).arr x.cmd.desc) x.tile).1 + p.2)
      (tileAt x.cmd.desc (runMode (s.core n).arr x.cmd.desc) x.tile).2 p.1 y)
      { seed := (s.core n).seed, outs := x.outs, maps := x.maps, psn := x.psnOuts, rows := x.prows, cols := x.cols }) ∧ ((x.cmd.desc.round = 2 → dr.seed.roundBits ≤ roundLimit dr.seed)) :=
  ⟨0, 0, 0, runState true 0, wArrRun true 0, _, ⟨by decide, by decide, by decide, by decide, by decide, by decide, by decide, by decide, rfl, by decide⟩⟩
theorem witness_ArrayCommandsRun_3 : ∃ (q c n : Nat) (s : State) (x : ArrRun),
    (n = 64 * q + c) ∧ (wfCore q c = true) ∧ ((s.core n).arr.run = some x) ∧ (x.lost = false) ∧ (x.tile < tilesOf x.cmd.desc (runMode (s.core n).arr x.cmd.desc)) ∧ ((!x.cmd.desc.aring || decide (panelsPerTile x.cmd.desc ≤ x.panels.length)) = true) ∧ ((x.cmd.desc.round != 2 || (s.core n).seed.roundKey.isSome) = true) ∧ (x.cmd.desc.drain = false) :=
  ⟨0, 0, 0, runState false 0, wArrRun false 0, ⟨by decide, by decide, by decide, by decide, by decide, by decide, by decide, by decide⟩⟩
theorem witness_ArrayCommandsRun_4 : ∃ (q c n : Nat) (s : State) (x : ArrRun) (t u : State) (p : Nat × Nat × W128) (code : Nat),
    (n = 64 * q + c) ∧ (wfCore q c = true) ∧ ((s.core n).arr.run = some x) ∧ (x.lost = false) ∧ ((decide (tilesOf x.cmd.desc (runMode (s.core n).arr x.cmd.desc) ≤ x.tile) &&
      !(s.core n).arr.ring.any (fun r => r.tag == x.cmd.desc.tag && owesForward r)) = true) ∧ (t = s.setCore n { s.core n with arr := { (s.core n).arr with
      run := none
      pend := if x.cmd.desc.drain then none else some { cmd := x.cmd, bank := x.bank }
      prevMode := if (s.core n).arr.queue.isEmpty then none else some (runMode (s.core n).arr x.cmd.desc) } }) ∧ (p = (if x.cmd.tainted then poisonFields s.free x else (x.prows.length, x.prows.headD 0xFFFF_FFFF, x.cols))) ∧ (code = (if x.cmd.tainted then doneCode s.free x else if x.prows.isEmpty then 0 else 1)) ∧ (u = tilWrite n x.cmd.desc.statusAddr (statusRec code x.mapped false p.1 p.2.1
      (stepsOf x.cmd.desc (runMode (s.core n).arr x.cmd.desc) x.fill (512 - (s.core n).arr.rowMap.length)) p.2.2) false
      (applyOuts n x { t with free := t.free + 1 })) :=
  ⟨0, 0, 0, runState true 1, wArrRun true 1, _, _, _, _, ⟨by decide, by decide, by decide, by decide, by decide, rfl, rfl, rfl, rfl⟩⟩
theorem witness_ArrayCommandsRun_5 : ∃ (q c n : Nat) (s : State) (x : ArrRun),
    (n = 64 * q + c) ∧ (wfCore q c = true) ∧ ((s.core n).arr.run = some x) ∧ (x.lost = true) :=
  ⟨0, 0, 0, withCore (fun c => { c with arr := { c.arr with run := some { wArrRun true 0 with lost := true } } }) wState, { wArrRun true 0 with lost := true }, ⟨by decide, by decide, by decide, by decide⟩⟩
theorem witness_RingAndSelfTest_1 : ∃ (q c i n : Nat) (s t : State) (r : RingSlot),
    (n = 64 * q + c) ∧ (wfCore q c = true) ∧ ((s.core n).arr.ring[i]? = some r) ∧ (owesForward r = true) ∧ ((r.fwdSince.isNone || !inTransit s n r) = true) ∧ (t = s.setCore n { s.core n with arr := { (s.core n).arr with ring := lmod (s.core n).arr.ring i (fun y =>
      { y with fwdSince := match y.fwdSince with | some t => some t | none => some s.clk.tb }) } }) :=
  ⟨0, 0, 0, 0, withCore (fun c => { c with arr := { c.arr with ring := [fSlot] } }) wState, _, fSlot, ⟨by decide, by decide, by decide, by decide, by decide, rfl⟩⟩
theorem witness_RingAndSelfTest_2 : ∃ (q c n : Nat) (s : State) (p : Panel) (x : ArrCmd) (i : Nat),
    (n = 64 * q + c) ∧ (wfCore q c = true) ∧ ((s.core n).arr.inbound = some p) ∧ ((ringCmds (s.core n).arr).find? (fun x => x.desc.tag == p.tag) = some x) ∧ (freeRing (s.core n).arr x.desc = some i) :=
  ⟨0, 0, 0, withCore (fun c => { c with arr := { c.arr with queue := [wRing], inbound := some wPanel } }) wState, wPanel, wRing, 0, ⟨by decide, by decide, by decide, by decide, by decide⟩⟩
theorem witness_RingAndSelfTest_3 : ∃ (q c n : Nat) (out : Bool) (s : State) (x : ArrRun),
    (n = 64 * q + c) ∧ (wfCore q c = true) ∧ ((s.core n).arr.run = some x) ∧ (x.cmd.desc.aring = true) ∧ (x.lost = false) ∧ ((if out then (s.core n).arr.ring.any (fun r => r.tag == x.cmd.desc.tag && owesForward r && heldFor s r.fwdSince 100000)
      else heldFor s x.ringSince 100000) = true) :=
  ⟨0, 0, 0, false, (let s := withCore (fun c => { c with arr := { c.arr with run := some wRingRun } }) wState; { s with clk := { s.clk with tb := 100000 } }), wRingRun, ⟨by decide, by decide, by decide, by decide, by decide, by decide⟩⟩
theorem witness_RingAndSelfTest_4 : ∃ (q c furrow n : Nat) (s : State),
    (n = 64 * q + c) ∧ (wfCore q c = true) ∧ (furrow < 4) ∧ (coreFitted s n = true) ∧ ((s.core n).arr.run ≠ none) :=
  ⟨0, 0, 1, 0, runState true 0, ⟨by decide, by decide, by decide, by decide, by decide⟩⟩
theorem witness_RingAndSelfTest_5 : ∃ (q c n : Nat) (s : State),
    (n = 64 * q + c) ∧ (wfCore q c = true) ∧ ((s.core n).inService = true) ∧ ((s.core n).arr.testing = false) ∧ ((s.core n).arr.queue = []) ∧ ((s.core n).arr.run = none) ∧ (s.pel.testInterval * 1000000000 ≤ (s.clk.tb - (s.core n).arr.lastTest).toNat) :=
  ⟨0, 0, 0, { wState with clk := { wState.clk with tb := 60000000000 } }, ⟨by decide, by decide, by decide, by decide, by decide, by decide, by decide⟩⟩
theorem witness_RingAndSelfTest_6 : ∃ (q c n : Nat) (rows : List Nat) (s : State),
    (n = 64 * q + c) ∧ (wfCore q c = true) ∧ (coreFitted s n = true) ∧ ((s.core n).arr.testing = true) ∧ ((failRows rows).filter (fun r => !((s.core n).inService && (s.core n).arr.rowMap.contains r)) = []) :=
  ⟨0, 0, 0, [], withCore (fun c => { c with arr := { c.arr with testing := true } }) wState, ⟨by decide, by decide, by decide, by decide, by decide⟩⟩
theorem witness_RingAndSelfTest_7 : ∃ (q c n : Nat) (rows : List Nat) (s t : State),
    (n = 64 * q + c) ∧ (wfCore q c = true) ∧ (coreFitted s n = true) ∧ ((s.core n).arr.testing = true) ∧ (failRows rows ≠ []) ∧ ((failRows rows).length ≤ 8) ∧ ((s.core n).inService = false) ∧ (t = s.setCore n { s.core n with arr := { (s.core n).arr with lastTest := s.clk.tb } }) :=
  ⟨0, 0, 0, [5], withCore (fun c => { c with inService := false, arr := { c.arr with testing := true } }) wState, _, ⟨by decide, by decide, by decide, by decide, by decide, by decide, by decide, rfl⟩⟩
theorem witness_RingAndSelfTest_8 : ∃ (q c n : Nat) (rows : List Nat) (s t : State),
    (n = 64 * q + c) ∧ (wfCore q c = true) ∧ (coreFitted s n = true) ∧ ((s.core n).arr.testing = true) ∧ ((failRows rows).filter (fun r => !((s.core n).arr.rowMap.contains r)) ≠ []) ∧ ((failRows rows).length ≤ 8) ∧ ((s.core n).inService = true) ∧ (t = s.setCore n { s.core n with arr := { (s.core n).arr with lastTest := s.clk.tb } }) :=
  ⟨0, 0, 0, [5], withCore (fun c => { c with arr := { c.arr with testing := true } }) wState, _, ⟨by decide, by decide, by decide, by decide, by decide, by decide, by decide, rfl⟩⟩
theorem witness_RingAndSelfTest_9 : ∃ (q c n : Nat) (rows : List Nat) (other : Bool) (s t : State),
    (n = 64 * q + c) ∧ (wfCore q c = true) ∧ (coreFitted s n = true) ∧ ((s.core n).arr.testing = true) ∧ (other = true ∨ (8 < (failRows rows).length ∧ (failRows rows).filter (fun r => !((s.core n).inService && (s.core n).arr.rowMap.contains r)) ≠ [])) ∧ (t = s.setCore n { s.core n with arr := { (s.core n).arr with lastTest := s.clk.tb } }) :=
  ⟨0, 0, 0, [], true, withCore (fun c => { c with arr := { c.arr with testing := true } }) wState, _, ⟨by decide, by decide, by decide, by decide, by decide, rfl⟩⟩
theorem witness_GranaryTrafficRuns_1 : ∃ (h i : Nat) (s : State) (f : Fill) (s1 : State) (hf : _),
    ((s.half h).fills[i]? = some f) ∧ (s1 = (if fillFits s h f then s else bump (grnBlk h + 0x158) 1 s)) ∧ (hf = s1.half h) ∧ (halfServes s h = true) ∧ (f.install = true) ∧ (f.want.isEmpty = true) ∧ (f.waiting = false) :=
  ⟨0, 0, withHalf (fun h => { h with fills := [wFill] }) wState, wFill, _, _, ⟨rfl, rfl, rfl, by decide, by decide, by decide, by decide⟩⟩
theorem witness_GranaryTrafficRuns_2 : ∃ (h i : Nat) (s : State) (f : Fill),
    ((s.half h).fills[i]? = some f) ∧ (halfServes s h = true) ∧ (f.want.isEmpty = true) ∧ (f.waiting = true) :=
  ⟨0, 0, withHalf (fun h => { h with fills := [{ wFill with waiting := true }] }) wState, { wFill with waiting := true }, ⟨rfl, by decide, by decide, by decide⟩⟩
theorem witness_GranaryTrafficRuns_3 : ∃ (h i : Nat) (e0 e1 : BitVec 354) (s : State) (r : GReq),
    ((s.half h).reqs[i]? = some r) ∧ (halfServes s h = true) ∧ (r.op = .read) ∧ (orderHeld s r = false) ∧ (oneCopy (bits e0.toNat 281 276) = true) ∧ (oneCopy (bits e1.toNat 281 276) = true) :=
  ⟨0, 0, 0, 0, withHalf (fun h => { h with reqs := [wReq .read] }) wState, wReq .read, ⟨rfl, by decide, by decide, by decide, by decide, by decide⟩⟩
theorem witness_GranaryTrafficRuns_4 : ∃ (h i : Nat) (s : State) (r : GReq) (m : Mem) (psn : Bool),
    ((s.half h).reqs[i]? = some r) ∧ (r.op = .write m psn) ∧ (halfServes s h = true) ∧ (orderHeld s r = false) :=
  ⟨0, 0, withHalf (fun h => { h with reqs := [wReq (.write [(0, 5)] false)] }) wState, wReq (.write [(0, 5)] false), [(0, 5)], false, ⟨rfl, rfl, by decide, by decide⟩⟩
theorem witness_GranaryTrafficRuns_5 : ∃ (h i : Nat) (s : State) (r : GReq) (op : Nat) (y1 : Nat) (y2 : Nat) (lanes : List (Nat × W64 × W64)),
    ((s.half h).reqs[i]? = some r) ∧ (r.op = .atomic op y1 y2 lanes) ∧ (halfServes s h = true) ∧ ((s.quarter (h / 2)).st = 0) ∧ (orderHeld s r = false) :=
  ⟨0, 0, withHalf (fun h => { h with reqs := [wReq (.atomic 1 0 0 [(0, 1, 0)])] }) wState, wReq (.atomic 1 0 0 [(0, 1, 0)]), 1, 0, 0, [(0, 1, 0)], ⟨rfl, rfl, by decide, by decide, by decide⟩⟩
theorem witness_GranaryTrafficRuns_6 : ∃ (h i : Nat) (s : State) (x : Red) (hf : _),
    ((s.half h).reds[i]? = some x) ∧ (hf = s.half h) ∧ (halfServes s h = true) :=
  ⟨0, 0, withHalf (fun h => { h with reds := [{ req := wReq (.atomic 1 0 0 [(0, 1, 0)]), bank := 0, ops := 1 }] }) wState, { req := wReq (.atomic 1 0 0 [(0, 1, 0)]), bank := 0, ops := 1 }, _, ⟨rfl, rfl, by decide⟩⟩
theorem witness_GranaryTrafficRuns_7 : ∃ (h i : Nat) (s : State) (hf : _),
    (hf = s.half h) ∧ (h < 8) ∧ (i < hf.merge.length) :=
  ⟨0, 0, withHalf (fun h => { h with merge := [{ sector := 0, readers := 1 }] }) wState, _, ⟨rfl, by decide, by decide⟩⟩
theorem witness_CarvesPinsAndSplits_1 : ∃ (h : Nat) (s : State) (c : Carve) (s1 : _) (hf : _),
    ((s.half h).carve = some c) ∧ (s1 = carveSet h c.set s) ∧ (hf = s1.half h) ∧ (halfServes s h = true) :=
  ⟨0, withHalf (fun h => { h with carve := some { set := 0, oldP := 0, qu := 0, seq := 0 } }) wState, { set := 0, oldP := 0, qu := 0, seq := 0 }, _, _, ⟨rfl, rfl, rfl, by decide⟩⟩
theorem witness_CarvesPinsAndSplits_2 : ∃ (h : Nat) (s : State) (hf : _) (x : PinReq) (t : List PinReq) (s1 : _),
    (hf = s.half h) ∧ (hf.pinq = x :: t) ∧ (s1 = s.setHalf h { hf with pinq := t }) ∧ (halfServes s h = true) ∧ (hf.carve.isNone = true) ∧ (pinBusy s h = false) :=
  ⟨0, withHalf (fun h => { h with pinq := [{ kind := 0, pin := 1, base := 0, size := 65536 }] }) wState, _, { kind := 0, pin := 1, base := 0, size := 65536 }, [], _, ⟨rfl, rfl, rfl, by decide, by decide, by decide⟩⟩
theorem witness_CarvesPinsAndSplits_3 : ∃ (pin : Nat) (s : State) (p : Pin) (qu : Nat) (seq : Nat),
    (tfind s.pel.pins pin = some p) ∧ (p.cmd = some (qu, seq)) ∧ ((rangeHalves s p.base p.size).all (fun h => p.accepted.contains h && pinMarked s h p) = true) :=
  ⟨1, { wState with pel := { wState.pel with pins := [(1, wPin)] } }, wPin, 33, 0, ⟨rfl, rfl, by decide⟩⟩
theorem witness_CarvesPinsAndSplits_4 : ∃ (h : Nat) (s : State) (hf : _) (acc : _) (hit : _) (a : _) (k : _) (q : _) (h1 : _) (s1 : _),
    (hf = s.half h) ∧ (acc = counter s (grnBlk h + 0x100)) ∧ (hit = counter s (grnBlk h + 0x108)) ∧ (a = (acc - hf.winAcc).toNat) ∧ (k = (hit - hf.winHit).toNat) ∧ (q = (decide (2 ^ bits hf.thrashCfg.toNat 28 24 ≤ a) && decide (k * 256 < bits hf.thrashCfg.toNat 7 0 * a))) ∧ (h1 = { hf with thrash := q, winAcc := acc, winHit := hit, winAt := now s, evA := if q then BitVec.ofNat 64 a else hf.evA, evH := if q then BitVec.ofNat 64 k else hf.evH, event := hf.event || (q && hf.ignore == 0), ignore := hf.ignore - 1 }) ∧ (s1 = s.setHalf h h1) ∧ (halfServes s h = true) ∧ (s.fuse.loaded = true) ∧ (aged s hf.winAt (thrashWindow hf * us) = true) :=
  ⟨0, { wState with fuse := { wState.fuse with loaded := true }, clk := { wState.clk with tb := 1000000000 } }, _, _, _, _, _, _, _, _, ⟨rfl, rfl, rfl, rfl, rfl, rfl, rfl, rfl, by decide, by decide, by decide⟩⟩
theorem witness_CarvesPinsAndSplits_5 : ∃ (h : Nat) (s : State) (hf : _) (s1 : _),
    (hf = s.half h) ∧ (s1 = s.setHalf h { hf with event := false }) ∧ (h < 8) ∧ (hf.event = true) :=
  ⟨0, withHalf (fun h => { h with event := true }) wState, _, _, ⟨rfl, rfl, by decide, by decide⟩⟩
theorem witness_CarvesPinsAndSplits_6 : ∃ (q c units : Nat) (s : State) (n : _) (k : _),
    (n = 64 * q + c) ∧ (k = s.core n) ∧ (wfCore q c = true) ∧ (coreFitted s n = true) ∧ (drained k = true) ∧ (1 ≤ units) ∧ (units ≤ 31) :=
  ⟨0, 0, 8, withCore (fun c => { c with sheaves := [], stooks := [] }) wState, _, _, ⟨rfl, rfl, by decide, by decide, by decide, by decide, by decide⟩⟩
theorem witness_LinksMoveAndRepair_1 : ∃ (l dir g : Nat) (offers : List Offer) (wire : BitVec 528) (s : State) (s1 : _) (r : _) (e : _),
    (s1 = offers.foldl (takeOffer l dir) s) ∧ (r = transmit ((s1.link l).group dir g)) ∧ (e = laneErr wire.toNat) ∧ (groupMoves s l dir g = true) :=
  ⟨0, 0, 0, [], 0xffff, linkState, _, _, _, ⟨rfl, rfl, rfl, by decide⟩⟩
theorem witness_LinksMoveAndRepair_2 : ∃ (l dir g seq : Nat) (s : State) (x : _),
    (x = (s.link l).group dir g) ∧ (groupMoves s l dir g = true) ∧ (x.discarding = true) ∧ (seq = x.rxNext) :=
  ⟨0, 0, 0, 0, modGroup 0 0 0 (fun g => { g with discarding := true }) linkState, _, ⟨rfl, by decide, by decide, by decide⟩⟩
theorem witness_LinksMoveAndRepair_3 : ∃ (l dir g seq : Nat) (s : State) (x : _),
    (x = (s.link l).group dir g) ∧ (groupMoves s l dir g = true) ∧ (x.ackIn = some seq) :=
  ⟨0, 0, 0, 0, modGroup 0 0 0 (fun g => { g with ackIn := some 0 }) linkState, _, ⟨rfl, by decide, by decide⟩⟩
theorem witness_LinksMoveAndRepair_4 : ∃ (l dir g : Nat) (margins : List Nat) (s : State) (count : Group → Nat → Nat) (s1 : _),
    (count = (fun (y : Group) (i : Nat) => if margins.getD i 64 < 12 then tget 0 y.low i + 1 else 0)) ∧ (s1 = modGroup l dir g (fun y => { y with margin := (List.range 36).foldl (fun t i => tset 64 t i (margins.getD i 64)) y.margin, low := (List.range 36).foldl (fun t i => tset 0 t i (count y i)) y.low }) s) ∧ (groupMoves s l dir g = true) ∧ ((s.link l).st = 1) :=
  ⟨0, 0, 0, [], linkState, _, _, ⟨rfl, rfl, by decide, by decide⟩⟩
theorem witness_LinksMoveAndRepair_5 : ∃ (l dir g : Nat) (s : State) (x : _) (r : _) (s1 : _),
    (x = (s.link l).group dir g) ∧ (r = takeSmall l dir (modGroup l dir g (fun y => { y with st := 2, discarding := false, replayAt := none }) s)) ∧ (s1 = r.1.foldl (placeSmall l dir) r.2) ∧ (groupMoves s l dir g = true) ∧ (x.st = 1) ∧ (x.unacked.isEmpty = true) ∧ (x.queue.isEmpty = true) :=
  ⟨0, 0, 0, modGroup 0 0 0 (fun g => { g with st := 1 }) linkState, _, _, _, ⟨rfl, rfl, rfl, by decide, by decide, by decide, by decide⟩⟩
theorem witness_LinksMoveAndRepair_6 : ∃ (l : Nat) (s : State) (k : _) (late : _),
    (k = s.link l) ∧ (late = (k.st == 2 && heldFor s k.downSince (10 * us))) ∧ (l < 8) ∧ (k.abandoned = false) ∧ ((late || ((k.st == 1 || k.st == 2) && allGone k)) = true) :=
  ⟨0, (let s := linkState.setLink 0 { linkState.link 0 with st := 2, downSince := some 0 }; { s with clk := { s.clk with tb := 10000 } }), _, _, ⟨rfl, rfl, by decide, by decide, by decide⟩⟩
theorem witness_LinksMoveAndRepair_7 : ∃ (l : Nat) (fwd rev : BitVec 16) (s : State) (fresh : _),
    (fresh = (s.boot.step == 5)) ∧ (l < 9) ∧ ((s.link l).st = 0) ∧ ((fresh || retrainsNow s l || (l == 8 && s.guest.retrain.isSome && !s.guest.unpowered)) = true) ∧ ((l != 8 || is4G s) = true) :=
  ⟨0, 0, 0, { State.reset with boot := { State.reset.boot with step := 5 } }, _, ⟨rfl, by decide, by decide, by decide, by decide⟩⟩
theorem witness_LinksMoveAndRepair_8 : ∃ (a b : Nat) (s : State) (r : _) (old : _) (bad : _) (w : _) (s1 : _) (s2 : _),
    (r = bestRoute s a b) ∧ (old = tget 0 s.routes (5 * a + b)) ∧ (bad = ((routeLinks s a b).find? (fun l => (s.link l).st != 1)).getD ((routeLinks s a b).headD 0)) ∧ (w = (s.link bad).why) ∧ (s1 = { s with routes := tset 0 (tset 0 s.routes (5 * a + b) r) (5 * b + a) r }) ∧ (s2 = releasePair a b (linkAlarm 0x0404 bad w.1 w.2.1 w.2.2 (laneMargin ((s.link bad).group w.1 w.2.1) w.2.2) s1)) ∧ (a < 5) ∧ (b < 5) ∧ (a ≠ b) ∧ (r ≠ old) ∧ (routable s a = true) ∧ (routable s b = true) ∧ (pathClear s a b = true) :=
  ⟨0, 1, wState, _, _, _, _, _, _, ⟨rfl, rfl, rfl, rfl, rfl, rfl, by decide, by decide, by decide, by decide, by decide, by decide, by decide⟩⟩
theorem witness_LinksMoveAndRepair_9 : ∃ (q bus : Nat) (at_ : Nat × Option (Nat × Nat)) (s : State) (i : _) (s0 : _) (s1 : _),
    (i = at_.1) ∧ (s0 = (match at_.2 with | some b => if beatOn s q bus i b then beatPoisoned b.1 b.2 s else s | none => s)) ∧ (s1 = alarmW 0x0405 (vbusSrc q bus i) [bus, i, (now s).toNat] s0) ∧ (wfVbus q bus i = true) ∧ ((bus != 0 || coreFitted s (64 * q + i)) = true) ∧ ((bus != 1 || decide (i % 16 < waysFitted s)) = true) :=
  ⟨0, 0, (0, none), wState, _, _, _, ⟨rfl, rfl, rfl, by decide, by decide, by decide⟩⟩
theorem witness_LinksMoveAndRepair_10 : ∃ (q bus i n : Nat) (s : State) (key : _) (l : _) (total : Nat) (s1 : _) (s2 : _),
    (key = 1000 * q + 100 * bus + i) ∧ (l = (tget [] s.vbus key).filter (fun e => decide (since s e.1 < sec1)) ++ [(now s, n)]) ∧ (total = l.foldl (fun a e => a + e.2) 0) ∧ (s1 = bump (ctlBlk + 0x40) n { s with vbus := tset [] s.vbus key l }) ∧ (s2 = busRec (vbusSrc q bus i) n (256 * bus + i) s1) ∧ (wfVbus q bus i = true) :=
  ⟨0, 0, 0, 1, wState, _, _, _, _, _, ⟨rfl, rfl, rfl, rfl, rfl, by decide⟩⟩
theorem witness_ControlNetworkRuns_1 : ∃ (dest : Nat) (msg : List Byte) (s : State) (x : _),
    (x = stamped msg s) ∧ ((msg.isEmpty || (mayReach msg s && msgDest msg == dest && !msgMcast msg)) = true) :=
  ⟨0, [], wState, _, ⟨rfl, by decide⟩⟩
theorem witness_ControlNetworkRuns_2 : ∃ (sender : Nat) (s t : State) (b : List Byte) (rest : List (List Byte)),
    ((s.ep sender).ret = b :: rest) ∧ (t = s.setEp sender { s.ep sender with ret := rest }) :=
  ⟨0, wState.setEp 0 { wState.ep 0 with ret := [[]] }, _, [], [], ⟨by decide, rfl⟩⟩
theorem witness_ControlNetworkRuns_3 : ∃ (sender dest : Nat) (role : BitVec 8) (s : State) (ep : _) (s1 : _),
    (ep = nextEpoch s.ctl.epochCtr) ∧ (s1 = (if sender = 0 then { s with ctl := { s.ctl with epochCtr := ep } } else s)) ∧ ((s.ep sender).out < outLimit sender) :=
  ⟨0, 0x100, 0, wState, _, _, ⟨rfl, rfl, by decide⟩⟩
theorem witness_ControlNetworkRuns_4 : ∃ (i : Nat) (s : State) (x : Nat × CtlMsg × W64),
    (s.ctl.net[i]? = some x) ∧ (aged s x.2.2 ms = true) :=
  ⟨0, { wState with ctl := { wState.ctl with net := [(0x100, [], 0)] }, clk := { wState.clk with tb := 1000000 } }, (0x100, [], 0), ⟨rfl, by decide⟩⟩
theorem witness_ControlNetworkRuns_5 : ∃ (q : Nat) (msg : List Byte) (s : State) (sl : Nat) (y : _) (x : Mcast) (e : _) (s1 : _) (s2 : _),
    (freeSlot s q = some sl) ∧ (y = stamped msg s) ∧ (x = { msg := y.1, src := msgSrc msg, tag := BitVec.ofNat 32 (msgTag msg), targets := BitVec.ofNat 64 (msgTargets msg), entered := 0, delivered := 0, blocked := 0, bounced := 0, since := now s }) ∧ (e = s.ep (msgSrc msg)) ∧ (s1 = y.2.setEp (msgSrc msg) { e with out := e.out + 1 }) ∧ (s2 = { s1 with ctl := { s1.ctl with mcast := tput s1.ctl.mcast (8 * q + sl) x } }) ∧ (q < 4) ∧ (mayReach msg s = true) ∧ (msgMcast msg = true) ∧ (msgDest msg % 4 = q) ∧ (pairWaits s (asmOf (msgSrc msg)) q = false) ∧ ((s.quarter q).st ≠ 1) :=
  ⟨0, mcastMsg, wState, 0, _, _, _, _, _, ⟨rfl, rfl, rfl, rfl, rfl, rfl, by decide, by decide, by decide, by decide, by decide, by decide⟩⟩
theorem witness_ControlNetworkRuns_6 : ∃ (q slot c : Nat) (s : State),
    (q < 4) ∧ (slot < 8) ∧ (c < 64) :=
  ⟨0, 0, 0, wState, ⟨by decide, by decide, by decide⟩⟩
theorem witness_ControlNetworkRuns_7 : ∃ (q slot : Nat) (s : State) (x : Mcast),
    (tfind s.ctl.mcast (8 * q + slot) = some x) ∧ (q < 4) ∧ (slot < 8) ∧ (aged s x.since ms = true) :=
  ⟨0, 0, { wState with ctl := { wState.ctl with mcast := [(0, wMcast)] }, clk := { wState.clk with tb := 1000000 } }, wMcast, ⟨rfl, by decide, by decide, by decide⟩⟩
theorem witness_GuestPortRuns_1 : ∃ (v : Nat) (s : State),
    (guestUp s = true) ∧ (1 ≤ v) :=
  ⟨3, guestState, ⟨by decide, by decide⟩⟩
theorem witness_GuestPortRuns_2 : ∃ (flit : List Byte) (s : State) (g : _) (ok : _) (seq : _) (idle : _) (count : Tab (List W64) → Nat → Tab (List W64)),
    (g = s.guest) ∧ (ok = decide (crc32c (flit.take 252) = fld flit 252 4)) ∧ (seq = BitVec.ofNat 32 (fld flit 0xF0 4)) ∧ (idle = (fld flit 0 1 == 0)) ∧ (count = (fun (t : Tab (List W64)) (i : Nat) => tset [] t i (recent s (tget [] t i) sec1 ++ [now s]))) ∧ (guestUp s = true) ∧ (flit.length = 256) :=
  ⟨List.replicate 256 0, guestState, _, _, _, _, _, ⟨rfl, rfl, rfl, rfl, rfl, by decide, List.length_replicate⟩⟩
theorem witness_GuestPortRuns_3 : ∃ (s : State),
    (guestUp s = true) ∧ (s.guest.unacked.isEmpty = false) ∧ (aged s s.guest.ackAt us = true) :=
  ⟨{ guestState with guest := { guestState.guest with unacked := [(0, [])] }, clk := { guestState.clk with tb := 1000 } }, ⟨by decide, by decide, by decide⟩⟩
theorem witness_GuestPortRuns_4 : ∃ (i : Nat) (s : State),
    (guestUp s = true) ∧ (i < 4) ∧ (16 < (recent s (tget [] s.guest.crc i) sec1).length) :=
  ⟨0, { guestState with guest := { guestState.guest with crc := [(0, List.replicate 17 0)] } }, ⟨by decide, by decide, by decide⟩⟩
theorem witness_GuestPortRuns_5 : ∃ (flit : List Byte) (s : State) (g : _) (op : _) (len : _) (f : List Byte) (t : List (List Byte)) (s1 : _),
    (g = s.guest) ∧ (op = fld flit 0 1) ∧ (len = 8 * fld flit 1 1) ∧ (g.rx = f :: t) ∧ (s1 = { s with guest := { g with rx := t } }) ∧ (guestUp s = true) ∧ (f = flit) ∧ ((op == 3 || op == 4 || op == 6) = false) :=
  ⟨[], { guestState with guest := { guestState.guest with rx := [[]] } }, _, _, _, [], [], _, ⟨rfl, rfl, rfl, rfl, rfl, by decide, by decide, by decide⟩⟩
theorem witness_GuestPortRuns_6 : ∃ (flit : List Byte) (s : State) (g : _) (op : _) (f : List Byte) (t : List (List Byte)) (s1 : _),
    (g = s.guest) ∧ (op = fld flit 0 1) ∧ (g.rx = f :: t) ∧ (s1 = { s with guest := { g with rx := t } }) ∧ (guestUp s = true) ∧ (f = flit) ∧ ((op == 3 || op == 4 || op == 6) = true) :=
  ⟨[3], { guestState with guest := { guestState.guest with rx := [[3]] } }, _, _, [3], [], _, ⟨rfl, rfl, rfl, rfl, by decide, by decide, by decide⟩⟩
theorem witness_GuestPortRuns_7 : ∃ (tag : Nat) (s : State) (o : GuestOut),
    (s.guest.outReqs.find? (fun o => o.tag == tag) = some o) ∧ (aged s o.since (100 * us) = true) :=
  ⟨0, { guestState with guest := { guestState.guest with outReqs := [{ tag := 0, write := false, core := 0, since := 0 }] }, clk := { guestState.clk with tb := 100000 } }, { tag := 0, write := false, core := 0, since := 0 }, ⟨rfl, by decide⟩⟩
theorem witness_GuestPortRuns_8 : ∃ (s : State),
    (is4G s = true) ∧ (s.guest.unpowered = false) :=
  ⟨guestState, ⟨by decide, by decide⟩⟩
theorem witness_MemoryStacksServe_1 : ∃ (m : Nat) (gen : Option (Nat × List (Nat × Nat))) (cmdOk : Bool) (eyes107 eyes96 : List (Nat × Nat × Nat)) (s : State) (k : _) (g : _) (rfm : _) (fast : _) (failed : W64) (cold : _) (k1 : Stack),
    (k = s.stack m) ∧ (g = (gen.getD (0, [])).1) ∧ (rfm = (gen.getD (0, [])).2) ∧ (fast = (g == 6 && decide ((setBits 64 (eyeFails eyes107).toNat).length ≤ 2))) ∧ (failed = eyeFails (if fast then eyes107 else eyes96)) ∧ (cold = (s.boot.kind == 1)) ∧ (k1 = { k with gen := g % 256, rate := if fast then 2 else 1, failed := failed, st := if cold then 0 else if failed = 0 then 1 else 2, rfmLimit := (rfm.filter (fun e => decide (e.1 < 16))).foldl (fun t e => tset 0 t e.1 e.2) [] }) ∧ (stackFitted s m = true) ∧ (k.st = 0) ∧ (k.rate = 0) ∧ (s.boot.step = 5) :=
  ⟨0, none, true, [], [], { State.reset with boot := { State.reset.boot with step := 5 } }, _, _, _, _, _, _, _, ⟨rfl, rfl, rfl, rfl, rfl, rfl, rfl, by decide, by decide, by decide, by decide⟩⟩
theorem witness_MemoryStacksServe_2 : ∃ (m : Nat) (s : State) (k : _),
    (k = s.stack m) ∧ (stackFitted s m = true) ∧ (k.st = 0) ∧ (k.rate ≠ 0) :=
  ⟨0, State.reset.setStack 0 { State.reset.stack 0 with rate := 2 }, _, ⟨rfl, by decide, by decide, by decide⟩⟩
theorem witness_MemoryStacksServe_3 : ∃ (m : Nat) (write : Bool) (master y slot : Nat) (data : BitVec 512) (poison : Bool) (s : State) (k : _) (a : _) (r : MReq),
    (k = s.stack m) ∧ (a = y / 64 * 64) ∧ (r = { id := k.nextId, write := false, master := master, y := a, data := 0, side := 0, src := .port, since := now s, issued := false, tries := 0 }) ∧ (stackFitted s m = true) ∧ ((stackUp s m || k.st == 3) = true) ∧ (master < 8) ∧ (y < 0x14_0000_0000) ∧ (slot < 64) :=
  ⟨0, false, 0, 0, 0, 0, false, stackState, _, _, _, ⟨rfl, rfl, rfl, by decide, by decide, by decide, by decide, by decide⟩⟩
theorem witness_MemoryStacksServe_4 : ∃ (m : Nat) (slot : Nat × List (Nat × Bool × Nat × Nat)) (s : State) (ch : _) (s0 : _) (k0 : _) (s1 : _),
    (ch = slot.1) ∧ (s0 = portDrain m (writesDone m ch (sampleWires (m / 2) slot.2 s))) ∧ (k0 = s0.stack m) ∧ (s1 = s0.setStack m (k0.setChan ch { k0.chan ch with batch := batchNow k0 ch (k0.chan ch) })) ∧ (stackUp s m = true) ∧ (ch < 64) ∧ (chanDead s m ch = false) ∧ (((s.stack m).chan ch).retraining = false) :=
  ⟨0, (0, []), stackState, _, _, _, _, ⟨rfl, rfl, rfl, rfl, by decide, by decide, by decide, by decide⟩⟩
theorem witness_MemoryStacksServe_5 : ∃ (m id : Nat) (err : BitVec 576) (s : State) (r : MReq) (pa : _),
    ((s.stack m).pool.find? (fun r => r.id == id) = some r) ∧ (pa = lpInv s m r.y) ∧ (r.issued = true) ∧ (r.write = false) ∧ (stackUp s m = true) :=
  ⟨0, 0, 0, stackState.setStack 0 { stackState.stack 0 with pool := [wBurst] }, wBurst, _, ⟨rfl, rfl, by decide, by decide, by decide⟩⟩
theorem witness_MemoryStacksServe_6 : ∃ (m : Nat) (burst : Nat × BitVec 576) (s : State) (k : _) (id : _) (r : MReq) (ch : _) (c : _) (l : _) (k1 : _) (c1 : _),
    (k = s.stack m) ∧ (id = burst.1) ∧ (k.pool.find? (fun r => r.id == id) = some r) ∧ (ch = lpChan r.y) ∧ (c = k.chan ch) ∧ (l = recent s c.crc sec1 ++ [now s]) ∧ (k1 = { k with pool := k.pool.map (fun (x : MReq) => if x.id = id then { x with issued := false, tries := x.tries + 1 } else x) }) ∧ (c1 = { c with crc := l, retrainDue := c.retrainDue || decide (4 ≤ r.tries + 1) || decide (64 ≤ l.length) }) ∧ (r.issued = true) ∧ (stackUp s m = true) ∧ (crcFails (lpFrame (sentBits m r s) ^^^ wireErr burst.2.toNat) = true) :=
  ⟨0, (0, 1), stackState.setStack 0 { stackState.stack 0 with pool := [wBurst] }, _, _, wBurst, _, _, _, _, _, ⟨rfl, rfl, rfl, rfl, rfl, rfl, rfl, rfl, by decide, by decide, by decide +kernel⟩⟩
theorem witness_MemoryStacksServe_7 : ∃ (m id : Nat) (s : State) (r : MReq) (s1 : _) (k : _) (ch : _),
    ((s.stack m).pool.find? (fun r => r.id == id) = some r) ∧ (s1 = lpLost m s r) ∧ (k = s1.stack m) ∧ (ch = lpChan r.y) ∧ (stackUp s m = true) ∧ (aged s r.since (100 * us) = true) :=
  ⟨0, 0, (let s := stackState.setStack 0 { stackState.stack 0 with pool := [wBurst] }; { s with clk := { s.clk with tb := 100000 } }), wBurst, _, _, _, ⟨rfl, rfl, rfl, rfl, by decide, by decide⟩⟩
theorem witness_MemoryStacksServe_8 : ∃ (m ch : Nat) (s : State) (k : _) (c : _) (k1 : _),
    (k = s.stack m) ∧ (c = k.chan ch) ∧ (k1 = { k with pool := k.pool.map (fun (r : MReq) => if lpChan r.y = ch then { r with issued := false, tries := 0 } else r) }) ∧ (stackUp s m = true) ∧ (ch < 64) ∧ (c.retrainDue = true) ∧ (c.retraining = false) :=
  ⟨0, 0, stackState.setStack 0 ((stackState.stack 0).setChan 0 { (stackState.stack 0).chan 0 with retrainDue := true }), _, _, _, ⟨rfl, rfl, rfl, by decide, by decide, by decide, by decide⟩⟩
theorem witness_MemoryStacksServe_9 : ∃ (m ch : Nat) (ok : Bool) (s : State) (k : _) (c : _) (s1 : _),
    (k = s.stack m) ∧ (c = k.chan ch) ∧ (s1 = s.setStack m (k.setChan ch { c with retraining := false })) ∧ (stackUp s m = true) ∧ (ch < 64) ∧ (c.retraining = true) :=
  ⟨0, 0, true, stackState.setStack 0 ((stackState.stack 0).setChan 0 { (stackState.stack 0).chan 0 with retraining := true }), _, _, _, ⟨rfl, rfl, rfl, by decide, by decide, by decide⟩⟩
theorem witness_MemoryStacksServe_10 : ∃ (m ch bank : Nat) (s : State) (k : _) (c : _) (busy : _) (r : _) (due : Bool) (s1 : _),
    (k = s.stack m) ∧ (c = k.chan ch) ∧ (busy = k.pool.any (fun r => lpChan r.y == ch && lpBank r.y == bank)) ∧ (r = tget 0 c.refresh bank + 1) ∧ (due = (match tfind c.dueAt bank with | some t => aged s t (refreshTicks k ch) | none => true)) ∧ (s1 = s.setStack m (k.setChan ch { c with dueAt := tput c.dueAt bank (now s) })) ∧ (stackUp s m = true) ∧ (ch < 64) ∧ (bank < 16) ∧ (due = true) :=
  ⟨0, 0, 0, stackState, _, _, _, _, _, _, ⟨rfl, rfl, rfl, rfl, rfl, rfl, by decide, by decide, by decide, by decide⟩⟩
theorem witness_MemoryStacksServe_11 : ∃ (m die : Nat) (rate : Option Nat) (s : State) (k : _),
    (k = s.stack m) ∧ (stackUp s m = true) ∧ (die < 16) :=
  ⟨0, 0, some 2, stackState, _, ⟨rfl, by decide, by decide⟩⟩
theorem witness_MemoryStacksServe_12 : ∃ (m die : Nat) (s : State),
    (stackUp s m = true) ∧ (die < 16) :=
  ⟨0, 0, stackState, ⟨by decide, by decide⟩⟩
theorem witness_MemoryStacksServe_13 : ∃ (q master : Nat) (s : State) (i : _) (due : Bool),
    (i = 8 * q + master) ∧ (due = (match tfind s.urgent i with | some t => aged s t ms | none => false)) ∧ (q < 4) ∧ ((master == 4 || master == 5) = true) ∧ (due = true) ∧ ((tfind s.urgIgnored i).isNone = true) :=
  ⟨0, 4, { wState with urgent := [(4, 0)], clk := { wState.clk with tb := 1000000 } }, _, _, ⟨rfl, rfl, by decide, by decide, by decide, by decide⟩⟩
theorem witness_MemoryStacksServe_14 : ∃ (m ch : Nat) (s : State) (k : _) (c : _) (due : _),
    (k = s.stack m) ∧ (c = k.chan ch) ∧ (due = (match c.adjust with | some t => aged s t (16 * ms) | none => true)) ∧ (stackUp s m = true) ∧ (ch < 64) ∧ (due = true) :=
  ⟨0, 0, stackState, _, _, _, ⟨rfl, rfl, rfl, by decide, by decide, by decide⟩⟩
theorem witness_IntegrityWorkRuns_1 : ∃ (kind unit : Nat) (err : BitVec 576) (s : State),
    (walks s kind unit = true) ∧ (walkCopies kind err.toNat = true) :=
  ⟨0, 0, 0, wState, ⟨by decide, by rw [show (0 : BitVec 576).toNat = 0 by simp]; decide⟩⟩
theorem witness_IntegrityWorkRuns_2 : ∃ (kind unit : Nat) (err : BitVec 576) (s : State),
    (walks s kind unit = true) ∧ (walkCopies kind err.toNat = true) :=
  ⟨0, 0, 0, wState, ⟨by decide, by rw [show (0 : BitVec 576).toNat = 0 by simp]; decide⟩⟩
theorem witness_IntegrityWorkRuns_3 : ∃ (kind unit : Nat) (pass : Bool) (s : State) (src : _),
    (src = checkerSrc kind unit) ∧ (checkerRuns s kind unit = true) :=
  ⟨6, 0, true, { State.reset with boot := { State.reset.boot with step := 3 } }, _, ⟨rfl, by decide⟩⟩
theorem witness_IntegrityWorkRuns_4 : ∃ (unit : Nat) (a b d : List Byte) (s : State) (ok : _),
    (ok = copiesAgree a b d) ∧ (s.boot.step = 2) ∧ (unit ≤ 265) ∧ ((decide (unit < 8) || decide (264 ≤ unit) || coreFitted s (unit - 8)) = true) :=
  ⟨264, [], [], [], { State.reset with boot := { State.reset.boot with step := 2 } }, _, ⟨rfl, by decide, by decide, by decide⟩⟩
theorem witness_AdminSessionsAndGroups_1 : ∃ (qu : Nat) (s : State) (sa : State) (x : Cmd) (d : _) (a : _),
    (adminStarts s qu 0x01 x = true) ∧ (sa = started x s) ∧ (d = x.desc) ∧ (a = fld d 0x10 8) ∧ (onlyAt d [(8, 1), (0xC, 4), (0x10, 8)] = true) ∧ (fld d 8 1 < 8) ∧ (a % 64 = 0) ∧ (cmdArea sa a 64 = true) ∧ ((sa.mb x.queue).st = 0) :=
  ⟨0, cmdState 1 0 [(8, 1, 7)], _, wCmd 1 0 [(8, 1, 7)], _, _, ⟨by decide, rfl, rfl, rfl, by decide, by decide, by decide, by decide, by decide⟩⟩
theorem witness_AdminSessionsAndGroups_2 : ∃ (qu : Nat) (s : State) (sa : State) (x : Cmd),
    (adminStarts s qu 0x02 x = true) ∧ (sa = started x s) ∧ (onlyAt x.desc [] = true) :=
  ⟨0, cmdState 2 0 [], _, wCmd 2 0 [], ⟨by decide, rfl, by decide⟩⟩
theorem witness_AdminSessionsAndGroups_3 : ∃ (qu : Nat) (s : State) (sa : State) (x : Cmd) (d : _) (g : _) (ks : _) (slot : _) (n : GroupS),
    (adminStarts s qu 0x03 x = true) ∧ (bit (fld x.desc 9 1) 0 = true) ∧ (sa = started x s) ∧ (d = x.desc) ∧ (g = fld d 8 1) ∧ (ks = fld d 0xA 1) ∧ (slot = (if ks = 0xFF then 0 else ks)) ∧ (n = { keySlot := slot, qmask := fld d 0xB 1, wakeUs := fld d 0xC 4 }) ∧ (onlyAt d [(8, 8)] = true) ∧ (fld d 9 1 = 1) ∧ ((ks == 0xFF || slotLoaded sa ks) = true) ∧ (1 ≤ n.qmask) ∧ (n.qmask < 16) ∧ (n.wakeUs ≤ 1000000) ∧ ((decide (0x101 ≤ verOf x) || n.wakeUs == 0) = true) ∧ ((groupUp sa g && groupSlot sa g != slot && (groupHolds sa g || groupDrill sa g)) = false) :=
  ⟨0, cmdState 3 0 [(9, 1, 1), (10, 1, 0xFF), (11, 1, 1)], _, wCmd 3 0 [(9, 1, 1), (10, 1, 0xFF), (11, 1, 1)], _, _, _, _, _, ⟨by decide, by decide, rfl, rfl, rfl, rfl, rfl, rfl, by decide, by decide, by decide, by decide, by decide, by decide, by decide, by decide⟩⟩
theorem witness_AdminSessionsAndGroups_4 : ∃ (qu : Nat) (s : State) (sa : State) (x : Cmd) (g : _) (plain : _),
    (adminStarts s qu 0x03 x = true) ∧ (bit (fld x.desc 9 1) 0 = false) ∧ (sa = started x s) ∧ (g = fld x.desc 8 1) ∧ (plain = (onlyAt x.desc [(8, 8)] && fld x.desc 9 1 == 0 && decide (fld x.desc 0xB 1 < 16) && (decide (0x101 ≤ verOf x) || fld x.desc 0xC 4 == 0))) ∧ (plain = true) ∧ (groupUp sa g = true) ∧ (groupHolds sa g = false) :=
  ⟨0, (let s := cmdState 3 0 [(8, 1, 9)]; { s with pel := { s.pel with groups := [(9, { keySlot := 0, qmask := 1, wakeUs := 0 })] } }), _, wCmd 3 0 [(8, 1, 9)], _, _, ⟨by decide, by decide, rfl, rfl, rfl, by decide, by decide, by decide⟩⟩
theorem witness_QueuesAndMappings_1 : ∃ (qu : Nat) (s : State) (sa : State) (x : Cmd) (d : _) (w : _) (v : _) (g : _) (dl : _) (a : _) (fs : _) (n : _) (k : Queue),
    (adminStarts s qu 0x04 x = true) ∧ (sa = started x s) ∧ (d = x.desc) ∧ (w = fld d 8 4) ∧ (v = fld d 0xC 4) ∧ (g = bits v 7 0) ∧ (dl = bits v 12 8) ∧ (a = fld d 0x18 8) ∧ (fs = fld d 0x20 8) ∧ (n = 64 + 32 * 2 ^ dl) ∧ (k = { group := g, depthLog2 := dl, mbMask := BitVec.ofNat 32 (fld d 0x10 4), cqAddr := a, nextSeq := BitVec.ofNat 64 fs, posted := BitVec.ofNat 64 fs, consumed := BitVec.ofNat 64 fs, st := 0, delCmd := none, ptr := 0 }) ∧ (onlyAt d [(8, 12), (0x18, 16)] = true) ∧ (0x20 ≤ w) ∧ (w < 2 ^ 20) ∧ (v < 2 ^ 13) ∧ (6 ≤ dl) ∧ (dl ≤ 16) ∧ (fld d 0x10 4 ≠ 0) ∧ (a % 64 = 0) ∧ (cmdArea sa a n = true) ∧ ((decide (0x200 ≤ verOf x) || fs == 0) = true) ∧ ((groupSlot sa g != 0 && hubArea a n) = false) ∧ (groupUp sa g = true) ∧ ((sa.queue? w).isNone = true) :=
  ⟨0, (let s := cmdState 4 0 [(8, 4, 64), (12, 4, 0x609), (16, 4, 1)]; { s with pel := { s.pel with groups := [(9, { keySlot := 0, qmask := 1, wakeUs := 0 })] } }), _, wCmd 4 0 [(8, 4, 64), (12, 4, 0x609), (16, 4, 1)], _, _, _, _, _, _, _, _, _, ⟨by decide, rfl, rfl, rfl, rfl, rfl, rfl, rfl, rfl, rfl, rfl, by decide, by decide, by decide, by decide, by decide, by decide, by decide, by decide, by decide, by decide, by decide, by decide, by decide⟩⟩
theorem witness_QueuesAndMappings_2 : ∃ (qu : Nat) (s sa : State) (x : Cmd) (w : Nat) (k : Queue),
    (adminStarts s qu 0x05 x = true) ∧ (actionOf x ≠ 1) ∧ (actionOf x ≠ 2) ∧ (sa = started x s) ∧ (w = fld x.desc 8 4) ∧ (sa.queue? w = some k) ∧ (k.st ≠ 2) ∧ (onlyAt x.desc [(8, 5)] = true) ∧ (0x20 ≤ w) ∧ (w < 2 ^ 20) ∧ (fld x.desc 0xC 1 ≤ 2) :=
  ⟨0, (let s := cmdState 5 0 [(8, 4, 64), (12, 1, 0)]; s.setQueue 64 wQueue), _, wCmd 5 0 [(8, 4, 64), (12, 1, 0)], _, wQueue, ⟨by decide, by decide, by decide, rfl, rfl, by decide, by decide, by decide, by decide, by decide, by decide⟩⟩
theorem witness_QueuesAndMappings_3 : ∃ (qu : Nat) (s sa : State) (x : Cmd) (w : Nat) (k : Queue),
    (adminStarts s qu 0x05 x = true) ∧ (actionOf x = 1) ∧ (sa = started x s) ∧ (w = fld x.desc 8 4) ∧ (sa.queue? w = some k) ∧ (onlyAt x.desc [(8, 5)] = true) ∧ (0x20 ≤ w) ∧ (w < 2 ^ 20) ∧ (fld x.desc 0xC 1 ≤ 2) :=
  ⟨0, (let s := cmdState 5 0 [(8, 4, 64), (12, 1, 1)]; s.setQueue 64 wQueue), _, wCmd 5 0 [(8, 4, 64), (12, 1, 1)], _, wQueue, ⟨by decide, by decide, rfl, rfl, by decide, by decide, by decide, by decide, by decide⟩⟩
theorem witness_QueuesAndMappings_4 : ∃ (qu : Nat) (s sa : State) (x : Cmd) (w : Nat) (k : Queue),
    (adminStarts s qu 0x05 x = true) ∧ (actionOf x = 2) ∧ (sa = started x s) ∧ (w = fld x.desc 8 4) ∧ (sa.queue? w = some k) ∧ (onlyAt x.desc [(8, 5)] = true) ∧ (0x20 ≤ w) ∧ (w < 2 ^ 20) ∧ (fld x.desc 0xC 1 ≤ 2) :=
  ⟨0, (let s := cmdState 5 0 [(8, 4, 64), (12, 1, 2)]; s.setQueue 64 wQueue), _, wCmd 5 0 [(8, 4, 64), (12, 1, 2)], _, wQueue, ⟨by decide, by decide, rfl, rfl, by decide, by decide, by decide, by decide, by decide⟩⟩
theorem witness_QueuesAndMappings_5 : ∃ (qu : Nat) (s : State) (sa : State) (x : Cmd) (d : _) (g : _) (w : _) (pg : _) (va : _) (pa : _) (n : _) (z : _) (m : Mapping) (slot : _),
    (adminStarts s qu 0x06 x = true) ∧ (sa = started x s) ∧ (d = x.desc) ∧ (g = fld d 8 1) ∧ (w = fld d 9 1) ∧ (pg = bits w 0 0) ∧ (va = fld d 0x10 8) ∧ (pa = fld d 0x18 8) ∧ (n = fld d 0x20 8) ∧ (z = pageBytes pg) ∧ (m = { group := g, va := va, pa := pa, size := n, page := pg, read := bit w 1, write := bit w 2, exec := bit w 3, cls := bits w 5 4 }) ∧ (slot = groupSlot sa g) ∧ (onlyAt d [(8, 2), (0x10, 24)] = true) ∧ (w < 64) ∧ (bits w 3 1 ≠ 0) ∧ (bits w 5 4 ≤ 2) ∧ (va % z = 0) ∧ (pa % z = 0) ∧ (n % z = 0) ∧ (0 < n) ∧ (n ≤ 2 ^ 40) ∧ (va + n ≤ 2 ^ 47) ∧ ((cmdArea sa pa n || plotsCover sa 1024 pa n) = true) ∧ ((slot != 0 && hubArea pa n) = false) ∧ (groupUp sa g = true) ∧ ((plotSlotDiffers sa pa n slot) = false) ∧ ((sa.pel.maps.any (fun y => y.group == g && overlaps y.va y.size va n)) = false) ∧ (pageEntries sa + n / z ≤ 4194304) :=
  ⟨0, (let s := cmdState 6 0 [(8, 1, 9), (9, 1, 2), (16, 8, 0x1000000), (32, 8, 65536)]; { s with pel := { s.pel with groups := [(9, { keySlot := 0, qmask := 1, wakeUs := 0 })] } }), _, wCmd 6 0 [(8, 1, 9), (9, 1, 2), (16, 8, 0x1000000), (32, 8, 65536)], _, _, _, _, _, _, _, _, _, _, ⟨by decide, rfl, rfl, rfl, rfl, rfl, rfl, rfl, rfl, rfl, rfl, rfl, by decide, by decide, by decide, by decide, by decide, by decide, by decide, by decide, by decide, by decide, by decide, by decide, by decide, by decide, by decide, by decide⟩⟩
theorem witness_QueuesAndMappings_6 : ∃ (qu : Nat) (s : State) (sa : State) (x : Cmd) (d : _) (g : _) (va : _) (n : _),
    (adminStarts s qu 0x07 x = true) ∧ (sa = started x s) ∧ (d = x.desc) ∧ (g = fld d 8 1) ∧ (va = fld d 0x10 8) ∧ (n = fld d 0x20 8) ∧ (onlyAt d [(8, 1), (0x10, 8), (0x20, 8)] = true) ∧ (va % 0x1_0000 = 0) ∧ (n % 0x1_0000 = 0) ∧ (0 < n) ∧ (n ≤ 2 ^ 40) ∧ (groupUp sa g = true) :=
  ⟨0, (let s := cmdState 7 0 [(8, 1, 9), (32, 8, 65536)]; { s with pel := { s.pel with groups := [(9, { keySlot := 0, qmask := 1, wakeUs := 0 })] } }), _, wCmd 7 0 [(8, 1, 9), (32, 8, 65536)], _, _, _, _, ⟨by decide, rfl, rfl, rfl, rfl, rfl, by decide, by decide, by decide, by decide, by decide, by decide⟩⟩
theorem witness_ContextsAreKept_1 : ∃ (qu : Nat) (s sa : State) (x : Cmd) (key : Nat),
    (adminStarts s qu 0x08 x = true) ∧ (sa = started x s) ∧ (earlierNames sa x = false) ∧ (fld x.desc 8 2 ≤ 10239) ∧ (fld x.desc 0xB 1 ≤ 1) ∧ (samplingOk (fld x.desc 0xC 4) (fld x.desc 0x18 4) (fld x.desc 0x1C 4) = true) ∧ ((fld x.desc 0xB 1 == 1 || fld x.desc 0x20 32 == 0) = true) ∧ (groupUp sa (fld x.desc 0xA 1) = true) ∧ ((tfind sa.pel.ctxs (fld x.desc 8 2)).isNone = true) ∧ (key = fld x.desc 0x20 32) :=
  ⟨0, (let s := cmdState 8 0 [(10, 1, 9), (11, 1, 1), (28, 4, 1)]; { s with pel := { s.pel with groups := [(9, { keySlot := 0, qmask := 1, wakeUs := 0 })] } }), _, wCmd 8 0 [(10, 1, 9), (11, 1, 1), (28, 4, 1)], _, ⟨by decide, rfl, by decide, by decide, by decide, by decide, by decide, by decide, by decide, rfl⟩⟩
theorem witness_ContextsAreKept_2 : ∃ (qu : Nat) (s : State) (sa : State) (x : Cmd),
    (adminStarts s qu 0x09 x = true) ∧ (sa = started x s) ∧ (onlyAt x.desc [(8, 2)] = true) ∧ (fld x.desc 8 2 ≤ 10239) ∧ ((tfind sa.pel.ctxs (fld x.desc 8 2)).isSome = true) :=
  ⟨0, (let s := cmdState 9 0 [(8, 2, 0)]; { s with pel := { s.pel with groups := [(9, { keySlot := 0, qmask := 1, wakeUs := 0 })], ctxs := [(0, wCtx)], maps := [{ wMap with group := 9 }] } }), _, wCmd 9 0 [(8, 2, 0)], ⟨by decide, rfl, by decide, by decide, by decide⟩⟩
theorem witness_ContextsAreKept_3 : ∃ (qu : Nat) (s sa : State) (x : Cmd) (c : Nat) (n : Context),
    (adminStarts s qu 0x0A x = true) ∧ (sa = started x s) ∧ (c = fld x.desc 8 2) ∧ (earlierNames sa x = false) ∧ (tfind sa.pel.ctxs c = some n) ∧ (onlyAt x.desc [(8, 2), (0xB, 1), (0x20, 32)] = true) ∧ (fld x.desc 0xB 1 ≤ 1) ∧ ((fld x.desc 0xB 1 == 1 || fld x.desc 0x20 32 == 0) = true) :=
  ⟨0, (let s := cmdState 10 0 [(11, 1, 1)]; { s with pel := { s.pel with groups := [(9, { keySlot := 0, qmask := 1, wakeUs := 0 })], ctxs := [(0, wCtx)], maps := [{ wMap with group := 9 }] } }), _, wCmd 10 0 [(11, 1, 1)], _, wCtx, ⟨by decide, rfl, rfl, by decide, rfl, by decide, by decide, by decide⟩⟩
theorem witness_ContextsAreKept_4 : ∃ (qu : Nat) (s sa : State) (x : Cmd) (a : Nat) (n : Context) (l : List (Nat × Nat)),
    (adminStarts s qu 0x0B x = true) ∧ (sa = started x s) ∧ (a = fld x.desc 0x10 8) ∧ (earlierNames sa x = false) ∧ (tfind sa.pel.ctxs (fld x.desc 8 2) = some n) ∧ (onlyAt x.desc [(8, 2), (0x10, 8)] = true) ∧ (fld x.desc 8 2 ≤ 10239) ∧ (a % 64 = 0) ∧ (virt sa n.group .write a 64 = some l) :=
  ⟨0, (let s := cmdState 11 0 [(16, 8, 0x10000)]; { s with pel := { s.pel with groups := [(9, { keySlot := 0, qmask := 1, wakeUs := 0 })], ctxs := [(0, wCtx)], maps := [{ wMap with group := 9 }] } }), _, wCmd 11 0 [(16, 8, 0x10000)], _, wCtx, [(0x10000, 64)], ⟨by decide, rfl, rfl, by decide, rfl, by decide, by decide, by decide, by decide⟩⟩
theorem witness_CarvesPinsAndRules_1 : ∃ (qu : Nat) (s : State) (sa : State) (x : Cmd) (k : _) (m : _),
    (adminStarts s qu 0x10 x = true) ∧ (sa = started x s) ∧ (k = fld x.desc 8 1) ∧ (m = fld x.desc 9 1) ∧ (onlyAt x.desc [(8, 2)] = true) ∧ (k ≤ 78) ∧ (m ≤ 1) ∧ (rangeInUse sa (k * regionSize sa) (regionSize sa) = false) :=
  ⟨0, cmdState 0x10 0 [(8, 1, 5), (9, 1, 1)], _, wCmd 0x10 0 [(8, 1, 5), (9, 1, 1)], _, _, ⟨by decide, rfl, rfl, rfl, by decide, by decide, by decide, by decide⟩⟩
theorem witness_CarvesPinsAndRules_2 : ∃ (qu : Nat) (s sa : State) (x : Cmd) (h p lim l : Nat) (hf : Half) (t : State),
    (adminStarts s qu 0x11 x = true) ∧ (sa = started x s) ∧ (h = halfOf (fld x.desc 8 1)) ∧ (p = fld x.desc 9 1) ∧ (lim = fld x.desc 0xA 1) ∧ (hf = sa.half h) ∧ (l = limitFor sa h p lim) ∧ (onlyAt x.desc [(8, 3), (0xC, 4)] = true) ∧ (fld x.desc 8 1 < 8) ∧ (p < 32) ∧ (lim ≤ sa.limit0) ∧ (thrashOk (fld x.desc 0xC 4) = true) ∧ (hf.carve = none) ∧ (hf.plots = []) ∧ (p ≤ lim) ∧ (pinsOver hf p l = false) ∧ (pinServing sa h = false) ∧ (t = sa.setHalf h { hf with plotWays := p, limit := l, thrashCfg := BitVec.ofNat 32 (fld x.desc 0xC 4), carve := some { set := 0, oldP := hf.plotWays, qu := x.queue, seq := x.seq } }) ∧ ((sa.quarter (h / 2)).st ≠ 4) :=
  ⟨0, cmdState 0x11 0 [(9, 1, 2), (10, 1, 14), (12, 4, 0x1003E880)], _, wCmd 0x11 0 [(9, 1, 2), (10, 1, 14), (12, 4, 0x1003E880)], _, _, _, _, _, _, ⟨by decide, rfl, rfl, rfl, rfl, rfl, rfl, by decide, by decide, by decide, by decide, by decide, by decide, by decide, by decide, by decide, by decide, rfl, by decide⟩⟩
theorem witness_CarvesPinsAndRules_3 : ∃ (qu : Nat) (s : State) (sa : State) (x : Cmd) (d : _) (h : _) (i : _) (o : _) (n : _) (hf : _),
    (adminStarts s qu 0x12 x = true) ∧ (sa = started x s) ∧ (d = x.desc) ∧ (h = halfOf (fld d 8 1)) ∧ (i = fld d 9 1) ∧ (o = fld d 0x10 8) ∧ (n = fld d 0x18 8) ∧ (hf = sa.half h) ∧ (onlyAt d [(8, 2), (0x10, 16)] = true) ∧ (fld d 8 1 < 8) ∧ (i < 64) ∧ (o % 0x20_0000 = 0) ∧ (n % 0x20_0000 = 0) ∧ (0 < n) ∧ (o + n ≤ hf.plotWays * 2 ^ 27) ∧ ((tfind hf.plots i).isNone = true) ∧ ((hf.plots.any (fun p => overlaps p.2.1 p.2.2.1 o n)) = false) :=
  ⟨0, (let s := cmdState 0x12 0 [(24, 8, 0x200000)]; s.setHalf 0 { s.half 0 with plotWays := 1 }), _, wCmd 0x12 0 [(24, 8, 0x200000)], _, _, _, _, _, _, ⟨by decide, rfl, rfl, rfl, rfl, rfl, rfl, rfl, by decide, by decide, by decide, by decide, by decide, by decide, by decide, by decide, by decide⟩⟩
theorem witness_CarvesPinsAndRules_4 : ∃ (qu : Nat) (s : State) (sa : State) (x : Cmd) (d : _) (h : _) (i : _) (hf : _) (p : _),
    (adminStarts s qu 0x13 x = true) ∧ (sa = started x s) ∧ (d = x.desc) ∧ (h = halfOf (fld d 8 1)) ∧ (i = fld d 9 1) ∧ (hf = sa.half h) ∧ (p = (tfind hf.plots i).getD (0, 0, none)) ∧ (onlyAt d [(8, 2)] = true) ∧ (fld d 8 1 < 8) ∧ ((tfind hf.plots i).isSome = true) ∧ (rangeInUse sa (plotAddr h p.1) p.2.1 = false) :=
  ⟨0, (let s := cmdState 0x13 0 []; s.setHalf 0 { s.half 0 with plots := [(0, 0, 0x200000, none)] }), _, wCmd 0x13 0 [], _, _, _, _, _, ⟨by decide, rfl, rfl, rfl, rfl, rfl, rfl, by decide, by decide, by decide, by decide⟩⟩
theorem witness_CarvesPinsAndRules_5 : ∃ (qu : Nat) (s : State) (sa : State) (x : Cmd) (d : _) (v : _) (n : _) (b : _) (z : _),
    (adminStarts s qu 0x14 x = true) ∧ (sa = started x s) ∧ (d = x.desc) ∧ (v = fld d 8 2) ∧ (n = bits v 11 0) ∧ (b = fld d 0x10 8) ∧ (z = fld d 0x18 8) ∧ (onlyAt d [(8, 2), (0x10, 16)] = true) ∧ (v < 2 ^ 15) ∧ (b % 0x1_0000 = 0) ∧ (z % 0x1_0000 = 0) ∧ (0x1_0000 ≤ z) ∧ (z ≤ 2 ^ 36) ∧ (b + z ≤ lpddrSize sa) ∧ ((tfind sa.pel.pins n).isNone = true) ∧ ((sa.pel.pins.any (fun e => overlaps e.2.base e.2.size b z)) = false) :=
  ⟨0, cmdState 0x14 0 [(24, 8, 65536)], _, wCmd 0x14 0 [(24, 8, 65536)], _, _, _, _, _, ⟨by decide, rfl, rfl, rfl, rfl, rfl, rfl, by decide, by decide, by decide, by decide, by decide, by decide, by decide, by decide, by decide⟩⟩
theorem witness_CarvesPinsAndRules_6 : ∃ (qu : Nat) (s : State) (sa : State) (x : Cmd) (n : _),
    (adminStarts s qu 0x15 x = true) ∧ (sa = started x s) ∧ (n = fld x.desc 8 2) ∧ (onlyAt x.desc [(8, 2)] = true) ∧ (n < 4096) ∧ ((tfind sa.pel.pins n).isSome = true) :=
  ⟨0, (let s := cmdState 0x15 0 []; { s with pel := { s.pel with pins := [(0, wPin)] } }), _, wCmd 0x15 0 [], _, ⟨by decide, rfl, rfl, by decide, by decide, by decide⟩⟩
theorem witness_CarvesPinsAndRules_7 : ∃ (qu : Nat) (s : State) (sa : State) (x : Cmd) (d : _) (q : _) (sh : _) (li : _),
    (adminStarts s qu 0x16 x = true) ∧ (sa = started x s) ∧ (d = x.desc) ∧ (q = fld d 8 1) ∧ (sh = fld d 0x10 8) ∧ (li = fld d 0x18 8) ∧ (onlyAt d [(8, 1), (0x10, 16)] = true) ∧ (q < 4) ∧ (sh < 2 ^ 48) ∧ (qosSum 6 sh ≤ 48) ∧ ((List.range 8).all (fun i => decide (1 ≤ qosField 8 li i)) = true) ∧ (8 * qosSum 8 li ≤ 4096) :=
  ⟨0, cmdState 0x16 0 [(16, 8, 0x40044082110), (24, 8, 0x220022010104080)], _, wCmd 0x16 0 [(16, 8, 0x40044082110), (24, 8, 0x220022010104080)], _, _, _, _, ⟨by decide, rfl, rfl, rfl, rfl, rfl, by decide, by decide, by decide, by decide, by decide, by decide⟩⟩
theorem witness_CarvesPinsAndRules_8 : ∃ (qu : Nat) (s : State) (sa : State) (x : Cmd) (v : _),
    (adminStarts s qu 0x17 x = true) ∧ (sa = started x s) ∧ (v = fld x.desc 8 4) ∧ (onlyAt x.desc [(8, 4)] = true) ∧ (1 ≤ bits v 31 24) ∧ (bits v 31 24 ≤ 168) ∧ (1 ≤ bits v 23 10) ∧ (bits v 23 10 ≤ 8640) ∧ (1 ≤ bits v 9 0) ∧ (bits v 9 0 ≤ 1000) :=
  ⟨0, cmdState 0x17 0 [(8, 4, 0x18001801)], _, wCmd 0x17 0 [(8, 4, 0x18001801)], _, ⟨by decide, rfl, rfl, by decide, by decide, by decide, by decide, by decide, by decide, by decide⟩⟩
theorem witness_CarvesPinsAndRules_9 : ∃ (qu : Nat) (s : State) (sa : State) (x : Cmd) (v : _),
    (adminStarts s qu 0x18 x = true) ∧ (sa = started x s) ∧ (v = fld x.desc 8 2) ∧ (onlyAt x.desc [(8, 2)] = true) ∧ (1 ≤ v) ∧ (v ≤ 3600) :=
  ⟨0, cmdState 0x18 0 [(8, 2, 60)], _, wCmd 0x18 0 [(8, 2, 60)], _, ⟨by decide, rfl, rfl, by decide, by decide, by decide⟩⟩
theorem witness_CarvesPinsAndRules_10 : ∃ (qu : Nat) (rows : List Nat) (other : Bool) (s : State) (sa : State) (x : Cmd) (n : _),
    (adminStarts s qu 0x19 x = true) ∧ (sa = started x s) ∧ (n = 64 * fld x.desc 8 1 + fld x.desc 9 1) ∧ (onlyAt x.desc [(8, 2)] = true) ∧ (fld x.desc 8 1 < 4) ∧ (fld x.desc 9 1 < 64) ∧ (coreFencedUp sa n = true) ∧ (heldFenced sa n = false) :=
  ⟨0, [], false, (let s := cmdState 0x19 0 []; s.setCore 0 { s.core 0 with fenced := true }), _, wCmd 0x19 0 [], _, ⟨by decide, rfl, rfl, by decide, by decide, by decide, by decide, by decide⟩⟩
theorem witness_CarvesPinsAndRules_11 : ∃ (qu : Nat) (s : State) (sa : State) (x : Cmd) (d : _) (i : _) (r : _) (valid : _) (n : Rule),
    (adminStarts s qu 0x1A x = true) ∧ (sa = started x s) ∧ (d = x.desc) ∧ (i = fld d 8 1) ∧ (r = slice d 0x20 32) ∧ (valid = bit (fld r 0 1) 0) ∧ (n = { valid := valid, read := bit (fld r 0 1) 1, write := bit (fld r 0 1) 2, atomic := bit (fld r 0 1) 3, keySlot := fld r 1 1, gbase := fld r 8 8, mbase := fld r 0x10 8, size := fld r 0x18 8 }) ∧ (is4G sa = true) ∧ (onlyAt d [(8, 1), (0x20, 32)] = true) ∧ (i < 64) ∧ (ruleOk sa r = true) ∧ ((valid && sa.guest.rules.any (fun e => e.1 != i && e.2.valid && overlaps e.2.gbase e.2.size n.gbase n.size)) = false) :=
  ⟨0, (let s := cmdState 0x1A 0 []; { s with fuse := { s.fuse with part := .g4 } }), _, wCmd 0x1A 0 [], _, _, _, _, _, ⟨by decide, rfl, rfl, rfl, rfl, rfl, rfl, by decide, by decide, by decide, by decide, by decide⟩⟩
theorem witness_CarvesPinsAndRules_12 : ∃ (qu : Nat) (s : State) (sa : State) (x : Cmd),
    (adminStarts s qu 0x1B x = true) ∧ (sa = started x s) ∧ (is4G sa = true) ∧ (onlyAt x.desc [] = true) :=
  ⟨0, (let s := cmdState 0x1B 0 []; { s with fuse := { s.fuse with part := .g4 } }), _, wCmd 0x1B 0 [], ⟨by decide, rfl, by decide, by decide⟩⟩
theorem witness_MailboxesAndKeys_1 : ∃ (mb : Nat) (v : BitVec 66) (s : State),
    (inService s = true) ∧ (mb < 32) :=
  ⟨0, 0, wState, ⟨by decide, by decide⟩⟩
theorem witness_MailboxesAndKeys_2 : ∃ (mb : Nat) (v : BitVec 32) (s : State),
    (inService s = true) ∧ (mb < 32) :=
  ⟨0, 0, wState, ⟨by decide, by decide⟩⟩
theorem witness_MailboxesAndKeys_3 : ∃ (mb : Nat) (v : BitVec 32) (s : State),
    (inService s = true) ∧ (mb < 32) :=
  ⟨0, 0, wState, ⟨by decide, by decide⟩⟩
theorem witness_MailboxesAndKeys_4 : ∃ (qu : Nat) (s : State) (sa : State) (x : Cmd),
    (adminStarts s qu 0x1C x = true) ∧ (fld x.desc 9 1 ≠ 1) ∧ (sa = started x s) ∧ (keySlotOk sa x.desc = true) :=
  ⟨0, (let s := cmdState 0x1C 0 [(8, 1, 1)]; s), _, wCmd 0x1C 0 [(8, 1, 1)], ⟨by decide, by decide, rfl, by decide⟩⟩
theorem witness_MailboxesAndKeys_5 : ∃ (qu : Nat) (s : State) (sa : State) (x : Cmd),
    (adminStarts s qu 0x1C x = true) ∧ (fld x.desc 9 1 = 1) ∧ (sa = started x s) ∧ (keySlotOk sa x.desc = true) ∧ (slotUsed sa (fld x.desc 8 1) = false) :=
  ⟨0, (let s := cmdState 0x1C 0 [(8, 1, 1), (9, 1, 1)]; s), _, wCmd 0x1C 0 [(8, 1, 1), (9, 1, 1)], ⟨by decide, by decide, rfl, by decide, by decide⟩⟩
theorem witness_MailboxesAndKeys_6 : ∃ (qu spoil : Nat) (flashFail : Bool) (s : State) (sa : State) (x : Cmd) (d : _) (a : _) (cert : _),
    (adminStarts s qu 0x1D x = true) ∧ (sa = started x s) ∧ (d = x.desc) ∧ (a = fld d 0x10 8) ∧ (cert = bit (fld d 8 4) 0) ∧ (onlyAt d [(8, 4), (0x10, 8), (0x20, 32)] = true) ∧ (fld d 8 4 ≤ 1) ∧ (a % 4096 = 0) ∧ (cmdArea sa a 16384 = true) :=
  ⟨0, 0, false, (let s := cmdState 0x1D 0 []; s), _, wCmd 0x1D 0 [], _, _, _, ⟨by decide, rfl, rfl, rfl, rfl, by decide, by decide, by decide, by decide⟩⟩
theorem witness_WorkCommandsRun_1 : ∃ (qu : Nat) (s sa : State) (x : Cmd) (r : Run) (c : List Nat),
    (workStarts s qu 0x40 x = true) ∧ (sa = started x s) ∧ (r = launchRun x (queueGroup s x.queue)) ∧ (c = placement s r.qmask) ∧ (earlierNames s x = false) ∧ (launchOk s x r = true) ∧ (c ≠ []) ∧ (ctxCount x ≤ 32 * c.length) ∧ (stookFits r = true) :=
  ⟨32, launchState, _, wCmd 0x40 32 launchFields, _, _, ⟨by decide, rfl, rfl, rfl, by decide, by decide, by decide, by decide, by decide⟩⟩
theorem witness_WorkCommandsRun_2 : ∃ (qu : Nat) (s : State) (x : Cmd),
    (workStarts s qu 0x41 x = true) ∧ (onlyAt x.desc [(0x10, 24)] = true) ∧ (fld x.desc 0x10 8 % 64 = 0) ∧ (fld x.desc 0x18 8 % 64 = 0) ∧ (fld x.desc 0x20 8 % 64 = 0) ∧ (fld x.desc 0x20 8 ≤ 2 ^ 40) :=
  ⟨32, cmdState 0x41 32 [(32, 8, 64)], wCmd 0x41 32 [(32, 8, 64)], ⟨by decide, by decide, by decide, by decide, by decide, by decide⟩⟩
theorem witness_WorkCommandsRun_3 : ∃ (qu : Nat) (s : State) (x : Cmd),
    (workStarts s qu 0x42 x = true) ∧ (onlyAt x.desc [] = true) :=
  ⟨32, cmdState 0x42 32 [], wCmd 0x42 32 [], ⟨by decide, by decide⟩⟩
theorem witness_WorkCommandsRun_4 : ∃ (qu seq : Nat) (s t : State) (rest : List (Nat × Nat)) (x : Cmd),
    (s.pel.flagQueue = (qu, seq) :: rest) ∧ (t = { s with pel := { s.pel with flagQueue := rest } }) ∧ (findCmd s qu seq = some x) ∧ (x.waitFlags = true) ∧ (inService s = true) ∧ ((takeFlags x t).1 = true) :=
  ⟨32, 0, (let s := launchState; { s with pel := { s.pel with flagQueue := [(32, 0)], cmds := [{ wCmd 0x40 32 launchFields with waitFlags := true }] } }), _, [], { wCmd 0x40 32 launchFields with waitFlags := true }, ⟨by decide, rfl, rfl, by decide, by decide, by decide⟩⟩
theorem witness_WorkCommandsRun_5 : ∃ (qu seq : Nat) (s : State) (x : Cmd) (st : Nat),
    (findCmd s qu seq = some x) ∧ (freeStage s = some st) ∧ (inService s = true) ∧ (32 ≤ qu) ∧ (x.st = .accepted) ∧ (x.start.isSome = true) ∧ (x.waitFlags = false) ∧ (retryDue s x = true) :=
  ⟨32, 0, (let s := launchState; { s with pel := { s.pel with runs := [], stages := [], cmds := [{ wCmd 0x40 32 launchFields with first := some 0, start := some 0 }] } }), { wCmd 0x40 32 launchFields with first := some 0, start := some 0 }, 0, ⟨rfl, free_stage rfl, by decide, by decide, by decide, by decide, by decide, rfl⟩⟩
theorem witness_WorkCommandsRun_6 : ∃ (qu seq : Nat) (s t u : State) (x : Cmd) (st : Nat),
    (findCmd s qu seq = some x) ∧ (freeStage s = some st) ∧ (inService s = true) ∧ (32 ≤ qu) ∧ (x.st = .accepted) ∧ (x.first.isSome = true) ∧ (x.start.isNone = true) ∧ (opOf x = 0x40) ∧ ((takeFlags x s).1 = true) ∧ (retryDue s x = true) ∧ (t = modCmd qu seq (fun y => { y with start := some (now s) }) (takeFlags x s).2) ∧ (u = beginRun x s.pel.launchCtr.toNat st t) ∧ ((findCmd u qu seq).any (fun y => decide (y.st ≠ .accepted)) = true) :=
  ⟨32, 0, (let s := launchState; { s with pel := { s.pel with runs := [], stages := [], cmds := [{ wCmd 0x40 32 launchFields with first := some 0, start := none }] } }), _, _, { wCmd 0x40 32 launchFields with first := some 0 }, 0, ⟨rfl, free_stage rfl, by decide, by decide, by decide, by decide, by decide, by decide, by decide, rfl, rfl, rfl, by decide⟩⟩
theorem witness_WorkCommandsRun_7 : ∃ (qu seq : Nat) (s : State) (x : Cmd) (launch : Nat) (r : Run) (st : Nat),
    (findCmd s qu seq = some x) ∧ (runOfCmd s x = some (launch, r)) ∧ (r.stage = some st) ∧ (inService s = true) ∧ (x.st = .running) ∧ (r.left = 0) ∧ (reqDue (ofStage st) s = false) ∧ (retryDue s x = true) :=
  ⟨32, 0, (let s := cmdState 0x40 32 launchFields; { s with pel := { s.pel with runs := [(1, { wRun with queue := 32, left := 0 })], cmds := [{ wCmd 0x40 32 launchFields with st := .running }] } }), { wCmd 0x40 32 launchFields with st := .running }, 1, { wRun with queue := 32, left := 0 }, 0, ⟨rfl, rfl, by decide, by decide, by decide, by decide, by decide, rfl⟩⟩
theorem witness_WorkCommandsRun_8 : ∃ (qu seq : Nat) (s : State) (x : Cmd),
    (findCmd s qu seq = some x) ∧ (inService s = true) ∧ (x.st ≠ .ended) ∧ (heldFor s x.start (timeoutNs x) = true) :=
  ⟨32, 0, (let s := cmdState 0x42 32 [(2, 2, 1)]; { s with pel := { s.pel with cmds := [{ wCmd 0x42 32 [(2, 2, 1)] with start := some 0 }] }, clk := { s.clk with tb := 1000000 } }), { wCmd 0x42 32 [(2, 2, 1)] with start := some 0 }, ⟨rfl, by decide, by decide, by decide⟩⟩
theorem witness_WorkCommandsRun_9 : ∃ (qu seq : Nat) (s : State) (x : Cmd),
    (findCmd s qu seq = some x) ∧ (inService s = true) ∧ (heldFor s x.readAt ms = true) :=
  ⟨32, 0, (let s := cmdState 0x42 32 []; { s with pel := { s.pel with cmds := [{ wCmd 0x42 32 [] with readAt := some 0 }] }, clk := { s.clk with tb := 1000000 } }), { wCmd 0x42 32 [] with readAt := some 0 }, ⟨rfl, by decide, by decide⟩⟩
theorem witness_WorkCommandsRun_10 : ∃ (qu : Nat) (s : State) (x : Cmd),
    (s.pel.cmds.find? (fun x => x.queue == qu) = some x) ∧ (inService s = true) ∧ (x.st = .ended) ∧ (retryDue s x = true) :=
  ⟨32, (let s := cmdState 0x42 32 []; { s with pel := { s.pel with cmds := [{ wCmd 0x42 32 [] with st := .ended }] } }), { wCmd 0x42 32 [] with st := .ended }, ⟨rfl, by decide, by decide, by decide⟩⟩
theorem witness_PortsServe_1 : ∃ (p : Nat) (s : State),
    (p < 8) ∧ (portTraining s p = true) ∧ (aged s (s.port p).trySince (500 * ms) = true) :=
  ⟨0, portAt 0 500000000, ⟨by decide, by decide, by decide⟩⟩
theorem witness_PortsServe_2 : ∃ (s : State),
    (portTraining s 8 = true) ∧ (aged s (s.port 8).trySince sec1 = true) :=
  ⟨portAt 0 1000000000, ⟨by decide, by decide⟩⟩
theorem witness_PortsServe_3 : ∃ (p : Nat) (s : State),
    (p < 9) ∧ (portTraining s p = true) :=
  ⟨0, portAt 0 0, ⟨by decide, by decide⟩⟩
theorem witness_PortsServe_4 : ∃ (p : Nat) (s : State) (x : _),
    (x = s.port p) ∧ (p < 9) ∧ (portTraining s p = true) ∧ (x.alarmed = false) ∧ (aged s x.trainSince (10 * sec1) = true) :=
  ⟨0, portAt 0 10000000000, _, ⟨rfl, by decide, by decide, by decide, by decide⟩⟩
theorem witness_PortsServe_5 : ∃ (p uncorr : Nat) (s : State),
    (p < 9) ∧ (portUp s p = true) :=
  ⟨0, 0, portAt 1 0, ⟨by decide, by decide⟩⟩
theorem witness_PortsServe_6 : ∃ (p : Nat × Nat) (frame : List Byte) (s : State),
    (p.1 < 9) ∧ (portUp s p.1 = true) ∧ (frame.length ≤ 9216) :=
  ⟨(0, 0), [], portAt 1 0, ⟨by decide, by decide, by decide⟩⟩
theorem witness_PortsServe_7 : ∃ (p prio : Nat) (pause : Bool) (s : State) (x : _) (y : Port),
    (x = s.port p) ∧ (y = (if x.ignored.contains prio then
        match pause, tfind x.released prio with
        | false, none => { x with released := tput x.released prio (now s) }
        | false, some _ => x
        | true, none => x
        | true, some t =>
          if aged s t (10 * us) then
            { x with ignored := ldel x.ignored prio, released := tdel x.released prio, paused := tput x.paused prio (now s) }
          else { x with released := tdel x.released prio }
      else if pause then (if (tfind x.paused prio).isSome then x else { x with paused := tput x.paused prio (now s) })
      else { x with paused := tdel x.paused prio })) ∧ (p < 9) ∧ (prio < 8) ∧ (portUp s p = true) :=
  ⟨0, 0, true, portAt 1 0, _, _, ⟨rfl, rfl, by decide, by decide, by decide⟩⟩
theorem witness_PortsServe_8 : ∃ (p prio : Nat) (s : State) (x : _),
    (x = s.port p) ∧ (p < 9) ∧ (portUp s p = true) ∧ (heldFor s (tfind x.paused prio) (100 * ms) = true) :=
  ⟨0, 0, (let s := portAt 1 100000000; s.setPort 0 { s.port 0 with paused := [(0, 0)] }), _, ⟨rfl, by decide, by decide, by decide⟩⟩
theorem witness_PortsServe_9 : ∃ (p r : Nat) (v : BitVec 64) (s : State),
    (inService s = true) ∧ (p < 9) ∧ (r < 16) :=
  ⟨0, 0, 0, wState, ⟨by decide, by decide, by decide⟩⟩
theorem witness_PortsServe_10 : ∃ (p r : Nat) (s : State) (x : _) (a : _) (d : _) (len : _) (m : _) (frame : _) (prio : _),
    (x = s.port p) ∧ (a = x.descAt r (x.tail r)) ∧ (d = (cohRead s none a 16).1) ∧ (len = fld d 6 2) ∧ (m = portMaster p) ∧ (frame = (slotRead s 0 (fld d 0 6) (len / 64 + 2) len).1) ∧ (prio = framePrio frame) ∧ (inService s = true) ∧ (p < 9) ∧ (8 ≤ r) ∧ (r < 16) ∧ (portUp s p = true) ∧ (x.ringOn r = true) ∧ (x.tail r ≠ x.head r) ∧ ((tfind x.paused prio).isNone = true) :=
  ⟨0, 8, (let s := portAt 1 0; s.setPort 0 { s.port 0 with ringCfg := [(8, 0x8000000000000000)], ringHead := [(8, 1)] }), _, _, _, _, _, _, _, ⟨rfl, rfl, rfl, rfl, rfl, rfl, rfl, by decide, by decide, by decide, by decide, by decide, by decide, by decide, by decide⟩⟩
theorem witness_PortsServe_11 : ∃ (off : Nat) (v : BitVec 64) (s : State),
    (inService s = true) ∧ (off < 2048) ∧ (off % 8 = 0) :=
  ⟨0, 0, wState, ⟨by decide, by decide, by decide⟩⟩
theorem witness_PortsServe_12 : ∃ (off : Nat) (v : BitVec 64) (s : State),
    (inService s = true) ∧ (off < 65536) ∧ (off % 8 = 0) :=
  ⟨0, 0, wState, ⟨by decide, by decide, by decide⟩⟩
theorem witness_PortsServe_13 : ∃ (p : Nat) (ptp : BitVec 64) (rate : Int) (s : State) (f : _) (st : _) (far : _) (off : _),
    (f = s.fab) ∧ (st = (if f.timeSt = 0 then 1 else 2)) ∧ (far = decide (1000000 < (ptpError s ptp).natAbs)) ∧ (off = (if f.timeSt = 1 ∨ (2 ≤ f.timeSt ∧ far) then ptp - now s else f.ptpOffset)) ∧ (hubRuns s = true) ∧ ((timeSource s == 1 || timeSource s == 3) = true) ∧ (p = timePort s) ∧ (portUp s p = true) :=
  ⟨0, 0, 0, (let s := portAt 1 0; { s with fab := { s.fab with timeCfg := 1 } }), _, _, _, _, ⟨rfl, rfl, rfl, rfl, by decide, by decide, by decide, by decide⟩⟩
theorem witness_PortsServe_14 : ∃ (s : State),
    ((timeSource s == 1 || timeSource s == 3) = true) ∧ ((s.fab.timeSt == 1 || s.fab.timeSt == 2) = true) ∧ (heldFor s s.fab.ptpLast (10 * sec1) = true) :=
  ⟨(let s := portAt 1 10000000000; { s with fab := { s.fab with timeCfg := 1, timeSt := 1, ptpLast := some 0 } }), ⟨by decide, by decide, by decide⟩⟩
theorem witness_PortsServe_15 : ∃ (s : State) (f : _) (s1 : _),
    (f = s.fab) ∧ (s1 = { s with fab := { f with ppsLast := some (now s), ppsOk := true } }) ∧ (hubRuns s = true) :=
  ⟨portAt 1 0, _, _, ⟨rfl, rfl, by decide⟩⟩
theorem witness_PortsServe_16 : ∃ (s : State),
    (s.fab.ppsOk = true) ∧ (heldFor s s.fab.ppsLast (2 * sec1) = true) :=
  ⟨(let s := portAt 1 2000000000; { s with fab := { s.fab with ppsOk := true, ppsLast := some 0 } }), ⟨by decide, by decide⟩⟩
theorem witness_DrillFramesAct_1 : ∃ (frame : List Byte) (s t : State) (x : Frame) (c : Conn),
    (inService s = true) ∧ (fld frame 1 1 = 0x10) ∧ (frameOpen s frame = some x) ∧ (t = frameIn x s) ∧ (connOf t x.conn = some c) :=
  ⟨wFrame 0x10 [161, 108, 37, 43, 33, 200, 214, 239, 56, 220, 26, 161, 1, 20, 115, 80], connState, _, { conn := 0, head := (wFrame 0x10 []).take 48, pay := [] }, { wConn with ctrIn := some 0 }, ⟨by decide, by decide, by decide +kernel, rfl, by decide +kernel⟩⟩
theorem witness_DrillFramesAct_2 : ∃ (frame : List Byte) (s t : State) (x : Frame) (c : Conn),
    (inService s = true) ∧ (fld frame 1 1 = 0x11) ∧ (frameOpen s frame = some x) ∧ (t = frameIn x s) ∧ (connOf t x.conn = some c) :=
  ⟨wFrame 0x11 [55, 231, 233, 209, 131, 197, 22, 49, 42, 35, 232, 218, 97, 80, 42, 242], connState, _, { conn := 0, head := (wFrame 0x11 []).take 48, pay := [] }, { wConn with ctrIn := some 0 }, ⟨by decide, by decide, by decide +kernel, rfl, by decide +kernel⟩⟩
theorem witness_DrillFramesAct_3 : ∃ (frame : List Byte) (s t : State) (x : Frame) (c : Conn),
    (inService s = true) ∧ (fld frame 1 1 = 0x20) ∧ (frameOpen s frame = some x) ∧ (t = frameIn x s) ∧ (connOf t x.conn = some c) :=
  ⟨wFrame 0x20 [48, 169, 117, 213, 64, 172, 192, 204, 72, 221, 114, 123, 13, 218, 221, 36], connState, _, { conn := 0, head := (wFrame 0x20 []).take 48, pay := [] }, { wConn with ctrIn := some 0 }, ⟨by decide, by decide, by decide +kernel, rfl, by decide +kernel⟩⟩
theorem witness_DrillFramesAct_4 : ∃ (frame : List Byte) (s t : State) (x : Frame) (c : Conn),
    (inService s = true) ∧ (fld frame 1 1 = 0x21) ∧ (frameOpen s frame = some x) ∧ (t = frameIn x s) ∧ (connOf t x.conn = some c) :=
  ⟨wFrame 0x21 [166, 34, 185, 47, 226, 161, 0, 18, 90, 34, 128, 0, 109, 158, 132, 134], connState, _, { conn := 0, head := (wFrame 0x21 []).take 48, pay := [] }, { wConn with ctrIn := some 0 }, ⟨by decide, by decide, by decide +kernel, rfl, by decide +kernel⟩⟩
theorem witness_DrillFramesAct_5 : ∃ (frame : List Byte) (s t : State) (x : Frame) (c : Conn),
    (inService s = true) ∧ (fld frame 1 1 = 0x31) ∧ (frameOpen s frame = some x) ∧ (t = frameIn x s) ∧ (connOf t x.conn = some c) :=
  ⟨wFrame 0x31 [214, 158, 118, 133, 194, 125, 13, 243, 117, 221, 167, 182, 105, 219, 30, 170], connState, _, { conn := 0, head := (wFrame 0x31 []).take 48, pay := [] }, { wConn with ctrIn := some 0 }, ⟨by decide, by decide, by decide +kernel, rfl, by decide +kernel⟩⟩
theorem witness_DrillFramesAct_6 : ∃ (frame : List Byte) (s t : State) (x : Frame) (c : Conn),
    (inService s = true) ∧ (fld frame 1 1 = 0x03) ∧ (frameOpen s frame = some x) ∧ (t = frameIn x s) ∧ (connOf t x.conn = some c) :=
  ⟨wFrame 0x03 [168, 76, 191, 142, 231, 2, 154, 108, 32, 35, 43, 154, 165, 157, 3, 155], connState, _, { conn := 0, head := (wFrame 0x03 []).take 48, pay := [] }, { wConn with ctrIn := some 0 }, ⟨by decide, by decide, by decide +kernel, rfl, by decide +kernel⟩⟩
theorem witness_DrillFramesAct_7 : ∃ (peer : BitVec 128) (v4 : Bool) (msg : List Byte) (s : State) (e ver : Nat) (pay : List Byte),
    (inService s = true) ∧ (fld msg 1 1 = 0x01) ∧ (lisBest s peer.toNat v4 = some e) ∧ (pay = msg.drop 48) ∧ ((msg.length == 48 + 1632 && frLen msg == 1632 && fld msg 4 4 == 0) = true) ∧ ((mbBound s (lisFld s e 1 1 % 32) || decide (4096 ≤ (s.fab.conns.filter (fun c => c.2.pending.isNone)).length) ||
      decide (256 ≤ (s.fab.conns.filter (fun c => c.2.pending.isSome)).length)) = false) ∧ (commonVersion (fld pay 0 1) (lisFld s e 4 1) = some ver) ∧ ((s.sec.ek.isEmpty || (pay.drop 0x28).take 8 != (ekDigest s).take 8) = false) ∧ (((pay.drop 0x650).take 16 != (if (if bit (lisFld s e 0 1) 2 then groupSlot s (lisFld s e 2 1) else 0) = 0 then List.replicate 16 0
      else authOf s (if bit (lisFld s e 0 1) 2 then groupSlot s (lisFld s e 2 1) else 0) (msg.take (48 + 0x650)))) = false) :=
  ⟨0, false, wConnect, connectState, 0, 2, _, ⟨by decide, by decide +kernel, by decide +kernel, rfl, by decide +kernel, by decide, by decide +kernel, by decide +kernel, by decide +kernel⟩⟩
theorem witness_DrillFramesAct_8 : ∃ (conn flow : Nat) (s : State) (c : Conn) (f : _) (l : _) (f1 : _),
    (connOf s conn = some c) ∧ (f = c.flow flow) ∧ (l = (f.unacked.take 256).filter (fun m => c.version == 1 || !m.2.2.2)) ∧ (f1 = { f with interval := min (2 * f.interval) 10000, resends := f.resends + 1, since := now s }) ∧ (f.unacked.isEmpty = false) ∧ (aged s f.since (f.interval * us) = true) :=
  ⟨0, 0, (let s := connState; putConn 0 (wConn.setFlow 0 { wConn.flow 0 with unacked := [(0, 0x20, [], false)] }) { s with clk := { s.clk with tb := 1000000 } }), wConn.setFlow 0 { wConn.flow 0 with unacked := [(0, 0x20, [], false)] }, _, _, _, ⟨rfl, rfl, rfl, rfl, by decide, by decide⟩⟩
theorem witness_DrillFramesAct_9 : ∃ (conn : Nat) (s : State) (c : Conn),
    (connOf s conn = some c) ∧ (heldFor s c.pending (100 * ms) = true) :=
  ⟨0, (let s := connState; putConn 0 { wConn with pending := some 0 } { s with clk := { s.clk with tb := 100000000 } }), { wConn with pending := some 0 }, ⟨rfl, by decide⟩⟩
theorem witness_RoceMessagesAct_1 : ∃ (qp psn : Nat) (rkey : BitVec 32) (va : BitVec 64) (data : List Byte) (s : State),
    (inService s = true) ∧ (qpReady s qp = true) :=
  ⟨0, 0, 0, 0, [], qpState, ⟨by decide, by decide⟩⟩
theorem witness_RoceMessagesAct_2 : ∃ (qp psn : Nat) (rkey : BitVec 32) (va : BitVec 64) (len : Nat) (s : State),
    (inService s = true) ∧ (qpReady s qp = true) :=
  ⟨0, 0, 0, 0, 0, qpState, ⟨by decide, by decide⟩⟩
theorem witness_RoceMessagesAct_3 : ∃ (p qp psn : Nat) (data : List Byte) (s : State) (x : _) (d : _) (s1 : _),
    (x = s.qp qp) ∧ (d = (BitVec.ofNat 24 psn - x.recvPsn).toNat) ∧ (s1 = s.setQp qp { x with recvPsn := x.recvPsn + BitVec.ofNat 24 (rocePkts data.length) }) ∧ (inService s = true) ∧ (qpReady s qp = true) ∧ ((s.port p).st = 1) ∧ (p < 8) :=
  ⟨0, 0, 0, [], qpState, _, _, _, ⟨rfl, rfl, rfl, by decide, by decide, by decide, by decide⟩⟩
theorem witness_RoceMessagesAct_4 : ∃ (qp : Nat) (s : State) (x : _),
    (x = s.qp qp) ∧ (qpReady s qp = true) :=
  ⟨0, qpState, _, ⟨rfl, by decide⟩⟩
theorem witness_RoceMessagesAct_5 : ∃ (qp : Nat) (s : State) (x : _),
    (x = s.qp qp) ∧ (qpReady s qp = true) ∧ (x.rate < 65536) ∧ (aged s x.cnpAt (55 * us) = true) :=
  ⟨0, (let s := qpState.setQp 0 { qpState.qp 0 with rate := 32768 }; { s with clk := { s.clk with tb := 55000 } }), _, ⟨rfl, by decide, by decide, by decide⟩⟩
theorem witness_RoceMessagesAct_6 : ∃ (qp kind psn : Nat) (s : State) (x : _) (p : _) (left : _) (y : _),
    (x = s.qp qp) ∧ (p = BitVec.ofNat 24 psn) ∧ (left = x.sends.filter (fun m => decide ((m.1 - p).toNat < 2 ^ 23) && !(kind == 0 && m.1 == p))) ∧ (y = { x with sends := left, retries := 0, rnr := 0, rnrTimer := none, timer := if left.isEmpty then none else some (now s) }) ∧ (qpReady s qp = true) ∧ (x.sends.isEmpty = false) :=
  ⟨0, 0, 0, qpState.setQp 0 { qpState.qp 0 with sends := [(0, [])] }, _, _, _, _, ⟨rfl, rfl, rfl, rfl, by decide, by decide⟩⟩
theorem witness_RoceMessagesAct_7 : ∃ (qp : Nat) (s : State) (x : Qp),
    (x = s.qp qp) ∧ (qpReady s qp = true) ∧ (heldFor s x.rnrTimer (100 * us) = true) :=
  ⟨0, (let s := qpState.setQp 0 { qpState.qp 0 with rnrTimer := some 0 }; { s with clk := { s.clk with tb := 100000 } }), _, ⟨rfl, by decide, by decide⟩⟩
theorem witness_RoceMessagesAct_8 : ∃ (qp : Nat) (s : State) (x : Qp),
    (x = s.qp qp) ∧ (qpReady s qp = true) ∧ (heldFor s x.rnrTimer (100 * us) = false) ∧ (heldFor s x.timer ms = true) :=
  ⟨0, (let s := qpState.setQp 0 { qpState.qp 0 with timer := some 0 }; { s with clk := { s.clk with tb := 1000000 } }), _, ⟨rfl, by decide, by decide, by decide⟩⟩
theorem witness_LogsAlarmsAndTelemetryRun_1 : ∃ (sev src code : Nat) (payload : List Byte) (s : State),
    logCodeOk code sev payload = true :=
  ⟨3, 0, 0x8300, List.replicate 16 0, wState, by decide⟩
theorem witness_LogsAlarmsAndTelemetryRun_2 : ∃ (s : State),
    (pelsesoRuns s = true) ∧ ((!s.wdr.staging.isEmpty || !s.wdr.lossSince.isEmpty) = true) :=
  ⟨{ wState with wdr := { wState.wdr with lossSince := [(0, 1)] } }, ⟨by decide, by decide⟩⟩
theorem witness_LogsAlarmsAndTelemetryRun_3 : ∃ (code src : Nat) (detail : List Byte) (s : State),
    (1 ≤ code % 256) ∧ (code % 256 ≤ alarmEvents (code / 256)) :=
  ⟨0x0101, 0, [], wState, ⟨by decide, by decide⟩⟩
theorem witness_LogsAlarmsAndTelemetryRun_4 : ∃ (s : State),
    newSecond s s.wdr.resendAt = true :=
  ⟨{ wState with clk := { wState.clk with tb := 1000000000 } }, by decide⟩
theorem witness_LogsAlarmsAndTelemetryRun_5 : ∃ (i : Nat) (s : State) (a : Alarm),
    (tfind s.wdr.alarms i = some a) ∧ (a.closed = false) ∧ (aged s a.last (10 * sec1) = true) :=
  ⟨0, { wState with wdr := { wState.wdr with alarms := [(0, wAlarm)] }, clk := { wState.clk with tb := 10000000000 } }, wAlarm, ⟨rfl, by decide, by decide⟩⟩
theorem witness_LogsAlarmsAndTelemetryRun_6 : ∃ (s : State),
    (s.port 8).st = 1 :=
  ⟨wState.setPort 8 { wState.port 8 with st := 1 }, by decide⟩
theorem witness_LogsAlarmsAndTelemetryRun_7 : ∃ (kind : Nat) (s : State),
    (pelsesoRuns s = true) ∧ (s.mgmt.collector.isSome = true) :=
  ⟨1, { wState with mgmt := { wState.mgmt with collector := some (0, 0) } }, ⟨by decide, by decide⟩⟩
theorem witness_LogsAlarmsAndTelemetryRun_8 : ∃ (coll typ src : Nat) (data : BitVec 128) (s : State) (key : _) (n : _) (s1 : _),
    (key = 16 * src + typ) ∧ (n = tget 0 s.wdr.traceCount key) ∧ (s1 = { s with wdr := { s.wdr with traceCount := tset 0 s.wdr.traceCount key (n + 1) } }) ∧ (coll < 5) ∧ (1 ≤ typ) ∧ (typ ≤ 8) ∧ (bit s.wdr.traceCfg.toNat (typ - 1) = true) ∧ (s.wdr.traceStopped = false) :=
  ⟨0, 1, 0, 0, { wState with wdr := { wState.wdr with traceCfg := 1 } }, _, _, _, ⟨rfl, rfl, rfl, by decide, by decide, by decide, by decide, by decide⟩⟩
theorem witness_LogsAlarmsAndTelemetryRun_9 : ∃ (v : BitVec 32) (s : State),
    (s.boot.step = 6) ∧ (s.boot.lost = false) :=
  ⟨0, wState, ⟨by decide, by decide⟩⟩
theorem witness_LogsAlarmsAndTelemetryRun_10 : ∃ (s : State),
    newSecond s s.wdr.snapStamp = true :=
  ⟨{ wState with clk := { wState.clk with tb := 1000000000 } }, by decide⟩
theorem witness_RegistersAndIdentity_1 : ∃ (off width : Nat) (v : BitVec 64) (s : State),
    (inService s = true) ∧ (off < 0x1000_0000) :=
  ⟨0, 4, 0, wState, ⟨by decide, by decide⟩⟩
theorem witness_RegistersAndIdentity_2 : ∃ (core : Nat) (write : Bool) (addr width : Nat) (v : BitVec 512) (err : BitVec 78) (s : State) (x : _) (unit : _) (ps : _) (s1 : _) (full : _),
    (x = s.osCore core) ∧ (unit = (match place s addr with | .guest _ => 8 | _ => 64)) ∧ (ps = accessParts 9 unit addr width 0) ∧ (s1 = s.setOs core { data := if write then x.data else 0, fault := false, poison := false, await := [] }) ∧ (full = (ps.any (fun p => match place s p.1 with | .guest _ => true | _ => false) && decide (256 < s.guest.outReqs.length + ps.length))) ∧ (inService s = true) ∧ (core < 16) ∧ (x.await.isEmpty = true) ∧ (full = false) ∧ (oneCopy (bits err.toNat 77 72) = true) :=
  ⟨0, false, 0x20000000000, 8, 0, 0, wState, _, _, _, _, _, ⟨rfl, rfl, rfl, rfl, rfl, by decide, by decide, by decide, by decide, by decide⟩⟩
theorem witness_RegistersAndIdentity_3 : ∃ (off width : Nat) (s : State) (r : _) (s1 : _),
    (r = ctrlRead s off width) ∧ (s1 = (if r.2 then logStray 0 (ctrlBase + off) width false s else s)) ∧ (hubRuns s = true) ∧ (s.fuse.loaded = true) ∧ (s.fuse.debugOff = false) ∧ (s.fuse.lifecycle = 0) :=
  ⟨0, 4, { wState with fuse := { wState.fuse with loaded := true, debugOff := false, lifecycle := 0 }, clk := { wState.clk with pllLocked := true } }, _, _, ⟨rfl, rfl, by decide, by decide, by decide, by decide⟩⟩
theorem witness_RegistersAndIdentity_4 : ∃ (bytes : List (BitVec 8)) (s : State),
    s.pwr.aux = true :=
  ⟨[5], { wState with pwr := { wState.pwr with aux := true } }, by decide⟩
theorem witness_RegistersAndIdentity_5 : ∃ (n : Nat) (s : State),
    s.pwr.aux = true :=
  ⟨1, { wState with pwr := { wState.pwr with aux := true } }, by decide⟩
theorem witness_RegistersAndIdentity_6 : ∃ (s : State),
    s.pwr.aux = true :=
  ⟨{ wState with pwr := { wState.pwr with aux := true } }, by decide⟩
theorem witness_PowerIsManaged_2 : ∃ (s : State),
    (s.pwr.aux = true) ∧ (s.pwr.band = 0) ∧ ((s.boot.lost || (s.pwr.input != 0 && aged s s.pwr.bandSince (100 * ms))) = true) :=
  ⟨{ wState with boot := { wState.boot with lost := true } }, ⟨by decide, by decide, by decide⟩⟩
theorem witness_PowerIsManaged_3 : ∃ (buses : List Nat) (s : State) (t : _),
    (t = coldState s) ∧ (s.pwr.precharge = true) ∧ (buses.length = 5) ∧ (buses.all (fun b => decide (1750 ≤ b) && decide (b ≤ 1850)) = true) :=
  ⟨[1800, 1800, 1800, 1800, 1800], { State.reset with pwr := { State.reset.pwr with precharge := true } }, _, ⟨rfl, by decide, by decide, by decide⟩⟩
theorem witness_PowerIsManaged_4 : ∃ (mv : Nat) (s : State) (up : _),
    (up = (decide (30000 ≤ mv) && decide (mv ≤ 60000))) ∧ (up ≠ s.pwr.aux) :=
  ⟨48000, { wState with pwr := { wState.pwr with aux := false } }, _, ⟨rfl, by decide⟩⟩
theorem witness_PowerIsManaged_5 : ∃ (sc : Nat) (s : State),
    (sc < 24) ∧ (s.boot.lost = false) ∧ (s.pwr.scFailed.contains sc = false) :=
  ⟨0, wState, ⟨by decide, by decide, by decide⟩⟩
theorem witness_PowerIsManaged_6 : ∃ (q d ma : Nat) (s : State) (x : _) (down : _) (up : _),
    (x = s.domain q d) ∧ (down = (decide (domainLimit d x < ma) && aged s x.capAt 100 && decide (1 < x.cap))) ∧ (up = (decide (ma + 1000 < domainLimit d x) && aged s x.capAt us && decide (x.cap < 64))) ∧ (q < 4) ∧ (((decide (d < 64) && (down || up)) || d == 67) = true) :=
  ⟨0, 0, 1000000, { wState with clk := { wState.clk with tb := 1000 } }, _, _, _, ⟨rfl, rfl, rfl, by decide, by decide⟩⟩
theorem witness_PowerIsManaged_7 : ∃ (q d sensor mv : Nat) (s : State) (x : _) (m : MinV) (lower : _),
    (x = s.domain q d) ∧ (m = { mv := mv, sensor := sensor, stamp := now s }) ∧ (lower = (match x.minv with | some y => decide (mv < y.mv) | none => true)) ∧ (q < 4) ∧ (d < 67) ∧ (sensor < domainSensors d) ∧ (mv < 1024) ∧ (x.vset ≠ 0) ∧ (lower = true) :=
  ⟨0, 0, 0, 700, wState.setDomain 0 0 { wState.domain 0 0 with vset := 750 }, _, _, _, ⟨rfl, rfl, rfl, by decide, by decide, by decide, by decide, by decide, by decide⟩⟩
theorem witness_PowerIsManaged_8 : ∃ (q d : Nat) (s : State) (x : _),
    (x = s.domain q d) ∧ (q < 4) ∧ (d < 67) :=
  ⟨0, 0, wState, _, ⟨rfl, by decide, by decide⟩⟩
theorem witness_PowerIsManaged_9 : ∃ (power demand : Nat) (s : State),
    (s.boot.lost = false) ∧ (s.clk.pllLocked = true) :=
  ⟨0, 0, { wState with clk := { wState.clk with pllLocked := true } }, ⟨by decide, by decide⟩⟩
theorem witness_PowerIsManaged_10 : ∃ (avg : Nat) (s : State) (o : _),
    (o = nextOffset s avg) ∧ (pelsesoRuns s = true) :=
  ⟨0, wState, _, ⟨rfl, by decide⟩⟩
theorem witness_PowerIsManaged_11 : ∃ (asserted : Bool) (s : State),
    (s.pwr.aux = true) ∧ (asserted ≠ s.pwr.brake.isSome) :=
  ⟨true, wState, ⟨by decide, by decide⟩⟩
theorem witness_PowerIsManaged_12 : ∃ (s : State),
    (s.boot.lost = false) ∧ (heldFor s s.pwr.brake (60 * sec1) = true) ∧ (s.pwr.brakeAlarmed = false) :=
  ⟨{ wState with pwr := { wState.pwr with brake := some 0 }, clk := { wState.clk with tb := 60000000000 } }, ⟨by decide, by decide, by decide⟩⟩
theorem witness_PowerIsManaged_13 : ∃ (q c fs : Nat) (s : State) (n : _) (k : _),
    (n = 64 * q + c) ∧ (k = s.core n) ∧ (wfCore q c = true) ∧ (coreFitted s n = true) ∧ (pelsesoRuns s = true) ∧ ((fs == 2 || fs == 3) = true) ∧ (k.fallow < fs) ∧ (fs = deepest s q) ∧ (drained k = true) ∧ (k.waiting.isEmpty = true) ∧ (k.waking.isNone = true) ∧ (k.arr.testing = false) :=
  ⟨0, 0, 3, withCore (fun c => { c with stooks := [], sheaves := [] }) wState, _, _, ⟨rfl, rfl, by decide, by decide, by decide, by decide, by decide, by decide, by decide, by decide, by decide, by decide⟩⟩
theorem witness_PowerIsManaged_14 : ∃ (q c : Nat) (s : State),
    (wfCore q c = true) ∧ ((s.quarter q).st = 0) :=
  ⟨0, 0, wState, ⟨by decide, by decide⟩⟩
theorem witness_PowerIsManaged_15 : ∃ (q ma : Nat) (s : State) (w : Wake),
    (nextWake s q = some w) ∧ (q < 4) ∧ (ma + wakePeak (s.core w.core).fallow + 1000 ≤ 36000) :=
  ⟨0, 0, { wState with pwr := { wState.pwr with wakes := [(0, [wWake])] } }, wWake, ⟨rfl, by decide, by decide⟩⟩
theorem witness_PowerIsManaged_16 : ∃ (q c cap : Nat) (s : State) (n : _) (w : Wake) (a : _) (s1 : _),
    (n = 64 * q + c) ∧ ((tget [] s.pwr.wakes q).find? (fun w => w.core == n) = some w) ∧ (a = now s + (if (s.core n).fallow = 3 then 38000 else 0)) ∧ (s1 = { s with pwr := { s.pwr with segCap := tput s.pwr.segCap (n / 4) (cap, a, a + 2000) } }) ∧ (wfCore q c = true) ∧ (1 ≤ cap) ∧ (cap ≤ 64) ∧ (aged s w.since (waitBudget s n) = true) :=
  ⟨0, 0, 1, { wState with pwr := { wState.pwr with wakes := [(0, [wWake])] }, clk := { wState.clk with tb := 100000000 } }, _, wWake, _, _, ⟨rfl, rfl, rfl, rfl, by decide, by decide, by decide, by decide⟩⟩
theorem witness_PowerIsManaged_17 : ∃ (q c : Nat) (rows : List Nat) (other : Bool) (s : State) (n : _),
    (n = 64 * q + c) ∧ (wfCore q c = true) ∧ (coreFitted s n = true) ∧ (heldFor s (s.core n).waking (wakeTime (s.core n).fallow * us) = true) :=
  ⟨0, 0, [], false, withCore (fun c => { c with fallow := 2, waking := some 0 }) { wState with clk := { wState.clk with tb := 3000 } }, _, ⟨rfl, by decide, by decide, by decide⟩⟩
theorem witness_PowerIsManaged_18 : ∃ (q t : Nat) (s : State) (d : _) (x : _) (y : _) (s1 : _),
    (d = tineDomain t) ∧ (x = s.domain q d) ∧ (y = { x with failed := ladd x.failed t }) ∧ (s1 = bump 0x00B4_0138 1 (alarmW 0x0105 (srcTine q t) [d, y.failed.length] (s.setDomain q d y))) ∧ (q < 4) ∧ (t < 640) ∧ (s.boot.lost = false) ∧ (x.failed.contains t = false) ∧ (x.dark = false) :=
  ⟨0, 0, wState, _, _, _, _, ⟨rfl, rfl, rfl, rfl, by decide, by decide, by decide, by decide, by decide⟩⟩
theorem witness_HeatIsManaged_1 : ∃ (s : State) (t : _),
    (t = (now s).toNat / ms * ms) ∧ (pelsesoRuns s = true) ∧ (s.thm.roundAt.toNat < t) :=
  ⟨{ wState with clk := { wState.clk with tb := 1000000 } }, _, ⟨rfl, by decide, by decide⟩⟩
theorem witness_HeatIsManaged_2 : ∃ (q : Nat) (temps : List (Nat × Int)) (minv : List (Nat × BitVec 64)) (volts amps tines : List Int) (s : State),
    (q < 5) ∧ (pelsesoRuns s = true) ∧ (s.thm.arrived.contains q = false) ∧ (since s s.thm.roundAt ≤ 200 * us) :=
  ⟨4, [], [], [], [], [], wState, ⟨by decide, by decide, by decide, by decide⟩⟩
theorem witness_HeatIsManaged_3 : ∃ (q : Nat) (s : State) (t : _) (n : _) (s1 : _) (s2 : _),
    (t = s.thm) ∧ (n = tget 0 t.missed q + 1) ∧ (s1 = bump 0x00C0_0118 1 { s with thm := { t with arrived := ladd t.arrived q, missed := tset 0 t.missed q n, complete := tdel t.complete q } }) ∧ (s2 = (if n = 2 then alarmW 0x020C (srcQuarter q) [n] { s1 with thm := { s1.thm with blind := ladd s1.thm.blind q } } else s1)) ∧ (q < 4) ∧ (pelsesoRuns s = true) ∧ (t.arrived.contains q = false) ∧ (200 * us < since s t.roundAt) ∧ ((s.quarter q).st ≠ 2) ∧ ((s.quarter q).st ≠ 4) :=
  ⟨0, { wState with clk := { wState.clk with tb := 200001 } }, _, _, _, _, ⟨rfl, rfl, rfl, rfl, by decide, by decide, by decide, by decide, by decide, by decide⟩⟩
theorem witness_HeatIsManaged_4 : ∃ (q c : Nat) (s : State) (n : _) (k : _),
    (n = 64 * q + c) ∧ (k = s.core n) ∧ (wfCore q c = true) ∧ (coreFitted s n = true) ∧ (pelsesoRuns s = true) ∧ (3 ≤ limitLevel s n) ∧ (60 < k.therm.limit) ∧ (aged s k.therm.limitAt (100 * us) = true) :=
  ⟨0, 0, { wState with thm := { wState.thm with blind := [0] }, clk := { wState.clk with tb := 100000 } }, _, _, ⟨rfl, rfl, by decide, by decide, by decide, by decide, by decide, by decide⟩⟩
theorem witness_HeatIsManaged_5 : ∃ (q : Nat) (s : State) (k : _) (hot : _),
    (k = s.quarter q) ∧ (hot = [300 + 2 * q, 301 + 2 * q, 310 + 2 * q, 311 + 2 * q].any (fun i => match (s.region i).est with | some e => decide (deg 125 ≤ e) | none => false)) ∧ (q < 4) ∧ (pelsesoRuns s = true) ∧ (k.tripHold.isSome = true) ∧ (heldFor s k.trips.getLast? (100 * ms) = true) ∧ (hot = true) ∧ (k.railsOff = false) :=
  ⟨0, hotState, _, _, ⟨rfl, rfl, by decide, by decide, by decide, by decide, by decide, by decide⟩⟩
theorem witness_HeatIsManaged_6 : ∃ (q c count mv : Nat) (s : State) (n : _) (t : _),
    (n = 64 * q + c) ∧ (t = (s.core n).therm) ∧ (wfCore q c = true) ∧ (coreFitted s n = true) ∧ (pelsesoRuns s = true) ∧ ((s.core n).fallow ≤ 1) ∧ (t.ring.isEmpty = false) :=
  ⟨0, 0, 0, 0, withCore (fun c => { c with therm := { c.therm with ring := [(0, 1)], step := [(0, 1)] } }) wState, _, _, ⟨rfl, rfl, by decide, by decide, by decide, by decide, by decide⟩⟩
theorem witness_ResetsRun_1 : ∃ (dev : Int) (missed : Nat) (s : State) (c : _) (ppm : _) (due : _) (bad : _) (good : _) (c1 : _),
    (c = s.clk) ∧ (ppm = (dev + tget 0 s.thm.oscCorr 4).natAbs) ∧ (due = decide (c.refAt.toNat / (10 * us) < (now s).toNat / (10 * us))) ∧ (bad = (decide (1000 < ppm) || decide (4 ≤ missed))) ∧ (good = (if decide (ppm ≤ 100) && missed == 0 then some (c.goodSince.getD (now s)) else none)) ∧ (c1 = { c with refAt := now s }) ∧ (c.pllLocked = true) ∧ (due = true) :=
  ⟨0, 0, { wState with clk := { wState.clk with pllLocked := true, tb := 10000 } }, _, _, _, _, _, _, ⟨rfl, rfl, rfl, rfl, rfl, rfl, by decide, by decide⟩⟩
theorem witness_ResetsRun_2 : ∃ (q cd : Nat) (s : State),
    (q < 4) ∧ (11 ≤ cd) ∧ (cd ≤ 14) ∧ (pelsesoRuns s = true) ∧ (s.clk.unlocked.contains (4 * q + cd - 11) = false) :=
  ⟨0, 11, { wState with clk := { wState.clk with unlocked := [] } }, ⟨by decide, by decide, by decide, by decide, by decide⟩⟩
theorem witness_ResetsRun_3 : ∃ (q : Nat) (s : State) (lag : _) (next : Int),
    (lag = tget 0 s.clk.copies q) ∧ (next = (if 0 < lag then max 0 (lag - 1000) else min 0 (lag + 500000))) ∧ (q < 4) ∧ (s.clk.pllLocked = true) ∧ ((s.quarter q).st ≤ 1) ∧ ((now s).toNat % ms = 0) :=
  ⟨0, { wState with clk := { wState.clk with pllLocked := true } }, _, _, ⟨rfl, rfl, by decide, by decide, by decide, by decide⟩⟩
theorem witness_ResetsRun_4 : ∃ (q c : Nat) (s : State) (n : _),
    (n = 64 * q + c) ∧ (wfCore q c = true) ∧ (coreFitted s n = true) ∧ (pelsesoRuns s = true) ∧ ((s.core n).away = false) ∧ ((s.core n).fallow ≤ 1) :=
  ⟨0, 0, wState, _, ⟨rfl, by decide, by decide, by decide, by decide, by decide⟩⟩
theorem witness_ResetsRun_5 : ∃ (q k : Nat) (s : State),
    (q < 4) ∧ (k < 16) ∧ (pelsesoRuns s = true) ∧ (((s.quarter q).st == 0 || (s.quarter q).st == 3) = true) :=
  ⟨0, 0, wState, ⟨by decide, by decide, by decide, by decide⟩⟩
theorem witness_ResetsRun_6 : ∃ (q c : Nat) (s : State) (n : _),
    (n = 64 * q + c) ∧ (wfCore q c = true) ∧ (coreFitted s n = true) ∧ ((s.core n).inService = true) :=
  ⟨0, 0, wState, _, ⟨rfl, by decide, by decide, by decide⟩⟩
theorem witness_ResetsRun_7 : ∃ (q : Nat) (stay : Bool) (s : State),
    (q < 4) ∧ (pelsesoRuns s = true) :=
  ⟨0, false, wState, ⟨by decide, by decide⟩⟩
theorem witness_ResetsRun_8 : ∃ (q : Nat) (s : State) (k : _) (s2 : _),
    (k = s.quarter q) ∧ (s2 = shutQuarter q s) ∧ (q < 4) ∧ (k.st = 1) ∧ (k.headlandEnded = false) ∧ (aged s k.stamp (200 * us) = true) :=
  ⟨0, (let s := wState.setQuarter 0 { wState.quarter 0 with st := 1 }; { s with clk := { s.clk with tb := 200000 } }), _, _, ⟨rfl, rfl, by decide, by decide, by decide, by decide⟩⟩
theorem witness_ResetsRun_9 : ∃ (q rise : Nat) (s : State) (k : _) (cool : _),
    (k = s.quarter q) ∧ (cool = (k.tripHold.isNone || heldFor s k.tripHold (10 * sec1))) ∧ (q < 4) ∧ (k.st = 1) ∧ (k.headlandEnded = true) ∧ (k.selfRefresh = true) ∧ (rise ≤ 54) ∧ (cool = true) ∧ (k.railsOff = false) :=
  ⟨0, 0, wState.setQuarter 0 { wState.quarter 0 with st := 1, headlandEnded := true, selfRefresh := true }, _, _, ⟨rfl, rfl, by decide, by decide, by decide, by decide, by decide, by decide, by decide⟩⟩
theorem witness_ResetsRun_10 : ∃ (q : Nat) (ok : Bool) (s : State) (k : _) (late : _),
    (k = s.quarter q) ∧ (late = (k.st == 2 && decide (stepLimit k.step < since s k.resetAt))) ∧ (q < 4) ∧ (pelsesoRuns s = true) ∧ ((k.st == 2 || k.st == 3) = true) ∧ (k.step ≤ 6) :=
  ⟨0, true, wState.setQuarter 0 { wState.quarter 0 with st := 3 }, _, _, ⟨rfl, rfl, by decide, by decide, by decide, by decide⟩⟩
theorem witness_ResetsRun_11 : ∃ (i : Nat) (s : State) (r : GReq),
    (s.pel.retries[i]? = some r) ∧ (heldFor s r.retry (5 * us) = true) :=
  ⟨0, { wState with pel := { wState.pel with retries := [{ wReq .read with retry := some 0 }] }, clk := { wState.clk with tb := 5000 } }, { wReq .read with retry := some 0 }, ⟨rfl, by decide⟩⟩
theorem witness_ResetsRun_12 : ∃ (q wv : Nat) (fails : List (Nat × Nat)) (settled : Bool) (s : State) (k : _),
    (k = s.quarter q) ∧ (q < 4) ∧ (wv < 8) ∧ (pelsesoRuns s = true) ∧ ((k.st == 2 || k.st == 3) = true) ∧ (k.step = 4) ∧ (wv = k.wave) :=
  ⟨0, 0, [], true, wState.setQuarter 0 { wState.quarter 0 with st := 3, step := 4 }, _, ⟨rfl, by decide, by decide, by decide, by decide, by decide, by decide⟩⟩
theorem witness_ResetsRun_13 : ∃ (s : State) (s1 : _),
    (s1 = startDrain s) ∧ (pelsesoRuns s = true) :=
  ⟨wState, _, ⟨rfl, by decide⟩⟩
theorem witness_ResetsRun_14 : ∃ (s : State),
    (pelsesoRuns s = true) ∧ (heldFor s s.boot.draining (10 * sec1) = true) :=
  ⟨{ wState with boot := { wState.boot with draining := some 0 }, clk := { wState.clk with tb := 10000000000 } }, ⟨by decide, by decide⟩⟩
theorem witness_ResetsRun_15 : ∃ (asserted : Bool) (s : State) (b : _) (s1 : _),
    (b = s.boot) ∧ (s1 = { s with boot := { b with modReset := if asserted then some (now s) else none, fwSampled := if b.step = 1 ∧ !asserted then b.fwRecover else b.fwSampled } }) ∧ (s.pwr.aux = true) ∧ (asserted ≠ b.modReset.isSome) :=
  ⟨true, wState, _, _, ⟨rfl, rfl, by decide, by decide⟩⟩
theorem witness_ResetsRun_16 : ∃ (s : State),
    (pelsesoRuns s = true) ∧ (s.boot.draining.isSome = true) ∧ (heldFor s s.boot.modReset (10 * sec1) = true) :=
  ⟨{ wState with boot := { wState.boot with draining := some 0, modReset := some 0 }, clk := { wState.clk with tb := 10000000000 } }, ⟨by decide, by decide, by decide⟩⟩
theorem witness_BootRuns_1 : ∃ (ok : Bool) (s : State) (c : _) (c1 : _) (s1 : _),
    (c = s.clk) ∧ (c1 = (if c.pllLocked then c else { c with tb := 0, frac := 0, pllLocked := true })) ∧ (s1 = { s with clk := { c1 with locked := hubClocks s }, boot := { s.boot with step := 2 } }) ∧ (s.boot.step = 1) ∧ (s.boot.modReset.isNone = true) ∧ (s.boot.lost = false) :=
  ⟨true, State.reset, _, _, _, ⟨rfl, rfl, rfl, by decide, by decide, by decide⟩⟩
theorem witness_BootRuns_2 : ∃ (asserted : Bool) (s : State) (win : _),
    (win = (!s.boot.lost && s.boot.modReset.isNone && (s.boot.step == 1 || s.boot.step == 2))) ∧ (s.pwr.aux = true) ∧ (asserted ≠ s.boot.fwRecover) :=
  ⟨true, wState, _, ⟨rfl, by decide, by decide⟩⟩
theorem witness_BootRuns_3 : ∃ (s : State),
    s.boot.step = 4 :=
  ⟨{ State.reset with boot := { State.reset.boot with step := 4 } }, by decide⟩
theorem witness_BootRuns_4 : ∃ (s : State) (m : _) (due : _),
    (m = s.mgmt) ∧ (due = (match m.restartAt with | some t => decide (t ≤ now s) | none => true)) ∧ (s.boot.step = 8) ∧ (portUp s 8 = true) ∧ (m.recovery.isSome = true) ∧ (m.fetch.isNone = true) ∧ (due = true) :=
  ⟨fetchState none, _, _, ⟨rfl, rfl, by decide, by decide, by decide, by decide, by decide⟩⟩
theorem witness_BootRuns_5 : ∃ (block : Nat) (data : List Byte) (wrong : List (Nat × BitVec 8)) (s : State) (m : _) (n : Nat) (y1 : Nat) (y2 : W64),
    (m = s.mgmt) ∧ (m.fetch = some (n, y1, y2)) ∧ (s.boot.step = 8) ∧ (block = n % 65536) ∧ (data.length ≤ 1024) :=
  ⟨1, [], [], fetchState (some (1, 1, 0)), _, 1, 1, 0, ⟨rfl, rfl, by decide, by decide, by decide⟩⟩
theorem witness_BootRuns_6 : ∃ (s : State) (m : _) (n : Nat) (k : Nat) (t : W64),
    (m = s.mgmt) ∧ (m.fetch = some (n, k, t)) ∧ (s.boot.step = 8) ∧ (aged s t sec1 = true) :=
  ⟨(let s := fetchState (some (1, 1, 0)); { s with clk := { s.clk with tb := 1000000000 } }), _, 1, 1, 0, ⟨rfl, rfl, by decide, by decide⟩⟩
theorem witness_BootRuns_7 : ∃ (s : State) (m : _) (last : _),
    (m = s.mgmt) ∧ (last = decide (3 ≤ m.attempts)) ∧ (dhcpRuns s = true) ∧ (m.dhcpAt ≤ now s) :=
  ⟨fetchState none, _, _, ⟨rfl, rfl, by decide, by decide⟩⟩
theorem witness_BootRuns_8 : ∃ (addr : BitVec 32) (opt43 : List Byte) (s : State),
    dhcpRuns s = true :=
  ⟨0, [], fetchState none, by decide⟩
theorem witness_BootRuns_9 : ∃ (src : BitVec 32) (_port : Nat) (bytes : List Byte) (s : State) (from_ : _),
    (from_ = (match s.mgmt.collector with | some c => c.1 == src | none => false)) ∧ (inService s = true) ∧ (portUp s 8 = true) ∧ (from_ = true) :=
  ⟨0, 0, [], (let s := portAt 1 0; { s with mgmt := { s.mgmt with collector := some (0, 0) } }), _, ⟨rfl, by decide, by decide, by decide⟩⟩
theorem witness_BootRuns_10 : ∃ (partly : List Nat) (s : State) (fl : _) (rv : _) (bad : _) (floor' : _) (rev' : _) (s1 : _),
    (fl = floorFuses s) ∧ (rv = revokeFuses s) ∧ (bad = (fl ++ rv).filter (fun i => partly.contains i)) ∧ (floor' = s.fuse.svnFloor + (fl.filter (fun i => !partly.contains i)).length) ∧ (rev' = (rv.filter (fun i => !partly.contains i)).foldl (fun (v : BitVec 4) i => v ||| BitVec.ofNat 4 (2 ^ (i - 64))) s.fuse.revoked) ∧ (s1 = { s with fuse := { s.fuse with svnFloor := floor', revoked := rev' }, sec := { s.sec with fuseRetry := bad, fusesBlown := true } }) ∧ (pelsesoRuns s = true) ∧ (s.sec.fusesBlown = false) :=
  ⟨[], wState, _, _, _, _, _, _, ⟨rfl, rfl, rfl, rfl, rfl, rfl, by decide, by decide⟩⟩
theorem witness_BootRuns_11 : ∃ (s : State) (d : _),
    (d = drawEntropy s) ∧ (pelsesoRuns s = true) ∧ (s.sec.ek.isEmpty = true) ∧ (s.sec.entropyOk = true) :=
  ⟨{ wState with sec := { wState.sec with entropyOk := true } }, _, ⟨rfl, by decide, by decide, by decide⟩⟩
theorem witness_BootRuns_12 : ∃ (s : State),
    hubRuns s = true :=
  ⟨portAt 1 0, by decide⟩
theorem witness_BootRuns_13 : ∃ (s : State),
    hubRuns s = true :=
  ⟨portAt 1 0, by decide⟩
theorem witness_BootRuns_14 : ∃ (s : State) (ready : _),
    (ready = ((List.range 4).all (fun q => (s.quarter q).st == 0 || (s.quarter q).st == 4) && (stackList s).all (fun m => (s.stack m).st != 0))) ∧ (s.boot.step = 5) ∧ (s.boot.lost = false) ∧ (ready = true) :=
  ⟨releaseState, _, ⟨rfl, by decide, by decide, by decide⟩⟩
theorem witness_StepRunsFront_1 : ∃ (c : Instr) (rest : List Instr) (s : State),
    s.pending = c :: rest :=
  ⟨.idRead 0, [], { State.reset with pending := [.idRead 0] }, by decide⟩
theorem witness_IdleTick_1 : ∃ (s : State),
    (s.pending = []) ∧ (s.clk.pllLocked = true) :=
  ⟨{ State.reset with clk := { State.reset.clk with pllLocked := true } }, by decide⟩
theorem witness_IdleTick_2 : ∃ (s : State),
    (s.pending = []) ∧ (s.clk.pllLocked = false) :=
  ⟨State.reset, by decide⟩
theorem witness_FusesOnlyBlown : ∃ (s t : State),
    step s = .next t :=
  ⟨State.reset, State.reset, rfl⟩
theorem witness_LegalStatesStay_1 : ∃ (s t : State),
    (step s = .next t) ∧ (s.Legal) :=
  ⟨State.reset, State.reset, ⟨rfl, ⟨by decide, by decide, by decide, by decide, by decide⟩⟩⟩
theorem witness_LegalStatesStay_2 : ∃ (s t : State),
    (step s = .next t) ∧ (s.canonical = true) :=
  ⟨State.reset, State.reset, ⟨rfl, by decide⟩⟩
theorem witness_TimeNeverFallsBack : ∃ (i : Instr) (s t : State),
    exec i s = .next t :=
  ⟨.idRead 0, State.reset, _, rfl⟩
theorem witness_SheafInstructionsIssueOneWay_1 : ∃ (x : Nat → Nat → Nat → W64 → W64 → Instr),
    x ∈ sheafInstrs :=
  ⟨.add, by simp [sheafInstrs]⟩
theorem witness_SheafInstructionsIssueOneWay_2 : ∃ (x : Nat → Nat → Nat → W64 → W64 → Instr) (q c sl : Nat) (w e : W64) (s : State),
    (x ∈ sheafInstrs) ∧ (canIssue s (64 * q + c) sl = false) :=
  ⟨.add, 0, 0, 0, 0, 0, State.reset, ⟨by simp [sheafInstrs], by decide⟩⟩
theorem witness_SheafInstructionsIssueOneWay_3 : ∃ (s : State) (n sl : Nat),
    (s.sheaf n sl).parked = true ∨ (s.sheaf n sl).ended = true ∨ (s.sheaf n sl).live = false ∨ (s.sheaf n sl).arrWait = true ∨ (s.sheaf n sl).barWait ≠ none ∨
  (∀ x, stookOf s n (s.sheaf n sl) = some x → x.killed ≠ none) :=
  ⟨State.reset, 0, 0, by decide⟩
theorem witness_SheafInstructionsIssueOneWay_4 : ∃ (v : Env) (w e : W64) (s : State) (fmt op : Nat) (form : Nat → Form) (mem : Bool) (hid : Nat → List Nat) (body : Env → State → Res),
    (fetched fmt op w e form mem hid s v = true) ∧ (v.m = 0) ∧ ((form v.w).guard = true) :=
  ⟨envOf 0x3fe07fc03006000 0 wState, 0x3fe07fc03006000, 0, wState, 0, 0, (aluForm 2 [0, 1, 2, 3, 4, 5, 6] modSat true), false, (fun _ => []), aluBody 2 lnAdd, by decide⟩
theorem witness_FaultsArePrecise_1 : ∃ (s : State) (n sl cause detail addr instr : Nat) (lanes : W32) (t : Stook),
    (tfind (s.core n).stooks (s.sheaf n sl).stook = some t) ∧ (t.killed = none) ∧ ((s.sheaf n sl).parked = false) :=
  ⟨wState, 0, 0, 1, 3, 0x2000, 0, 1, wStook, ⟨by decide, by decide, by decide⟩⟩
theorem witness_FaultsArePrecise_2 : ∃ (s : State) (n sl cause detail addr instr : Nat) (lanes : W32),
    (s.sheaf n sl).parked = true ∨ (∀ t, tfind (s.core n).stooks (s.sheaf n sl).stook = some t → t.killed ≠ none) :=
  ⟨State.reset, 0, 0, 1, 3, 0, 0, 0, Or.inr (by intro t h; revert h; show none = some t → _; simp)⟩
theorem witness_FaultsComeInOrder_1 : ∃ (q c sl fmt op : Nat) (w e : W64) (form : Nat → Form) (mem : Bool) (hid : Nat → List Nat) (body : Env → State → Res) (s : State) (t : Stook) (r : Run),
    (wfSheaf q c sl = true) ∧ (coreFitted s (64 * q + c) = true) ∧ (canIssue s (64 * q + c) sl = true) ∧ (stookOf s (64 * q + c) (s.sheaf (64 * q + c) sl) = some t) ∧ (runOf s t.launch = some r) ∧ (rowIs fmt op w.toNat = true) ∧ (picked s (64 * q + c) sl = true) ∧ ((s.sheaf (64 * q + c) sl).dog = true) :=
  ⟨0, 0, 0, 0, 0, 0, 0, aissueForm, false, (fun _ => []), awaitBody, withSheaf (fun f => { f with dog := true }) wState, wStook, wRun, by decide⟩
theorem witness_FaultsComeInOrder_2 : ∃ (q c sl fmt op : Nat) (w e : W64) (form : Nat → Form) (mem : Bool) (hid : Nat → List Nat) (body : Env → State → Res) (s : State) (t : Stook) (r : Run) (cause d : Nat),
    (wfSheaf q c sl = true) ∧ (coreFitted s (64 * q + c) = true) ∧ (canIssue s (64 * q + c) sl = true) ∧ (stookOf s (64 * q + c) (s.sheaf (64 * q + c) sl) = some t) ∧ (runOf s t.launch = some r) ∧ (rowIs fmt op w.toNat = true) ∧ (picked s (64 * q + c) sl = true) ∧ ((s.sheaf (64 * q + c) sl).dog = false) ∧ (fetchHeld s (64 * q + c) r.group w.toNat (s.sheaf (64 * q + c) sl).pc = false) ∧ (fetchFault s (64 * q + c) r.group w.toNat (s.sheaf (64 * q + c) sl).pc = some (cause, d)) :=
  ⟨0, 0, 0, 0, 0, 0, 0, aissueForm, false, (fun _ => []), awaitBody, withSheaf (fun f => { f with pc := 0x9000_0000 }) wState, wStook, wRun, 1, _, ⟨by decide, by decide, by decide, by decide, by decide, by decide, by decide, by decide, by decide, rfl⟩⟩
theorem witness_FaultsComeInOrder_3 : ∃ (q c sl fmt op : Nat) (w e : W64) (form : Nat → Form) (mem : Bool) (hid : Nat → List Nat) (body : Env → State → Res) (s : State) (t : Stook) (r : Run),
    (wfSheaf q c sl = true) ∧ (coreFitted s (64 * q + c) = true) ∧ (canIssue s (64 * q + c) sl = true) ∧ (stookOf s (64 * q + c) (s.sheaf (64 * q + c) sl) = some t) ∧ (runOf s t.launch = some r) ∧ (rowIs fmt op w.toNat = true) ∧ ((s.sheaf (64 * q + c) sl).dog = false) ∧ (fetchHeld s (64 * q + c) r.group w.toNat (s.sheaf (64 * q + c) sl).pc = true) ∧ ((fetchMiss s (64 * q + c) r.group w.toNat (s.sheaf (64 * q + c) sl).pc).any (fun a => fencedAddr s (64 * a)) = false) :=
  ⟨0, 0, 0, 0, 0, 0, 0, aissueForm, false, (fun _ => []), awaitBody, (List.range 4).foldl (fun a q => a.setQuarter q { a.quarter q with st := 1 }) wState, wStook, wRun, by decide⟩
theorem witness_FaultsComeInOrder_4 : ∃ (q c sl fmt op : Nat) (w e : W64) (form : Nat → Form) (mem : Bool) (hid : Nat → List Nat) (body : Env → State → Res) (s : State) (v : Env),
    (fetched (w.toNat % 16) (w.toNat / 16 % 256) w e rowReserved.form false (fun _ => []) s v = true) ∧ (rowIs fmt op w.toNat = false) ∧ (sheafRow w.toNat = none) ∧ (v.m ≠ 0) :=
  ⟨0, 0, 0, 0, 0, 0xf, 0, aissueForm, false, (fun _ => []), awaitBody, wState, envOf 0xf 0 wState, by decide⟩
theorem witness_FaultsComeInOrder_5 : ∃ (v : Env) (w e : W64) (s : State) (fmt op : Nat) (form : Nat → Form) (mem : Bool) (hid : Nat → List Nat) (body : Env → State → Res),
    (fetched fmt op w e form mem hid s v = true) ∧ (v.m ≠ 0) ∧ (encOk v.w v.e (form v.w) = false) :=
  ⟨envOf 0x800000 0 wState, 0x800000, 0, wState, 0, 0, (aluForm 2 [0, 1, 2, 3, 4, 5, 6] modSat true), false, (fun _ => []), aluBody 2 lnAdd, by decide⟩
theorem witness_FaultsComeInOrder_6 : ∃ (v : Env) (w e : W64) (s : State) (fmt op : Nat) (form : Nat → Form) (mem : Bool) (hid : Nat → List Nat) (body : Env → State → Res),
    (fetched fmt op w e form mem hid s v = true) ∧ (v.m ≠ 0) ∧ (encOk v.w v.e (form v.w) = true) ∧ (beyond v.w v.run.regs (form v.w) = true) :=
  ⟨envOf 0xff8040028000000 0 wState, 0xff8040028000000, 0, wState, 0, 0, (aluForm 2 [0, 1, 2, 3, 4, 5, 6] modSat true), false, (fun _ => []), aluBody 2 lnAdd, by decide⟩
theorem witness_FaultsComeInOrder_7 : ∃ (v : Env) (w e : W64) (s : State) (fmt op : Nat) (form : Nat → Form) (mem : Bool) (hid : Nat → List Nat) (body : Env → State → Res) (x : Nat),
    (fetched fmt op w e form mem hid s v = true) ∧ (v.m ≠ 0) ∧ (encOk v.w v.e (form v.w) = true) ∧ (beyond v.w v.run.regs (form v.w) = false) ∧ ((badRegs v.f v.m (vSources v.w (form v.w).opds)).find? (fun r => !(badLanes v.f v.m 2 r).isEmpty) = some x) :=
  ⟨(let s := withSheaf (fun f => { f with regBad := [(32, 2)] }) wState; envOf 0xff8040003000000 0 s), 0xff8040003000000, 0, (withSheaf (fun f => { f with regBad := [(32, 2)] }) wState), 0, 0, (aluForm 2 [0, 1, 2, 3, 4, 5, 6] modSat true), false, (fun _ => []), aluBody 2 lnAdd, 1, by decide⟩
theorem witness_FaultsComeInOrder_8 : ∃ (v : Env) (w e : W64) (s : State) (fmt op : Nat) (form : Nat → Form) (mem : Bool) (hid : Nat → List Nat) (body : Env → State → Res) (cause d a : Nat) (l : W32),
    (issues fmt op w e form mem hid s v = true) ∧ (body v (v.noted s) = .fault cause d l a) :=
  ⟨envOf 0xff8040003000000 0 wState, 0xff8040003000000, 0, wState, 0, 0, (aluForm 2 [0, 1, 2, 3, 4, 5, 6] modSat true), false, (fun _ => []), (fun _ _ => .fault 3 1 1 0), 3, 1, 0, 1, ⟨by decide, rfl⟩⟩
theorem witness_FaultsComeInOrder_9 : ∃ (v : Env) (w e : W64) (s : State) (fmt op ar d : Nat) (form : Nat → Form) (mem : Bool) (hid : Nat → List Nat) (fn : LaneFn) (l : W32),
    (issues fmt op w e form mem hid s v = true) ∧ (v.traps ar fn = some (d, l)) ∧ (regClass v.dst = 1) :=
  ⟨(let s := { wState with pel := { wState.pel with runs := [(1, { wRun with trapMask := 1 })] } }; envOf 0xff8140003000090 0 s), 0xff8140003000090, 0, { wState with pel := { wState.pel with runs := [(1, { wRun with trapMask := 1 })] } }, 0, 9, 2, 1, (aluForm 2 [0, 1, 2, 3, 4] modRound true), false, (fun _ => []), lnDiv, 1, by decide⟩
theorem witness_InstructionsWriteTheirDestination_1 : ∃ (v : Env) (sp cnt : Nat) (vals : List (Nat × Nat)) (s t : State),
    ((s.sheaf v.n v.sl).ended = false) ∧ (t = v.wrote sp cnt vals s) :=
  ⟨envOf 0x3fe8040003000000 0 wState, 3, 1, [(0, 12)], wState, _, ⟨by decide, rfl⟩⟩
theorem witness_InstructionsWriteTheirDestination_2 : ∃ (v : Env) (sp cnt r lane : Nat) (vals : List (Nat × Nat)) (s : State),
    ((s.sheaf v.n v.sl).ended = false) ∧ (lane < 32) ∧ ((∀ e ∈ vals, e.1 < 32)) ∧ ((r < sp ∨ sp + cnt ≤ r) ∨ sp = 0x1FF ∨ (sp + cnt ≤ 0x100 ∧ ∀ e ∈ vals, e.1 ≠ lane)) :=
  ⟨envOf 0x3fe8040003000000 0 wState, 3, 1, 4, 0, [(0, 12)], wState, by decide⟩
theorem witness_InstructionsWriteTheirDestination_3 : ∃ (v : Env) (sp cnt lane x : Nat) (vals : List (Nat × Nat)) (s : State),
    ((s.sheaf v.n v.sl).ended = false) ∧ (sp + cnt ≤ 0x100) ∧ (lane < 32) ∧ ((∀ e ∈ vals, e.1 < 32)) ∧ ((vals.map Prod.fst).Nodup) ∧ ((lane, x) ∈ vals) :=
  ⟨envOf 0x3fe8040003000000 0 wState, 3, 1, 0, 12, [(0, 12)], wState, by decide⟩
theorem witness_InstructionsWriteTheirDestination_4 : ∃ (v : Env) (sp cnt lane : Nat) (e : Nat × Nat) (vals : List (Nat × Nat)) (s : State),
    ((s.sheaf v.n v.sl).ended = false) ∧ (0x100 ≤ sp) ∧ (sp + cnt ≤ 0x140) ∧ (lane < 32) ∧ ((∀ y ∈ e :: vals, y.1 < 32)) :=
  ⟨envOf 0x3fe8040103000000 0 wState, 0x103, 1, 0, (0, 12), [], wState, by decide⟩
theorem witness_PredicateWrites_1 : ∃ (f : Sheaf) (i lane : Nat),
    i < 8 :=
  ⟨Sheaf.dflt, 0, 0, by decide⟩
theorem witness_PredicateWrites_2 : ∃ (v : Env) (i l : Nat) (e : Nat × Nat) (vals : List (Nat × Nat)) (s : State),
    ((s.sheaf v.n v.sl).ended = false) ∧ (i < 8) ∧ (l < 32) :=
  ⟨envOf 0x3fe80401400001c0 0 wState, 0, 0, (0, 0), [], wState, by decide⟩
theorem witness_PredicateWrites_3 : ∃ (v : Env) (i j : Nat) (vals : List (Nat × Nat)) (s : State),
    ((s.sheaf v.n v.sl).ended = false) ∧ (i < 8) ∧ (j < 8) ∧ (j ≠ i) :=
  ⟨envOf 0x3fe80401400001c0 0 wState, 0, 1, [(0, 0)], wState, by decide⟩
theorem witness_SecdedCode_3 : ∃ (err i : Nat),
    (0 < err) ∧ (err < 2 ^ 72) ∧ (i < 72) ∧ (secdedSyn err = secdedAll.getD i 0) :=
  ⟨1, 0, by decide⟩
theorem witness_SecdedCode_4 : ∃ (err : Nat),
    (0 < err) ∧ (err < 2 ^ 72) ∧ (secdedSyn err ≠ 0) ∧ ((∀ i, i < 72 → secdedSyn err ≠ secdedAll.getD i 0)) :=
  ⟨3, by decide +kernel⟩
theorem witness_SecdedCode_5 : ∃ (err : Nat),
    (err < 2 ^ 72) ∧ (secdedSyn err = 0) :=
  ⟨0, by decide⟩
theorem witness_SecdedCode_6 : ∃ (i j : Nat),
    (i < 72) ∧ (j < 72) ∧ (i ≠ j) :=
  ⟨0, 71, by decide⟩
theorem witness_LpddrMapping_1 : ∃ (s : State) (x : Nat),
    (x < lpddrSize s) ∧ (s.pel.local_.contains (x / regionSize s) = false) :=
  ⟨State.reset, 0, by decide⟩
theorem witness_LpddrMapping_2 : ∃ (s : State) (x : Nat),
    x < lpddrSize s :=
  ⟨State.reset, 0x1300, by decide⟩
theorem witness_LpddrMapping_3 : ∃ (y z : Nat),
    (y < 80 * 2 ^ 30) ∧ (z < 80 * 2 ^ 30) ∧ (lpChan y = lpChan z) ∧ (lpLocal y = lpLocal z) :=
  ⟨0, 0, by decide⟩
theorem witness_LpddrMapping_4 : ∃ (y : Nat),
    y < 80 * 2 ^ 30 :=
  ⟨0xC000_0900, by decide⟩
theorem witness_WrittenWordsReadBack_2 : ∃ (w a i : Nat) (b : List Byte) (st : Store),
    (0 < w) ∧ (a ≤ i * w) ∧ ((i + 1) * w ≤ a + b.length) :=
  ⟨8, 0, 0, [0, 0, 0, 0, 0, 0, 0, 0], ⟨[], [], []⟩, by decide⟩
theorem witness_WrittenWordsReadBack_3 : ∃ (w a i : Nat) (b : List Byte) (p : Bool) (st : Store),
    (0 < w) ∧ ((i + 1) * w ≤ a ∨ a + b.length ≤ i * w) :=
  ⟨8, 0, 2, [0, 0, 0, 0, 0, 0, 0, 0], false, ⟨[], [], []⟩, by decide⟩
theorem witness_WrittenWordsReadBack_4 : ∃ (w a i : Nat) (b : List Byte) (p : Bool) (st : Store),
    (0 < w) ∧ (i * w < a + b.length) ∧ (a < (i + 1) * w) ∧ (b ≠ []) ∧ (p = true ∨ (i ∈ st.psn ∧ (i * w < a ∨ a + b.length < (i + 1) * w))) :=
  ⟨8, 4, 0, [0], true, ⟨[], [], []⟩, by decide⟩
theorem witness_WrittenWordsReadBack_5 : ∃ (w a n : Nat) (st : Store),
    0 < w :=
  ⟨8, 0, 1, ⟨[], [], []⟩, by decide⟩
theorem witness_WrittenWordsReadBack_6 : ∃ (n off k o len : Nat) (b : List Byte) (p : Bool) (s : State),
    (off + b.length ≤ 0x20_0000) ∧ (o + len ≤ 0x20_0000) ∧ (k ≠ n) :=
  ⟨0, 0, 1, 0, 0, [5], false, State.reset, by decide⟩
theorem witness_FlagUpdates_1 : ∃ (q i : Nat) (g : W32 → W32) (s t : State) (x : W32),
    (x = g (tget 0 (s.flagStore q).vals i)) ∧ (t = flagUpdate q i g s) :=
  ⟨0, 0, (fun _ => 5), State.reset, _, 5, ⟨rfl, rfl⟩⟩
theorem witness_FlagUpdates_2 : ∃ (q i d : Nat) (g : W32 → W32) (s : State) (x : W32) (w : FlagWait),
    (x = g (tget 0 (s.flagStore q).vals i)) ∧ (w ∈ (s.flagStore q).waits) ∧ (w.flag = i) ∧ (w.threshold ≤ x) ∧ (((s.flagStore q).waits.map (fun (y : FlagWait) => (y.core, y.sheaf))).Nodup) ∧ ((s.sheaf w.core w.sheaf).flagWait = some d) :=
  ⟨0, 0, 0x102, (fun _ => 5), flagWaitState, 5, wFlag, by decide⟩
end

section
/-! SUPPORT. What one step of the block keeps, from what each command keeps. -/
namespace Sys2Proof.Machine

/-! ## Every command keeps -/

/-- Every command keeps, each by the lemma of its row (the table of `exec`). -/
theorem exec_keeps (i : Instr) (s : State) {z : State} (hz : Keeps z s) : OutKeeps z (exec i s) :=
  match i with
  | .registerWrite off width v => execRegisterWrite_keeps off width v s hz
  | .osCoreAccess core write addr width v err => execOsCoreAccess_keeps core write addr width v err s hz
  | .mbDoorbell mb v => execMbDoorbell_keeps mb v s hz
  | .mbAckHeadWrite mb v => execMbAckHeadWrite_keeps mb v s hz
  | .mbCplHeadWrite mb v => execMbCplHeadWrite_keeps mb v s hz
  | .tinMinvStampRead q d => execTinMinvStampRead_keeps q d s hz
  | .aissue q c sl w ext => execAissue_keeps q c sl w ext s hz
  | .arrayQueueRoom q c => execArrayQueueRoom_keeps q c s hz
  | .await q c sl w ext => execAwait_keeps q c sl w ext s hz
  | .aquery q c sl w ext => execAquery_keeps q c sl w ext s hz
  | .arrayCommandStart q c => execArrayCommandStart_keeps q c s hz
  | .arrayTileEnd q c => execArrayTileEnd_keeps q c s hz
  | .arrayCommandDone q c => execArrayCommandDone_keeps q c s hz
  | .ringSlotForward q c k => execRingSlotForward_keeps q c k s hz
  | .ringPanelAccept q c => execRingPanelAccept_keeps q c s hz
  | .ringTimeout q c outbound => execRingTimeout_keeps q c outbound s hz
  | .arrayFault q c furrow => execArrayFault_keeps q c furrow s hz
  | .selfTestStart q c => execSelfTestStart_keeps q c s hz
  | .selfTestResult q c rows other => execSelfTestResult_keeps q c rows other s hz
  | .stookStart q c => execStookStart_keeps q c s hz
  | .stookEnd q c st => execStookEnd_keeps q c st s hz
  | .faultResolve q c sl => execFaultResolve_keeps q c sl s hz
  | .stookWatchdog q c st => execStookWatchdog_keeps q c st s hz
  | .lockTimeout q c sl => execLockTimeout_keeps q c sl s hz
  | .lockRepoll q c sl => execLockRepoll_keeps q c sl s hz
  | .loadDataReturn q c sl ld err => execLoadDataReturn_keeps q c sl ld err s hz
  | .add q c sl w ext => execAdd_keeps q c sl w ext s hz
  | .sub q c sl w ext => execSub_keeps q c sl w ext s hz
  | .mul q c sl w ext => execMul_keeps q c sl w ext s hz
  | .mulhi q c sl w ext => execMulhi_keeps q c sl w ext s hz
  | .mad q c sl w ext => execMad_keeps q c sl w ext s hz
  | .min q c sl w ext => execMin_keeps q c sl w ext s hz
  | .max q c sl w ext => execMax_keeps q c sl w ext s hz
  | .abs q c sl w ext => execAbs_keeps q c sl w ext s hz
  | .neg q c sl w ext => execNeg_keeps q c sl w ext s hz
  | .div q c sl w ext => execDiv_keeps q c sl w ext s hz
  | .rem q c sl w ext => execRem_keeps q c sl w ext s hz
  | .sqrt q c sl w ext => execSqrt_keeps q c sl w ext s hz
  | .rcp q c sl w ext => execRcp_keeps q c sl w ext s hz
  | .rsqrt q c sl w ext => execRsqrt_keeps q c sl w ext s hz
  | .exp2 q c sl w ext => execExp2_keeps q c sl w ext s hz
  | .log2 q c sl w ext => execLog2_keeps q c sl w ext s hz
  | .sin q c sl w ext => execSin_keeps q c sl w ext s hz
  | .cos q c sl w ext => execCos_keeps q c sl w ext s hz
  | .and q c sl w ext => execAnd_keeps q c sl w ext s hz
  | .or q c sl w ext => execOr_keeps q c sl w ext s hz
  | .xor q c sl w ext => execXor_keeps q c sl w ext s hz
  | .not q c sl w ext => execNot_keeps q c sl w ext s hz
  | .shl q c sl w ext => execShl_keeps q c sl w ext s hz
  | .shr q c sl w ext => execShr_keeps q c sl w ext s hz
  | .rotl q c sl w ext => execRotl_keeps q c sl w ext s hz
  | .popc q c sl w ext => execPopc_keeps q c sl w ext s hz
  | .clz q c sl w ext => execClz_keeps q c sl w ext s hz
  | .sel q c sl w ext => execSel_keeps q c sl w ext s hz
  | .setp q c sl w ext => execSetp_keeps q c sl w ext s hz
  | .cvt q c sl w ext => execCvt_keeps q c sl w ext s hz
  | .mov q c sl w ext => execMov_keeps q c sl w ext s hz
  | .shfl q c sl w ext => execShfl_keeps q c sl w ext s hz
  | .redu q c sl w ext => execRedu_keeps q c sl w ext s hz
  | .vote q c sl w ext => execVote_keeps q c sl w ext s hz
  | .ld q c sl w ext => execLd_keeps q c sl w ext s hz
  | .st q c sl w ext => execSt_keeps q c sl w ext s hz
  | .pfs q c sl w ext => execPfs_keeps q c sl w ext s hz
  | .pwb q c sl w ext => execPwb_keeps q c sl w ext s hz
  | .pfr q c sl w ext => execPfr_keeps q c sl w ext s hz
  | .pfrBind q c k => execPfrBind_keeps q c k s hz
  | .bulkOpStart q c => execBulkOpStart_keeps q c s hz
  | .bulkOpComplete q c k => execBulkOpComplete_keeps q c k s hz
  | .bra q c sl w ext => execBra_keeps q c sl w ext s hz
  | .jmp q c sl w ext => execJmp_keeps q c sl w ext s hz
  | .call q c sl w ext => execCall_keeps q c sl w ext s hz
  | .jmpr q c sl w ext => execJmpr_keeps q c sl w ext s hz
  | .ret q c sl w ext => execRet_keeps q c sl w ext s hz
  | .exit q c sl w ext => execExit_keeps q c sl w ext s hz
  | .atomAdd q c sl w ext => execAtomAdd_keeps q c sl w ext s hz
  | .atomMin q c sl w ext => execAtomMin_keeps q c sl w ext s hz
  | .atomMax q c sl w ext => execAtomMax_keeps q c sl w ext s hz
  | .atomAnd q c sl w ext => execAtomAnd_keeps q c sl w ext s hz
  | .atomOr q c sl w ext => execAtomOr_keeps q c sl w ext s hz
  | .atomXor q c sl w ext => execAtomXor_keeps q c sl w ext s hz
  | .atomXchg q c sl w ext => execAtomXchg_keeps q c sl w ext s hz
  | .atomCas q c sl w ext => execAtomCas_keeps q c sl w ext s hz
  | .lockAcq q c sl w ext => execLockAcq_keeps q c sl w ext s hz
  | .lockRel q c sl w ext => execLockRel_keeps q c sl w ext s hz
  | .bar q c sl w ext => execBar_keeps q c sl w ext s hz
  | .flagSet q c sl w ext => execFlagSet_keeps q c sl w ext s hz
  | .flagAdd q c sl w ext => execFlagAdd_keeps q c sl w ext s hz
  | .flagWait q c sl w ext => execFlagWait_keeps q c sl w ext s hz
  | .nop q c sl w ext => execNop_keeps q c sl w ext s hz
  | .fence q c sl w ext => execFence_keeps q c sl w ext s hz
  | .inval q c sl w ext => execInval_keeps q c sl w ext s hz
  | .rndU32 q c sl w ext => execRndU32_keeps q c sl w ext s hz
  | .rndF32 q c sl w ext => execRndF32_keeps q c sl w ext s hz
  | .sample q c sl w ext => execSample_keeps q c sl w ext s hz
  | .role q c sl w ext => execRole_keeps q c sl w ext s hz
  | .stamp q c sl w ext => execStamp_keeps q c sl w ext s hz
  | .sampleService q c => execSampleService_keeps q c s hz
  | .rowTimeout q c => execRowTimeout_keeps q c s hz
  | .roundingKeyFetch q c => execRoundingKeyFetch_keeps q c s hz
  | .keyDelivery q c launch => execKeyDelivery_keeps q c launch s hz
  | .keyRequestTimeout q c launch => execKeyRequestTimeout_keeps q c launch s hz
  | .roundingKeyRetry q c => execRoundingKeyRetry_keeps q c s hz
  | .granaryRead h k e0 e1 => execGranaryRead_keeps h k e0 e1 s hz
  | .granaryStore h k => execGranaryStore_keeps h k s hz
  | .fillReturn h k => execFillReturn_keeps h k s hz
  | .fillResume h k => execFillResume_keeps h k s hz
  | .reductionAdmit h k => execReductionAdmit_keeps h k s hz
  | .reductionComplete h k => execReductionComplete_keeps h k s hz
  | .mergeEntryExpire h k => execMergeEntryExpire_keeps h k s hz
  | .granaryCarve qu => execGranaryCarve_keeps qu s hz
  | .carveWalkSet h => execCarveWalkSet_keeps h s hz
  | .plotCreate qu => execPlotCreate_keeps qu s hz
  | .plotDelete qu => execPlotDelete_keeps qu s hz
  | .granaryPin qu => execGranaryPin_keeps qu s hz
  | .pinEngineRequest h => execPinEngineRequest_keeps h s hz
  | .pinComplete pin => execPinComplete_keeps pin s hz
  | .granaryUnpin qu => execGranaryUnpin_keeps qu s hz
  | .thrashWindowEnd h => execThrashWindowEnd_keeps h s hz
  | .thrashEvent h => execThrashEvent_keeps h s hz
  | .tilthSplitChange q c units => execTilthSplitChange_keeps q c units s hz
  | .flitReceive l dir g offers wire => execFlitReceive_keeps l dir g offers wire s hz
  | .replayRequest l dir g seq => execReplayRequest_keeps l dir g seq s hz
  | .linkAck l dir g seq => execLinkAck_keeps l dir g seq s hz
  | .marginMeasure l dir g margins => execMarginMeasure_keeps l dir g margins s hz
  | .groupStop l dir g => execGroupStop_keeps l dir g s hz
  | .linkAbandon l => execLinkAbandon_keeps l s hz
  | .routeChange a b => execRouteChange_keeps a b s hz
  | .controlMessage dest msg => execControlMessage_keeps dest msg s hz
  | .bounce sender => execBounce_keeps sender s hz
  | .roleSet sender dest role => execRoleSet_keeps sender dest role s hz
  | .inboxWaitTimeout k => execInboxWaitTimeout_keeps k s hz
  | .multicast q msg => execMulticast_keeps q msg s hz
  | .mcastRetry q slot c => execMcastRetry_keeps q slot c s hz
  | .mcastBlockTimeout q slot => execMcastBlockTimeout_keeps q slot s hz
  | .launchFlagsFreed => execLaunchFlagsFreed_keeps s hz
  | .vbusUncorrectable q bus k => execVbusUncorrectable_keeps q bus k s hz
  | .vbusCeRate q bus k n => execVbusCeRate_keeps q bus k n s hz
  | .guestVersionExchange v => execGuestVersionExchange_keeps v s hz
  | .guestFlit flit => execGuestFlit_keeps flit s hz
  | .guestReplayTimer => execGuestReplayTimer_keeps s hz
  | .guestCrcRetrain k => execGuestCrcRetrain_keeps k s hz
  | .guestRequest flit => execGuestRequest_keeps flit s hz
  | .guestResponse flit => execGuestResponse_keeps flit s hz
  | .guestResponseTimeout tag => execGuestResponseTimeout_keeps tag s hz
  | .guestOvercurrent => execGuestOvercurrent_keeps s hz
  | .lpddrRequest m write master y slot data poison => execLpddrRequest_keeps m write master y slot data poison s hz
  | .channelSlot m slot => execChannelSlot_keeps m slot s hz
  | .lpddrReadReturn m id err => execLpddrReadReturn_keeps m id err s hz
  | .crcRetry m burst => execCrcRetry_keeps m burst s hz
  | .channelRetrain m ch => execChannelRetrain_keeps m ch s hz
  | .channelRetrainDone m ch ok => execChannelRetrainDone_keeps m ch ok s hz
  | .lpddrRequestTimeout m id => execLpddrRequestTimeout_keeps m id s hz
  | .channelTimingAdjust m ch => execChannelTimingAdjust_keeps m ch s hz
  | .refreshDue m ch bank => execRefreshDue_keeps m ch bank s hz
  | .refreshRatePoll m die rate => execRefreshRatePoll_keeps m die rate s hz
  | .refreshRateTimeout m die => execRefreshRateTimeout_keeps m die s hz
  | .urgencyWireTimeout q master => execUrgencyWireTimeout_keeps q master s hz
  | .stackTraining m gen cmdOk eyes107 eyes96 => execStackTraining_keeps m gen cmdOk eyes107 eyes96 s hz
  | .stackZeroFillDone m => execStackZeroFillDone_keeps m s hz
  | .walkerRead kind unit err => execWalkerRead_keeps kind unit err s hz
  | .repairRewrite kind unit err => execRepairRewrite_keeps kind unit err s hz
  | .checkerSelfTest kind unit pass => execCheckerSelfTest_keeps kind unit pass s hz
  | .fuseLoad unit a b d => execFuseLoad_keeps unit a b d s hz
  | .hello qu => execHello_keeps qu s hz
  | .goodbye qu => execGoodbye_keeps qu s hz
  | .groupSet qu => execGroupSet_keeps qu s hz
  | .groupSetDelete qu => execGroupSetDelete_keeps qu s hz
  | .queueCreate qu => execQueueCreate_keeps qu s hz
  | .queueResume qu => execQueueResume_keeps qu s hz
  | .queuePause qu => execQueuePause_keeps qu s hz
  | .queueDelete qu => execQueueDelete_keeps qu s hz
  | .map qu => execMap_keeps qu s hz
  | .unmap qu => execUnmap_keeps qu s hz
  | .contextCreate qu => execContextCreate_keeps qu s hz
  | .contextDestroy qu => execContextDestroy_keeps qu s hz
  | .contextReseed qu => execContextReseed_keeps qu s hz
  | .contextQuery qu => execContextQuery_keeps qu s hz
  | .homingSet qu => execHomingSet_keeps qu s hz
  | .memQos qu => execMemQos_keeps qu s hz
  | .gleanerSet qu => execGleanerSet_keeps qu s hz
  | .selftestSet qu => execSelftestSet_keeps qu s hz
  | .coreRetest qu rows other => execCoreRetest_keeps qu rows other s hz
  | .hedgerowRule qu => execHedgerowRule_keeps qu s hz
  | .guestRetrain qu => execGuestRetrain_keeps qu s hz
  | .keySlotLoad qu => execKeySlotLoad_keeps qu s hz
  | .keySlotClear qu => execKeySlotClear_keeps qu s hz
  | .attest qu spoil flashFail => execAttest_keeps qu spoil flashFail s hz
  | .launch qu => execLaunch_keeps qu s hz
  | .copy qu => execCopy_keeps qu s hz
  | .mark qu => execMark_keeps qu s hz
  | .commandTimeout qu seq => execCommandTimeout_keeps qu seq s hz
  | .commandReadTimeout qu seq => execCommandReadTimeout_keeps qu seq s hz
  | .runStart qu seq => execRunStart_keeps qu seq s hz
  | .runEnded qu seq => execRunEnded_keeps qu seq s hz
  | .commandDecide qu => execCommandDecide_keeps qu s hz
  | .redispatch qu seq => execRedispatch_keeps qu seq s hz
  | .portRateAlternate p => execPortRateAlternate_keeps p s hz
  | .portLock p => execPortLock_keeps p s hz
  | .portLockAlarm p => execPortLockAlarm_keeps p s hz
  | .portDown p uncorr => execPortDown_keeps p uncorr s hz
  | .frameReceive p frame => execFrameReceive_keeps p frame s hz
  | .pfcPauseReceive p prio pause => execPfcPauseReceive_keeps p prio pause s hz
  | .pfcPauseTimeout p prio => execPfcPauseTimeout_keeps p prio s hz
  | .fabHostqPtrWrite p r v => execFabHostqPtrWrite_keeps p r v s hz
  | .hostTxSend p r => execHostTxSend_keeps p r s hz
  | .connect peer v4 msg => execConnect_keeps peer v4 msg s hz
  | .close frame => execClose_keeps frame s hz
  | .drillWrite frame => execDrillWrite_keeps frame s hz
  | .drillRead frame => execDrillRead_keeps frame s hz
  | .drillAck frame => execDrillAck_keeps frame s hz
  | .drillNak frame => execDrillNak_keeps frame s hz
  | .drillSack frame => execDrillSack_keeps frame s hz
  | .drillRetransmit conn flow => execDrillRetransmit_keeps conn flow s hz
  | .drillPendingTimeout conn => execDrillPendingTimeout_keeps conn s hz
  | .listenEntryWrite off v => execListenEntryWrite_keeps off v s hz
  | .qpEntryWrite off v => execQpEntryWrite_keeps off v s hz
  | .roceRdmaWrite qp psn rkey va data => execRoceRdmaWrite_keeps qp psn rkey va data s hz
  | .roceRdmaRead qp psn rkey va len => execRoceRdmaRead_keeps qp psn rkey va len s hz
  | .roceSend p qp psn data => execRoceSend_keeps p qp psn data s hz
  | .roceCnp qp => execRoceCnp_keeps qp s hz
  | .roceRateRecover qp => execRoceRateRecover_keeps qp s hz
  | .roceAckTimeout qp => execRoceAckTimeout_keeps qp s hz
  | .ptpMessage p ptp rate => execPtpMessage_keeps p ptp rate s hz
  | .ptpHoldover => execPtpHoldover_keeps s hz
  | .ppsEdge => execPpsEdge_keeps s hz
  | .ppsLost => execPpsLost_keeps s hz
  | .mgmtRateAlternate => execMgmtRateAlternate_keeps s hz
  | .dhcpAttempt => execDhcpAttempt_keeps s hz
  | .dhcpOffer addr opt43 => execDhcpOffer_keeps addr opt43 s hz
  | .recoveryFetch => execRecoveryFetch_keeps s hz
  | .tftpBlockTimeout => execTftpBlockTimeout_keeps s hz
  | .consoleInput src port bytes => execConsoleInput_keeps src port bytes s hz
  | .inputVoltageSample reports current => execInputVoltageSample_keeps reports current s hz
  | .inputRestored => execInputRestored_keeps s hz
  | .powerGood buses => execPowerGood_keeps buses s hz
  | .converterFail sc => execConverterFail_keeps sc s hz
  | .domainCapAdjust q d ma => execDomainCapAdjust_keeps q d ma s hz
  | .powerManagerTick power demand => execPowerManagerTick_keeps power demand s hz
  | .offsetUpdate avg => execOffsetUpdate_keeps avg s hz
  | .brakeInput asserted => execBrakeInput_keeps asserted s hz
  | .brakeHeldAlarm => execBrakeHeldAlarm_keeps s hz
  | .fallowEntry q c fs => execFallowEntry_keeps q c fs s hz
  | .wakeRequest q c => execWakeRequest_keeps q c s hz
  | .wakeGrant q ma => execWakeGrant_keeps q ma s hz
  | .wakeForced q c cap => execWakeForced_keeps q c cap s hz
  | .wakeComplete q c rows other => execWakeComplete_keeps q c rows other s hz
  | .tineFail q t => execTineFail_keeps q t s hz
  | .housekeepingRound => execHousekeepingRound_keeps s hz
  | .roundResults q temps minv volts amps tines => execRoundResults_keeps q temps minv volts amps tines s hz
  | .roundMissing q => execRoundMissing_keeps q s hz
  | .paceInterval q c count mv => execPaceInterval_keeps q c count mv s hz
  | .criticalLimitStep q c => execCriticalLimitStep_keeps q c s hz
  | .tripRecheck q => execTripRecheck_keeps q s hz
  | .referenceCheck dev missed => execReferenceCheck_keeps dev missed s hz
  | .loopUnlock q cd => execLoopUnlock_keeps q cd s hz
  | .timeBaseSync q => execTimeBaseSync_keeps q s hz
  | .coreReset q c => execCoreReset_keeps q c s hz
  | .clusterReset q k => execClusterReset_keeps q k s hz
  | .coreHeadland q c => execCoreHeadland_keeps q c s hz
  | .quarterFault q stay => execQuarterFault_keeps q stay s hz
  | .headlandEnd q => execHeadlandEnd_keeps q s hz
  | .baseDieReset q rise => execBaseDieReset_keeps q rise s hz
  | .quarterResetStep q ok => execQuarterResetStep_keeps q ok s hz
  | .retryLaterReissue k => execRetryLaterReissue_keeps k s hz
  | .moduleReset => execModuleReset_keeps s hz
  | .moduleDrainTimeout => execModuleDrainTimeout_keeps s hz
  | .modResetInput asserted => execModResetInput_keeps asserted s hz
  | .modResetHeld => execModResetHeld_keeps s hz
  | .harrowWave q wv fails settled => execHarrowWave_keeps q wv fails settled s hz
  | .hubPllLock ok => execHubPllLock_keeps ok s hz
  | .firmwareVerify => execFirmwareVerify_keeps s hz
  | .osCoreRelease => execOsCoreRelease_keeps s hz
  | .fwRecoverInput asserted => execFwRecoverInput_keeps asserted s hz
  | .fuseBlow partly => execFuseBlow_keeps partly s hz
  | .bootKeyGenerate => execBootKeyGenerate_keeps s hz
  | .entropyTestFail => execEntropyTestFail_keeps s hz
  | .logRecord sev src code payload => execLogRecord_keeps sev src code payload s hz
  | .logWrite => execLogWrite_keeps s hz
  | .alarmRaise code src detail => execAlarmRaise_keeps code src detail s hz
  | .alarmResend => execAlarmResend_keeps s hz
  | .alarmClose k => execAlarmClose_keeps k s hz
  | .mgmtTransmit => execMgmtTransmit_keeps s hz
  | .telemetrySend kind => execTelemetrySend_keeps kind s hz
  | .traceRecord coll typ src data => execTraceRecord_keeps coll typ src data s hz
  | .counterSnapshot => execCounterSnapshot_keeps s hz
  | .wdrTraceCfgWrite v => execWdrTraceCfgWrite_keeps v s hz
  | .devRead off width => execDevRead_keeps off width s hz
  | .idSetOffset bytes => execIdSetOffset_keeps bytes s hz
  | .idRead n => execIdRead_keeps n s hz
  | .idSclTimeout => execIdSclTimeout_keeps s hz
  | .linkTraining l fwd rev => execLinkTraining_keeps l fwd rev s hz
  | .entropyStartUpTest => execEntropyStartUpTest_keeps s hz
  | .droopSensorReading q d sensor mv => execDroopSensorReading_keeps q d sensor mv s hz
  | .auxiliarySupplyChange mv => execAuxiliarySupplyChange_keeps mv s hz
  | .roceAckReceive qp kind psn => execRoceAckReceive_keeps qp kind psn s hz
  | .tftpBlockReceive block data wrong => execTftpBlockReceive_keeps block data wrong s hz

/-! ## A step is the front command, or a cycle of the clock -/

/-- What a step can do: it carries out the front command on the queue's rest, or with no command waiting lets the clock tick once its PLL is locked. -/
theorem step_cases {s t : State} (h : step s = .next t) :
    (∃ c rest, s.pending = c :: rest ∧ exec c { s with pending := rest } = .next t) ∨
    (s.pending = [] ∧ t = if s.clk.pllLocked then tick s else s) := by
  unfold step at h
  split at h
  · exact .inl ⟨_, _, ‹_›, h⟩
  · cases h
    exact .inr ⟨‹_›, rfl⟩

/-- A property is kept by every step when it speaks of neither the queue nor the clock and the relation `Keeps` carries it over. -/
theorem step_invariant {P : State → Prop} (hqueue : ∀ s rest, P s → P { s with pending := rest }) (htick : ∀ s, P s → P (tick s))
    (hkeeps : ∀ s t, Keeps s t → P s → P t) {s t : State} (h : step s = .next t) (hs : P s) : P t := by
  obtain ⟨c, rest, -, hc⟩ | ⟨-, rfl⟩ := step_cases h
  · exact hkeeps _ _ (exec_keeps c _ (keepsRefl _) t hc) (hqueue s rest hs)
  · split
    · exact htick s hs
    · exact hs

/-! ## Legal states and canonical states -/

/-- Whether a state is legal depends on its fuses and on the identity store's offset alone. -/
theorem State.Legal.congr {s t : State} (h : s.Legal) (hf : t.fuse = s.fuse) (ho : t.idst.offset = s.idst.offset) : t.Legal where
  svnFloor := hf ▸ h.svnFloor
  epochUsed := hf ▸ h.epochUsed
  epochSpoiled := hf ▸ h.epochSpoiled
  offset := ho ▸ h.offset
  cores := hf ▸ h.cores

/-- Every step keeps the fuse counts, the offset and the cores of each half within their ranges. -/
theorem step_legal {s t : State} (h : step s = .next t) (hs : s.Legal) : t.Legal :=
  step_invariant (P := State.Legal) (fun _ _ hl => hl.congr rfl rfl) (fun _ hl => hl.congr rfl rfl) (fun _ _ k => k.legal) h hs

/-- Every step keeps memories and tables in their canonical form. -/
theorem step_canonical {s t : State} (h : step s = .next t) (hs : s.canonical = true) : t.canonical = true :=
  step_invariant (P := fun x => x.canonical = true) (fun _ _ hc => hc) (fun _ hc => hc) (fun _ _ k => k.canon) h hs

/-- Settles O49: each command keeps (`exec_keeps`), and neither the queue nor the clock bears on the two properties. -/
theorem legalStatesStay : Obligations.LegalStatesStay :=
  ⟨fun _ _ => step_legal, fun _ _ => step_canonical⟩

end Sys2Proof.Machine
end

section
/-! SUPPORT. What is read from a store of written and poisoned words after a write and after a clearing (11 R321 to R323, Table 11-2). -/
namespace Sys2Proof.Machine

/-! ## Lists of word numbers -/

theorem mem_ladd (l : List Nat) (i j : Nat) : j ∈ ladd l i ↔ j = i ∨ j ∈ l := by
  induction l with
  | nil => simp [ladd]
  | cons k t ih =>
    unfold ladd
    split
    · subst_vars; simp
    · split
      · simp
      · simp only [List.mem_cons, ih, or_left_comm]

theorem mem_foldl_ladd (ws l : List Nat) (j : Nat) : j ∈ ws.foldl ladd l ↔ j ∈ ws ∨ j ∈ l := by
  induction ws generalizing l with
  | nil => simp
  | cons k t ih => simp only [List.foldl_cons, ih, mem_ladd, List.mem_cons, or_left_comm, or_assoc]

theorem mem_idxFrom (a n i : Nat) : i ∈ idxFrom a n ↔ a ≤ i ∧ i < a + n := by
  induction n generalizing a with
  | zero => simp [idxFrom]
  | succ n ih => simp only [idxFrom, List.mem_cons, ih]; omega

/-- The words that bytes touch are those whose own bytes overlap them. -/
theorem mem_wordsOf {w : Nat} (hw : 0 < w) (a n i : Nat) : i ∈ wordsOf w a n ↔ n ≠ 0 ∧ i * w < a + n ∧ a < (i + 1) * w := by
  unfold wordsOf
  split
  · simp_all
  · have hlo : a / w ≤ i ↔ a < (i + 1) * w := by rw [← Nat.lt_succ_iff, Nat.div_lt_iff_lt_mul hw]
    have hhi : i ≤ (a + n - 1) / w ↔ i * w ≤ a + n - 1 := Nat.le_div_iff_mul_le hw
    have hle : a / w ≤ (a + n - 1) / w := Nat.div_le_div_right (by omega)
    rw [mem_idxFrom]
    omega

/-- A list without the words of a condition. -/
theorem mem_filter_not (l : List Nat) (q : Nat → Bool) (i : Nat) : i ∈ l.filter (fun j => !q j) ↔ i ∈ l ∧ ¬ q i = true := by simp

/-! ## A write -/

section
variable (w a i : Nat) (b : List Byte) (p : Bool) (st : Store)

@[simp] theorem stWrite_bytes : (stWrite w st a b p).bytes = mwrite st.bytes a b := rfl

theorem stRead_stWrite_bytes : (stRead w (stWrite w st a b p) a b.length).1 = b := mread_mwrite b st.bytes a

theorem mem_stWrite_wr : i ∈ (stWrite w st a b p).wr ↔ i ∈ wordsOf w a b.length ∨ i ∈ st.wr := mem_foldl_ladd _ _ _

/-- Poisoned data poisons every word that it touches, and no other. -/
theorem mem_stWrite_psn_true : i ∈ (stWrite w st a b true).psn ↔ i ∈ wordsOf w a b.length ∨ i ∈ st.psn := mem_foldl_ladd _ _ _

/-- Unpoisoned data takes the poison from the words that it gives whole, and from no other. -/
theorem mem_stWrite_psn_false :
    i ∈ (stWrite w st a b false).psn ↔ i ∈ st.psn ∧ ¬ (i ∈ wordsOf w a b.length ∧ a ≤ i * w ∧ (i + 1) * w ≤ a + b.length) := by
  refine (mem_filter_not st.psn _ i).trans ?_
  simp only [Bool.and_eq_true, List.contains_iff_mem, decide_eq_true_eq]

/-- A word that is not touched keeps its poison. -/
theorem mem_stWrite_psn_of_notMem (h : i ∉ wordsOf w a b.length) : i ∈ (stWrite w st a b p).psn ↔ i ∈ st.psn := by
  cases p
  · simp [mem_stWrite_psn_false, h]
  · simp [mem_stWrite_psn_true, h]
end

/-- A word within the bytes is touched. -/
theorem mem_wordsOf_of_whole {w a n i : Nat} (hw : 0 < w) (hlo : a ≤ i * w) (hhi : (i + 1) * w ≤ a + n) : i ∈ wordsOf w a n := by
  have hnext : (i + 1) * w = i * w + w := Nat.succ_mul i w
  exact (mem_wordsOf hw a n i).2 (by omega)

/-- A word beside the bytes is not touched. -/
theorem notMem_wordsOf_of_outside {w a n i : Nat} (hw : 0 < w) (h : (i + 1) * w ≤ a ∨ a + n ≤ i * w) : i ∉ wordsOf w a n := by
  rw [mem_wordsOf hw]
  omega

/-- A word touched by poisoned data, and a poisoned word written in part, is poisoned. -/
theorem mem_stWrite_psn_of_touched {w a i : Nat} {b : List Byte} {p : Bool} {st : Store} (ht : i ∈ wordsOf w a b.length)
    (hp : p = true ∨ (i ∈ st.psn ∧ (i * w < a ∨ a + b.length < (i + 1) * w))) : i ∈ (stWrite w st a b p).psn := by
  cases p with
  | true => exact (mem_stWrite_psn_true w a i b st).2 (.inl ht)
  | false =>
    obtain ⟨hi, hpart⟩ := hp.resolve_left (by simp)
    exact (mem_stWrite_psn_false w a i b st).2 ⟨hi, by omega⟩

/-! ## A cleared range -/

/-- A table filtered by its indexes lists those that pass. -/
theorem tfind_filter {α : Type} (t : Tab α) (q : Nat → Bool) (i : Nat) :
    tfind (t.filter (fun e => q e.1)) i = if q i then tfind t i else none := by
  induction t with
  | nil => simp [tfind]
  | cons e t ih =>
    obtain ⟨k, x⟩ := e
    rw [List.filter_cons]
    by_cases hik : i = k
    · subst hik
      by_cases hq : q i = true <;> simp [tfind, hq, ih]
    · by_cases hq : q k = true <;> simp [tfind, hq, hik, ih]

theorem mget_stClear (w : Nat) (st : Store) (a n c : Nat) :
    mget (stClear w st a n).bytes c = if a ≤ c ∧ c < a + n then 0 else mget st.bytes c := by
  simp only [stClear, mget, tget, tfind_filter st.bytes (fun k => !(decide (a ≤ k) && decide (k < a + n)))]
  by_cases h : a ≤ c ∧ c < a + n
  · simp [h]
  · rw [if_neg h, if_pos]
    simpa only [Bool.not_eq_true', Bool.and_eq_false_iff, decide_eq_false_iff_not, ← not_and_or] using h

/-- In a range of whole words, the words that start within it are its own. -/
theorem wordStart_in_range {w : Nat} (hw : 0 < w) (a n i : Nat) : (a * w ≤ i * w ∧ i * w < a * w + n * w) ↔ a ≤ i ∧ i < a + n := by
  rw [← Nat.add_mul, Nat.mul_le_mul_right_iff hw, Nat.mul_lt_mul_right hw]

theorem mem_stClear_psn {w : Nat} (hw : 0 < w) (st : Store) (a n i : Nat) :
    i ∈ (stClear w st (a * w) (n * w)).psn ↔ i ∈ st.psn ∧ ¬ (a ≤ i ∧ i < a + n) := by
  refine (mem_filter_not _ _ i).trans ?_
  simp only [Bool.and_eq_true, decide_eq_true_eq, wordStart_in_range hw]

theorem mem_stClear_wr {w : Nat} (hw : 0 < w) (st : Store) (a n i : Nat) :
    i ∈ (stClear w st (a * w) (n * w)).wr ↔ i ∈ st.wr ∧ ¬ (a ≤ i ∧ i < a + n) := by
  refine (mem_filter_not _ _ i).trans ?_
  simp only [Bool.and_eq_true, decide_eq_true_eq, wordStart_in_range hw]

/-! ## The scratchpads of the cores (2 MiB each) -/

theorem mread_congr {m m' : Mem} (a n : Nat) (h : ∀ c, a ≤ c → c < a + n → mget m c = mget m' c) : mread m a n = mread m' a n := by
  induction n generalizing a with
  | zero => rfl
  | succ n ih =>
    rw [mread, mread, h a (Nat.le_refl a) (by omega), ih (a + 1) (fun c hlo hhi => h c (by omega) (by omega))]

/-- A read sees no more of a store than its bytes and the poison of the words that it touches. -/
theorem stRead_congr {st st' : Store} (w a n : Nat) (hb : ∀ c, a ≤ c → c < a + n → mget st.bytes c = mget st'.bytes c)
    (hp : ∀ i ∈ wordsOf w a n, (i ∈ st.psn ↔ i ∈ st'.psn)) : stRead w st a n = stRead w st' a n := by
  refine Prod.ext (mread_congr a n hb) (Bool.eq_iff_iff.2 ?_)
  simp only [stRead, List.any_eq_true, List.contains_iff_mem]
  exact exists_congr fun i => and_congr_right (hp i)

/-- A write leaves what another core's scratchpad reads as it was: the two lie apart, on whole words. -/
theorem tilRead_tilWrite_other {n off k o len : Nat} (b : List Byte) (p : Bool) (s : State) (hoff : off + b.length ≤ 0x20_0000)
    (ho : o + len ≤ 0x20_0000) (hk : k ≠ n) : tilRead (tilWrite n off b p s) k o len = tilRead s k o len := by
  refine stRead_congr 8 _ len (fun c hlo hhi => ?_) (fun i hi => ?_)
  · refine mget_mwrite_outside b s.mem.tilth.bytes _ c ?_
    simp only [tilAt] at hlo hhi ⊢
    omega
  · refine mem_stWrite_psn_of_notMem 8 _ i b p _ (notMem_wordsOf_of_outside (by omega) ?_)
    obtain ⟨-, hlo, hhi⟩ := (mem_wordsOf (by omega) _ _ i).1 hi
    simp only [tilAt] at hlo hhi ⊢
    omega

/-- Settles O58, clause by clause: bytes, whole words, words not touched, poison that comes or stays, the cleared range, the scratchpads. -/
theorem writtenWordsReadBack : Obligations.WrittenWordsReadBack := by
  refine ⟨fun w a b p st => ⟨stRead_stWrite_bytes w a b p st, fun c hc => mget_mwrite_outside b st.bytes a c hc⟩, ?_, ?_, ?_, ?_, ?_⟩
  · intro w a i b st hw hlo hhi
    have ht := mem_wordsOf_of_whole hw hlo hhi
    exact ⟨fun h => ((mem_stWrite_psn_false w a i b st).1 h).2 ⟨ht, hlo, hhi⟩, (mem_stWrite_wr w a i b false st).2 (.inl ht),
      (mem_stWrite_psn_true w a i b st).2 (.inl ht)⟩
  · intro w a i b p st hw hout
    have ht := notMem_wordsOf_of_outside hw hout
    exact ⟨mem_stWrite_psn_of_notMem w a i b p st ht, (mem_stWrite_wr w a i b p st).trans (or_iff_right ht)⟩
  · intro w a i b p st hw hhi hlo hb hp
    exact mem_stWrite_psn_of_touched ((mem_wordsOf hw a b.length i).2 ⟨by simpa using hb, hhi, hlo⟩) hp
  · intro w a n st hw
    exact ⟨mget_stClear w st (a * w) (n * w), fun i => ⟨mem_stClear_psn hw st a n i, mem_stClear_wr hw st a n i⟩⟩
  · intro n off k o len b p s hoff ho hk
    exact ⟨stRead_stWrite_bytes 8 (tilAt n off) b p s.mem.tilth, tilRead_tilWrite_other b p s hoff ho hk, rfl⟩

end Sys2Proof.Machine
end

section
/-! SUPPORT. Commands on registers, through an OS core, the development port and the identity store, when their condition holds. -/
namespace Sys2Proof.Machine

/-- An event whose condition holds occurs. -/
theorem evt_of_true {b : Bool} {s t : State} (h : b = true) : evt b s t = .next t := by rw [evt, if_pos h]

/-- The condition of OS_CORE_ACCESS from its parts. `full` is a variable, so that its value may be given in the statement's own spelling. -/
theorem osAccess_condition {serves idle full one : Bool} {core : Nat} (hs : serves = true) (hcore : core < 16) (hidle : idle = true)
    (hfull : full = false) (hone : one = true) : (serves && decide (core < 16) && idle && !full && one) = true := by
  subst hs hidle hfull hone
  simp only [hcore, decide_true, Bool.not_false, Bool.and_self]

/-- Settles O40: each command's condition is the statement's hypotheses, and its next state is the one of its row. -/
theorem registersAndIdentity : Obligations.RegistersAndIdentity := by
  refine ⟨?_, ?_, ?_, ?_, ?_, ?_⟩
  · intro off width v s hs hoff
    exact evt_of_true (by simp only [hs, hoff, decide_true, Bool.and_self])
  · rintro core write addr width v err s x unit ps s1 full rfl rfl rfl rfl rfl hs hcore hawait hfull hone
    exact evt_of_true (osAccess_condition hs hcore hawait hfull hone)
  · rintro off width s r s1 rfl rfl hhub hload hdebug hlife
    exact evt_of_true (by simp only [hhub, hload, hdebug, hlife, Bool.not_false, beq_self_eq_true, Bool.and_self])
  · intro bytes s haux
    exact evt_of_true haux
  · intro n s haux
    exact evt_of_true haux
  · intro s haux
    exact evt_of_true haux

end Sys2Proof.Machine
end

section
/-! SUPPORT. LPDDR homing and mapping: a list of stacks holds its units in turn, a region is one list or four,
and the mapping is one to one (R21 to R24, R305, R306). -/
namespace Sys2Proof.Machine

/-! ## Units dealt to a list of stacks in turn -/

/-- Stack, and offset in its share of 1 GiB, of an offset whose 256-byte units go to the stacks of a list in turn. -/
def stripe (l : List Nat) (o : Nat) : Nat × Nat := (l.getD (o / 256 % l.length) 0, o / 256 / l.length * 256 + o % 256)
/-- The offset of a place in a stack's share. -/
def unstripe (l : List Nat) (m z : Nat) : Nat := (z / 256 * l.length + l.idxOf m) * 256 + z % 256

theorem stripe_mem {l : List Nat} (hl : l ≠ []) (o : Nat) : (stripe l o).1 ∈ l := by
  have hi : o / 256 % l.length < l.length := Nat.mod_lt _ (List.length_pos_iff.2 hl)
  rw [stripe, List.getD_eq_getElem l 0 hi]
  exact List.getElem_mem hi

/-- An offset within the shares of its stacks falls within one share. -/
theorem stripe_lt {l : List Nat} {o : Nat} (ho : o < l.length * 2 ^ 30) : (stripe l o).2 < 2 ^ 30 := by
  have hu : o / 256 / l.length < 2 ^ 22 := Nat.div_lt_of_lt_mul (by omega)
  simp only [stripe]
  omega

theorem unstripe_stripe {l : List Nat} (hl : l ≠ []) (hd : l.Nodup) (o : Nat) : unstripe l (stripe l o).1 (stripe l o).2 = o := by
  have hi : o / 256 % l.length < l.length := Nat.mod_lt _ (List.length_pos_iff.2 hl)
  have hidx : l.idxOf (stripe l o).1 = o / 256 % l.length := by
    rw [stripe, List.getD_eq_getElem l 0 hi, hd.idxOf_getElem]
  have hunit : (stripe l o).2 / 256 = o / 256 / l.length := by simp only [stripe]; omega
  have hbyte : (stripe l o).2 % 256 = o % 256 := by simp only [stripe]; omega
  rw [unstripe, hidx, hunit, hbyte, Nat.div_add_mod', Nat.div_add_mod']

/-! ## The stacks of a part, and the shares of the quarters in a region -/

theorem stackList_nodup (s : State) : (stackList s).Nodup := by
  unfold stackList
  split <;> decide

theorem regionSize_eq (s : State) : regionSize s = (stackList s).length * 2 ^ 30 := by
  unfold regionSize stackList is4B
  cases s.fuse.part <;> rfl

theorem regionSize_pos (s : State) : 0 < regionSize s := by
  unfold regionSize
  split <;> decide

/-- Where the share of a quarter begins in a region of quarter-local mode (R23). -/
def shareBase (s : State) : Nat → Nat
  | 0 => 0
  | q + 1 => shareBase s q + (quarterStacks s q).length * 2 ^ 30
/-- The quarter whose share holds an offset. -/
def shareQuarter (s : State) (o : Nat) : Nat :=
  if o < shareBase s 1 then 0 else if o < shareBase s 2 then 1 else if o < shareBase s 3 then 2 else 3

theorem mem_quarterStacks (s : State) (q m : Nat) : m ∈ quarterStacks s q ↔ m ∈ stackList s ∧ m / 2 = q := by
  rw [quarterStacks, List.mem_filter, beq_iff_eq, stackQuarter]

theorem quarterStacks_nodup (s : State) (q : Nat) : (quarterStacks s q).Nodup := (stackList_nodup s).filter _

/-- The shares of the quarters hold every stack once. -/
theorem quarterStacks_length_sum (s : State) :
    (quarterStacks s 0).length + (quarterStacks s 1).length + (quarterStacks s 2).length + (quarterStacks s 3).length = (stackList s).length := by
  unfold quarterStacks stackList
  split <;> decide

/-- The four shares fill a region. -/
theorem shareBase_four (s : State) : shareBase s 4 = regionSize s := by
  rw [regionSize_eq, ← quarterStacks_length_sum]
  simp only [shareBase]
  omega

/-- The share of a quarter begins after those of the quarters before it, as the inverse mapping counts them. -/
theorem sum_range_quarterStacks (s : State) (q : Nat) :
    ((List.range q).map (fun i => (quarterStacks s i).length)).foldl (· + ·) 0 * 2 ^ 30 = shareBase s q := by
  induction q with
  | zero => exact Nat.zero_mul _
  | succ q ih =>
    rw [List.range_succ, List.map_append, List.foldl_append, shareBase, ← ih, ← Nat.add_mul]
    rfl

theorem shareBase_le (s : State) (o : Nat) : shareBase s (shareQuarter s o) ≤ o := by
  unfold shareQuarter
  split_ifs with h1 h2 h3
  · exact Nat.zero_le o
  · exact Nat.le_of_not_lt h1
  · exact Nat.le_of_not_lt h2
  · exact Nat.le_of_not_lt h3

theorem lt_shareBase_succ {s : State} {o : Nat} (ho : o < regionSize s) : o < shareBase s (shareQuarter s o + 1) := by
  unfold shareQuarter
  split_ifs with h1 h2 h3
  · exact h1
  · exact h2
  · exact h3
  · rwa [shareBase_four]

/-- The quarter of an offset and where its share begins, as `lpLoc` finds them together. -/
theorem quarter_and_base (s : State) (o : Nat) :
    (if o < (quarterStacks s 0).length * 2 ^ 30 then (0, 0)
     else if o < (quarterStacks s 0).length * 2 ^ 30 + (quarterStacks s 1).length * 2 ^ 30 then (1, (quarterStacks s 0).length * 2 ^ 30)
     else if o < (quarterStacks s 0).length * 2 ^ 30 + (quarterStacks s 1).length * 2 ^ 30 + (quarterStacks s 2).length * 2 ^ 30 then
       (2, (quarterStacks s 0).length * 2 ^ 30 + (quarterStacks s 1).length * 2 ^ 30)
     else (3, (quarterStacks s 0).length * 2 ^ 30 + (quarterStacks s 1).length * 2 ^ 30 + (quarterStacks s 2).length * 2 ^ 30)) =
      (shareQuarter s o, shareBase s (shareQuarter s o)) := by
  have h1 : (quarterStacks s 0).length * 2 ^ 30 = shareBase s 1 := by rw [shareBase, shareBase, Nat.zero_add]
  have h2 : shareBase s 1 + (quarterStacks s 1).length * 2 ^ 30 = shareBase s 2 := rfl
  have h3 : shareBase s 2 + (quarterStacks s 2).length * 2 ^ 30 = shareBase s 3 := rfl
  rw [h1, h2, h3, shareQuarter]
  split_ifs <;> rfl

/-! ## The mapping in either mode -/

/-- The stacks among which the units of region k at offset o are dealt, and where in the region their share begins. -/
def holders (s : State) (k o : Nat) : List Nat × Nat :=
  if s.pel.local_.contains k then (quarterStacks s (shareQuarter s o), shareBase s (shareQuarter s o)) else (stackList s, 0)

theorem holders_of_fine {s : State} {k : Nat} (h : s.pel.local_.contains k = false) (o : Nat) : holders s k o = (stackList s, 0) := by
  rw [holders, h, if_neg Bool.false_ne_true]

theorem holders_of_local {s : State} {k : Nat} (h : s.pel.local_.contains k = true) (o : Nat) :
    holders s k o = (quarterStacks s (shareQuarter s o), shareBase s (shareQuarter s o)) := by
  rw [holders, if_pos h]

theorem holders_nodup (s : State) (k o : Nat) : (holders s k o).1.Nodup := by
  unfold holders
  split
  · exact quarterStacks_nodup s _
  · exact stackList_nodup s

theorem mem_stackList_of_mem_holders {s : State} {k o m : Nat} (h : m ∈ (holders s k o).1) : m ∈ stackList s := by
  unfold holders at h
  split at h
  · exact ((mem_quarterStacks s _ m).1 h).1
  · exact h

/-- An offset of a region lies in the share of its holders. -/
theorem holders_range {s : State} {o : Nat} (k : Nat) (ho : o < regionSize s) :
    (holders s k o).2 ≤ o ∧ o - (holders s k o).2 < (holders s k o).1.length * 2 ^ 30 := by
  unfold holders
  split
  · have hle := shareBase_le s o
    have hlt := lt_shareBase_succ ho
    rw [shareBase] at hlt
    exact ⟨hle, by dsimp only; omega⟩
  · exact ⟨Nat.zero_le o, ho.trans_eq (regionSize_eq s)⟩

theorem holders_ne_nil {s : State} {o : Nat} (k : Nat) (ho : o < regionSize s) : (holders s k o).1 ≠ [] := by
  have h := (holders_range k ho).2
  intro hnil
  simp [hnil] at h

/-- The stack that holds offset o of region k, and the address in its share of the region. -/
def spot (s : State) (k o : Nat) : Nat × Nat := stripe (holders s k o).1 (o - (holders s k o).2)

theorem lpLoc_eq (s : State) (x : Nat) :
    lpLoc s x = ((spot s (x / regionSize s) (x % regionSize s)).1, x / regionSize s * 2 ^ 30 + (spot s (x / regionSize s) (x % regionSize s)).2) := by
  unfold lpLoc
  extract_lets rs k o share b1 b2 b3 l u
  by_cases h : s.pel.local_.contains k = true
  · have hshare : (if o < b1 then (0, 0) else if o < b2 then (1, b1) else if o < b3 then (2, b2) else (3, b3)) =
        (shareQuarter s o, shareBase s (shareQuarter s o)) := quarter_and_base s o
    rw [if_pos h, hshare, spot, holders_of_local h, stripe, ← Nat.add_assoc]
    rfl
  · rw [if_neg h, spot, holders_of_fine (Bool.eq_false_iff.2 h), stripe, ← Nat.add_assoc]
    rfl

theorem lpLoc_fst (s : State) (x : Nat) : (lpLoc s x).1 = (spot s (x / regionSize s) (x % regionSize s)).1 := by rw [lpLoc_eq]
theorem lpLoc_snd (s : State) (x : Nat) : (lpLoc s x).2 = x / regionSize s * 2 ^ 30 + (spot s (x / regionSize s) (x % regionSize s)).2 := by
  rw [lpLoc_eq]

theorem spot_fst_mem {s : State} {o : Nat} (k : Nat) (ho : o < regionSize s) : (spot s k o).1 ∈ (holders s k o).1 :=
  stripe_mem (holders_ne_nil k ho) _

theorem spot_snd_lt {s : State} {o : Nat} (k : Nat) (ho : o < regionSize s) : (spot s k o).2 < 2 ^ 30 := stripe_lt (holders_range k ho).2

theorem unstripe_spot {s : State} {o : Nat} (k : Nat) (ho : o < regionSize s) :
    (holders s k o).2 + unstripe (holders s k o).1 (spot s k o).1 (spot s k o).2 = o := by
  rw [spot, unstripe_stripe (holders_ne_nil k ho) (holders_nodup s k o), Nat.add_sub_cancel' (holders_range k ho).1]

/-- The inverse mapping of a place. -/
theorem lpInv_eq {s : State} {k o m z : Nat} (hm : m ∈ (holders s k o).1) (hz : z < 2 ^ 30) :
    lpInv s m (k * 2 ^ 30 + z) = k * regionSize s + ((holders s k o).2 + unstripe (holders s k o).1 m z) := by
  have hk : (k * 2 ^ 30 + z) / 2 ^ 30 = k := by omega
  have hu : (k * 2 ^ 30 + z) % 2 ^ 30 / 256 = z / 256 := by omega
  have hb : (k * 2 ^ 30 + z) % 256 = z % 256 := by omega
  unfold lpInv
  simp only [hk, hu, hb]
  split
  · rename_i h
    rw [holders_of_local h] at hm ⊢
    obtain ⟨-, hq⟩ := (mem_quarterStacks s _ m).1 hm
    rw [← sum_range_quarterStacks, hq]
    simp only [unstripe, quarterStacks, stackQuarter, Nat.add_assoc]
  · rename_i h
    rw [holders_of_fine (Bool.eq_false_iff.2 h), unstripe, Nat.zero_add, Nat.add_assoc]

/-! ## The mapping is one to one -/

section
variable {s : State} {x : Nat}

theorem region_lt (hx : x < lpddrSize s) : x / regionSize s < 80 := by
  rw [lpddrSize, Nat.mul_comm] at hx
  exact Nat.div_lt_of_lt_mul hx

theorem lpLoc_fst_mem : (lpLoc s x).1 ∈ stackList s := by
  rw [lpLoc_fst]
  exact mem_stackList_of_mem_holders (spot_fst_mem _ (Nat.mod_lt x (regionSize_pos s)))

theorem lpLoc_snd_lt (hx : x < lpddrSize s) : (lpLoc s x).2 < 80 * 2 ^ 30 := by
  have hk := region_lt hx
  have hz := spot_snd_lt (x / regionSize s) (Nat.mod_lt x (regionSize_pos s))
  rw [lpLoc_snd]
  omega

theorem lpInv_lpLoc : lpInv s (lpLoc s x).1 (lpLoc s x).2 = x := by
  have ho := Nat.mod_lt x (regionSize_pos s)
  rw [lpLoc_fst, lpLoc_snd, lpInv_eq (spot_fst_mem _ ho) (spot_snd_lt _ ho), unstripe_spot _ ho, Nat.div_add_mod']

theorem place_of_lt (hx : x < lpddrSize s) : place s x = .lpddr := by
  unfold place
  split <;> exact if_pos hx

theorem homeHalf_div_two (hx : x < lpddrSize s) : homeHalf s x / 2 = (lpLoc s x).1 / 2 := by
  have hbit : halfBit (x >>> 8) < 2 := Nat.mod_lt _ (by decide)
  rw [homeHalf, place_of_lt hx]
  simp only [homeQuarter]
  omega
end

/-! ## Channels and bursts of a stack-local address -/

theorem bits_eq (v hi lo : Nat) : bits v hi lo = v / 2 ^ lo % 2 ^ (hi + 1 - lo) := by rw [bits, Nat.shiftRight_eq_div_pow]

theorem lpLocal_eq (y : Nat) : lpLocal y = y / 2 ^ 14 * 256 + y % 256 := by rw [lpLocal, Nat.shiftRight_eq_div_pow]

/-- The channel and the channel-local address determine the stack-local address. -/
theorem eq_of_lpChan_of_lpLocal {y z : Nat} (hc : lpChan y = lpChan z) (hl : lpLocal y = lpLocal z) : y = z := by
  rw [lpLocal_eq, lpLocal_eq] at hl
  have hhigh : y / 2 ^ 14 = z / 2 ^ 14 := by omega
  have hlow : y % 256 = z % 256 := by omega
  have hmask : bits y 19 14 = bits z 19 14 := by rw [bits_eq, bits_eq, hhigh]
  rw [lpChan, lpChan, hmask] at hc
  have hmid := Nat.xor_left_inj.1 hc
  simp only [bits_eq] at hmid
  omega

theorem lpChan_lt (y : Nat) : lpChan y < 64 := Nat.xor_lt_two_pow (n := 6) (Nat.mod_lt _ (by decide)) (Nat.mod_lt _ (by decide))

theorem lpRow_lt {y : Nat} (hy : y < 80 * 2 ^ 30) : lpRow y < 40960 := by
  rw [lpRow, lpLocal_eq, Nat.shiftRight_eq_div_pow]
  omega

theorem lpLocal_eq_burst (y : Nat) : lpLocal y = (lpRow y * 16 + lpBank y) * 2048 + lpCol y * 64 + y % 64 := by
  have hbyte : lpLocal y % 64 = y % 64 := by rw [lpLocal_eq]; omega
  simp only [lpRow, lpBank, lpCol, bits_eq, Nat.shiftRight_eq_div_pow]
  omega

/-- Settles O57: either mode deals units to the stacks of a list in turn (`lpLoc_eq`), which `lpInv` undoes; the rest is arithmetic on bit fields. -/
theorem lpddrMapping : Obligations.LpddrMapping := by
  refine ⟨?_, ?_, ?_, ?_⟩
  · intro s x _ hfine
    rw [lpLoc_eq, spot, holders_of_fine hfine]
    simp only [stripe, Nat.sub_zero, Nat.add_assoc]
  · intro s x hx
    exact ⟨lpLoc_fst_mem, lpLoc_snd_lt hx, homeHalf_div_two hx, lpInv_lpLoc⟩
  · intro y z _ _ hc hl
    exact eq_of_lpChan_of_lpLocal hc hl
  · intro y hy
    exact ⟨lpChan_lt y, Nat.mod_lt _ (by decide), Nat.mod_lt _ (by decide), lpRow_lt hy, lpLocal_eq_burst y⟩

end Sys2Proof.Machine
end

section
/-! SUPPORT. Admin commands on the granaries, the walkers, the cores and the guest port, when their checks hold. -/
namespace Sys2Proof.Machine

/-- Settles O33: each command is its row's next one, the hypotheses are the checks of its body, and what follows the checks is the
next state. GRANARY_CARVE checks twice, its fields and then, with no carve or pin in the way, the plots and the pins. -/
theorem carvesPinsAndRules : Obligations.CarvesPinsAndRules := by
  refine ⟨?_, ?_, ?_, ?_, ?_, ?_, ?_, ?_, ?_, ?_, ?_, ?_⟩
  · rintro qu s sa x k m hx rfl rfl rfl hd hk hm hu
    change execHomingSet qu s = _
    rw [execHomingSet, admin_row hx rfl, checks_ok]
    simp [hd, hk, hm, hu]
  · rintro qu s sa x h p lim l hf t hx rfl rfl rfl rfl rfl rfl hd hh hp hl ht hc hn hpl hpo hps rfl hst
    change execGranaryCarve qu s = _
    rw [execGranaryCarve, admin_row hx rfl, carveBody, checks_ok]
    · simp only [hc, hps, Option.isSome_none, Bool.or_self, Bool.false_eq_true, if_false]
      rw [checks_ok]
      · rw [if_neg hst]
      · simp [hn, hpl, hpo]
    · simp [hd, hh, hp, hl, ht]
  · rintro qu s sa x d h i o n hf hx rfl rfl rfl rfl rfl rfl rfl hd hh hi ho hn hpos hfit hfree hover
    change execPlotCreate qu s = _
    rw [execPlotCreate, admin_row hx rfl, checks_ok]
    simp [-Nat.reducePow, hd, hh, hi, ho, hn, hpos, hfit, hfree, hover]
  · rintro qu s sa x d h i hf p hx rfl rfl rfl rfl rfl rfl hd hh hi hu
    change execPlotDelete qu s = _
    rw [execPlotDelete, admin_row hx rfl, checks_ok]
    simp [hd, hh, hi, hu]
  · rintro qu s sa x d v n b z hx rfl rfl rfl rfl rfl rfl hd hv hb hz hmin hmax hfit hfree hover
    change execGranaryPin qu s = _
    rw [execGranaryPin, admin_row hx rfl, pinBody, checks_ok]
    simp [-Nat.reducePow, hd, hv, hb, hz, hmin, hmax, hfit, hfree, hover]
  · rintro qu s sa x n hx rfl rfl hd hn hp
    change execGranaryUnpin qu s = _
    rw [execGranaryUnpin, admin_row hx rfl, checks_ok]
    simp [hd, hn, hp]
  · rintro qu s sa x d q sh li hx rfl rfl rfl rfl rfl hd hq hsh hsum hone hlim
    change execMemQos qu s = _
    rw [execMemQos, admin_row hx rfl, checks_ok]
    simp [-Nat.reducePow, hd, hq, hsh, hsum, hone, hlim]
  · rintro qu s sa x v hx rfl rfl hd hint hint' hhour hhour' hrate hrate'
    change execGleanerSet qu s = _
    rw [execGleanerSet, admin_row hx rfl, checks_ok]
    simp [hd, hint, hint', hhour, hhour', hrate, hrate']
  · rintro qu s sa x v hx rfl rfl hd hmin hmax
    change execSelftestSet qu s = _
    rw [execSelftestSet, admin_row hx rfl, checks_ok]
    simp [hd, hmin, hmax]
  · rintro qu rows other s sa x n hx rfl rfl hd hq hc hf hheld
    change execCoreRetest qu rows other s = _
    rw [execCoreRetest, admin_row hx rfl, checks_ok]
    simp [hd, hq, hc, hf, hheld]
  · rintro qu s sa x d i r valid n hx rfl rfl rfl rfl rfl rfl hp hd hi hr hover
    change execHedgerowRule qu s = _
    rw [execHedgerowRule, admin_row hx rfl, checks_ok]
    simp [hp, hd, hi, hr, hover]
  · rintro qu s sa x hx rfl hp hd
    change execGuestRetrain qu s = _
    rw [execGuestRetrain, admin_row hx rfl, checks_ok]
    simp [hp, hd]

end Sys2Proof.Machine
end

section
/-! SUPPORT. The bodies of AISSUE, AWAIT and AQUERY once their checks pass (R49, R178 to R180). -/
namespace Sys2Proof.Machine

variable {v : Env} {s : State}

/-- The scratch position that SA names, from the stook's base. -/
def Env.scratchOff (v : Env) : Nat := v.stook.base + rd32 v.f (bits v.w 41 33) 0
/-- The command that AISSUE makes of its descriptor. -/
def Env.arrCmd (v : Env) (s : State) : ArrCmd :=
  { desc := descOf (scrRead s v.n v.scratchOff 64).1, stook := v.f.stook, sheaf := v.sl, launch := v.stook.launch, tainted := false }

/-- A descriptor that passes every check leaves AISSUE one question: whether the queue has room and no earlier issue waits. -/
theorem aissueBody_of_checks (hpfs : pfsOut (s.core v.n) v.sl = false) (hcode : descCode s v.n (scrRead s v.n v.scratchOff 64).1 = 0)
    (hscr : scrFault v.stook (rd32 v.f (bits v.w 41 33) 0) 64 64 = none) :
    aissueBody v s =
      if (s.core v.n).arr.queue.length < 8 ∧ (s.core v.n).arr.waiting = [] then
        .go (s.setCore v.n { s.core v.n with arr := { (s.core v.n).arr with queue := (s.core v.n).arr.queue ++ [v.arrCmd s] } }) none
      else
        .go ((s.setCore v.n { s.core v.n with arr := { (s.core v.n).arr with waiting := (s.core v.n).arr.waiting ++ [v.arrCmd s] } }).setSheaf
          v.n v.sl { v.f with arrWait := true }) (some v.f.pc) := by
  rw [Env.scratchOff] at hcode
  simp only [aissueBody, hpfs, hcode, hscr, ite_self, ne_eq, not_true_eq_false, if_false, Bool.false_eq_true]
  rfl

/-- AWAIT of an aligned record within the stook's scratch waits while a command names the record, and otherwise reads its first word. -/
theorem awaitBody_of_aligned (hscr : scrFault v.stook (rd32 v.f (bits v.w 41 33) 0) 32 32 = none) :
    awaitBody v s =
      if namesRecord (s.core v.n).arr v.scratchOff then .go (v.put { v.f with awaits := v.f.awaits ++ [(v.dst, v.scratchOff)] } s) none
      else if (tilRead s v.n v.scratchOff 4).2 then .fault 2 1 v.m (rd32 v.f (bits v.w 41 33) 0)
      else .go (v.write v.dst 1 [(0, leNat (tilRead s v.n v.scratchOff 4).1)] s) none := by
  simp only [awaitBody, hscr]
  rfl

/-- The mapped-out flag of AQUERY, bit 4. -/
theorem mapFlag_eq (l : List Nat) : 16 * b2n (!l.isEmpty) = if l = [] then 0 else 16 := by
  cases l <;> rfl

/-- ARRAY_QUEUE_ROOM acts while the queue holds fewer than eight commands. -/
theorem queueRoom_condition {q c : Nat} {l : List ArrCmd} (hwf : wfCore q c = true) (hroom : l.length < 8) :
    (wfCore q c && decide (l.length < 8)) = true := by
  simp only [hwf, hroom, decide_true, Bool.and_self]

/-- Settles O20: the issue does what the body answers (`issue_go`), the body is decided by the hypotheses, and ARRAY_QUEUE_ROOM's condition
is that an issue waits and the queue has room. -/
theorem arrayInstructionsComplete : Obligations.ArrayInstructionsComplete := by
  refine ⟨?_, ?_, ?_, ?_, ?_, ?_, ?_⟩
  · rintro v w e s c off x hv hpfs rfl rfl hcode - hscr rfl hroom
    refine congrArg Host.Outcome.next (issue_go aissueBody (pc := none) hv ?_)
    rw [aissueBody_of_checks hpfs hcode hscr, if_pos hroom]
    rfl
  · rintro v w e s c off x hv hpfs rfl rfl hcode - hscr rfl hfull
    refine congrArg Host.Outcome.next (issue_go aissueBody (pc := some v.f.pc) hv ?_)
    rw [aissueBody_of_checks hpfs hcode hscr, if_neg hfull]
    rfl
  · rintro v w e s off hv rfl hscr hnamed
    refine congrArg Host.Outcome.next (issue_go awaitBody (pc := none) hv ?_)
    rw [awaitBody_of_aligned hscr]
    exact if_pos hnamed
  · rintro v w e s off hv rfl hscr hnamed hclean
    refine congrArg Host.Outcome.next (issue_go awaitBody (pc := none) hv ?_)
    rw [awaitBody_of_aligned hscr, Env.scratchOff, hnamed, hclean]
    rfl
  · rintro v w e s a hv rfl
    refine congrArg Host.Outcome.next (issue_go aqueryBody (pc := none) hv ?_)
    rw [aqueryBody, mapFlag_eq]
    rfl
  · rintro q c n s t x rest rfl hwf hwait hroom htag rfl
    change execArrayQueueRoom q c s = _
    simp only [execArrayQueueRoom, hwait, htag]
    exact evt_of_true (queueRoom_condition hwf hroom)
  · rintro q c n s x rest rfl hwf hwait hroom htag
    change execArrayQueueRoom q c s = _
    simp only [execArrayQueueRoom, hwait, htag]
    exact evt_of_true (queueRoom_condition hwf hroom)

end Sys2Proof.Machine
end

section
/-! SUPPORT. The conditions under which an array command ends a tile and is done, and its completion code (R43 to R45, R51, R56). -/
namespace Sys2Proof.Machine

/-- With DRAIN the tile ends when its operands, its panels and a rounding key are there and the drain has not run past its rounding bits. -/
theorem tileEnd_condition {wf tiles panels key : Bool} {round : Nat} {seed : Seedbox} (drain : Bool) (hwf : wf = true) (htiles : tiles = true)
    (hpanels : panels = true) (hkey : key = true) (hbits : drain = true → round = 2 → seed.roundBits ≤ roundLimit seed) :
    ((wf && !false && tiles && panels && key) && (!drain || round != 2 || !roundDry seed)) = true := by
  subst hwf htiles hpanels hkey
  cases drain with
  | false => rfl
  | true =>
    by_cases hr : round = 2
    · simp [hr, roundDry, hbits rfl hr]
    · simp [hr]

/-- The completion code of a run whose inputs no sheaf overwrote says whether it drained poison; of any other it is free (R50, R56). -/
theorem doneCode_eq (free : Nat) (x : ArrRun) :
    doneCode free x = if x.cmd.tainted then doneCode free x else if x.prows.isEmpty then 0 else 1 := by
  cases ht : x.cmd.tainted with
  | true => rfl
  | false => cases hp : x.prows.isEmpty <;> simp [doneCode, ht, hp, b2n]

/-- The poison fields of a run whose inputs no sheaf overwrote are those of the rows that it drained. -/
theorem poisonFields_eq (free : Nat) (x : ArrRun) :
    poisonFields free x = if x.cmd.tainted then poisonFields free x else (x.prows.length, x.prows.headD 0xFFFF_FFFF, x.cols) := by
  cases ht : x.cmd.tainted <;> simp [poisonFields, ht]

/-- Settles O21: each command takes the queue or the run that the hypotheses name, its condition is the remaining hypotheses, and the next state
is the one of its row; a run that is not tainted reports what it drained (`doneCode_eq`, `poisonFields_eq`). -/
theorem arrayCommandsRun : Obligations.ArrayCommandsRun := by
  refine ⟨?_, ?_, ?_, ?_, ?_⟩
  · rintro q c n s x rest r t rfl hwf hqueue hrun htest rfl rfl
    change execArrayCommandStart q c s = _
    simp only [execArrayCommandStart, hqueue]
    exact evt_of_true (by simp only [hwf, hrun, htest, Option.isNone_none, Bool.not_false, Bool.and_self])
  · rintro q c n s x dr rfl hwf hrun hlost htile hpanels hkey hdrain rfl hbits
    change execArrayTileEnd q c s = _
    simp only [execArrayTileEnd, hrun, hdrain, hlost]
    exact evt_of_true (tileEnd_condition true hwf (decide_eq_true htile) hpanels hkey fun _ => hbits)
  · rintro q c n s x rfl hwf hrun hlost htile hpanels hkey hdrain
    change execArrayTileEnd q c s = _
    simp only [execArrayTileEnd, hrun, hdrain, hlost]
    exact evt_of_true (tileEnd_condition false hwf (decide_eq_true htile) hpanels hkey nofun)
  · rintro q c n s x t u p code rfl hwf hrun hlost hdone rfl hp hcode rfl
    rw [← poisonFields_eq] at hp
    rw [← doneCode_eq] at hcode
    subst hp hcode
    change execArrayCommandDone q c s = _
    simp only [execArrayCommandDone, hrun, hlost, Bool.or_false]
    exact evt_of_true (by simp only [hwf, hdone, Bool.or_true, Bool.and_self])
  · rintro q c n s x rfl hwf hrun hlost
    change execArrayCommandDone q c s = _
    simp only [execArrayCommandDone, hrun, hlost, Bool.or_true]
    exact evt_of_true (by simp only [hwf, Bool.true_or, Bool.and_self])

end Sys2Proof.Machine
end

section
/-! SUPPORT. The ring's time-outs and the outcomes of a self-test, case by case (R63, R70 to R74). -/
namespace Sys2Proof.Machine

variable {n : Nat} {rows : List Nat} {other : Bool} {s : State}

/-- A running ring-fed command that has waited 100 µs, for a forward or for an arrival, is the one that times out. -/
theorem timedOut_of_run {a : Array2} {x : ArrRun} {out : Bool} (hrun : a.run = some x) (haring : x.cmd.desc.aring = true) (hlost : x.lost = false)
    (hlate : (if out then a.ring.any (fun r => r.tag == x.cmd.desc.tag && owesForward r && heldFor s r.fwdSince 100000)
      else heldFor s x.ringSince 100000) = true) :
    timedOut s a out = some (x.cmd.desc, some x) := by
  have hw : ∀ t, waited100 s t = heldFor s t 100000 := fun _ => rfl
  simp only [timedOut, hrun, haring, hlost, hw, Option.filter_some, Bool.not_false, Bool.true_and, hlate, if_true]

/-- A test of a core that is not in service finds every failing row anew. -/
theorem newRows_out_of_service {k : Core} (h : k.inService = false) (rows : List Nat) : newRows k rows = failRows rows := by
  simp [newRows, h]
/-- A test of a core in service finds anew the failing rows that its map lacks. -/
theorem newRows_in_service {k : Core} (h : k.inService = true) (rows : List Nat) :
    newRows k rows = (failRows rows).filter (fun r => !k.arr.rowMap.contains r) := by
  simp [newRows, h]

/-- The core as it stands once its failing test has been noted and alarmed. -/
def testAlarmed (n : Nat) (rows : List Nat) (s : State) : State :=
  let t := s.setCore n { s.core n with arr := { (s.core n).arr with lastTest := s.clk.tb } }
  if (s.core n).inService then alarmW 0x0802 (srcCore n) [(s.core n).arr.lastPass.toNat, s.clk.tb.toNat] t
  else alarmW 0x0306 (srcCore n) [(failRows rows).length] t

/-- A test that finds nothing new passes. -/
theorem testResult_pass (hnew : newRows (s.core n) rows = []) :
    testResult n rows false s = passTest n (if (s.core n).inService then (s.core n).arr.rowMap else []) true s := by
  simp only [testResult, hnew, List.isEmpty_nil, Bool.not_false, Bool.and_self, if_true]
/-- A test that finds anything new alarms; what follows depends on the number of rows and on the service. -/
theorem testResult_fail (hfail : ((newRows (s.core n) rows).isEmpty && !other) = false) :
    testResult n rows other s =
      if other || decide (8 < (failRows rows).length) then fenceCore n (testAlarmed n rows s)
      else if (s.core n).inService then coreReset n (testAlarmed n rows s)
      else passTest n (failRows rows) false (testAlarmed n rows s) := by
  simp only [testResult, hfail, Bool.false_eq_true, if_false]
  rfl
/-- At most 8 new failing rows reset a core in service and are mapped out in one that is not. -/
theorem testResult_few (hnew : newRows (s.core n) rows ≠ []) (hfew : (failRows rows).length ≤ 8) :
    testResult n rows false s =
      if (s.core n).inService then coreReset n (testAlarmed n rows s) else passTest n (failRows rows) false (testAlarmed n rows s) := by
  rw [testResult_fail (by simp [hnew])]
  simp [Nat.not_lt.2 hfew]
/-- A failing cell that no row map covers, or more than 8 rows, fence the core. -/
theorem testResult_fence (h : other = true ∨ (8 < (failRows rows).length ∧ newRows (s.core n) rows ≠ [])) :
    testResult n rows other s = fenceCore n (testAlarmed n rows s) := by
  rcases h with rfl | ⟨hmany, hnew⟩
  · rw [testResult_fail (Bool.and_false _)]; rfl
  · rw [testResult_fail (by simp [hnew])]; simp [hmany]

/-- SELF_TEST_RESULT of a core under test ends the test, and the core takes the role of its new state. -/
theorem selfTestResult_eq {q c : Nat} (rows : List Nat) (other : Bool) (hwf : wfCore q c = true) (hfit : coreFitted s (64 * q + c) = true)
    (htest : (s.core (64 * q + c)).arr.testing = true) :
    exec (.selfTestResult q c rows other) s = .next (syncRoles [64 * q + c] (testResult (64 * q + c) rows other s)) := by
  change execSelfTestResult q c rows other s = _
  exact evt_of_true (by simp only [hwf, hfit, htest, Bool.and_self])

/-- Settles O22: the ring's commands act on the slot, panel or run that the hypotheses name, and a self-test's result is one of the cases of
`testResult`, by the rows that `newRows` finds. -/
theorem ringAndSelfTest : Obligations.RingAndSelfTest := by
  refine ⟨?_, ?_, ?_, ?_, ?_, ?_, ?_, ?_, ?_⟩
  · rintro q c i n s t r rfl hwf hslot howes hfree rfl
    change execRingSlotForward q c i s = _
    simp only [execRingSlotForward, hslot]
    exact evt_of_true (by simp only [hwf, howes, hfree, Bool.and_self])
  · rintro q c n s p x i rfl hwf hin hcmd hslot
    change execRingPanelAccept q c s = _
    simp only [execRingPanelAccept, hin, hcmd, hslot]
    exact evt_of_true hwf
  · rintro q c n out s x rfl hwf hrun haring hlost hlate
    change execRingTimeout q c out s = _
    simp only [execRingTimeout, timedOut_of_run hrun haring hlost hlate]
    exact evt_of_true hwf
  · rintro q c furrow n s rfl hwf hfurrow hfit hrun
    change execArrayFault q c furrow s = _
    exact evt_of_true (by simp only [hwf, hfurrow, hfit, Option.isSome_iff_ne_none.2 hrun, decide_true, Bool.and_self])
  · rintro q c n s rfl hwf hserv htest hqueue hrun hage
    change execSelfTestStart q c s = _
    have haged : aged s (s.core (64 * q + c)).arr.lastTest (s.pel.testInterval * sec1) = true := decide_eq_true hage
    exact evt_of_true (by simp only [hwf, hserv, htest, hqueue, hrun, haged, List.isEmpty_nil, Option.isNone_none, Bool.not_false, Bool.and_self])
  · rintro q c n rows s rfl hwf hfit htest hnew
    rw [selfTestResult_eq rows false hwf hfit htest, testResult_pass hnew]
  · rintro q c n rows s t rfl hwf hfit htest hrows hfew hserv rfl
    rw [selfTestResult_eq rows false hwf hfit htest, testResult_few (by rwa [newRows_out_of_service hserv]) hfew, testAlarmed, hserv]
    rfl
  · rintro q c n rows s t rfl hwf hfit htest hnew hfew hserv rfl
    rw [selfTestResult_eq rows false hwf hfit htest, testResult_few (by rwa [newRows_in_service hserv]) hfew, testAlarmed, hserv]
    rfl
  · rintro q c n rows other s t rfl hwf hfit htest hfence rfl
    rw [selfTestResult_eq rows other hwf hfit htest, testResult_fence hfence]
    rfl

end Sys2Proof.Machine
end

section
/-! SUPPORT. What keeps a sheaf instruction from its own effect, in the order of R190 (R112, R143, R160, R189). -/
namespace Sys2Proof.Machine

/-! ## The instruction once its words are fetched -/

section
variable {v : Env} {fm : Form} {body : Env → State → Res} {s : State}

/-- Where no lane executes a guarded instruction, it only moves on (R160). -/
theorem perform_of_no_lane (hm : v.m = 0) (hg : fm.guard = true) : perform v fm body s = some (v.moved s) := by
  simp only [perform, hm, hg, decide_true, Bool.and_self, if_true]
  rfl

theorem perform_of_reserved (hm : v.m ≠ 0) (henc : encOk v.w v.e fm = false) :
    perform v fm body s = some (raiseFault v.n v.sl 4 0x40 v.m 0 v.w s) := by
  simp only [perform, hm, henc, decide_false, Bool.false_and, Bool.not_false, Bool.false_eq_true, if_true, if_false]

theorem perform_of_beyond (hm : v.m ≠ 0) (henc : encOk v.w v.e fm = true) (hbey : beyond v.w v.run.regs fm = true) :
    perform v fm body s = some (raiseFault v.n v.sl 4 0x41 v.m 0 v.w s) := by
  simp only [perform, hm, henc, hbey, decide_false, Bool.false_and, Bool.not_true, Bool.false_eq_true, if_true, if_false]

/-- A register whose second read fails too faults, and every register whose first read fails is counted (R143). -/
theorem perform_of_parity {x : Nat} (hm : v.m ≠ 0) (henc : encOk v.w v.e fm = true) (hbey : beyond v.w v.run.regs fm = false)
    (hx : (badRegs v.f v.m (vSources v.w fm.opds)).find? (fun r => !(badLanes v.f v.m 2 r).isEmpty) = some x) :
    perform v fm body s = some (raiseFault v.n v.sl 7 x (maskOf (badLanes v.f v.m 2 x)) 0 v.w
      (bump (eccBlk (v.n / 64) + 0x130) (badRegs v.f v.m (vSources v.w fm.opds)).length s)) := by
  have hbad : (badRegs v.f v.m (vSources v.w fm.opds)).isEmpty = false :=
    List.isEmpty_eq_false_iff.2 (List.ne_nil_of_mem (List.mem_of_find?_eq_some hx))
  simp only [perform, hm, henc, hbey, hbad, parity, hx, Option.map_some, decide_false, Bool.false_and, Bool.not_true, Bool.false_eq_true, if_false]
end

/-! ## An instruction that comes to a sheaf -/

section
variable {q c sl fmt op : Nat} {w e : W64} {form : Nat → Form} {mem : Bool} {hid : Nat → List Nat} {body : Env → State → Res} {s : State}

/-- Nothing issues from a sheaf that may not issue. -/
theorem issue_of_canIssue_false (h : canIssue s (64 * q + c) sl = false) : issue q c sl fmt op w e form mem hid body s = s := by
  cases hv : envAt s (64 * q + c) sl w.toNat e.toNat with
  | none => simp only [issue, hv]
  | some v => simp only [issue, hv, h, Bool.not_false, Bool.or_true, if_true]

/-- What an instruction meets in a sheaf whose stook and run are known. -/
def sheafEnv (s : State) (n sl w e : Nat) (t : Stook) (r : Run) : Env :=
  { n := n, sl := sl, w := w, e := e, f := s.sheaf n sl, m := execLanes w (s.sheaf n sl), stook := t, run := r }

/-- In a sheaf that may issue, an instruction of its own row waits for its fetch, then for its scheduler's pick, and then begins. -/
theorem issue_of_canIssue {t : Stook} {r : Run} (hwf : wfSheaf q c sl = true) (hfit : coreFitted s (64 * q + c) = true)
    (hcan : canIssue s (64 * q + c) sl = true) (ht : stookOf s (64 * q + c) (s.sheaf (64 * q + c) sl) = some t)
    (hr : runOf s t.launch = some r) (hrow : rowIs fmt op w.toNat = true) :
    issue q c sl fmt op w e form mem hid body s =
      if !(s.sheaf (64 * q + c) sl).dog && fetchHeld s (64 * q + c) r.group w.toNat (s.sheaf (64 * q + c) sl).pc then
        fetchWait (64 * q + c) t.launch.toNat r.group w.toNat (s.sheaf (64 * q + c) sl).pc s
      else if !picked s (64 * q + c) sl then s
      else begins (sheafEnv s (64 * q + c) sl w.toNat e.toNat t r) { form := form, mem := mem, hidden := hid, body := body } s := by
  simp only [issue, envAt, ht, hr, hwf, hfit, hcan, hrow, Bool.not_true, Bool.or_self, Bool.false_and, Bool.false_eq_true, if_false, if_true]
  rfl

/-- A word whose FMT and OP name no row is met as a reserved form (R189). -/
theorem issue_of_no_row {v : Env} (h : fetched (w.toNat % 16) (w.toNat / 16 % 256) w e rowReserved.form false (fun _ => []) s v = true)
    (hrow : rowIs fmt op w.toNat = false) (hnone : sheafRow w.toNat = none) :
    issue (v.n / 64) (v.n % 64) v.sl fmt op w e form mem hid body s =
      (perform v (rowReserved.form v.w) rowReserved.body (v.noted s)).getD s := by
  have hv := envAt_of_fetched h
  simp only [fetched, Bool.and_eq_true, beq_iff_eq, Bool.not_eq_true', Option.isNone_iff_eq_none] at h
  obtain ⟨⟨⟨⟨⟨⟨⟨⟨⟨⟨⟨⟨⟨⟨hw, -⟩, -⟩, -⟩, -⟩, -⟩, -⟩, hwf⟩, hfit⟩, hcan⟩, hpick⟩, hdog⟩, hheld⟩, hfe⟩, hnr⟩ := h
  rw [← hw] at hrow hnone
  have hn : 64 * (v.n / 64) + v.n % 64 = v.n := Nat.div_add_mod v.n 64
  have hnr' : notReady v.f v.w (rowReserved.form v.w) rowReserved.mem (rowReserved.hidden v.w) = false := hnr
  simp only [issue, hn, hv, hwf, hfit, hcan, hrow, hnone, hpick, hdog, hheld, begins, hfe, hnr', Env.noted, Option.isSome_none, Bool.not_true,
    Bool.not_false, Bool.or_self, Bool.and_false, Bool.false_eq_true, if_false]
end

/-- A reserved form encodes nothing. -/
theorem encOk_rowReserved (w e x : Nat) : encOk w e (rowReserved.form x) = false := by
  simp [encOk, rowReserved]

/-- Settles O53: a sheaf that may issue meets, in this order, its watchdog, the fetch and its faults (`issue_of_canIssue`), then, with its words
fetched, the faults of `perform`, and last the fault of its own body. -/
theorem faultsComeInOrder : Obligations.FaultsComeInOrder := by
  refine ⟨?_, ?_, ?_, ?_, ?_, ?_, ?_, ?_, ?_⟩
  · intro q c sl fmt op w e form mem hid body s t r hwf hfit hcan ht hr hrow hpick hdog
    rw [issue_of_canIssue hwf hfit hcan ht hr hrow]
    simp only [begins, sheafEnv, hdog, hpick, Bool.not_true, Bool.false_and, Bool.false_eq_true, if_false, if_true]
  · intro q c sl fmt op w e form mem hid body s t r cause d hwf hfit hcan ht hr hrow hpick hdog hheld hfault
    rw [issue_of_canIssue hwf hfit hcan ht hr hrow]
    simp only [begins, sheafEnv, hdog, hheld, hpick, hfault, Bool.not_true, Bool.and_false, Bool.false_eq_true, if_false]
  · intro q c sl fmt op w e form mem hid body s t r hwf hfit hcan ht hr hrow hdog hheld hfenced
    rw [issue_of_canIssue hwf hfit hcan ht hr hrow]
    simp only [fetchWait, hdog, hheld, hfenced, Bool.not_false, Bool.and_self, Bool.false_eq_true, if_false, if_true]
  · intro q c sl fmt op w e form mem hid body s v hf hrow hnone hm
    rw [issue_of_no_row hf hrow hnone, perform_of_reserved hm (encOk_rowReserved _ _ _)]
    rfl
  · intro v w e s fmt op form mem hid body hf hm henc
    rw [issue_of_fetched body hf, perform_of_reserved hm henc]
    rfl
  · intro v w e s fmt op form mem hid body hf hm henc hbey
    rw [issue_of_fetched body hf, perform_of_beyond hm henc hbey]
    rfl
  · intro v w e s fmt op form mem hid body x hf hm henc hbey hx
    rw [issue_of_fetched body hf, perform_of_parity hm henc hbey hx]
    rfl
  · intro v w e s fmt op form mem hid body cause d a l hi hb
    exact issue_fault body hi hb
  · intro v w e s fmt op ar d form mem hid fn l hi htrap hdst
    refine issue_fault (aluBody ar fn) hi ?_
    rw [Env.traps] at htrap
    rw [Env.dst] at hdst
    simp [aluBody, htrap, hdst]

end Sys2Proof.Machine
end

section
/-! SUPPORT. The sheaf instructions as issues of the rows of Table 5-3, and the conditions that hold a sheaf back (R108, R110, R112). -/
namespace Sys2Proof.Machine

/-- Every instruction of a sheaf is an issue of a row of Table 5-3; FMT depends on the word in the ordinary operations alone. -/
theorem sheafInstrs_issueRow : ∀ x ∈ sheafInstrs, ∃ (fmt : W64 → Nat) (op : Nat) (row : SheafRow), ∀ (q c sl : Nat) (w e : W64) (s : State),
    exec (x q c sl w e) s = .next (issueRow q c sl (fmt w) op w e row s) := by
  unfold sheafInstrs
  repeat' refine List.forall_mem_cons.2 ⟨⟨_, _, _, fun _ _ _ _ _ _ => rfl⟩, ?_⟩
  exact List.forall_mem_nil _

/-- Any one of the conditions of Table 4-3 that name no register holds the sheaf back (R112). -/
theorem canIssue_false {s : State} {n sl : Nat}
    (h : (s.sheaf n sl).parked = true ∨ (s.sheaf n sl).ended = true ∨ (s.sheaf n sl).live = false ∨ (s.sheaf n sl).arrWait = true ∨
      (s.sheaf n sl).barWait ≠ none ∨ ∀ x, stookOf s n (s.sheaf n sl) = some x → x.killed ≠ none) : canIssue s n sl = false := by
  rcases h with h | h | h | h | h | h
  · simp [canIssue, h]
  · simp [canIssue, h]
  · simp [canIssue, h]
  · simp [canIssue, h]
  · simp [canIssue, h]
  · cases ht : stookOf s n (s.sheaf n sl) with
    | none => simp [canIssue, ht]
    | some t => simp [canIssue, ht, h t ht]

/-- Settles O51: each instruction issues its row (`sheafInstrs_issueRow`), nothing issues from a sheaf that may not issue, and a guarded
instruction that no lane executes only moves on. -/
theorem sheafInstructionsIssueOneWay : Obligations.SheafInstructionsIssueOneWay := by
  refine ⟨?_, ?_, fun _ _ _ => canIssue_false, ?_⟩
  · intro x hx
    obtain ⟨fmt, op, row, h⟩ := sheafInstrs_issueRow x hx
    exact ⟨fmt, op, row.form, row.mem, row.hidden, row.body, h⟩
  · intro x q c sl w e s hx hcan
    obtain ⟨fmt, op, row, h⟩ := sheafInstrs_issueRow x hx
    rw [h, issueRow, issue_of_canIssue_false hcan]
  · intro v w e s fmt op form mem hid body hf hm hg
    rw [issue_of_fetched body hf, perform_of_no_lane hm hg]
    rfl

end Sys2Proof.Machine
end

section
/-! SUPPORT. What a fault of a sheaf changes: its record, its sheaf and the signal to Pelseso (R142, R147, R150, Table 4-9). -/
namespace Sys2Proof.Machine

/-- The record of a fault that a sheaf raises at its program counter (Table 4-9). -/
def faultRec (s : State) (n sl cause detail : Nat) (lanes : W32) (addr instr : Nat) (t : Stook) : FaultRec :=
  { cause := cause, detail := detail, sheaf := sl, stook := (s.sheaf n sl).stook, launch := t.launch, pc := (s.sheaf n sl).pc
    active := (s.sheaf n sl).active, lanes := lanes
    addr := if cause = 1 ∨ cause = 2 ∨ (cause = 4 ∧ (detail = 0x44 ∨ detail = 0x45)) then BitVec.ofNat 64 addr else 0
    instr := BitVec.ofNat 64 instr, stamp := s.clk.tb, source := srcCore n, depth := (s.sheaf n sl).stack.length, gen := (s.sheaf n sl).gen
    seq := ((s.core n).faults.map (fun e => e.2.seq + 1)).foldl max 0 }

/-- The core with a sheaf parked behind its record. -/
def parkedCore (s : State) (n sl : Nat) (x : FaultRec) : Core :=
  { (s.core n).setSheaf sl { s.sheaf n sl with parked := true, dog := false, lockWait := none } with faults := tput (s.core n).faults sl x }

section
variable {s : State} {n sl cause detail addr instr : Nat} {lanes : W32}

/-- A fault writes its record, parks its sheaf and signals Pelseso. -/
theorem raiseFault_eq {t : Stook} (ht : tfind (s.core n).stooks (s.sheaf n sl).stook = some t) (hk : t.killed = none)
    (hp : (s.sheaf n sl).parked = false) :
    raiseFault n sl cause detail lanes addr instr s =
      signal (srcCore n) 0 0 (s.setCore n (parkedCore s n sl (faultRec s n sl cause detail lanes addr instr t))) := by
  rw [State.sheaf] at ht hp
  simp only [raiseFault, raiseAt, ht, hk, hp, Option.isSome_none, Bool.or_self, Bool.false_eq_true, if_false]
  rfl

/-- A parked sheaf and a sheaf of no stook, or of one that is being killed, raise no fault (R142, R150). -/
theorem raiseFault_none (h : (s.sheaf n sl).parked = true ∨ ∀ t, tfind (s.core n).stooks (s.sheaf n sl).stook = some t → t.killed ≠ none) :
    raiseFault n sl cause detail lanes addr instr s = s := by
  rw [State.sheaf] at h
  cases ht : tfind (s.core n).stooks ((s.core n).sheaf sl).stook with
  | none => simp only [raiseFault, raiseAt, ht]
  | some t =>
    have held : (t.killed.isSome || ((s.core n).sheaf sl).parked) = true := by
      rw [Bool.or_eq_true, Option.isSome_iff_ne_none]
      exact (h.imp_right (fun hk => hk t ht)).symm
    simp only [raiseFault, raiseAt, ht, held, if_true]

theorem sheaf_parkedCore (x : FaultRec) (j : Nat) :
    (s.setCore n (parkedCore s n sl x)).sheaf n j =
      if j = sl then { s.sheaf n sl with parked := true, dog := false, lockWait := none } else s.sheaf n j := by
  rw [State.sheaf, State.core_setCore_self]
  split
  · subst_vars; exact Core.sheaf_setSheaf_self _ _ _
  · exact Core.sheaf_setSheaf_other _ _ _ _ ‹_›

/-- Settles O52: the fault is a change of its own core (`raiseFault_eq`), which is read back part by part. -/
theorem faultsArePrecise : Obligations.FaultsArePrecise := by
  refine ⟨?_, fun _ _ _ _ _ _ _ _ => raiseFault_none⟩
  intro s n sl cause detail addr instr lanes t ht hk hp
  refine ⟨_, raiseFault_eq ht hk hp, rfl, fun k hk => State.core_setCore_other _ _ _ _ hk, fun j hj => ?_, ?_, ?_, fun j hj => ?_,
    faultRec s n sl cause detail lanes addr instr t, ?_, rfl, rfl, rfl, rfl, rfl, rfl, rfl, rfl, rfl, rfl, rfl, rfl, rfl⟩
  · rw [sheaf_parkedCore, if_neg hj]
  · rw [sheaf_parkedCore, if_pos rfl]
  · rw [State.core_setCore_self]; rfl
  · rw [State.core_setCore_self]; exact tfind_tput_other _ _ _ _ hj
  · rw [State.core_setCore_self]; exact tfind_tput_self _ _ _
end

end Sys2Proof.Machine
end

section
/-! SUPPORT. The two ways in which an instruction that issues moves its sheaf: on to the next word, or to an address. -/
namespace Sys2Proof.Machine

variable {fmt op : Nat} {w e : W64} {form : Nat → Form} {mem : Bool} {hidden : Nat → List Nat} {s t : State} {v : Env}

theorem issue_moves (body : Env → State → Res) (h : issues fmt op w e form mem hidden s v = true) (hb : body v (v.noted s) = .go t none) :
    issue (v.n / 64) (v.n % 64) v.sl fmt op w e form mem hidden body s = v.moved t := issue_go body (pc := none) h hb

theorem issue_jumps (body : Env → State → Res) {pc : W64} (h : issues fmt op w e form mem hidden s v = true)
    (hb : body v (v.noted s) = .go t (some pc)) :
    issue (v.n / 64) (v.n % 64) v.sl fmt op w e form mem hidden body s = advance v.n v.sl pc t := issue_go body (pc := some pc) h hb

end Sys2Proof.Machine
end

section
/-! SUPPORT. The bodies of the branch instructions, case by case (R116, R118, R174 to R176). -/
namespace Sys2Proof.Machine

variable {v : Env} {s : State}

/-- The active lanes that take a BRA. -/
def Env.takenLanes (v : Env) : W32 := v.f.active &&& (if bit v.w 27 then ~~~v.f.preg (bits v.w 26 24) else v.f.preg (bits v.w 26 24))

theorem braBody_of_none_taken (h : v.takenLanes = 0) : braBody v s = .go s none := if_pos h

theorem braBody_of_all_taken (hactive : v.f.active ≠ 0) (h : v.takenLanes = v.f.active) : braBody v s = .go s (some (relPc v 45 28)) := by
  have htaken : v.takenLanes ≠ 0 := h ▸ hactive
  have hrest : v.f.active &&& ~~~v.takenLanes = 0 := by rw [h, BitVec.and_not_self]
  exact (if_neg htaken).trans (if_pos hrest)

/-- Where the lanes disagree, the taken ones wait in a stack entry (R116). -/
theorem braBody_of_split (htaken : v.takenLanes ≠ 0) (hrest : v.f.active &&& ~~~v.takenLanes ≠ 0) (hroom : v.f.stack.length < 32) :
    braBody v s = .go (v.put { v.f with
      active := v.f.active &&& ~~~v.takenLanes
      stack := { kind := .branch, recon := relPc v 63 46, mask := v.takenLanes, target := relPc v 45 28 } :: v.f.stack } s) none :=
  (if_neg htaken).trans ((if_neg hrest).trans (if_neg (Nat.not_le.2 hroom)))

theorem pairJump_of_aligned {sp : Nat} (h : rdN v.f sp 2 0 % 8 = 0) : pairJump sp v s = .go s (some (BitVec.ofNat 64 (rdN v.f sp 2 0))) :=
  if_neg (not_not_intro h)

/-- Settles O7: the issue does what the body answers (`issue_go`); BRA has one case for each way its lanes divide, a jump through a pair needs an
aligned address, and the other bodies always go on. -/
theorem branchesComplete : Obligations.BranchesComplete := by
  refine ⟨?_, ?_, ?_, ?_, ?_, ?_, ?_, ?_⟩
  · intro v w e s hi htaken
    exact congrArg Host.Outcome.next (issue_moves braBody hi (braBody_of_none_taken htaken))
  · intro v w e s hi hactive htaken
    exact congrArg Host.Outcome.next (issue_jumps braBody hi (braBody_of_all_taken hactive htaken))
  · rintro v w e s t hi rfl htaken hrest hroom
    exact congrArg Host.Outcome.next (issue_moves braBody hi (braBody_of_split htaken hrest hroom))
  · intro v w e s hi
    exact congrArg Host.Outcome.next (issue_jumps rowJmp.body hi rfl)
  · intro v w e s hi
    exact congrArg Host.Outcome.next (issue_jumps callBody hi rfl)
  · rintro v w e s a hi rfl ha
    refine congrArg Host.Outcome.next (issue_jumps rowJmpr.body hi ?_)
    simp only [rowJmpr, pairJump_of_aligned ha]
  · rintro v w e s a hi rfl ha
    exact congrArg Host.Outcome.next (issue_jumps (pairJump 0x13E) hi (pairJump_of_aligned ha))
  · intro v w e s hi
    exact congrArg Host.Outcome.next (issue_moves exitBody hi rfl)

end Sys2Proof.Machine
end

section
/-! SUPPORT. The bodies of BAR, FLAG.WAIT, FENCE, INVAL and RND, case by case (R124, R125, R140, R184 to R186, R280). -/
namespace Sys2Proof.Machine

variable {v : Env} {s : State}

/-- The state in which BAR has moved past itself and its sheaf has arrived at barrier `b`. -/
def Env.arrived (v : Env) (b : Nat) (s : State) : State :=
  let a := advance v.n v.sl (v.f.pc + 8) (v.put { v.f with barWait := some b } s)
  let c := a.core v.n
  a.setCore v.n (barsDone { c with stooks := tput c.stooks v.f.stook { v.stook with
    bars := tput v.stook.bars b (ladd (tget [] v.stook.bars b) v.sl) } } v.f.stook)

theorem barBody_of_done (h : fenceDone s v 0 = true) :
    barBody v s = .go (v.arrived (bits v.w 45 42) s) (some ((v.arrived (bits v.w 45 42) s).sheaf v.n v.sl).pc) := by
  simp only [barBody, h, Bool.not_true, Bool.false_eq_true, if_false]
  rfl

/-- The flag that an instruction names, at its store. -/
def Env.flagNum (v : Env) : Nat := flagIndex v.run (rd32 v.f (bits v.w 41 33) 0)
/-- The value or threshold of a FLAG instruction. -/
def Env.flagArg (v : Env) : W32 := BitVec.ofNat 32 (rd32 v.f (bits v.w 50 42) 0)

theorem flagWaitBody_of_met (hfree : v.f.flagWait = none) (hmet : v.flagArg ≤ tget 0 (s.flagStore v.run.flags.1).vals v.flagNum) :
    flagWaitBody v s = .go (v.write v.dst 1 [(0, (tget 0 (s.flagStore v.run.flags.1).vals v.flagNum).toNat)] s) none := by
  rw [Env.flagArg] at hmet
  rw [Env.flagNum] at hmet ⊢
  simp only [flagWaitBody, hfree, hmet, Option.isSome_none, Bool.false_eq_true, if_false, if_true]
  rfl

/-- A threshold that is not met is registered at the home store (R280). -/
theorem flagWaitBody_of_unmet (hfree : v.f.flagWait = none) (hmet : ¬ v.flagArg ≤ tget 0 (s.flagStore v.run.flags.1).vals v.flagNum) :
    flagWaitBody v s = .go (v.put { v.f with flagWait := some v.dst } (s.setFlagStore v.run.flags.1 { s.flagStore v.run.flags.1 with
      waits := (s.flagStore v.run.flags.1).waits ++ [{ core := v.n, sheaf := v.sl, flag := v.flagNum, threshold := v.flagArg }] })) none := by
  rw [Env.flagArg, Env.flagNum] at hmet
  simp only [flagWaitBody, hfree, hmet, Option.isSome_none, Bool.false_eq_true, if_false]
  rfl

/-- A fence that waits for nothing goes on; an acquire of scope MODULE empties the core's tilth cache (R124). -/
theorem fenceBody_of_done (h : (bit v.w 53 && !fenceDone s v (bits v.w 52 51)) = false) :
    fenceBody v s = .go (if bit v.w 54 && bits v.w 52 51 == 2 then invalAll v.n s else s) none := by
  simp only [fenceBody, h, Bool.false_eq_true, if_false]
  split <;> rfl

/-- INVAL drops the lines of its range, or every line for more than 2 MiB (R125, R185). -/
theorem invalBody_eq : invalBody v s = .go (
    if 0x20_0000 < rd32 v.f (bits v.w 50 42) 0 then invalAll v.n s
    else s.setCore v.n { s.core v.n with tcache := (s.core v.n).tcache.filter (fun x =>
      rd32 v.f (bits v.w 50 42) 0 == 0 || !lineInRange s v.run.group (rdN v.f (bits v.w 41 33) 2 0) (rd32 v.f (bits v.w 50 42) 0) (x.line * 64)) }) none := by
  unfold invalBody
  exact (apply_ite (fun t => Res.go t none) _ _ _).symm

/-- With the launch's key delivered, RND draws from each lane's stream (R186, R196). -/
theorem rndBody_of_key {flt : Bool} (h : (tfind (s.core v.n).seed.launch v.stook.launch.toNat).isSome = true) :
    rndBody flt v s =
      .go (v.write v.dst 1 (if flt then (rndLanes v (if flt then 24 else 32) (memLanes v v.dst) s).1.map (fun e => (e.1, unitF32 e.2))
        else (rndLanes v (if flt then 24 else 32) (memLanes v v.dst) s).1) (rndLanes v (if flt then 24 else 32) (memLanes v v.dst) s).2) none := by
  have hkey : (tfind (s.core v.n).seed.launch v.stook.launch.toNat).isNone = false := by
    rw [← Option.not_isSome, h, Bool.not_true]
  simp only [rndBody, hkey, Bool.and_false, Bool.false_eq_true, if_false]
  rfl

/-- A base die's copy of the time base does not depend on the issue record. -/
theorem copyNow_noted (q : Nat) : copyNow (v.noted s) q = copyNow s q := by
  simp only [copyNow, now, noted_clk]

/-- Settles O8: BAR waits for its scratch accesses alone, an update always goes on, and FLAG.WAIT is met or registered. -/
theorem barrierAndFlagInstructionsComplete : Obligations.BarrierAndFlagInstructionsComplete := by
  refine ⟨?_, ?_, ?_, ?_, ?_⟩
  · rintro v w e s b a hi hdone rfl rfl
    exact congrArg Host.Outcome.next (issue_jumps barBody hi (barBody_of_done hdone))
  · rintro v w e s x hi rfl
    exact congrArg Host.Outcome.next (issue_moves (flagBody false) hi rfl)
  · rintro v w e s x hi rfl
    exact congrArg Host.Outcome.next (issue_moves (flagBody true) hi rfl)
  · rintro v w e s x hi hfree rfl hmet
    exact congrArg Host.Outcome.next (issue_moves flagWaitBody hi (flagWaitBody_of_met hfree hmet))
  · rintro v w e s x k hi hfree rfl rfl hmet
    exact congrArg Host.Outcome.next (issue_moves flagWaitBody hi (flagWaitBody_of_unmet hfree hmet))

/-- Settles O9: FENCE and RND go on once what they wait for is there, the others always do; STAMP reads the clock that the issue leaves alone. -/
theorem specialInstructionsComplete : Obligations.SpecialInstructionsComplete := by
  refine ⟨?_, ?_, ?_, ?_, ?_, ?_, ?_⟩
  · intro v w e s hi
    exact congrArg Host.Outcome.next (issue_moves rowNop.body hi rfl)
  · intro v w e s hi hdone
    exact congrArg Host.Outcome.next (issue_moves fenceBody hi (fenceBody_of_done hdone))
  · intro v w e s hi
    exact congrArg Host.Outcome.next (issue_moves invalBody hi invalBody_eq)
  · rintro v w e s r hi hkey rfl
    exact congrArg Host.Outcome.next (issue_moves (rndBody false) hi (rndBody_of_key hkey))
  · rintro v w e s r hi hkey rfl
    exact congrArg Host.Outcome.next (issue_moves (rndBody true) hi (rndBody_of_key hkey))
  · intro v w e s hi
    exact congrArg Host.Outcome.next (issue_moves roleBody hi rfl)
  · intro v w e s hi
    refine congrArg Host.Outcome.next (issue_moves rowStamp.body hi ?_)
    rw [← copyNow_noted]
    rfl

end Sys2Proof.Machine
end

section
/-! SUPPORT. The bodies of the memory instructions once their checks pass (R123, R128, R168 to R173, R181). -/
namespace Sys2Proof.Machine

variable {v : Env} {s : State}

/-- A load whose lanes meet no poison at issue stands in its sheaf. -/
theorem ldBody_of_clean (haddr : addrFault s v (memSpace v.w) (sizeBytes (memSize v.w)) .read (memAddrs v (memLanes v v.dst)) = none)
    (hclean : (ldRecord v s).lanes.all (fun x => match x.data with | some (_, d) => d == 0 | none => true) = true) :
    ldBody v s = .go (ldSend v s) none := by
  rw [Env.dst] at haddr
  simp only [ldBody, haddr]
  split
  · rename_i x a rest hbad
    obtain ⟨hmem, hpoison⟩ := List.mem_filter.1 (hbad ▸ List.mem_cons_self : (x, a) ∈ _)
    have hfree := List.all_eq_true.1 hclean x (List.of_mem_zip hmem).1
    rcases hdata : x.data with _ | ⟨b, d⟩
    · simp [hdata] at hpoison
    · simp only [hdata, beq_iff_eq] at hfree
      simp [hdata, hfree] at hpoison
  · rfl

theorem stBody_of_addrs (haddr : addrFault s v (memSpace v.w) (sizeBytes (memSize v.w)) .write (memAddrs v (lanesOf v.m)) = none) :
    stBody v s = .go (if memSpace v.w = 0 then stScr v s else stFar v s) none := by
  simp only [stBody, haddr]

theorem atomBody_of_addrs {op : Nat} (haddr : rmwFault s v (atomSpace v) (atomBytes v) (atomLanes v) = none) :
    atomBody op v s = .go (if atomSpace v = 0 then atomScr op v s else atomFar op v s) none := by
  simp only [atomBody, haddr]

/-- Access that a bulk operation needs to its pages: PFS reads them, PWB writes them. -/
def bulkAcc (kind : Nat) : Acc2 := if kind = 0 then .read else .write
/-- The operation that a PFS or PWB queues. -/
def Env.bulkOp (v : Env) (kind : Nat) (s : State) : BulkOp :=
  { id := (s.core v.n).nextLoad, kind := kind, scr := v.stook.base + rd32 v.f (bits v.w 32 24) 0
    lines := linesOf s v.run.group (rdN v.f (bits v.w 41 33) 2 0) (rd32 v.f (bits v.w 50 42) 0) (bulkAcc kind), stook := v.f.stook, sheaf := v.sl
    tag := 0, panel := 0, slot := 0, begun := false, done := 0, poison := false, pc := 0, active := 0, instr := 0, held := false }
/-- The state once a PFS or PWB is queued at the bulk engine. -/
def Env.bulkQueued (v : Env) (kind : Nat) (s : State) : State :=
  s.setCore v.n { (s.core v.n).setSheaf v.sl { v.f with bulkOut := v.f.bulkOut + 1, memOut := tput v.f.memOut (s.core v.n).nextLoad 1 } with
    nextLoad := (s.core v.n).nextLoad + 1, bulk := (s.core v.n).bulk ++ [v.bulkOp kind s] }

/-- A bulk operation of whole lines inside the scratch, between mapped pages, is queued (R171, R172). -/
theorem bulkBody_of_checks {kind : Nat} (hscr : rd32 v.f (bits v.w 32 24) 0 % 64 = 0) (hva : rdN v.f (bits v.w 41 33) 2 0 % 64 = 0)
    (hlen : rd32 v.f (bits v.w 50 42) 0 % 64 = 0) (hpos : rd32 v.f (bits v.w 50 42) 0 ≠ 0)
    (hfit : rd32 v.f (bits v.w 32 24) 0 + rd32 v.f (bits v.w 50 42) 0 ≤ v.stook.size)
    (hmap : rangeFault s v.run.group (bulkAcc kind) (rd32 v.f (bits v.w 50 42) 0 / 65536 + 2) (rdN v.f (bits v.w 41 33) 2 0)
      (rd32 v.f (bits v.w 50 42) 0) = none) :
    bulkBody kind v s = .go (v.bulkQueued kind s) none := by
  rw [bulkAcc] at hmap
  simp only [bulkBody, hscr, hva, hlen, hpos, hmap, Nat.not_lt.2 hfit, ne_eq, not_true_eq_false, if_false]
  rfl

/-- The bytes of the panel that a PFR with the TAG of a queued command moves; one byte is checked while no such command is queued (log 15). -/
def Env.pfrLen (v : Env) (s : State) : Nat :=
  match (ringCmds (s.core v.n).arr).find? (fun x => x.desc.tag == bits v.w 58 51) with
  | some x => panelK x.desc * panelB x.desc.afmt
  | none => 1
/-- The operation of a PFR before it binds. -/
def Env.pfrOp (v : Env) (s : State) : BulkOp :=
  { id := (s.core v.n).nextLoad, kind := 2, scr := 0, lines := [rdN v.f (bits v.w 41 33) 2 0], stook := v.f.stook, sheaf := v.sl
    tag := bits v.w 58 51, panel := rd32 v.f (bits v.w 50 42) 0, slot := 0, begun := false, done := 0, poison := false, pc := v.f.pc
    active := v.f.active, instr := BitVec.ofNat 64 v.w, held := false }

theorem pfrBody_of_mapped {len : Nat} (hva : rdN v.f (bits v.w 41 33) 2 0 % 64 = 0) (hlen : len = v.pfrLen s)
    (hmap : rangeFault s v.run.group .read (len / 65536 + 2) (rdN v.f (bits v.w 41 33) 2 0) len = none) :
    pfrBody v s = .go (bindPfr v.n (v.pfrOp s) (s.setCore v.n
      { (s.core v.n).setSheaf v.sl { v.f with memOut := tput v.f.memOut (s.core v.n).nextLoad 1 } with
        nextLoad := (s.core v.n).nextLoad + 1, pfr := (s.core v.n).pfr ++ [v.pfrOp s] })) none := by
  unfold pfrBody
  change (if _ then _ else match rangeFault s v.run.group .read (v.pfrLen s / 65536 + 2) (rdN v.f (bits v.w 41 33) 2 0) (v.pfrLen s) with
    | some (d, a) => Res.fault 1 d v.m a
    | none => _) = _
  rw [if_neg (not_not_intro hva), ← hlen, hmap]
  rfl

/-- Settles O10: with its checks passed, each body starts its access. -/
theorem memoryInstructionsComplete : Obligations.MemoryInstructionsComplete := by
  refine ⟨?_, ?_, ?_, ?_, ?_⟩
  · intro v w e s hi haddr hclean
    exact congrArg Host.Outcome.next (issue_moves ldBody hi (ldBody_of_clean haddr hclean))
  · intro v w e s hi haddr
    exact congrArg Host.Outcome.next (issue_moves stBody hi (stBody_of_addrs haddr))
  · rintro v w e s scr va len hi rfl rfl rfl hscr hva hlen hpos hfit hmap
    exact congrArg Host.Outcome.next (issue_moves (bulkBody 0) hi (bulkBody_of_checks hscr hva hlen hpos hfit hmap))
  · rintro v w e s scr va len hi rfl rfl rfl hscr hva hlen hpos hfit hmap
    exact congrArg Host.Outcome.next (issue_moves (bulkBody 1) hi (bulkBody_of_checks hscr hva hlen hpos hfit hmap))
  · rintro v w e s va len hi rfl hva hlen hmap
    have hlen' : len = v.pfrLen (v.noted s) := by
      cases hcmd : (ringCmds ((v.noted s).core v.n).arr).find? (fun x => x.desc.tag == bits v.w 58 51) <;>
        simp only [hlen, Env.pfrLen, hcmd]
    refine congrArg Host.Outcome.next (issue_moves rowPfr.body hi ?_)
    simp only [rowPfr] -- opens the row here, where unification would compare whole bodies
    exact pfrBody_of_mapped hva hlen' hmap

/-- An ATOM whose addresses pass takes its effect and moves on. -/
theorem issue_atom {op : Nat} {w e : W64} (hi : issues 5 op w e (atomForm op) true (fun _ => []) s v = true)
    (haddr : rmwFault (v.noted s) v (atomSpace v) (atomBytes v) (atomLanes v) = none) :
    issue (v.n / 64) (v.n % 64) v.sl 5 op w e (atomForm op) true (fun _ => []) (atomBody op) s =
      v.moved (if atomSpace v = 0 then atomScr op v (v.noted s) else atomFar op v (v.noted s)) :=
  issue_moves (atomBody op) hi (atomBody_of_addrs haddr)

/-- Settles O12: the eight instructions differ in their operation alone. -/
theorem atomicsComplete : Obligations.AtomicsComplete := by
  refine ⟨?_, ?_, ?_, ?_, ?_, ?_, ?_, ?_⟩
  all_goals
    intro v w e s hi haddr
    exact congrArg Host.Outcome.next (issue_atom hi haddr)

end Sys2Proof.Machine
end

section
/-! SUPPORT. Integers of a machine word's width, and the atomic operation on one word (R130, R131, R181, Table 4-6). -/
namespace Sys2Proof.Machine

/-! ## Words as integers -/

theorem signed_toNat {w : Nat} (x : BitVec w) : signed w x.toNat = x.toInt := by
  rcases w with _ | k
  · simp [signed, BitVec.of_length_zero]
  · have hlt := x.isLt
    have hpow : 2 ^ (k + 1) = 2 * 2 ^ k := by rw [Nat.pow_succ, Nat.mul_comm]
    rw [signed, Nat.mod_eq_of_lt hlt, BitVec.toInt_eq_toNat_cond, Nat.add_sub_cancel]
    exact if_congr (by omega) rfl rfl

theorem wrapInt_add_toNat {w : Nat} (x y : BitVec w) : wrapInt w ((x.toNat : Int) + y.toNat) = (x + y).toNat := by
  rw [wrapInt, BitVec.toNat_add, ← Int.natCast_add, ← Int.natCast_mod, Int.toNat_natCast]

/-- An operand of a signed type. -/
theorem intOf_signed {ty : Nat} (x : BitVec (tyW ty)) (h : ty = 0 ∨ ty = 2) : intOf ty x.toNat = x.toInt := by
  rw [← signed_toNat, intOf]
  exact if_pos h
/-- An operand of an unsigned type. -/
theorem intOf_unsigned {ty : Nat} (x : BitVec (tyW ty)) (h : ¬ (ty = 0 ∨ ty = 2)) : intOf ty x.toNat = x.toNat := by
  have hmod : x.toNat % 2 ^ tyW ty = x.toNat := Nat.mod_eq_of_lt x.isLt
  rw [intOf]
  exact (if_neg h).trans (congrArg Int.ofNat hmod)

/-- Operands compare in the signedness of their type. -/
theorem intOf_lt_iff {ty : Nat} (x y : BitVec (tyW ty)) :
    intOf ty x.toNat < intOf ty y.toNat ↔ (if ty = 0 ∨ ty = 2 then x.slt y else x.ult y) = true := by
  by_cases h : ty = 0 ∨ ty = 2
  · rw [intOf_signed x h, intOf_signed y h, if_pos h, BitVec.slt_iff_toInt_lt]
  · rw [intOf_unsigned x h, intOf_unsigned y h, if_neg h, BitVec.ult_iff_toNat_lt, Int.ofNat_lt]

/-! ## Lanes served one at a time -/

theorem atomSerial_append (op ty : Nat) (l m : List (Nat × Nat × Nat)) (old : Nat) :
    atomSerial op ty (l ++ m) old = ((atomSerial op ty m (atomSerial op ty l old).1).1,
      (atomSerial op ty l old).2 ++ (atomSerial op ty m (atomSerial op ty l old).1).2) := by
  induction l generalizing old with
  | nil => rfl
  | cons e t ih =>
    obtain ⟨i, a, b⟩ := e
    simp only [List.cons_append, atomSerial, ih]

theorem atomWord_serial {op ty : Nat} (h : ¬ (op = 0 ∧ ty = 4)) (old : Nat) (l : List (Nat × Nat × Nat)) :
    atomWord op ty old l = atomSerial op ty l old := if_neg h

/-- Under fp32 add, lane k receives the word combined with the operands below it. -/
theorem atomAdd32_lane (l : List (Nat × Nat × Nat)) (old k : Nat) :
    (atomAdd32 l old).2[k]? = l[k]?.map (fun e => (e.1, atomTree old ((l.take k).map (fun e => e.2.1)))) := by
  by_cases hk : k < l.length
  · simp [atomAdd32, hk, List.map_take]
  · simp [atomAdd32, hk]

/-- Settles O13: serving a list of lanes is serving its parts in turn (`atomSerial_append`); one lane's operation is that of the type's words. -/
theorem atomicWord : Obligations.AtomicWord := by
  refine ⟨?_, ?_, ?_, ?_, ?_⟩
  · intro op ty old l m h
    simp only [atomWord_serial h, atomSerial_append]
  · intro op ty old i a b h
    rw [atomWord_serial h]
    rfl
  · intro ty b x y hty
    refine ⟨wrapInt_add_toNat x y, (BitVec.toNat_and x y).symm, (BitVec.toNat_or x y).symm, (BitVec.toNat_xor x y).symm, rfl, ?_⟩
    exact if_congr BitVec.toNat_inj rfl rfl
  · intro ty b x y hty
    have hint : ty ≠ 4 := by omega
    refine ⟨?_, ?_⟩
    · exact (if_neg hint).trans (if_congr (intOf_lt_iff y x) rfl rfl)
    · exact (if_neg hint).trans (if_congr (intOf_lt_iff x y) rfl rfl)
  · intro old l
    exact ⟨rfl, atomAdd32_lane l old⟩

end Sys2Proof.Machine
end

section
/-! SUPPORT. The registers of a starting sheaf: tables written entry by entry (R109, Table 4-2). -/
namespace Sys2Proof.Machine

section
variable {α β : Type} [DecidableEq α] {d : α} (idx : β → Nat) (val : β → α)

/-- Writing entries leaves every other one as it was. -/
theorem tget_foldl_tset_of_ne (l : List β) (t : Tab α) (j : Nat) (h : ∀ e ∈ l, idx e ≠ j) :
    tget d (l.foldl (fun t e => tset d t (idx e) (val e)) t) j = tget d t j := by
  induction l generalizing t with
  | nil => rfl
  | cons e l ih =>
    obtain ⟨he, hl⟩ := List.forall_mem_cons.1 h
    rw [List.foldl_cons, ih _ hl, tget_tset_other _ _ _ _ _ (Ne.symm he)]

/-- An entry that is written once reads back. -/
theorem tget_foldl_tset_of_mem {l : List β} (t : Tab α) {e : β} (he : e ∈ l) (hd : (l.map idx).Nodup) :
    tget d (l.foldl (fun t e => tset d t (idx e) (val e)) t) (idx e) = val e := by
  induction l generalizing t with
  | nil => cases he
  | cons f l ih =>
    obtain ⟨hf, hd⟩ := List.nodup_cons.1 hd
    rcases List.mem_cons.1 he with rfl | he
    · rw [List.foldl_cons, tget_foldl_tset_of_ne idx val l _ _ (fun g hg hgf => hf (List.mem_map.2 ⟨g, hg, hgf⟩)), tget_tset_self]
    · exact ih _ he hd
end

/-- The values of u0 to u7 in a starting sheaf. -/
def startUregs (s : State) (n idx base launch i : Nat) (r : Run) : List Nat :=
  [base, r.scratch, idx, i, r.arg.toNat % 2 ^ 32, r.arg.toNat / 2 ^ 32, logCore s n, launch]

section
variable (s : State) (n st idx base launch i : Nat) (r : Run) (f : Sheaf)

theorem ureg_startSheaf {x k : Nat} (h : (x, k) ∈ (startUregs s n idx base launch i r).zip (List.range 8)) :
    (startSheaf s n st idx base launch r f i).ureg k = BitVec.ofNat 32 x := by
  have hd : (((startUregs s n idx base launch i r).zip (List.range 8)).map Prod.snd).Nodup := by
    rw [List.map_snd_zip (by simp [startUregs])]
    exact List.nodup_range
  exact tget_foldl_tset_of_mem (d := (0 : W32)) Prod.snd (fun e : Nat × Nat => BitVec.ofNat 32 e.1) [] h hd

theorem ureg_startSheaf_zero {k : Nat} (h : 8 ≤ k) : (startSheaf s n st idx base launch r f i).ureg k = 0 := by
  refine tget_foldl_tset_of_ne (d := (0 : W32)) Prod.snd (fun e : Nat × Nat => BitVec.ofNat 32 e.1) _ [] k fun e he => ?_
  have := List.mem_range.1 (List.of_mem_zip he).2
  omega

theorem vreg_startSheaf {l : Nat} (h : l < 32) : (startSheaf s n st idx base launch r f i).vreg 0 l = BitVec.ofNat 32 (32 * i + l) := by
  have hv := tget_foldl_tset_of_mem (d := (0 : W32)) id (fun l => BitVec.ofNat 32 (32 * i + l)) [] (List.mem_range.2 h) (by decide)
  rw [Sheaf.vreg, Nat.mul_zero, Nat.zero_add]
  exact hv

theorem vreg_startSheaf_zero {k l : Nat} (hk : 0 < k) : (startSheaf s n st idx base launch r f i).vreg k l = 0 := by
  refine tget_foldl_tset_of_ne (d := (0 : W32)) id (fun l => BitVec.ofNat 32 (32 * i + l)) (List.range 32) [] _ fun e he => ?_
  have := List.mem_range.1 he
  simp only [id_eq]
  omega
end

/-- Settles O16: the flat fields are those of `startSheaf`, and each register file is a table written entry by entry. -/
theorem startingRegisters : Obligations.StartingRegisters := by
  rintro s n st idx base launch i r f g rfl
  refine ⟨rfl, rfl, rfl, rfl, rfl, rfl, ?_, ?_, ?_, ?_, ?_, ?_, ?_, ?_, fun k => ureg_startSheaf_zero s n st idx base launch i r f, ?_, ?_,
    fun l => vreg_startSheaf s n st idx base launch i r f, fun k l hk _ => vreg_startSheaf_zero s n st idx base launch i r f hk⟩
  iterate 8 exact ureg_startSheaf s n st idx base launch i r f (by simp [startUregs, List.range_succ])
  · exact tget_tset_self (0 : W32) [] 0 0xFFFF_FFFF
  · intro k hk
    exact tget_tset_other (0 : W32) [] 0 k 0xFFFF_FFFF hk.ne'

end Sys2Proof.Machine
end

section
/-! SUPPORT. The return of loads, and the steps of bulk operations (R145, R172, R173, R250). -/
namespace Sys2Proof.Machine

/-- A read with no wrong bits finds what it would find anyway. -/
theorem loadFound_zero (n sl ld : Nat) (x : Load) (s : State) : loadFound n sl ld x 0 s = s := by
  simp only [loadFound, beq_self_eq_true, Bool.or_true, if_true]

section
variable {n k : Nat} {s : State} {op : BulkOp} {x : ArrCmd}

/-- The group under whose mappings a bulk operation of a core moves its lines. -/
def bulkGroup (s : State) (n : Nat) (op : BulkOp) : Nat := match tfind (s.core n).stooks op.stook with | some t => groupOf s t.launch | none => 0

/-- A waiting PFR whose command is queued claims the free slot when its payload's pages translate. -/
theorem bindPfr_of_mapped (hheld : op.held = false) (hcmd : (ringCmds (s.core n).arr).find? (fun y => y.desc.tag == op.tag) = some x)
    (hslot : freeRing (s.core n).arr x.desc = some k)
    (hmap : rangeFault s (bulkGroup s n op) .read (panelK x.desc * panelB x.desc.afmt / 65536 + 2) (op.lines.headD 0)
      (panelK x.desc * panelB x.desc.afmt) = none) :
    bindPfr n op s = claimPfr n op x.desc k (bulkGroup s n op) s := by
  have heq : bindPfr n op s = match rangeFault s (bulkGroup s n op) .read (panelK x.desc * panelB x.desc.afmt / 65536 + 2) (op.lines.headD 0)
      (panelK x.desc * panelB x.desc.afmt) with
    | some (d, a) => faultPfr n op d a s
    | none => claimPfr n op x.desc k (bulkGroup s n op) s := by
    simp only [bindPfr, hheld, hcmd, hslot, Bool.false_eq_true, if_false]
    rfl
  rw [heq, hmap]
end

/-- BULK_OP_COMPLETE acts once its operation has begun and its every line has moved. -/
theorem bulkComplete_condition {wf : Bool} {op : BulkOp} (hwf : wf = true) (hbegun : op.begun = true) (hdone : op.lines.length ≤ op.done) :
    (wf && op.begun && decide (op.lines.length ≤ op.done)) = true := by
  simp only [hwf, hbegun, hdone, decide_true, Bool.and_self]

/-- Settles O11: each command acts on the load or the operation that the hypotheses name, and its next state is the one of its row. -/
theorem loadsAndBulkOperationsEnd : Obligations.LoadsAndBulkOperationsEnd := by
  refine ⟨fun n sl ld s x => loadFound_zero n sl ld x s, ?_, ?_, ?_, ?_, ?_⟩
  · rintro q c sl ld n err s s1 x rfl hwf hload hdata hpark hcopy rfl
    change execLoadDataReturn q c sl ld err s = _
    simp only [execLoadDataReturn, hload]
    exact evt_of_true (by simp only [hwf, hdata, hpark, hcopy, Bool.not_false, Bool.and_self])
  · rintro q c i k n s op x rfl hwf hop hcmd hslot hheld hmap
    change execPfrBind q c i s = _
    simp only [execPfrBind, hop]
    rw [evt_of_true hwf]
    exact congrArg Host.Outcome.next (bindPfr_of_mapped hheld hcmd hslot hmap)
  · rintro q c n s op t r rfl hwf hop ht hr
    change execBulkOpStart q c s = _
    simp only [execBulkOpStart, hop, ht, hr]
    exact evt_of_true hwf
  · rintro q c i n s op rfl hwf hop hbegun hdone hkind
    change execBulkOpComplete q c i s = _
    simp only [execBulkOpComplete, hop, hkind, if_false]
    exact evt_of_true (bulkComplete_condition hwf hbegun hdone)
  · rintro q c i n s op r rfl hwf hop hbegun hdone hkind hslot
    change execBulkOpComplete q c i s = _
    simp only [execBulkOpComplete, hop, hkind, hslot, if_true]
    exact evt_of_true (bulkComplete_condition hwf hbegun hdone)

end Sys2Proof.Machine
end

section
/-! SUPPORT. LOCK.ACQ and LOCK.REL once their words are there, and the commands on waiting lanes (R133 to R138, R182). -/
namespace Sys2Proof.Machine

theorem lanesOf_zero : lanesOf 0 = [] := by decide

/-- The state in which the lanes that win have written their holder values; an acquire of global words empties the tilth cache (R124). -/
def Env.acquired (v : Env) (win : List (Nat × Nat)) (s : State) : State :=
  let u := win.foldl (fun a e => lockWrite v (atomSpace v) e.2 (holderWord s v.n v.sl e.1 v.f.gen) a) s
  if atomSpace v = 1 then invalAll v.n u else u
/-- The lanes' first failed attempts: those of the lanes that fail now are noted once (R137). -/
def Env.failedSince (v : Env) (wait : W32) (s : State) : Tab W64 :=
  (lanesOf wait).foldl (fun a i => match tfind a i with | some _ => a | none => tput a i s.clk.tb) v.f.lockSince

section
variable {v : Env} {s t : State} {ps win : List (Nat × Nat)}

/-- Every lane acquires its word (R134). -/
theorem lockTry_of_all_win (hwin : winners s v (atomSpace v) ps [] = win) (hne : win ≠ [])
    (hall : v.m &&& ~~~maskOf (win.map Prod.fst) = 0) :
    lockTry v ps s = .go (v.put { v.f with
      lockWait := none, lockSince := (lanesOf (maskOf (win.map Prod.fst))).foldl tdel v.f.lockSince } (v.acquired win s)) none := by
  have hemp : win.isEmpty = false := List.isEmpty_eq_false_iff.2 hne
  simp only [lockTry, hwin, hall, hemp, lanesOf_zero, List.foldl_nil, Env.acquired, Bool.not_false, Bool.and_true, decide_eq_true_eq,
    Bool.false_eq_true, if_false, if_true]

/-- Some lanes acquire, and the others are pushed as a path that retries (R135). -/
theorem lockTry_of_some_win (hwin : winners s v (atomSpace v) ps [] = win) (hne : win ≠ [])
    (hwait : v.m &&& ~~~maskOf (win.map Prod.fst) ≠ 0) :
    lockTry v ps s = .go (v.put { v.f with
      lockWait := none
      lockSince := (lanesOf (maskOf (win.map Prod.fst))).foldl tdel (v.failedSince (v.m &&& ~~~maskOf (win.map Prod.fst)) s)
      stack := splitEntries v.f (lockRecon v) (v.m &&& ~~~maskOf (win.map Prod.fst)) ++ v.f.stack
      active := maskOf (win.map Prod.fst) } (v.acquired win s)) none := by
  have hemp : win.isEmpty = false := List.isEmpty_eq_false_iff.2 hne
  simp only [lockTry, hwin, hemp, hwait, Env.acquired, Bool.not_false, Bool.and_true, decide_eq_true_eq, Bool.false_eq_true, if_false]
  rfl

/-- No lane acquires: the sheaf waits with nothing written (R136). -/
theorem lockTry_of_none_win (hwin : winners s v (atomSpace v) ps [] = []) :
    lockTry v ps s = .go (v.put { v.f with
      lockWait := some { mask := v.m, glob := atomSpace v == 1, addrs := ps.foldl (fun t e => tput t e.1 e.2) [], failed := s.clk.tb, woken := false }
      lockSince := v.failedSince v.m s } s) (some v.f.pc) := by
  have hmask : v.m &&& ~~~maskOf ([] : List Nat) = v.m := by
    change v.m &&& ~~~0#32 = v.m
    rw [BitVec.not_zero, BitVec.and_allOnes]
  simp only [lockTry, hwin, List.map_nil, hmask, List.isEmpty_nil, if_true]
  rfl

theorem lockAcqBody_of_late (hlate : (lanesOf v.m).filter (fun i => (lateLanes s v.f v.run).contains i) ≠ []) :
    lockAcqBody v s = .fault 5 0 (maskOf ((lanesOf v.m).filter (fun i => (lateLanes s v.f v.run).contains i))) 0 := by
  have hemp := List.isEmpty_eq_false_iff.2 hlate
  simp only [lockAcqBody, hemp, Bool.not_false, if_true]

theorem lockAcqBody_of_splitOver (hlate : (lanesOf v.m).filter (fun i => (lateLanes s v.f v.run).contains i) = []) (hover : splitOver s v = true) :
    lockAcqBody v s = .fault 4 0x42 v.m 0 := by
  simp only [lockAcqBody, hlate, hover, List.isEmpty_nil, Bool.not_true, Bool.false_eq_true, if_false, if_true]

/-- An acquire that nothing faults and nothing holds back makes its attempt. -/
theorem lockAcqBody_of_ready (hlate : (lanesOf v.m).filter (fun i => (lateLanes s v.f v.run).contains i) = []) (hover : splitOver s v = false)
    (hps : ps = (lockLanes v).map (lockPlace s v (atomSpace v))) (haddr : rmwFault s v (atomSpace v) 8 (lockLanes v) = none)
    (hheld : lockHeld s v ps = false) (hlost : lockLost s (atomSpace v) ps = false) (hready : lockReady v ps s = some t) :
    lockAcqBody v s = lockTry v ps t := by
  subst hps
  simp only [lockAcqBody, hlate, hover, haddr, hheld, hlost, hready, List.isEmpty_nil, Bool.not_true, Bool.false_eq_true, if_false]

/-- A release whose lanes all hold their words writes zero and wakes the waiters (R138). -/
theorem lockRelBody_of_holders (hps : ps = (lockLanes v).map (lockPlace s v (atomSpace v)))
    (haddr : rmwFault s v (atomSpace v) 8 (lockLanes v) = none) (hheld : lockHeld s v ps = false) (hrel : released s v (atomSpace v) = true)
    (hlost : lockLost s (atomSpace v) ps = false) (hready : lockReady v ps s = some t)
    (hown : ps.all (fun e => lockRead t v (atomSpace v) e.2 == holderWord s v.n v.sl e.1 v.f.gen) = true) :
    lockRelBody v s = .go (ps.foldl (fun a e => wakeWaiters v.n (atomSpace v) e.2 (lockWrite v (atomSpace v) e.2 0 a)) t) none := by
  have hbad : ps.filter (fun e => lockRead t v (atomSpace v) e.2 != holderWord s v.n v.sl e.1 v.f.gen) = [] := by
    refine List.filter_eq_nil_iff.2 fun e he => ?_
    simpa using List.all_eq_true.1 hown e he
  subst hps
  simp only [lockRelBody, haddr, hheld, hrel, hlost, hready, hbad, List.isEmpty_nil, Bool.not_true, Bool.or_self, Bool.false_eq_true, if_false]
end

/-- LOCK_TIMEOUT acts on a sheaf that is not parked and has late lanes. -/
theorem lockTimeout_condition {wf parked : Bool} {late : List Nat} (hwf : wf = true) (hlate : late ≠ []) (hpark : parked = false) :
    (wf && !late.isEmpty && !parked) = true := by
  simp [hwf, hlate, hpark]

/-- Settles O14: an acquire that nothing holds back is `lockTry`, which has one case for each share of lanes that win; late lanes and a full
stack fault before it, and a release frees the words that its lanes hold. -/
theorem locksComplete : Obligations.LocksComplete := by
  refine ⟨?_, ?_, ?_, ?_, ?_, ?_, ?_, ?_⟩
  · intro v w e s t ps hi hlate hover hps haddr hheld hlost hready hne hall
    refine congrArg Host.Outcome.next (issue_moves lockAcqBody hi ?_)
    rw [lockAcqBody_of_ready hlate hover hps haddr hheld hlost hready]
    exact lockTry_of_all_win rfl hne hall
  · rintro v w e s t ps win since es hi hlate hover hps haddr hheld hlost hready rfl hne hwait rfl rfl
    refine congrArg Host.Outcome.next (issue_moves lockAcqBody hi ?_)
    rw [lockAcqBody_of_ready hlate hover hps haddr hheld hlost hready]
    exact lockTry_of_some_win rfl hne hwait
  · intro v w e s t ps hi hlate hover hps haddr hheld hlost hready hnone
    refine congrArg Host.Outcome.next (issue_jumps lockAcqBody hi ?_)
    rw [lockAcqBody_of_ready hlate hover hps haddr hheld hlost hready]
    exact lockTry_of_none_win hnone
  · intro v w e s t ps hi hps haddr hheld hrel hlost hready hown
    exact congrArg Host.Outcome.next (issue_moves lockRelBody hi (lockRelBody_of_holders hps haddr hheld hrel hlost hready hown))
  · rintro v w e s late hi rfl hlate
    exact congrArg Host.Outcome.next (issue_fault lockAcqBody hi (lockAcqBody_of_late hlate))
  · intro v w e s hi hlate hover
    exact congrArg Host.Outcome.next (issue_fault lockAcqBody hi (lockAcqBody_of_splitOver hlate hover))
  · rintro q c sl n s t r late pc rfl hwf ht hr hpark rfl hlate rfl
    change execLockTimeout q c sl s = _
    simp only [execLockTimeout, ht, hr]
    exact evt_of_true (lockTimeout_condition hwf hlate hpark)
  · rintro q c sl n s x rfl hwf hwait hglob hfar hpark
    change execLockRepoll q c sl s = _
    simp only [execLockRepoll, hwait]
    exact evt_of_true (by simp only [hwf, hglob, hfar, hpark, Bool.not_false, Bool.and_self])

end Sys2Proof.Machine
end

section
/-! SUPPORT. The start and the end of stooks, and the resolution of faults (R106 to R110, R146 to R150, Table 4-10). -/
namespace Sys2Proof.Machine

/-! ## Conditions, from their parts -/

/-- STOOK_START's condition, over variables so that its parts may be given in the statement's own spelling. -/
theorem stookStart_condition {wf serves headland testing units key : Bool} {fallow sheaves free blocks : Nat} (hwf : wf = true)
    (hserv : serves = true) (hhead : headland = false) (hfallow : fallow ≤ 1) (htest : testing = false) (hunits : units = true)
    (hkey : key = true) (hslots : sheaves ≤ free) (hblocks : blocks ≤ 512) :
    (wf && serves && !headland && decide (fallow ≤ 1) && !testing && units && key && decide (sheaves ≤ free) && decide (blocks ≤ 512)) = true := by
  simp only [hwf, hserv, hhead, hfallow, htest, hunits, hkey, hslots, hblocks, decide_true, Bool.not_false, Bool.and_self]

/-- FAULT_RESOLVE's condition: the record is the oldest of its core, and its stook is not being killed. -/
theorem faultResolve_condition {wf oldest : Bool} {t : Stook} (hwf : wf = true) (holdest : oldest = true) (hk : t.killed = none) :
    (wf && oldest && t.killed.isNone) = true := by
  simp only [hwf, holdest, hk, Option.isNone_none, Bool.and_self]

/-! ## Table 4-10, row by row -/

section
variable {n sl : Nat} {t : Stook} {r : FaultRec} {run : Run} {s : State}

theorem resolveFault_translation (h : r.cause = 1) :
    resolveFault n sl t r run s = if faultMapped s run.group r then replay n sl s else killStook n (s.sheaf n sl).stook 0x20 0 r.stamp s := by
  simp only [resolveFault, h]

theorem resolveFault_poison (h : r.cause = 2) :
    resolveFault n sl t r run s = if run.poisonPolicy && r.instr != 0 then zeroPoison n sl t.launch.toNat r s
      else killStook n (s.sheaf n sl).stook 0x21 0 r.stamp s := by
  simp only [resolveFault, h]

/-- Every cause from 7 on abandons the run: a register parity error has cause 7. -/
theorem resolveFault_parity (h : 7 ≤ r.cause) : resolveFault n sl t r run s = abandonRun t.launch.toNat true s := by
  obtain ⟨k, hk⟩ := Nat.exists_eq_add_of_le' h
  simp only [resolveFault, hk]

/-- The causes that kill a stook, each with its status; ILLEGAL keeps its detail. -/
theorem resolveFault_kill {status : Nat} (h : r.cause = 3 ∧ status = 0x22 ∨ r.cause = 4 ∧ status = 0x23 ∨ r.cause = 5 ∧ status = 0x24 ∨
      r.cause = 6 ∧ status = 0x25) :
    resolveFault n sl t r run s = killStook n (s.sheaf n sl).stook status (if r.cause = 4 then r.detail else 0) r.stamp s := by
  rcases h with ⟨h, rfl⟩ | ⟨h, rfl⟩ | ⟨h, rfl⟩ | ⟨h, rfl⟩
  all_goals
    simp only [resolveFault, h]
    rfl

/-- Whether a data access's address now translates. -/
theorem faultMapped_data (h : r.instr ≠ 0) (g : Nat) :
    faultMapped s g r = (translate s g r.addr.toNat (if r.detail.testBit 2 then .write else .read)).isOk := by
  simp only [faultMapped, h, if_false]
  rcases translate s g r.addr.toNat _ <;> rfl

/-- Whether every word of a fetched instruction now translates. -/
theorem faultMapped_fetch (h : r.instr = 0) (g : Nat) :
    faultMapped s g r = ((translate s g r.pc.toNat .exec).isOk && (!wExt (wordAt s g r.pc) || (translate s g (r.pc + 8).toNat .exec).isOk)) := by
  simp only [faultMapped, h, if_true]
  rcases translate s g r.pc.toNat .exec <;> rcases translate s g (r.pc + 8).toNat .exec <;> rfl
end

/-- Settles O15: both commands act on the stook that the hypotheses name, and the remaining hypotheses are their conditions. -/
theorem stooksStartAndEnd : Obligations.StooksStartAndEnd := by
  refine ⟨?_, ?_⟩
  · rintro q c n launch idx st base s rest r free rfl hwf hhead hr rfl hst hplace hserv hland hfallow htest hunits hkey hslots hblocks
    change execStookStart q c s = _
    simp only [execStookStart, hhead, hr, hst, hplace]
    exact evt_of_true (stookStart_condition hwf hserv hland hfallow htest (decide_eq_true hunits) hkey hslots hblocks)
  · rintro q c st n s t rfl hwf ht hover
    change execStookEnd q c st s = _
    simp only [execStookEnd, ht]
    exact evt_of_true (by simp only [hwf, hover, Bool.and_self])

/-- Settles O17: FAULT_RESOLVE resolves the record, whose cause decides (`resolveFault_kill` and its neighbours); STOOK_WATCHDOG acts on a stook
past its limit, by whether its sheaves have all ended. -/
theorem faultsAreResolved : Obligations.FaultsAreResolved := by
  refine ⟨?_, fun _ _ _ _ _ _ _ h => resolveFault_kill h, ?_, ?_, ?_, ?_, fun _ _ _ _ _ _ h => resolveFault_parity h, ?_, ?_⟩
  · rintro q c sl n s r t run rfl hwf hrec ht hrun holdest hk
    change execFaultResolve q c sl s = _
    simp only [execFaultResolve, hrec, ht, hrun]
    exact evt_of_true (faultResolve_condition hwf holdest hk)
  · rintro n sl t r run s k hcause hinstr rfl
    rw [resolveFault_translation hcause, faultMapped_data hinstr]
    cases translate s run.group r.addr.toNat (if r.detail.testBit 2 then .write else .read) <;> rfl
  · intro n sl t r run s hcause hinstr
    rw [resolveFault_translation hcause, faultMapped_fetch hinstr]
  · intro n sl t r run s hcause hinstr
    simp only [resolveFault_poison hcause, hinstr, bne_self_eq_false, Bool.and_false, Bool.false_eq_true, if_false]
  · intro n sl t r run s hcause hinstr
    simp only [resolveFault_poison hcause, bne_iff_ne.2 hinstr, Bool.and_true]
  · rintro q c st n s t r rfl hwf ht hr hk hage hended
    have haged : aged s t.start (r.limitUs * us) = true := decide_eq_true hage
    change execStookWatchdog q c st s = _
    simp only [execStookWatchdog, ht, hr, hended, Bool.false_eq_true, if_false]
    exact evt_of_true (by simp only [hwf, hk, haged, Option.isNone_none, Bool.and_self])
  · rintro q c st n s t r rfl hwf ht hr hk hage hended hpfr
    have haged : aged s t.start (r.limitUs * us) = true := decide_eq_true hage
    change execStookWatchdog q c st s = _
    simp only [execStookWatchdog, ht, hr, hended, hpfr, if_true]
    exact evt_of_true (by simp only [hwf, hk, haged, Option.isNone_none, Bool.and_self])

end Sys2Proof.Machine
end

section
/-! SUPPORT. Work commands: their start, their runs, their end and their time limits (R278, R351, R352, R359 to R366, R372, R379). -/
namespace Sys2Proof.Machine

/-- Whether a command is there and has begun, as REDISPATCH asks it. -/
theorem match_eq_any (o : Option Cmd) (p : Cmd → Bool) : (match o with | some y => p y | none => false) = o.any p := by
  cases o <;> rfl

/-- Settles O35: a work command is its row's next one (`work_row`) and passes the checks of its body; the other commands act on the command or run
that the hypotheses name, and the remaining hypotheses are their conditions. -/
theorem workCommandsRun : Obligations.WorkCommandsRun := by
  refine ⟨?_, ?_, ?_, ?_, ?_, ?_, ?_, ?_, ?_, ?_⟩
  · rintro qu s sa x r c hx rfl rfl rfl hnames hok hcores hctx hfits
    change execLaunch qu s = _
    rw [execLaunch, work_row hx, launchBody, after_names hnames, checks_ok]
    · rfl
    · simp [hok, hcores, hctx, hfits]
  · intro qu s x hx hd hsrc hdst hlen hmax
    change execCopy qu s = _
    rw [execCopy, work_row hx, checks_ok]
    · rfl
    · simp [-Nat.reducePow, hd, hsrc, hdst, hlen, hmax]
  · intro qu s x hx hd
    change execMark qu s = _
    rw [execMark, work_row hx, checks_ok]
    · rfl
    · simp [hd]
  · rintro qu seq s t rest x hqueue rfl hfind hwait hserv hroom
    change execLaunchFlagsFreed s = _
    simp only [execLaunchFlagsFreed, hqueue, hfind, Option.filter_some, hwait, if_true]
    exact evt_of_true (by simp only [hserv, hroom, Bool.and_self])
  · intro qu seq s x st hfind hstage hserv hqu hst hstart hwait hretry
    change execRunStart qu seq s = _
    simp only [execRunStart, hfind, hstage]
    exact evt_of_true (by simp only [hserv, hqu, hst, hstart, hwait, hretry, decide_true, Bool.not_false, Bool.and_self])
  · rintro qu seq s t u x st hfind hstage hserv hqu hst hfirst hstart hop hroom hretry rfl rfl hbegun
    change execRedispatch qu seq s = _
    simp only [execRedispatch, hfind, hstage, hop, hroom, if_true, Bool.not_true, Bool.false_eq_true, if_false]
    rw [evt_of_true (by simp only [hserv, hqu, hst, hfirst, hstart, hretry, decide_true, Bool.and_self])]
    exact congrArg Host.Outcome.next (if_pos ((match_eq_any _ _).trans hbegun))
  · intro qu seq s x launch r st hfind hrun hstage hserv hst hleft hreq hretry
    change execRunEnded qu seq s = _
    simp only [execRunEnded, hfind, hrun, hstage]
    exact evt_of_true (by simp only [hserv, hst, hleft, hreq, hretry, decide_true, beq_self_eq_true, Bool.not_false, Bool.and_self])
  · intro qu seq s x hfind hserv hst hheld
    change execCommandTimeout qu seq s = _
    simp only [execCommandTimeout, hfind]
    exact evt_of_true (by simp only [hserv, hheld, ne_eq, hst, not_false_eq_true, decide_true, Bool.and_self])
  · intro qu seq s x hfind hserv hheld
    change execCommandReadTimeout qu seq s = _
    simp only [execCommandReadTimeout, hfind]
    exact evt_of_true (by simp only [hserv, hheld, Bool.and_self])
  · intro qu s x hfind hserv hst hretry
    change execCommandDecide qu s = _
    simp only [execCommandDecide, hfind]
    exact evt_of_true (by simp only [hserv, hst, hretry, decide_true, Bool.and_self])

end Sys2Proof.Machine
end

section
/-! SUPPORT. The ordinary operations, whose lanes raise no trapped exception, and the operations that read predicates or other lanes (R157, R158,
R162, R167, Table 5-5). -/
namespace Sys2Proof.Machine

variable {v : Env} {s : State}

/-- A conversion whose lanes raise no trapped exception writes each lane's result. -/
theorem cvtBody_of_no_trap {g : Nat → Nat × Exns} (hg : g = fun l => cvtLane (wType v.w) (cvtDst v.w) (aluMod v.w)
      (rdN v.f (bits v.w 41 33) v.cnt l) (if aluMod v.w = 4 then rd32 v.f (bits v.w 50 42) l else 0))
    (htrap : trapOf v.run.trapMask ((aluLanes v).map (fun l => (l, (g l).2))) = none) :
    cvtBody v s = .go (v.write v.dst (regsOf (cvtDst v.w)) (v.each (fun l => (g l).1)) s) none := by
  subst hg
  rw [Env.cnt] at htrap
  simp only [cvtBody, List.map_map, Function.comp_def, htrap]
  rfl

/-- The three votes of Table 5-5: MOD 0, MOD 1 and every other MOD. -/
theorem voteVal_eq_ite (mod : Nat) (p m : W32) :
    voteVal mod p m = if mod = 0 then (if p &&& m = 0 then 0 else 1) else if mod = 1 then (if p &&& m = m then 1 else 0) else (p &&& m).toNat := by
  match mod with
  | 0 => rfl
  | 1 => rfl
  | _ + 2 => rfl

/-- Settles O1: each instruction issues its row, whose body writes its lanes' results where no lane traps (`issue_alu`). -/
theorem arithmeticCompletes : Obligations.ArithmeticCompletes := by
  refine ⟨?_, ?_, ?_, ?_, ?_, ?_, ?_, ?_, ?_, ?_, ?_⟩
  all_goals
    intro v w e s hi htrap
    exact congrArg Host.Outcome.next (issue_alu _ _ hi htrap)

/-- Settles O2: a function differs from an arithmetic operation in its row alone. -/
theorem functionsComplete : Obligations.FunctionsComplete := by
  refine ⟨?_, ?_, ?_, ?_, ?_, ?_, ?_⟩
  all_goals
    intro v w e s hi htrap
    exact congrArg Host.Outcome.next (issue_alu _ _ hi htrap)

/-- Settles O3: a bit operation differs from an arithmetic operation in its row alone. -/
theorem bitsComplete : Obligations.BitsComplete := by
  refine ⟨?_, ?_, ?_, ?_, ?_, ?_, ?_, ?_, ?_, ?_⟩
  all_goals
    intro v w e s hi htrap
    exact congrArg Host.Outcome.next (issue_alu _ _ hi htrap)

/-- Settles O4: CVT writes where no lane traps; the other bodies always go on. -/
theorem predicatesAndLanesComplete : Obligations.PredicatesAndLanesComplete := by
  refine ⟨?_, ?_, ?_, ?_, ?_, ?_⟩
  · intro v w e s hi
    exact congrArg Host.Outcome.next (issue_moves selBody hi rfl)
  · intro v w e s hi
    exact congrArg Host.Outcome.next (issue_moves setpBody hi rfl)
  · intro v w e s g hi hg htrap
    exact congrArg Host.Outcome.next (issue_moves cvtBody hi (cvtBody_of_no_trap hg htrap))
  · intro v w e s hi
    exact congrArg Host.Outcome.next (issue_moves shflBody hi rfl)
  · intro v w e s hi
    exact congrArg Host.Outcome.next (issue_moves reduBody hi rfl)
  · rintro v w e s p hi rfl
    rw [← voteVal_eq_ite]
    exact congrArg Host.Outcome.next (issue_moves voteBody hi rfl)

end Sys2Proof.Machine
end

section
/-! SUPPORT. The body of SAMPLE once its checks pass, and the conditions of the sampler's commands (R187, R202 to R209). -/
namespace Sys2Proof.Machine

variable {v : Env} {s : State}

/-- The place of a descriptor in the stook's scratch. -/
def Env.smpRel (v : Env) : Nat := rd32 v.f (bits v.w 41 33) 0
/-- The descriptor that SAMPLE takes. -/
def Env.smpDesc (v : Env) (s : State) : List Byte := (scrRead s v.n (v.stook.base + v.smpRel) 32).1
/-- The pages of a global row. -/
def Env.smpPages (v : Env) (d : List Byte) (s : State) : List Nat :=
  (List.range ((fld d 8 8 + fld d 4 4 * scoreBytes d - 1) / 65536 + 1 - fld d 8 8 / 65536)).map (fun i =>
    (physOf s v.run.group ((fld d 8 8 / 65536 + i) * 65536) .read).1)
/-- The state in which a sample is queued at its core's sampler and its destination awaits the result. -/
def Env.smpQueued (v : Env) (d : List Byte) (pages : List Nat) (s : State) : State :=
  s.setCore v.n { (s.core v.n).setSheaf v.sl { v.f with sample := some v.dst } with
    samples := (s.core v.n).samples ++ [{ sheaf := v.sl, stook := v.f.stook, dst := v.dst, desc := d, pages := pages, since := none }] }

section
variable {d : List Byte} (hfree : v.f.sample = none) (hd : d = v.smpDesc s) (hrel : v.smpRel % 32 = 0) (hin : v.smpRel + 32 ≤ v.stook.size)
  (hres : fld d 0x1C 4 % 16 = 0) (hresIn : fld d 0x1C 4 + 16 ≤ v.stook.size)
include hfree hd hrel hin hres hresIn

/-- A sample of a row in scratch is queued when its fields are aligned and lie in the stook's scratch. -/
theorem sampleBody_of_scratch (hspace : bit (fld d 0 4) 2 = false) (halign : ¬ (scoreBytes d ≠ 0 ∧ fld d 8 4 % scoreBytes d ≠ 0))
    (hrow : fld d 8 4 + fld d 4 4 * scoreBytes d ≤ v.stook.size) : sampleBody v s = .go (v.smpQueued d [] s) none := by
  rw [Env.smpDesc] at hd
  rw [Env.smpRel] at hd hrel hin
  simp only [sampleBody, ← hd, hfree, hrel, hres, hspace, halign, Nat.not_lt.2 hin, Nat.not_lt.2 hrow, Nat.not_lt.2 hresIn, Option.isSome_none, ne_eq,
    not_true_eq_false, decide_false, Bool.and_false, Bool.false_eq_true, if_false]
  rfl

/-- A sample of a global row is queued with the row's pages when they translate for reading. -/
theorem sampleBody_of_global (hspace : bit (fld d 0 4) 2 = true) (halign : ¬ (scoreBytes d ≠ 0 ∧ fld d 8 8 % scoreBytes d ≠ 0))
    (hmap : rangeFault s v.run.group .read (fld d 4 4 * scoreBytes d / 65536 + 2) (fld d 8 8) (fld d 4 4 * scoreBytes d) = none) :
    sampleBody v s = .go (v.smpQueued d (v.smpPages d s) s) none := by
  rw [Env.smpDesc] at hd
  rw [Env.smpRel] at hd hrel hin
  simp only [sampleBody, ← hd, hfree, hrel, hres, hspace, halign, hmap, Nat.not_lt.2 hin, Nat.not_lt.2 hresIn, Option.isSome_none, ne_eq,
    not_true_eq_false, Bool.not_true, Bool.false_and, Bool.false_eq_true, if_false, if_true]
  rfl
end

/-- Settles O18: SAMPLE queues its descriptor once its checks pass; both commands of the sampler end the head sample of the stook and run that the
hypotheses name. -/
theorem samplesComplete : Obligations.SamplesComplete := by
  refine ⟨?_, ?_, ?_, ?_⟩
  · rintro v w e s rel sb len row res d hi hfree rfl hd rfl rfl rfl rfl hrel hin halign hres hspace hrow hresIn
    exact congrArg Host.Outcome.next (issue_moves sampleBody hi (sampleBody_of_scratch hfree hd hrel hin hres hresIn hspace halign hrow))
  · rintro v w e s rel sb len row res d hi hfree rfl hd rfl rfl rfl rfl hrel hin halign hres hspace hmap hresIn
    exact congrArg Host.Outcome.next (issue_moves sampleBody hi (sampleBody_of_global hfree hd hrel hin hres hresIn hspace halign hmap))
  · rintro q c n s j rest t r x rfl hwf hhead ht hr hrun
    change execSampleService q c s = _
    simp only [execSampleService, hhead, ht, hr, hrun]
    exact evt_of_true hwf
  · rintro q c n s j rest t r y rfl hwf hhead ht hr hglob hsince hage
    have hheld : heldFor s j.since (100 * us) = true := by
      rw [hsince]
      exact decide_eq_true hage
    change execRowTimeout q c s = _
    simp only [execRowTimeout, hhead, ht, hr]
    exact evt_of_true (by simp only [hwf, hglob, hheld, Bool.and_self])

end Sys2Proof.Machine
end

section
/-! SUPPORT. Reading and writing registers (R155 to R158): the classes of a specifier, what a write of one register and of several gives and leaves. -/
namespace Sys2Proof.Machine

/-! ## The classes of a specifier -/

section
variable {sp : Nat}

theorem regClass_v (h : sp < 0x100) : regClass sp = 1 := if_pos h
theorem regNum_v (h : sp < 0x100) : regNum sp = sp := if_pos h

theorem regClass_u (hlo : 0x100 ≤ sp) (hhi : sp < 0x140) : regClass sp = 2 := by
  rw [regClass, if_neg (Nat.not_lt.2 hlo), if_pos hhi]
theorem regNum_u (hlo : 0x100 ≤ sp) (hhi : sp < 0x140) : regNum sp = sp - 0x100 := by
  rw [regNum, if_neg (Nat.not_lt.2 hlo), if_pos hhi]

theorem regClass_p {i : Nat} (h : i < 8) : regClass (0x140 + i) = 4 := by
  rw [regClass, if_neg (by omega), if_neg (by omega), if_pos (by omega)]
theorem regNum_p {i : Nat} : regNum (0x140 + i) = i := by
  rw [regNum, if_neg (by omega), if_neg (by omega), Nat.add_sub_cancel_left]

/-- A specifier below null is not null. -/
theorem regClass_ne_null (h : sp < 0x1FF) : regClass sp ≠ 8 := by
  unfold regClass
  split_ifs <;> omega
end

/-! ## One register -/

section
variable (f : Sheaf) (m : W32) (vals : List (Nat × Nat))

theorem rd32_v {r : Nat} (lane : Nat) (h : r < 0x100) : rd32 f r lane = (f.vreg r lane).toNat := by
  simp only [rd32, regClass_v h, regNum_v h]
theorem rd32_u {r : Nat} (lane : Nat) (hlo : 0x100 ≤ r) (hhi : r < 0x140) : rd32 f r lane = (f.ureg (r - 0x100)).toNat := by
  simp only [rd32, regClass_u hlo hhi, regNum_u hlo hhi]
theorem rd32_p {i : Nat} (lane : Nat) (h : i < 8) : rd32 f (0x140 + i) lane = (f.preg i).toNat := by
  simp only [rd32, regClass_p h, regNum_p]

/-- A write of one register changes the register files and clears parity errors, and nothing else of the sheaf. -/
theorem wr32_eq (sp : Nat) : wr32 f sp m vals = { f with
    u := (wr32 f sp m vals).u, p := (wr32 f sp m vals).p, v := (wr32 f sp m vals).v, regBad := (wr32 f sp m vals).regBad } := by
  unfold wr32
  split <;> rfl

/-- The files that a write of one register changes: that of its class. -/
theorem wr32_v {sp : Nat} (h : sp < 0x100) : wr32 f sp m vals = { f with
    v := vals.foldl (fun t e => tset 0 t (32 * sp + e.1) (BitVec.ofNat 32 e.2)) f.v
    regBad := vals.foldl (fun t e => tdel t (32 * sp + e.1)) f.regBad } := by
  simp only [wr32, regClass_v h, regNum_v h]
theorem wr32_u {sp : Nat} (hlo : 0x100 ≤ sp) (hhi : sp < 0x140) :
    wr32 f sp m vals = { f with u := tset 0 f.u (sp - 0x100) (BitVec.ofNat 32 (vals.headD (0, 0)).2) } := by
  simp only [wr32, regClass_u hlo hhi, regNum_u hlo hhi]
theorem wr32_p {i : Nat} (h : i < 8) : wr32 f (0x140 + i) m vals =
    { f with p := tset 0 f.p i ((f.preg i &&& ~~~m) ||| (BitVec.ofNat 32 (vals.headD (0, 0)).2 &&& m)) } := by
  simp only [wr32, regClass_p h, regNum_p]
theorem rd32_none {r : Nat} (lane : Nat) (h : 0x148 ≤ r) : rd32 f r lane = 0 := by
  unfold rd32 regClass
  rw [if_neg (by omega), if_neg (by omega), if_neg (by omega)]
  split_ifs <;> rfl
theorem wr32_none {sp : Nat} (h : 0x148 ≤ sp) : wr32 f sp m vals = f := by
  unfold wr32 regClass
  rw [if_neg (by omega), if_neg (by omega), if_neg (by omega)]
  split_ifs <;> rfl
end

/-- Every specifier is one of a v, u or p register, or names no register. -/
theorem spec_cases (sp : Nat) : sp < 0x100 ∨ (0x100 ≤ sp ∧ sp < 0x140) ∨ (∃ i < 8, sp = 0x140 + i) ∨ 0x148 ≤ sp := by
  by_cases hp : 0x140 ≤ sp ∧ sp < 0x148
  · exact .inr (.inr (.inl ⟨sp - 0x140, by omega, by omega⟩))
  · omega

section
variable {f g : Sheaf} {m : W32} {vals : List (Nat × Nat)} {sp r lane x : Nat}

/-- What a specifier reads depends on the one file of its class. -/
theorem rd32_congr (hv : r < 0x100 → g.vreg r lane = f.vreg r lane) (hu : 0x100 ≤ r → r < 0x140 → g.ureg (r - 0x100) = f.ureg (r - 0x100))
    (hp : ∀ i < 8, r = 0x140 + i → g.preg i = f.preg i) : rd32 g r lane = rd32 f r lane := by
  rcases spec_cases r with h | ⟨hlo, hhi⟩ | ⟨i, hi, rfl⟩ | h
  · rw [rd32_v _ _ h, rd32_v _ _ h, hv h]
  · rw [rd32_u _ _ hlo hhi, rd32_u _ _ hlo hhi, hu hlo hhi]
  · rw [rd32_p _ _ hi, rd32_p _ _ hi, hp i hi rfl]
  · rw [rd32_none _ _ h, rd32_none _ _ h]

/-- A write of one register leaves every other register, and in a v register every lane that is given no value. -/
theorem rd32_wr32_of_untouched (hlane : lane < 32) (hvals : ∀ e ∈ vals, e.1 < 32) (h : r ≠ sp ∨ (sp < 0x100 ∧ ∀ e ∈ vals, e.1 ≠ lane)) :
    rd32 (wr32 f sp m vals) r lane = rd32 f r lane := by
  rcases spec_cases sp with hs | ⟨hlo, hhi⟩ | ⟨i, hi, rfl⟩ | hs
  · rw [wr32_v _ _ _ hs]
    refine rd32_congr (fun _ => ?_) (fun _ _ => rfl) (fun _ _ _ => rfl)
    refine tget_foldl_tset_of_ne (d := (0 : W32)) (fun e : Nat × Nat => 32 * sp + e.1) (fun e => BitVec.ofNat 32 e.2) vals f.v _ fun e he => ?_
    have hlt := hvals e he
    rcases h with hne | ⟨-, hout⟩
    · omega
    · have := hout e he
      omega
  · have hne : r ≠ sp := h.resolve_right (fun hv => by omega)
    rw [wr32_u _ _ _ hlo hhi]
    exact rd32_congr (fun _ => rfl) (fun _ _ => tget_tset_other _ _ _ _ _ (by omega)) (fun _ _ _ => rfl)
  · have hne : r ≠ 0x140 + i := h.resolve_right (fun hv => by omega)
    rw [wr32_p _ _ _ hi]
    exact rd32_congr (fun _ => rfl) (fun _ _ => rfl) (fun j _ hj => tget_tset_other _ _ _ _ _ (by omega))
  · rw [wr32_none _ _ _ hs]

/-- A v register reads back each lane's value. -/
theorem rd32_wr32_v (hsp : sp < 0x100) (hd : (vals.map Prod.fst).Nodup) (hx : (lane, x) ∈ vals) : rd32 (wr32 f sp m vals) sp lane = x % 2 ^ 32 := by
  have hd' : (vals.map (fun e => 32 * sp + e.1)).Nodup := by
    have hinj : Function.Injective (fun l => 32 * sp + l) := fun a b hab => Nat.add_left_cancel hab
    have := hd.map hinj
    rwa [List.map_map] at this
  have hread := tget_foldl_tset_of_mem (d := (0 : W32)) (fun e : Nat × Nat => 32 * sp + e.1) (fun e => BitVec.ofNat 32 e.2) f.v hx hd'
  rw [rd32_v _ _ hsp, wr32_v _ _ _ hsp, Sheaf.vreg, hread, BitVec.toNat_ofNat]

/-- A u register reads back the first value. -/
theorem rd32_wr32_u {e : Nat × Nat} (hlo : 0x100 ≤ sp) (hhi : sp < 0x140) : rd32 (wr32 f sp m (e :: vals)) sp lane = e.2 % 2 ^ 32 := by
  rw [rd32_u _ _ hlo hhi, wr32_u _ _ _ hlo hhi, Sheaf.ureg, tget_tset_self, List.headD_cons, BitVec.toNat_ofNat]

/-- A p register takes the first value's bits in the executing lanes (R157). -/
theorem preg_wr32_self {i : Nat} {e : Nat × Nat} (hi : i < 8) :
    (wr32 f (0x140 + i) m (e :: vals)).preg i = (f.preg i &&& ~~~m) ||| (BitVec.ofNat 32 e.2 &&& m) := by
  rw [wr32_p _ _ _ hi, Sheaf.preg, tget_tset_self, List.headD_cons]
theorem preg_wr32_other {i j : Nat} (hi : i < 8) (hj : j ≠ i) : (wr32 f (0x140 + i) m vals).preg j = f.preg j := by
  rw [wr32_p _ _ _ hi]
  exact tget_tset_other _ _ _ _ _ hj
end

/-! ## Several registers -/

/-- The values of the `i`th register of several, as `wrN` cuts them: 32 bits a register, the low half first (R156). -/
def wordVals (i : Nat) (vals : List (Nat × Nat)) : List (Nat × Nat) := vals.map (fun e => (e.1, e.2 / 2 ^ (32 * i) % 2 ^ 32))

section
variable {f g : Sheaf} {m : W32} {vals : List (Nat × Nat)} {sp n r lane x : Nat}

theorem wordVals_zero : wordVals 0 vals = vals.map (fun e => (e.1, e.2 % 2 ^ 32)) := by
  simp [wordVals]
theorem wordVals_succ (i : Nat) : wordVals (i + 1) vals = wordVals i (vals.map (fun e => (e.1, e.2 / 2 ^ 32))) := by
  simp only [wordVals, List.map_map, Function.comp_def, Nat.div_div_eq_div_mul, ← Nat.pow_add, Nat.mul_add, Nat.mul_one, Nat.add_comm]

theorem wrN_succ (h : regClass sp ≠ 8) (n : Nat) :
    wrN f sp m (n + 1) vals = wrN (wr32 f sp m (wordVals 0 vals)) (sp + 1) m n (vals.map (fun e => (e.1, e.2 / 2 ^ 32))) := by
  rw [wordVals_zero]
  exact if_neg h
theorem wrN_one (sp : Nat) : wrN f sp m 1 vals = wr32 f sp m (wordVals 0 vals) := by
  by_cases h : regClass sp = 8
  · have hs : 0x148 ≤ sp := by
      unfold regClass at h
      split_ifs at h <;> omega
    rw [wr32_none _ _ _ hs]
    exact if_pos h
  · exact wrN_succ h 0

/-- A write of registers changes the register files and clears parity errors, and nothing else of the sheaf. -/
theorem wrN_eq (f : Sheaf) (sp n : Nat) (vals : List (Nat × Nat)) : wrN f sp m n vals = { f with
    u := (wrN f sp m n vals).u, p := (wrN f sp m n vals).p, v := (wrN f sp m n vals).v, regBad := (wrN f sp m n vals).regBad } := by
  induction n generalizing f sp vals with
  | zero => rfl
  | succ n ih =>
    by_cases h : regClass sp = 8
    · rw [wrN, if_pos h]
    · rw [wrN_succ h, ih, wr32_eq f m]

/-- A write of registers leaves those outside its range, and in v registers every lane that is given no value. -/
theorem rd32_wrN_of_untouched (hlane : lane < 32) (hvals : ∀ e ∈ vals, e.1 < 32)
    (h : (r < sp ∨ sp + n ≤ r) ∨ sp = 0x1FF ∨ (sp + n ≤ 0x100 ∧ ∀ e ∈ vals, e.1 ≠ lane)) : rd32 (wrN f sp m n vals) r lane = rd32 f r lane := by
  induction n generalizing f sp vals with
  | zero => rfl
  | succ n ih =>
    by_cases hnull : regClass sp = 8
    · rw [wrN, if_pos hnull]
    · have hsp : sp ≠ 0x1FF := by
        rintro rfl
        exact hnull rfl
      have hwhere := h.imp_right (fun h => h.resolve_left hsp)
      have hlanes : ∀ e ∈ wordVals 0 vals, e.1 < 32 := List.forall_mem_map.2 hvals
      have hfirst : r ≠ sp ∨ (sp < 0x100 ∧ ∀ e ∈ wordVals 0 vals, e.1 ≠ lane) :=
        hwhere.imp (fun hr => by omega) (fun ⟨hv, hout⟩ => ⟨by omega, List.forall_mem_map.2 hout⟩)
      have hcut : ∀ e ∈ vals.map (fun e => (e.1, e.2 / 2 ^ 32)), e.1 < 32 := List.forall_mem_map.2 hvals
      have hrest : (r < sp + 1 ∨ sp + 1 + n ≤ r) ∨ sp + 1 = 0x1FF ∨
          (sp + 1 + n ≤ 0x100 ∧ ∀ e ∈ vals.map (fun e => (e.1, e.2 / 2 ^ 32)), e.1 ≠ lane) :=
        hwhere.imp (fun hr => by omega) (fun ⟨hv, hout⟩ => .inr ⟨by omega, List.forall_mem_map.2 hout⟩)
      rw [wrN_succ hnull, ih hcut hrest, rd32_wr32_of_untouched hlane hlanes hfirst]

/-- Each register of a range holds what its own write gives. -/
theorem rd32_wrN_word (hlane : lane < 32) (hvals : ∀ e ∈ vals, e.1 < 32) (hsp : sp + n ≤ 0x148) {i : Nat} (hi : i < n) :
    ∃ g, rd32 (wrN f sp m n vals) (sp + i) lane = rd32 (wr32 g (sp + i) m (wordVals i vals)) (sp + i) lane := by
  induction n generalizing f sp vals i with
  | zero => cases hi
  | succ n ih =>
    rw [wrN_succ (regClass_ne_null (by omega))]
    have hlanes : ∀ e ∈ vals.map (fun e => (e.1, e.2 / 2 ^ 32)), e.1 < 32 := List.forall_mem_map.2 hvals
    cases i with
    | zero => exact ⟨f, rd32_wrN_of_untouched hlane hlanes (.inl (.inl (Nat.lt_succ_self sp)))⟩
    | succ i =>
      rw [wordVals_succ, show sp + (i + 1) = sp + 1 + i by omega]
      exact ih hlanes (by omega) (by omega)

/-- A value is read whole from registers that hold its words in turn. -/
theorem rdN_of_words (hsp : sp + n ≤ 0x148) (h : ∀ i < n, rd32 f (sp + i) lane = x / 2 ^ (32 * i) % 2 ^ 32) : rdN f sp n lane = x % 2 ^ (32 * n) := by
  induction n generalizing sp x with
  | zero => simp [rdN, Nat.mod_one]
  | succ n ih =>
    have hlow : rd32 f sp lane = x % 2 ^ 32 := by simpa using h 0 (Nat.succ_pos n)
    have hhigh : rdN f (sp + 1) n lane = x / 2 ^ 32 % 2 ^ (32 * n) := by
      refine ih (by omega) fun i hi => ?_
      rw [show sp + 1 + i = sp + (i + 1) by omega, h (i + 1) (by omega), Nat.div_div_eq_div_mul, ← Nat.pow_add, Nat.mul_add, Nat.add_comm]
    rw [rdN, if_neg (regClass_ne_null (by omega)), hlow, hhigh, Nat.mul_succ, Nat.add_comm (32 * n), Nat.pow_add, Nat.mod_mul]

/-- A v destination reads back each lane's value. -/
theorem rdN_wrN_v (hsp : sp + n ≤ 0x100) (hlane : lane < 32) (hvals : ∀ e ∈ vals, e.1 < 32) (hd : (vals.map Prod.fst).Nodup)
    (hx : (lane, x) ∈ vals) : rdN (wrN f sp m n vals) sp n lane = x % 2 ^ (32 * n) := by
  refine rdN_of_words (by omega) fun i hi => ?_
  obtain ⟨g, hg⟩ := rd32_wrN_word (f := f) (m := m) hlane hvals (by omega : sp + n ≤ 0x148) hi
  have hd' : ((wordVals i vals).map Prod.fst).Nodup := by
    rw [wordVals, List.map_map]
    exact hd
  rw [hg, rd32_wr32_v (by omega) hd' (List.mem_map.2 ⟨_, hx, rfl⟩), Nat.mod_mod]

/-- A u destination reads back the first value. -/
theorem rdN_wrN_u {e : Nat × Nat} (hlo : 0x100 ≤ sp) (hhi : sp + n ≤ 0x140) (hlane : lane < 32) (hvals : ∀ y ∈ e :: vals, y.1 < 32) :
    rdN (wrN f sp m n (e :: vals)) sp n lane = e.2 % 2 ^ (32 * n) := by
  refine rdN_of_words (by omega) fun i hi => ?_
  obtain ⟨g, hg⟩ := rd32_wrN_word (f := f) (m := m) hlane hvals (by omega : sp + n ≤ 0x148) hi
  rw [hg, wordVals, List.map_cons, rd32_wr32_u (by omega) (by omega), Nat.mod_mod]

/-- Reading depends on what each register reads. -/
theorem rdN_congr (h : ∀ r, rd32 g r lane = rd32 f r lane) (sp n : Nat) : rdN g sp n lane = rdN f sp n lane := by
  induction n generalizing sp with
  | zero => rfl
  | succ n ih => rw [rdN, rdN, h, ih]
end

end Sys2Proof.Machine
end

section
/-! SUPPORT. A sheaf that writes its destination and moves on: what the state keeps, and what the sheaf reads (R155 to R159). -/
namespace Sys2Proof.Machine

variable {v : Env} {sp cnt : Nat} {vals : List (Nat × Nat)} {s : State}

/-- The sheaf once it has written its destination and moved on. -/
def Env.wroteSheaf (v : Env) (sp cnt : Nat) (vals : List (Nat × Nat)) (s : State) : Sheaf :=
  settle 80 { wrN (s.sheaf v.n v.sl) sp v.m cnt vals with pc := nextPc v.w v.f.pc }

/-- The move leaves every register as the write left it. -/
theorem rd32_wroteSheaf (r lane : Nat) : rd32 (v.wroteSheaf sp cnt vals s) r lane = rd32 (wrN (s.sheaf v.n v.sl) sp v.m cnt vals) r lane := by
  rw [Env.wroteSheaf, settle_eq]
  rfl
theorem preg_wroteSheaf (i : Nat) : (v.wroteSheaf sp cnt vals s).preg i = (wrN (s.sheaf v.n v.sl) sp v.m cnt vals).preg i := by
  rw [Env.wroteSheaf, settle_eq]
  rfl

/-- Seen from outside the cores, a sheaf that is replaced and an issue that is noted change nothing. -/
theorem setSheaf_outside (s : State) (n sl : Nat) (f : Sheaf) (c : Tab Core) : { s.setSheaf n sl f with cores := c } = { s with cores := c } := rfl
theorem noteIssue_outside (s : State) (n sl : Nat) (lines : List Nat) (c : Tab Core) :
    { noteIssue n sl lines s with cores := c } = { s with cores := c } := rfl

section
variable (hlive : (s.sheaf v.n v.sl).ended = false)
include hlive

/-- The write and the move change one sheaf slot of the state in which the issue is noted. -/
theorem wrote_eq : v.wrote sp cnt vals s = ((v.noted s).setSheaf v.n v.sl (wrN (s.sheaf v.n v.sl) sp v.m cnt vals)).setSheaf v.n v.sl
    (v.wroteSheaf sp cnt vals s) := by
  have hended : (wrN (s.sheaf v.n v.sl) sp v.m cnt vals).ended = false := by
    rw [wrN_eq]
    exact hlive
  have hsheaf : ((v.noted s).setSheaf v.n v.sl (wrN (s.sheaf v.n v.sl) sp v.m cnt vals)).sheaf v.n v.sl = wrN (s.sheaf v.n v.sl) sp v.m cnt vals :=
    State.sheaf_setSheaf_self _ _ _ _
  rw [Env.wrote, Env.moved, Env.write, Env.put, noted_sheaf, advance_live _ _ _ _ (by rw [hsheaf]; exact hended), hsheaf, Env.wroteSheaf]

theorem sheaf_wrote : (v.wrote sp cnt vals s).sheaf v.n v.sl = v.wroteSheaf sp cnt vals s := by
  rw [wrote_eq hlive, State.sheaf_setSheaf_self]

/-- Outside its core the write changes nothing but what the fetch counts. -/
theorem wrote_outside : { v.wrote sp cnt vals s with cores := s.cores } = fetchCount v.n v.run.group v.w v.f.pc s := by
  rw [wrote_eq hlive, setSheaf_outside, setSheaf_outside, Env.noted, noteIssue_outside, ← fetchCount_cores v.n v.run.group v.w v.f.pc s]

theorem core_wrote_other {k : Nat} (hk : k ≠ v.n) : (v.wrote sp cnt vals s).core k = s.core k := by
  rw [wrote_eq hlive, State.setSheaf, State.core_setCore_other _ _ _ _ hk, State.setSheaf, State.core_setCore_other _ _ _ _ hk, noted_core_other v s k hk]

theorem sheaf_wrote_other {j : Nat} (hj : j ≠ v.sl) : (v.wrote sp cnt vals s).sheaf v.n j = s.sheaf v.n j := by
  rw [wrote_eq hlive, State.sheaf_setSheaf_other _ _ _ _ _ _ (.inr hj), State.sheaf_setSheaf_other _ _ _ _ _ _ (.inr hj), noted_sheaf]

/-- In its core the write changes the sheaf, the issue record and the instruction cache. -/
theorem core_wrote : { (v.wrote sp cnt vals s).core v.n with
    sheaves := (s.core v.n).sheaves, sched := (s.core v.n).sched, issues := (s.core v.n).issues, issued := (s.core v.n).issued
    icache := (s.core v.n).icache } = s.core v.n := by
  have hcore : (fetchCount v.n v.run.group v.w v.f.pc s).core v.n = s.core v.n := by
    rw [State.core, fetchCount_cores]
    rfl
  rw [wrote_eq hlive, State.setSheaf, State.core_setCore_self, State.setSheaf, State.core_setCore_self, Env.noted, noteIssue, State.core_setCore_self,
    hcore]
  rfl

/-- In its sheaf the write changes the register files, and the move the program counter, the active mask and the stack. -/
theorem sheaf_wrote_rest : { (v.wrote sp cnt vals s).sheaf v.n v.sl with
    u := (s.sheaf v.n v.sl).u, p := (s.sheaf v.n v.sl).p, v := (s.sheaf v.n v.sl).v, regBad := (s.sheaf v.n v.sl).regBad
    pc := (s.sheaf v.n v.sl).pc, active := (s.sheaf v.n v.sl).active, stack := (s.sheaf v.n v.sl).stack } = s.sheaf v.n v.sl := by
  rw [sheaf_wrote hlive, Env.wroteSheaf, settle_eq, wrN_eq]
end

/-- What a party reads of memory does not rest on the cores. -/
theorem sectorView_cores (s : State) (c : Tab Core) (stage : Option Nat) (pa : Nat) :
    sectorView { s with cores := c } stage pa = sectorView s stage pa := rfl

/-- Settles O54: the write and the move change one sheaf slot of the state in which the issue is noted (`wrote_eq`); the move changes no register,
and the others and the destination read as `wrN` leaves them. -/
theorem instructionsWriteTheirDestination : Obligations.InstructionsWriteTheirDestination := by
  refine ⟨?_, ?_, ?_, ?_⟩
  · rintro v sp cnt vals s t hlive rfl
    have hquiet := quiet_fetchCount v.n v.run.group v.w v.f.pc (Quiet.refl s)
    have hout := wrote_outside (v := v) (sp := sp) (cnt := cnt) (vals := vals) hlive
    refine ⟨hout, ?_, fun stage pa => ?_, fun k hk => core_wrote_other hlive hk, fun j hj => sheaf_wrote_other hlive hj, core_wrote hlive,
      sheaf_wrote_rest hlive⟩
    · rw [← hout] at hquiet
      exact hquiet.rest
    · rw [← sectorView_cores _ s.cores, hout, quiet_sectorView hquiet]
  · intro v sp cnt r lane vals s hlive hlane hvals h
    rw [sheaf_wrote hlive, rd32_wroteSheaf, rd32_wrN_of_untouched hlane hvals h]
  · intro v sp cnt lane x vals s hlive hsp hlane hvals hd hx
    rw [sheaf_wrote hlive, rdN_congr (fun r => rd32_wroteSheaf r lane), rdN_wrN_v hsp hlane hvals hd hx]
  · intro v sp cnt lane e vals s hlive hlo hhi hlane hvals
    rw [sheaf_wrote hlive, rdN_congr (fun r => rd32_wroteSheaf r lane), rdN_wrN_u hlo hhi hlane hvals]

/-- A bit of a mask that takes another's bits where a third is set. -/
theorem getLsbD_merge (old new m : W32) {l : Nat} (hl : l < 32) :
    ((old &&& ~~~m) ||| (new &&& m)).getLsbD l = if m.getLsbD l then new.getLsbD l else old.getLsbD l := by
  rw [BitVec.getLsbD_or, BitVec.getLsbD_and, BitVec.getLsbD_and, BitVec.getLsbD_not]
  cases m.getLsbD l <;> simp [hl]

/-- Settles O55: the write of one p register merges the value's bits where a lane executes (`preg_wr32_self`). -/
theorem predicateWrites : Obligations.PredicateWrites := by
  refine ⟨fun f i lane hi => rd32_p f lane hi, ?_, ?_⟩
  · intro v i l e vals s hlive hi hl
    have hbit : (BitVec.ofNat 32 (e.2 / 2 ^ (32 * 0) % 2 ^ 32)).getLsbD l = e.2.testBit l := by
      rw [Nat.mul_zero, Nat.pow_zero, Nat.div_one, BitVec.getLsbD_ofNat, Nat.testBit_mod_two_pow]
      simp only [hl, decide_true, Bool.true_and]
    rw [sheaf_wrote hlive, preg_wroteSheaf, wrN_one, wordVals, List.map_cons, preg_wr32_self hi, getLsbD_merge _ _ _ hl, hbit]
  · intro v i j vals s hlive hi hj hne
    rw [sheaf_wrote hlive, preg_wroteSheaf, wrN_one, preg_wr32_other hi hne]

end Sys2Proof.Machine
end

section
/-! SUPPORT. The integer and raw-bit lane functions as operations on words of the type's width (R163, R165, R166, Table 5-5). -/
namespace Sys2Proof.Machine

/-! ## Integers and words -/

theorem wrapInt_eq_toNat_ofInt (w : Nat) (z : Int) : wrapInt w z = (BitVec.ofInt w z).toNat := (BitVec.toNat_ofInt z).symm

theorem wrapInt_natCast_of_lt {w n : Nat} (h : n < 2 ^ w) : wrapInt w (n : Int) = n := by
  rw [wrapInt_eq_toNat_ofInt, BitVec.ofInt_natCast, BitVec.toNat_ofNat, Nat.mod_eq_of_lt h]

theorem clampI_eq_max_min {lo hi : Int} (h : lo ≤ hi) (z : Int) : clampI lo hi z = max lo (min hi z) := by
  unfold clampI
  split_ifs <;> omega

section
variable {ty : Nat} (x y : BitVec (tyW ty))

/-- Whatever its signedness, an operand stands for its word. -/
theorem ofInt_intOf : BitVec.ofInt (tyW ty) (intOf ty x.toNat) = x := by
  by_cases h : ty = 0 ∨ ty = 2
  · rw [intOf_signed x h, BitVec.ofInt_toInt]
  · rw [intOf_unsigned x h, BitVec.ofInt_natCast, BitVec.ofNat_toNat, BitVec.setWidth_eq]

theorem intOf_eq_zero_iff : intOf ty x.toNat = 0 ↔ x = 0 := by
  constructor
  · intro h
    rw [← ofInt_intOf x, h]
    exact BitVec.ofInt_ofNat _ 0
  · rintro rfl
    by_cases h : ty = 0 ∨ ty = 2
    · rw [intOf_signed _ h]
      exact BitVec.toInt_zero
    · rw [intOf_unsigned _ h]
      exact congrArg Int.ofNat BitVec.toNat_zero

theorem tyTrunc_toNat : tyTrunc ty x.toNat = x.toNat := Nat.mod_eq_of_lt x.isLt

theorem tyRange_signed (h : ty = 0 ∨ ty = 2) : tyRange ty = (-2 ^ (tyW ty - 1), 2 ^ (tyW ty - 1) - 1) := by
  rw [tyRange, if_pos h, Nat.cast_sub Nat.one_le_two_pow]
  push_cast
  rfl
theorem tyRange_unsigned (h : ¬ (ty = 0 ∨ ty = 2)) : tyRange ty = (0, ((2 ^ tyW ty - 1 : Nat) : Int)) := if_neg h

theorem isFl_of_int (h : ty ≤ 3) : isFl ty = false := by
  simp only [isFl, Bool.or_eq_false_iff, beq_eq_false_iff_ne]
  omega
end

/-! ## Sums and products -/

section
variable {ty : Nat} {x y z : BitVec (tyW ty)} {c : Nat} (hfl : isFl ty = false)
include hfl

theorem lnAdd_wrap : lnAdd ty 0 x.toNat y.toNat c = ((x + y).toNat, []) := by
  simp only [lnAdd, hfl, Nat.zero_testBit, Bool.false_eq_true, if_false, wrapInt_eq_toNat_ofInt, BitVec.ofInt_add, ofInt_intOf]
theorem lnSub_wrap : lnSub ty 0 x.toNat y.toNat c = ((x - y).toNat, []) := by
  simp only [lnSub, hfl, Nat.zero_testBit, Bool.false_eq_true, if_false, wrapInt_eq_toNat_ofInt, Int.sub_eq_add_neg, BitVec.ofInt_add, BitVec.ofInt_neg,
    ofInt_intOf, BitVec.sub_eq_add_neg]
theorem lnMul_wrap : lnMul ty 0 x.toNat y.toNat c = ((x * y).toNat, []) := by
  simp only [lnMul, hfl, Bool.false_eq_true, if_false, wrapInt_eq_toNat_ofInt, BitVec.ofInt_mul, ofInt_intOf]
theorem lnMad_wrap : lnMad ty 0 x.toNat y.toNat z.toNat = ((x * y + z).toNat, []) := by
  simp only [lnMad, hfl, Bool.false_eq_true, if_false, wrapInt_eq_toNat_ofInt, BitVec.ofInt_mul, BitVec.ofInt_add, ofInt_intOf]
theorem lnNeg_wrap : lnNeg ty 0 x.toNat 0 c = ((-x).toNat, []) := by
  simp only [lnNeg, hfl, Bool.false_eq_true, if_false, wrapInt_eq_toNat_ofInt, BitVec.ofInt_neg, ofInt_intOf]

/-- ADD and SUB with MOD 4 clamp the exact result to the type's range. -/
theorem lnAdd_clamp : lnAdd ty 4 x.toNat y.toNat c =
    (wrapInt (tyW ty) (clampI (tyRange ty).1 (tyRange ty).2 (intOf ty x.toNat + intOf ty y.toNat)), []) := by
  have hbit : Nat.testBit 4 2 = true := rfl
  simp only [lnAdd, hfl, hbit, Bool.false_eq_true, if_false, if_true]
theorem lnSub_clamp : lnSub ty 4 x.toNat y.toNat c =
    (wrapInt (tyW ty) (clampI (tyRange ty).1 (tyRange ty).2 (intOf ty x.toNat - intOf ty y.toNat)), []) := by
  have hbit : Nat.testBit 4 2 = true := rfl
  simp only [lnSub, hfl, hbit, Bool.false_eq_true, if_false, if_true]

/-- MIN and MAX take the operand that compares so in the type's signedness. -/
theorem lnMin_int : lnMin ty 0 x.toNat y.toNat c = ((if intOf ty y.toNat < intOf ty x.toNat then y else x).toNat, []) := by
  simp only [lnMin, hfl, Bool.false_eq_true, if_false, wrapInt_eq_toNat_ofInt]
  split <;> rw [ofInt_intOf]
theorem lnMax_int : lnMax ty 0 x.toNat y.toNat c = ((if intOf ty x.toNat < intOf ty y.toNat then y else x).toNat, []) := by
  simp only [lnMax, hfl, Bool.false_eq_true, if_false, wrapInt_eq_toNat_ofInt]
  split <;> rw [ofInt_intOf]
end

/-! ## Quotients and remainders -/

section
variable {ty : Nat} {x y : BitVec (tyW ty)} {c : Nat}

/-- DIV by zero gives all ones and raises its exception; else the quotient is cut toward zero. -/
theorem lnDiv_int (hfl : isFl ty = false) : lnDiv ty 0 x.toNat y.toNat c =
    if y = 0 then ((BitVec.allOnes (tyW ty)).toNat, [1]) else (wrapInt (tyW ty) ((intOf ty x.toNat).tdiv (intOf ty y.toNat)), []) := by
  have h4 : ty ≠ 4 := by
    rintro rfl
    exact Bool.noConfusion hfl
  simp only [lnDiv, h4, if_false, intOf_eq_zero_iff, BitVec.toNat_allOnes]

/-- REM by zero gives the dividend and raises the exception of DIV. -/
theorem lnRem_int : lnRem ty 0 x.toNat y.toNat c =
    if y = 0 then (x.toNat, [1]) else (wrapInt (tyW ty) ((intOf ty x.toNat).tmod (intOf ty y.toNat)), []) := by
  simp only [lnRem, intOf_eq_zero_iff, wrapInt_eq_toNat_ofInt, ofInt_intOf]

theorem ofInt_tdiv_toInt : BitVec.ofInt (tyW ty) (x.toInt.tdiv y.toInt) = x.sdiv y := by
  apply BitVec.eq_of_toInt_eq
  rw [BitVec.toInt_ofInt, BitVec.toInt_sdiv]
theorem ofInt_tmod_toInt : BitVec.ofInt (tyW ty) (x.toInt.tmod y.toInt) = x.srem y := by
  rw [← BitVec.toInt_srem, BitVec.ofInt_toInt]
theorem ofInt_natAbs_toInt : BitVec.ofInt (tyW ty) (x.toInt.natAbs : Int) = x.abs := by
  have hw : 0 < tyW ty := by
    unfold tyW
    split <;> decide
  rw [BitVec.abs_eq, BitVec.msb_eq_toInt]
  by_cases h : x.toInt < 0
  · rw [decide_eq_true h, if_pos rfl, Int.ofNat_natAbs_of_nonpos h.le, BitVec.ofInt_neg, BitVec.ofInt_toInt]
  · rw [decide_eq_false h, if_neg Bool.false_ne_true, Int.natAbs_of_nonneg (Int.not_lt.1 h), BitVec.ofInt_toInt]
end

/-! ## Signed types -/

section
variable {ty : Nat} {x y : BitVec (tyW ty)} {c : Nat} (hty : ty = 0 ∨ ty = 2)
include hty

theorem isFl_of_signed : isFl ty = false := isFl_of_int (by omega)

/-- A signed result that is clamped. -/
theorem wrapInt_clampI_signed (z : Int) : wrapInt (tyW ty) (clampI (tyRange ty).1 (tyRange ty).2 z) =
    (BitVec.ofInt (tyW ty) (max (-2 ^ (tyW ty - 1)) (min (2 ^ (tyW ty - 1) - 1) z))).toNat := by
  have hpos : (0 : Int) < 2 ^ (tyW ty - 1) := Int.pow_pos (by decide)
  rw [tyRange_signed hty, clampI_eq_max_min (by omega), wrapInt_eq_toNat_ofInt]

theorem lnMulhi_signed : lnMulhi ty 0 x.toNat y.toNat c = ((BitVec.ofInt (tyW ty) (x.toInt * y.toInt / 2 ^ tyW ty)).toNat, []) := by
  simp only [lnMulhi, intOf_signed _ hty, wrapInt_eq_toNat_ofInt, Nat.cast_pow, Nat.cast_ofNat]
theorem lnAbs_signed : lnAbs ty 0 x.toNat 0 c = (x.abs.toNat, []) := by
  simp only [lnAbs, isFl_of_signed hty, Bool.false_eq_true, if_false, intOf_signed _ hty, wrapInt_eq_toNat_ofInt, ofInt_natAbs_toInt]
end

/-! ## Unsigned types -/

section
variable {ty : Nat} {x y : BitVec (tyW ty)} {c : Nat} (hty : ty = 1 ∨ ty = 3)
include hty

theorem isFl_of_unsigned : isFl ty = false := isFl_of_int (by omega)
theorem not_signed_of_unsigned : ¬ (ty = 0 ∨ ty = 2) := by omega

theorem lnAdd_clamp_unsigned : lnAdd ty 4 x.toNat y.toNat c = (min (2 ^ tyW ty - 1) (x.toNat + y.toNat), []) := by
  have hpos := Nat.one_le_two_pow (n := tyW ty)
  have hclamp : clampI 0 ((2 ^ tyW ty - 1 : Nat) : Int) ((x.toNat : Int) + y.toNat) = ((min (2 ^ tyW ty - 1) (x.toNat + y.toNat) : Nat) : Int) := by
    rw [clampI_eq_max_min (Int.natCast_nonneg _)]
    omega
  rw [lnAdd_clamp (isFl_of_unsigned hty), tyRange_unsigned (not_signed_of_unsigned hty), intOf_unsigned _ (not_signed_of_unsigned hty),
    intOf_unsigned _ (not_signed_of_unsigned hty), hclamp, wrapInt_natCast_of_lt (by omega)]

theorem lnSub_clamp_unsigned : lnSub ty 4 x.toNat y.toNat c = (x.toNat - y.toNat, []) := by
  have hlt := x.isLt
  have hclamp : clampI 0 ((2 ^ tyW ty - 1 : Nat) : Int) ((x.toNat : Int) - y.toNat) = ((x.toNat - y.toNat : Nat) : Int) := by
    rw [clampI_eq_max_min (Int.natCast_nonneg _)]
    omega
  rw [lnSub_clamp (isFl_of_unsigned hty), tyRange_unsigned (not_signed_of_unsigned hty), intOf_unsigned _ (not_signed_of_unsigned hty),
    intOf_unsigned _ (not_signed_of_unsigned hty), hclamp, wrapInt_natCast_of_lt (by omega)]

theorem lnMulhi_unsigned : lnMulhi ty 0 x.toNat y.toNat c = (x.toNat * y.toNat / 2 ^ tyW ty, []) := by
  have hlt : x.toNat * y.toNat / 2 ^ tyW ty < 2 ^ tyW ty := Nat.div_lt_of_lt_mul (Nat.mul_lt_mul'' x.isLt y.isLt)
  simp only [lnMulhi, intOf_unsigned _ (not_signed_of_unsigned hty), ← Int.natCast_mul, ← Int.natCast_ediv, wrapInt_natCast_of_lt hlt]

theorem lnMin_unsigned : lnMin ty 0 x.toNat y.toNat c = (min x.toNat y.toNat, []) := by
  rw [lnMin_int (isFl_of_unsigned hty), intOf_unsigned _ (not_signed_of_unsigned hty), intOf_unsigned _ (not_signed_of_unsigned hty)]
  split_ifs <;> congr 1 <;> omega
theorem lnMax_unsigned : lnMax ty 0 x.toNat y.toNat c = (max x.toNat y.toNat, []) := by
  rw [lnMax_int (isFl_of_unsigned hty), intOf_unsigned _ (not_signed_of_unsigned hty), intOf_unsigned _ (not_signed_of_unsigned hty)]
  split_ifs <;> congr 1 <;> omega
theorem lnDiv_unsigned : lnDiv ty 0 x.toNat y.toNat c = if y = 0 then ((BitVec.allOnes (tyW ty)).toNat, [1]) else ((x / y).toNat, []) := by
  rw [lnDiv_int (isFl_of_unsigned hty), intOf_unsigned _ (not_signed_of_unsigned hty), intOf_unsigned _ (not_signed_of_unsigned hty),
    ← Int.ofNat_tdiv, ← BitVec.toNat_udiv, wrapInt_natCast_of_lt (x / y).isLt]
theorem lnRem_unsigned : lnRem ty 0 x.toNat y.toNat c = if y = 0 then (x.toNat, [1]) else ((x % y).toNat, []) := by
  rw [lnRem_int, intOf_unsigned _ (not_signed_of_unsigned hty), intOf_unsigned _ (not_signed_of_unsigned hty), ← Int.ofNat_tmod,
    ← BitVec.toNat_umod, wrapInt_natCast_of_lt (x % y).isLt]
end

/-! ## Words of bits -/

section
variable {ty : Nat} {x y : BitVec (tyW ty)} {c : Nat}

theorem lnShl_eq : lnShl ty 0 x.toNat y.toNat c = ((x <<< (y.toNat % tyW ty)).toNat, []) := by
  rw [BitVec.toNat_shiftLeft]
  rfl

theorem lnShr_eq : lnShr ty 0 x.toNat y.toNat c =
    ((if ty = 0 ∨ ty = 2 then x.sshiftRight (y.toNat % tyW ty) else x >>> (y.toNat % tyW ty)).toNat, []) := by
  rw [lnShr]
  by_cases h : ty = 0 ∨ ty = 2
  · rw [if_pos h, intOf_signed _ h, BitVec.sshiftRight_eq, Int.shiftRight_eq_div_pow, wrapInt_eq_toNat_ofInt]
  · have hle : x.toNat / 2 ^ (y.toNat % tyW ty) < 2 ^ tyW ty := Nat.lt_of_le_of_lt (Nat.div_le_self _ _) x.isLt
    rw [if_neg h, intOf_unsigned _ h, BitVec.toNat_ushiftRight, Nat.shiftRight_eq_div_pow, ← Int.natCast_ediv, wrapInt_natCast_of_lt hle]

theorem lnRotl_eq : lnRotl ty 0 x.toNat y.toNat c = ((x.rotateLeft y.toNat).toNat, []) := by
  simp only [lnRotl, tyTrunc_toNat, BitVec.toNat_rotateLeft]
  rfl

theorem lnAnd_eq : lnAnd ty 0 x.toNat y.toNat c = ((x &&& y).toNat, []) := by
  rw [lnAnd, ← BitVec.toNat_and, tyTrunc_toNat]
theorem lnOr_eq : lnOr ty 0 x.toNat y.toNat c = ((x ||| y).toNat, []) := by
  rw [lnOr, ← BitVec.toNat_or, tyTrunc_toNat]
theorem lnXor_eq : lnXor ty 0 x.toNat y.toNat c = ((x ^^^ y).toNat, []) := by
  rw [lnXor, ← BitVec.toNat_xor, tyTrunc_toNat]
theorem lnNot_eq : lnNot ty 0 x.toNat 0 c = ((~~~x).toNat, []) := by
  rw [lnNot, tyTrunc_toNat, BitVec.toNat_not]

/-- The set bits of a word below an index are as many as `cpopNatRec` counts. -/
theorem length_setBits {w : Nat} (x : BitVec w) (n : Nat) : (setBits n x.toNat).length = x.cpopNatRec n 0 := by
  induction n with
  | zero => rfl
  | succ n ih =>
    rw [setBits] at ih
    rw [setBits, List.range_succ, List.filter_append, List.length_append, ih, BitVec.cpopNatRec_succ, BitVec.cpopNatRec_eq (0 + _), Nat.zero_add,
      ← BitVec.testBit_toNat]
    cases h : x.toNat.testBit n <;> simp [h]

theorem lnPopc_eq : lnPopc ty 0 x.toNat 0 c = (x.cpop.toNat, []) := by
  rw [lnPopc, length_setBits, BitVec.toNat_cpop]

section
variable {w : Nat} {x : BitVec w}

theorem toNat_eq_zero_iff : x.toNat = 0 ↔ x = 0#w := by
  rw [← BitVec.toNat_inj, BitVec.toNat_ofNat, Nat.zero_mod]

theorem toNat_natCast_self : ((w : Nat) : BitVec w).toNat = w := by
  rw [BitVec.natCast_eq_ofNat, BitVec.toNat_ofNat, Nat.mod_eq_of_lt Nat.lt_two_pow_self]

theorem toNat_clz_of_zero (hx : x = 0#w) : x.clz.toNat = w := by
  rw [BitVec.clz_eq_iff_eq_zero.2 hx, toNat_natCast_self]
theorem toNat_clz_lt (hx : x ≠ 0#w) : x.clz.toNat < w := by
  have hlt := BitVec.lt_def.1 (BitVec.clz_lt_iff_ne_zero.2 hx)
  rwa [toNat_natCast_self] at hlt

/-- The highest set bit of a word stands below its leading zeros. -/
theorem log2_toNat (hx : x ≠ 0#w) : x.toNat.log2 = w - 1 - x.clz.toNat := by
  have hclz := toNat_clz_lt hx
  refine (Nat.log2_eq_iff (mt toNat_eq_zero_iff.1 hx)).2 ⟨BitVec.two_pow_sub_clz_le_toNat_of_ne_zero (by omega) hx, ?_⟩
  rw [show w - 1 - x.clz.toNat + 1 = w - x.clz.toNat by omega]
  exact BitVec.toNat_lt_two_pow_sub_clz
end

theorem lnClz_eq : lnClz ty 0 x.toNat 0 c = (x.clz.toNat, []) := by
  rw [lnClz, tyTrunc_toNat]
  by_cases hx : x = 0#(tyW ty)
  · rw [if_pos (toNat_eq_zero_iff.2 hx), toNat_clz_of_zero hx]
  · have hclz := toNat_clz_lt hx
    rw [if_neg (mt toNat_eq_zero_iff.1 hx), log2_toNat hx, show tyW ty - 1 - (tyW ty - 1 - x.clz.toNat) = x.clz.toNat by omega]
end

/-- Settles O5: an operand stands for its word (`ofInt_intOf`), so the wrapping operations are those of words; clamping, the high half, order and
division go by the type's signedness. -/
theorem integerLanes : Obligations.IntegerLanes := by
  refine ⟨?_, ?_, ?_, ?_, ?_, ?_⟩
  · intro ty c x y hty
    exact ⟨lnAdd_wrap (isFl_of_int hty), lnSub_wrap (isFl_of_int hty), lnMul_wrap (isFl_of_int hty)⟩
  · intro ty x y z hty
    exact lnMad_wrap (isFl_of_int (by omega))
  · intro ty c x y hty
    have hfl := isFl_of_signed hty
    refine ⟨?_, ?_, lnMulhi_signed hty, lnNeg_wrap hfl, lnAbs_signed hty, ?_, ?_, ?_, ?_⟩
    · rw [lnAdd_clamp hfl, wrapInt_clampI_signed hty, intOf_signed _ hty, intOf_signed _ hty]
    · rw [lnSub_clamp hfl, wrapInt_clampI_signed hty, intOf_signed _ hty, intOf_signed _ hty]
    · simp only [lnMin_int hfl, intOf_lt_iff, hty, if_true]
    · simp only [lnMax_int hfl, intOf_lt_iff, hty, if_true]
    · rw [lnDiv_int hfl, intOf_signed _ hty, intOf_signed _ hty, wrapInt_eq_toNat_ofInt, ofInt_tdiv_toInt]
    · rw [lnRem_int, intOf_signed _ hty, intOf_signed _ hty, wrapInt_eq_toNat_ofInt, ofInt_tmod_toInt]
  · intro ty c x y hty
    exact ⟨lnAdd_clamp_unsigned hty, lnSub_clamp_unsigned hty, lnMulhi_unsigned hty, lnMin_unsigned hty, lnMax_unsigned hty, lnDiv_unsigned hty,
      lnRem_unsigned hty⟩
  · intro ty c x y hty
    exact ⟨lnShl_eq, lnShr_eq, lnRotl_eq⟩
  · intro ty c x y hty
    exact ⟨lnAnd_eq, lnOr_eq, lnXor_eq, lnNot_eq, lnPopc_eq, lnClz_eq⟩

end Sys2Proof.Machine
end

section
/-! SUPPORT. The binary32 lane functions on special operands (R165, R166, Table 5-5). -/
namespace Sys2Proof.Machine

/-! ## Results that are no number, and the exceptions of operands that are numbers -/

theorem nanCode_f32 : nanCode f32 = 0x7FC0_0000 := rfl
theorem infCode_f32 (neg : Bool) : infCode f32 neg = if neg then 0xFF80_0000 else 0x7F80_0000 := by
  cases neg <;> rfl

/-- Operands none of which is a NaN raise invalid for a NaN result alone. -/
theorem fpExns_of_numbers {fm : Fmt} {ops : List Nat} (h : ∀ v ∈ ops, fdec fm v ≠ .nan) (x : Num) (excess div0 : Bool) :
    fpExns fm ops x excess div0 = (if x = .nan then [2] else []) ++ (if div0 then [3] else []) ++ (if excess then [4] else []) := by
  have hsnan : ops.any (isSnan fm) = false := List.any_eq_false.2 fun v hv => by simp [isSnan, h v hv]
  have hnan : ops.any (fun v => decide (fdec fm v = .nan)) = false := List.any_eq_false.2 fun v hv => by simp [h v hv]
  simp only [fpExns, hsnan, hnan, Bool.not_false, Bool.and_true, Bool.false_or, decide_eq_true_eq]

theorem ne_nan_of_fin {a m : Nat} {s : Bool} {e : Int} (h : fdec f32 a = .fin s m e) : fdec f32 a ≠ .nan := by simp [h]

section
variable {mod a free n : Nat} {ops : List Nat}

theorem finish_nan (h : ∀ v ∈ ops, fdec f32 v ≠ .nan) : finish f32 mod ops .nan false = (0x7FC0_0000, [2]) := by
  rw [finish, fpExns_of_numbers h]
  rfl
theorem finish_inf (h : ∀ v ∈ ops, fdec f32 v ≠ .nan) (neg : Bool) :
    finish f32 mod ops (.inf neg) true = (if neg then 0xFF80_0000 else 0x7F80_0000, [3]) := by
  rw [finish, fpExns_of_numbers h, ← infCode_f32]
  rfl

/-- An approximate function's special results are those of an exact one (R165). -/
theorem approx_nan (h : fdec f32 a ≠ .nan) : approx mod a free .nan n false = (0x7FC0_0000, [2]) :=
  finish_nan (mod := mod) (List.forall_mem_singleton.2 h)
theorem approx_inf (h : fdec f32 a ≠ .nan) (neg : Bool) :
    approx mod a free (.inf neg) n true = (if neg then 0xFF80_0000 else 0x7F80_0000, [3]) :=
  finish_inf (mod := mod) (List.forall_mem_singleton.2 h) neg
end

/-! ## Operations -/

section
variable {mod a b c : Nat}

theorem lnMin_f32 : lnMin 4 mod a b c = (fMinMax false f32 a b, []) := rfl
theorem lnMax_f32 : lnMax 4 mod a b c = (fMinMax true f32 a b, []) := rfl

/-- One NaN yields to the other operand, and two give the default NaN (R166). -/
theorem fMinMax_nan_left (mx : Bool) (ha : fdec f32 a = .nan) (hb : fdec f32 b ≠ .nan) : fMinMax mx f32 a b = b := by
  simp only [fMinMax, ha, hb, and_false, if_false, if_true]
theorem fMinMax_nan_right (mx : Bool) (ha : fdec f32 a = .nan) (hb : fdec f32 b ≠ .nan) : fMinMax mx f32 b a = b := by
  simp only [fMinMax, ha, hb, false_and, if_false, if_true]
theorem fMinMax_nan_both (mx : Bool) (ha : fdec f32 a = .nan) : fMinMax mx f32 a a = 0x7FC0_0000 := by
  simp only [fMinMax, ha, and_self, if_true, nanCode_f32]

/-- A finite non-zero number by a zero is an infinity. -/
theorem fdiv_zero (s t : Bool) (m : Nat) (e g : Int) : fdiv (.fin s (m + 1) e) (.fin t 0 g) = (.inf (s != t), true) := rfl

theorem lnDiv_zero {m : Nat} {s t : Bool} {e g : Int} (ha : fdec f32 a = .fin s (m + 1) e) (hb : fdec f32 b = .fin t 0 g) :
    lnDiv 4 mod a b c = (if s = t then 0x7F80_0000 else 0xFF80_0000, [3]) := by
  have hnum : ∀ v ∈ [a, b], fdec f32 v ≠ .nan := by simp [ha, hb]
  simp only [lnDiv, if_true, ha, hb, fdiv_zero, finish_inf hnum]
  cases s <;> cases t <;> rfl

section
variable {m : Nat} {e : Int} (ha : fdec f32 a = .fin true (m + 1) e)
include ha

/-- SQRT, RSQRT and LOG2 of a negative non-zero number are invalid. -/
theorem lnSqrt_neg : lnSqrt 4 mod a b c = (0x7FC0_0000, [2]) := by
  simp only [lnSqrt, ha, Nat.succ_ne_zero, if_false, if_true, finish_nan (List.forall_mem_singleton.2 (ne_nan_of_fin ha))]
theorem lnRsqrt_neg : lnRsqrt 4 mod a b c = (0x7FC0_0000, [2]) := by
  simp only [lnRsqrt, ha, Nat.succ_ne_zero, if_false, if_true, approx_nan (ne_nan_of_fin ha)]
theorem lnLog2_neg : lnLog2 4 mod a b c = (0x7FC0_0000, [2]) := by
  simp only [lnLog2, ha, Nat.succ_ne_zero, if_false, if_true, approx_nan (ne_nan_of_fin ha)]
end

section
variable {s : Bool} {e : Int} (ha : fdec f32 a = .fin s 0 e)
include ha

/-- RCP, RSQRT and LOG2 of a zero divide by zero. -/
theorem lnRcp_zero : lnRcp 4 mod a b c = (if s then 0xFF80_0000 else 0x7F80_0000, [3]) := by
  have hdiv : fdiv (.fin false 1 0) (.fin s 0 e) = (.inf s, true) := by
    rw [fdiv_zero, Bool.false_bne]
  simp only [lnRcp, ha, hdiv, approx_inf (ne_nan_of_fin ha)]
theorem lnRsqrt_zero : lnRsqrt 4 mod a b c = (if s then 0xFF80_0000 else 0x7F80_0000, [3]) := by
  simp only [lnRsqrt, ha, if_true, approx_inf (ne_nan_of_fin ha)]
theorem lnLog2_zero : lnLog2 4 mod a b c = (0xFF80_0000, [3]) := by
  simp only [lnLog2, ha, if_true, approx_inf (ne_nan_of_fin ha)]
end

/-- SIN and COS of an operand outside their range are invalid. -/
theorem trigLane_out_of_range {cosine : Bool} {free : W32 → W32}
    (h : (match fdec f32 a with | .fin _ m e => trigInRange m e | _ => false) = false) : trigLane cosine free mod a = (0x7FC0_0000, [2]) := by
  unfold trigLane
  rcases hx : fdec f32 a with _ | _ | ⟨s, m, e⟩
  · rfl
  · rfl
  · rw [hx] at h
    exact if_neg (Bool.eq_false_iff.1 h)

theorem lnAbs_f32 : lnAbs 4 mod a b c = (a % 2 ^ 31, []) := rfl
theorem lnNeg_f32 : lnNeg 4 mod a b c = ((BitVec.ofNat 32 a ^^^ 0x8000_0000).toNat, []) := by
  rw [BitVec.toNat_xor, BitVec.toNat_ofNat]
  rfl
end

/-- Settles O6: each function's branch for its special operand, with the code and the exceptions of a result that is no number. -/
theorem floatLanes : Obligations.FloatLanes := by
  refine ⟨?_, fun _ _ _ _ _ _ _ _ _ => lnDiv_zero, fun _ _ _ _ _ _ ha => ⟨lnSqrt_neg ha, lnRsqrt_neg ha, lnLog2_neg ha⟩,
    fun _ _ _ _ _ _ ha => ⟨lnRcp_zero ha, lnRsqrt_zero ha, lnLog2_zero ha⟩,
    fun _ _ _ _ h => ⟨trigLane_out_of_range h, trigLane_out_of_range h⟩, fun _ _ _ _ _ => ⟨lnAbs_f32, lnNeg_f32⟩⟩
  intro mod a b c ha hb
  simp only [lnMin_f32, lnMax_f32, fMinMax_nan_left _ ha hb, fMinMax_nan_right _ ha hb, fMinMax_nan_both _ ha, and_self]

end Sys2Proof.Machine
end

section
/-! SUPPORT. Keys of the cores: ages of requests, and the request of a rounding key in either state of the entropy source (R195, R196). -/
namespace Sys2Proof.Machine

/-! ## Ages of stamps -/

section
variable {s : State} {o : Option W64} {y : W64} {ns : Nat}

/-- What began at a stamp at least `ns` old has been held for `ns`. -/
theorem heldFor_of_stamp (ho : o = some y) (hage : ns ≤ (s.clk.tb - y).toNat) : heldFor s o ns = true := by
  subst ho
  exact decide_eq_true hage

/-- A stamp less than `ns` old has not aged. -/
theorem aged_of_younger (hage : (s.clk.tb - y).toNat < ns) : aged s y ns = false := decide_eq_false (Nat.not_le.2 hage)
end

/-! ## Requests of a rounding key -/

section
variable {s : State} (n : Nat)

/-- While the entropy source does not fail its tests, a request of a rounding key is noted with its time. -/
theorem askRound_of_passing (h : s.sec.entropyFailed = false) :
    askRound n s = modSeed n (fun x => { x with roundReq := some s.clk.tb }) s := if_neg (Bool.eq_false_iff.1 h)

/-- While the entropy source fails its tests, a request of a rounding key fails at once. -/
theorem askRound_of_failing (h : s.sec.entropyFailed = true) : askRound n s = roundKeyFail n s := if_pos h

/-- A fitted core that lacks a key, with no request under way and no failure to repair, requests one. -/
theorem execRoundingKeyFetch_asks {q c : Nat} (hwf : wfCore q c = true) (hfit : coreFitted s (64 * q + c) = true)
    (hreq : (s.core (64 * q + c)).seed.roundReq = none) (hfail : (s.core (64 * q + c)).seed.roundFail = none)
    (hkey : (s.core (64 * q + c)).seed.roundKey = none ∨ (s.core (64 * q + c)).seed.nextKey = none) :
    execRoundingKeyFetch q c s = .next (askRound (64 * q + c) s) := by
  have hlacks : ((s.core (64 * q + c)).seed.roundKey.isNone || (s.core (64 * q + c)).seed.nextKey.isNone) = true := by
    simpa only [Bool.or_eq_true, Option.isNone_iff_eq_none] using hkey
  exact evt_of_true (by simp only [hwf, hfit, hreq, hfail, hlacks, Option.isNone_none, Bool.and_self])
end

/-- Settles O19: each command's condition is the statement's hypotheses on the core's seedbox; a request of a rounding key goes by the state of
the entropy source (`askRound_of_passing`, `askRound_of_failing`). -/
theorem keysComplete : Obligations.KeysComplete := by
  refine ⟨?_, ?_, ?_, ?_, ?_, ?_, ?_⟩
  · rintro q c n s rfl hwf hfit hreq hfail hkey hok
    exact (execRoundingKeyFetch_asks hwf hfit hreq hfail hkey).trans (congrArg Host.Outcome.next (askRound_of_passing _ hok))
  · rintro q c n s y rfl hwf hreq hok hage
    change execKeyDelivery q c none s = _
    simp only [execKeyDelivery, hreq]
    exact evt_of_true (by simp only [hwf, hok, aged_of_younger (ns := 20 * us) hage, Bool.not_false, Bool.and_self])
  · rintro q c n l s y rfl hwf hreq hok hage
    change execKeyDelivery q c (some l) s = _
    simp only [execKeyDelivery, hreq]
    exact evt_of_true (by simp only [hwf, hok, aged_of_younger (ns := 20 * us) hage, Bool.not_false, Bool.and_self])
  · rintro q c n s y rfl hwf hreq hage
    exact evt_of_true (by simp only [hwf, heldFor_of_stamp (ns := 20 * us) hreq hage, Bool.and_self])
  · rintro q c n l s y rfl hwf hreq hage
    exact evt_of_true (by simp only [hwf, heldFor_of_stamp (ns := 20 * us) hreq hage, Bool.and_self])
  · rintro q c n s y rfl hwf hfail hreq hage hok
    change execRoundingKeyRetry q c s = _
    rw [execRoundingKeyRetry, evt_of_true (by simp only [hwf, heldFor_of_stamp (ns := ms) hfail hage, hreq, Option.isNone_none, Bool.and_self])]
    exact congrArg Host.Outcome.next (askRound_of_passing _ hok)
  · rintro q c n s rfl hwf hfit hreq hfail hkey hbad
    exact (execRoundingKeyFetch_asks hwf hfit hreq hfail hkey).trans (congrArg Host.Outcome.next (askRound_of_failing _ hbad))

end Sys2Proof.Machine
end

section
/-! SUPPORT. Admin commands on contexts, when no earlier command names the context and their checks hold (R197, R199, R358). -/
namespace Sys2Proof.Machine

/-- Settles O32: each command is its row's next one, no earlier command of its context holds it (`after_names`; CONTEXT_DESTROY waits in the
background instead), and the remaining hypotheses are the checks of its body. -/
theorem contextsAreKept : Obligations.ContextsAreKept := by
  refine ⟨?_, ?_, ?_, ?_⟩
  · rintro qu s sa x key hx rfl hnames hc hkind hsampling hkey hgroup hfree rfl
    change execContextCreate qu s = _
    rw [execContextCreate, admin_row hx rfl, after_names hnames, contextCreateBody]
    refine congrArg Host.Outcome.next (checks_ok ?_)
    simp only [List.all_cons, List.all_nil, hc, hkind, hsampling, hkey, hgroup, hfree, decide_true, Bool.and_self]
  · rintro qu s sa x hx rfl hd hc hctx
    change execContextDestroy qu s = _
    rw [execContextDestroy, admin_row hx rfl, checks_ok]
    simp only [List.all_cons, List.all_nil, hd, hc, hctx, decide_true, Bool.and_self]
  · rintro qu s sa x c n hx rfl rfl hnames hctx hd hkind hkey
    change execContextReseed qu s = _
    rw [execContextReseed, admin_row hx rfl, after_names hnames]
    simp only [hctx]
    refine congrArg Host.Outcome.next (checks_ok ?_)
    simp only [List.all_cons, List.all_nil, hd, hkind, hkey, decide_true, Bool.and_self]
  · rintro qu s sa x a n l hx rfl rfl hnames hctx hd hc halign hpages
    change execContextQuery qu s = _
    rw [execContextQuery, admin_row hx rfl, after_names hnames, checks_ok]
    · simp only [hctx, hpages]
    · simp only [List.all_cons, List.all_nil, hd, hc, halign, hctx, Option.isSome_some, decide_true, beq_self_eq_true, Bool.and_self]

end Sys2Proof.Machine
end

section
/-! SUPPORT. The block at reset: every sparse table and memory is empty, so that every entry is its default. -/
namespace Sys2Proof.Machine

/-- A table that lists nothing holds its default everywhere. -/
@[simp] theorem tget_nil {α : Type} (d : α) (i : Nat) : tget d [] i = d := rfl

/-- At reset every half is as its defaults say, under the part's pin limit (R227). -/
theorem half_reset (h : Nat) : State.reset.half h = Half.dflt State.reset.limit0 := tget_nil _ _

/-- At reset every mailbox is detached. -/
theorem mb_reset (b : Nat) : State.reset.mb b = Mailbox.dflt := tget_nil _ _

theorem core_reset (n : Nat) : State.reset.core n = Core.dflt := tget_nil _ _

theorem ep_reset_epoch (i : Nat) : (State.reset.ep i).epoch = 0 := rfl

/-- At reset the admin queues are the only queues (R341). -/
theorem queue?_reset (q : Nat) : State.reset.queue? q = if q < 32 then some (Queue.admin q) else none := rfl

/-- The fuses chosen for the reset state (log 4) leave every half the cores of its variant (R3), no fuse of a counted bank is blown, and the
identity store is read from its start (log 9). -/
theorem reset_legal : State.reset.Legal where
  svnFloor := Nat.zero_le _
  epochUsed := Nat.zero_le _
  epochSpoiled := Nat.le_refl _
  offset := by decide
  cores := by decide

/-- The memories at reset are canonical (`reset_memories_wf`), and so is a table that lists nothing. -/
theorem reset_canonical : State.reset.canonical = true := by
  obtain ⟨hlpddr, hplots, htilth, hhub⟩ := reset_memories_wf
  rw [State.canonical, hlpddr, hplots, htilth, hhub]
  rfl

/-- Settles O60: the registers stand in the reset state's definition, and every entry of a table or a memory is its default (`half_reset`,
`mb_reset`, `core_reset`, `ep_reset_epoch`, `queue?_reset`). -/
theorem resetState : Obligations.ResetState := by
  refine ⟨rfl, rfl, rfl, rfl, fun h => ?_, fun b => ?_, queue?_reset, ep_reset_epoch, fun n => ?_, rfl, rfl, rfl, tget_nil _,
    fun a => ?_, reset_legal, reset_canonical⟩
  · rw [half_reset]
    exact ⟨rfl, rfl, rfl, rfl, rfl, rfl⟩
  · rw [mb_reset]
    exact ⟨rfl, rfl, rfl, rfl⟩
  · rw [core_reset]
    rfl
  · exact ⟨tget_nil _ _, tget_nil _ _, tget_nil _ _, tget_nil _ _⟩

end Sys2Proof.Machine
end

section
/-! SUPPORT. The traffic of a granary half, when its commands' conditions hold (R223 to R226, R232 to R237). -/
namespace Sys2Proof.Machine

/-- Settles O23: the request, the fill or the reduction named stands in the half, and the remaining hypotheses are the condition of its
command; where no way is open, FILL_RETURN counts the wait before it tries. -/
theorem granaryTrafficRuns : Obligations.GranaryTrafficRuns := by
  refine ⟨?_, ?_, ?_, ?_, ?_, ?_, ?_⟩
  · rintro h i s f s1 hf hfill rfl rfl hserves hinstall hwant hwait
    change execFillReturn h i s = _
    simp only [execFillReturn, hfill]
    exact evt_of_true (by simp only [hserves, hinstall, hwant, hwait, Bool.not_false, Bool.and_self])
  · rintro h i s f hfill hserves hwant hwait
    change execFillResume h i s = _
    simp only [execFillResume, hfill]
    exact evt_of_true (by simp only [hserves, hwant, hwait, Bool.and_self])
  · rintro h i e0 e1 s r hreq hserves hop horder h0 h1
    change execGranaryRead h i e0 e1 s = _
    simp only [execGranaryRead, hreq]
    exact evt_of_true (by simp only [hserves, hop, horder, h0, h1, beq_self_eq_true, Bool.not_false, Bool.and_self])
  · rintro h i s r m psn hreq hop hserves horder
    change execGranaryStore h i s = _
    simp only [execGranaryStore, hreq, hop]
    exact evt_of_true (by simp only [hserves, horder, Bool.not_false, Bool.and_self])
  · rintro h i s r op y1 y2 lanes hreq hop hserves hquarter horder
    change execReductionAdmit h i s = _
    simp only [execReductionAdmit, hreq, hop]
    exact evt_of_true (by simp only [hserves, hquarter, horder, beq_self_eq_true, Bool.not_false, Bool.and_self])
  · rintro h i s x hf hred rfl hserves
    change execReductionComplete h i s = _
    simp only [execReductionComplete, hred]
    exact evt_of_true hserves
  · rintro h i s hf rfl hhalf hentry
    exact evt_of_true (by simp only [hhalf, hentry, decide_true, Bool.and_self])

end Sys2Proof.Machine
end

section
/-! SUPPORT. Carve walks, pin engines, thrash windows and the tilth split, when their commands' conditions hold (R220, R228 to R231, R243). -/
namespace Sys2Proof.Machine

/-- Settles O24: each command finds the walk, the request or the pin that the hypotheses give, and the remaining hypotheses are its
condition. -/
theorem carvesPinsAndSplits : Obligations.CarvesPinsAndSplits := by
  refine ⟨?_, ?_, ?_, ?_, ?_, ?_⟩
  · rintro h s c s1 hf hcarve rfl rfl hserves
    change execCarveWalkSet h s = _
    simp only [execCarveWalkSet, hcarve]
    exact evt_of_true hserves
  · rintro h s hf x t s1 rfl hpinq rfl hserves hcarve hbusy
    change execPinEngineRequest h s = _
    simp only [execPinEngineRequest, hpinq]
    exact evt_of_true (by simp only [hserves, hcarve, hbusy, Bool.not_false, Bool.and_self])
  · rintro pin s p qu seq hpin hcmd hmarked
    change execPinComplete pin s = _
    simp only [execPinComplete, hpin, hcmd]
    exact evt_of_true hmarked
  · rintro h s hf acc hit a k q h1 s1 rfl rfl rfl rfl rfl rfl rfl rfl hserves hloaded haged
    exact evt_of_true (by simp only [hserves, hloaded, haged, Bool.and_self])
  · rintro h s hf s1 rfl rfl hhalf hevent
    exact evt_of_true (by simp only [hhalf, hevent, decide_true, Bool.and_self])
  · rintro q c units s n k rfl rfl hwf hfit hdrained hlo hhi
    exact evt_of_true (by simp only [hwf, hfit, hdrained, hlo, hhi, decide_true, Bool.and_self])

end Sys2Proof.Machine
end

section
/-! SUPPORT. An update of a flag and the waits that it wakes (R278 to R280). -/
namespace Sys2Proof.Machine

/-! ## The delivery of one result -/

section
variable (x : W32) (s : State) (w : FlagWait)

/-- The result of a sheaf that waits is written in its destination register, and the sheaf waits no longer. -/
theorem flagDeliver_of_waiting {d : Nat} (h : (s.sheaf w.core w.sheaf).flagWait = some d) :
    flagDeliver x s w = s.setSheaf w.core w.sheaf { wr32 (s.sheaf w.core w.sheaf) d 0xFFFF_FFFF [(0, x.toNat)] with flagWait := none } := by
  simp only [flagDeliver, h]

/-- A delivery replaces at most the sheaf of its wait. -/
theorem flagDeliver_cases : flagDeliver x s w = s ∨ ∃ f, flagDeliver x s w = s.setSheaf w.core w.sheaf f := by
  cases h : (s.sheaf w.core w.sheaf).flagWait with
  | none => exact .inl (by simp only [flagDeliver, h])
  | some d => exact .inr ⟨_, flagDeliver_of_waiting x s w h⟩

/-- Seen from outside the cores, the delivery of a result changes nothing. -/
theorem flagDeliver_outside (c : Tab Core) : { flagDeliver x s w with cores := c } = { s with cores := c } := by
  rcases flagDeliver_cases x s w with hsame | ⟨f, hset⟩
  · rw [hsame]
  · rw [hset, setSheaf_outside]

/-- A result reaches no sheaf but its own. -/
theorem flagDeliver_sheaf_other {n sl : Nat} (h : ¬ (w.core = n ∧ w.sheaf = sl)) : (flagDeliver x s w).sheaf n sl = s.sheaf n sl := by
  rcases flagDeliver_cases x s w with hsame | ⟨f, hset⟩
  · rw [hsame]
  · rw [hset]
    exact State.sheaf_setSheaf_other _ _ _ _ _ _ ((not_and_or.1 h).imp Ne.symm Ne.symm)
end

/-! ## The deliveries of several results -/

section
variable (x : W32) (l : List FlagWait) (s : State)

theorem flagDelivers_outside (c : Tab Core) : { l.foldl (flagDeliver x) s with cores := c } = { s with cores := c } := by
  induction l generalizing s with
  | nil => rfl
  | cons w l ih => rw [List.foldl_cons, ih, flagDeliver_outside]

/-- The flag stores are outside the cores. -/
theorem flagDelivers_flags : (l.foldl (flagDeliver x) s).flags = s.flags := (congrArg State.flags (flagDelivers_outside x l s []) :)

theorem flagDelivers_flagStore (k : Nat) : (l.foldl (flagDeliver x) s).flagStore k = s.flagStore k := by
  rw [State.flagStore, flagDelivers_flags, State.flagStore]

theorem flagDelivers_sheaf_other {n sl : Nat} (h : ∀ w ∈ l, ¬ (w.core = n ∧ w.sheaf = sl)) :
    (l.foldl (flagDeliver x) s).sheaf n sl = s.sheaf n sl := by
  induction l generalizing s with
  | nil => rfl
  | cons w l ih =>
    obtain ⟨hw, hl⟩ := List.forall_mem_cons.1 h
    rw [List.foldl_cons, ih _ hl, flagDeliver_sheaf_other x s w hw]

/-- Where no sheaf has two of the waits, each sheaf's result is that of its own wait: the results before and after it are other sheaves'. -/
theorem flagDelivers_sheaf_of_mem {w : FlagWait} {d : Nat} (hw : w ∈ l) (hone : (l.map (fun (y : FlagWait) => (y.core, y.sheaf))).Nodup)
    (hd : (s.sheaf w.core w.sheaf).flagWait = some d) :
    (l.foldl (flagDeliver x) s).sheaf w.core w.sheaf =
      { wr32 (s.sheaf w.core w.sheaf) d 0xFFFF_FFFF [(0, x.toNat)] with flagWait := none } := by
  induction l generalizing s with
  | nil => cases hw
  | cons y l ih =>
    obtain ⟨hy, hl⟩ := List.nodup_cons.1 hone
    have hfresh : ∀ z ∈ l, ¬ (z.core = y.core ∧ z.sheaf = y.sheaf) := fun z hz e =>
      hy (List.mem_map.2 ⟨z, hz, Prod.ext e.1 e.2⟩)
    rw [List.foldl_cons]
    rcases List.mem_cons.1 hw with rfl | hw
    · rw [flagDelivers_sheaf_other x l _ hfresh, flagDeliver_of_waiting x s w hd, State.sheaf_setSheaf_self]
    · have hkept : (flagDeliver x s y).sheaf w.core w.sheaf = s.sheaf w.core w.sheaf :=
        flagDeliver_sheaf_other x s y fun e => hfresh w hw ⟨e.1.symm, e.2.symm⟩
      rw [ih _ hw hl (hkept ▸ hd), hkept]
end

/-! ## The update -/

/-- A wait whose threshold the value x of flag i meets (R280). -/
def FlagWait.met (i : Nat) (x : W32) (w : FlagWait) : Bool := w.flag == i && decide (w.threshold ≤ x)

theorem FlagWait.met_iff {i : Nat} {x : W32} {w : FlagWait} : w.met i x = true ↔ w.flag = i ∧ w.threshold ≤ x := by
  rw [FlagWait.met, Bool.and_eq_true, beq_iff_eq, decide_eq_true_iff]

section
variable {q i : Nat} {g : W32 → W32} {s : State} {x : W32} (hx : x = g (tget 0 (s.flagStore q).vals i))
include hx

/-- The store takes the value and drops the waits that it meets, whose results are then delivered. -/
theorem flagUpdate_eq : flagUpdate q i g s = ((s.flagStore q).waits.filter (FlagWait.met i x)).foldl (flagDeliver x)
    (s.setFlagStore q { s.flagStore q with
      vals := tset 0 (s.flagStore q).vals i x
      waits := (s.flagStore q).waits.filter (fun w => !w.met i x) }) := by
  subst hx
  rfl

theorem flagUpdate_flagStore_self : (flagUpdate q i g s).flagStore q = { s.flagStore q with
    vals := tset 0 (s.flagStore q).vals i x
    waits := (s.flagStore q).waits.filter (fun w => !w.met i x) } := by
  rw [flagUpdate_eq hx, flagDelivers_flagStore, State.flagStore_setFlagStore_self]

theorem flagUpdate_flagStore_other {k : Nat} (hk : k ≠ q) : (flagUpdate q i g s).flagStore k = s.flagStore k := by
  rw [flagUpdate_eq hx, flagDelivers_flagStore, State.flagStore_setFlagStore_other _ _ _ _ hk]

theorem mem_flagUpdate_waits (w : FlagWait) :
    w ∈ ((flagUpdate q i g s).flagStore q).waits ↔ w ∈ (s.flagStore q).waits ∧ ¬ (w.flag = i ∧ w.threshold ≤ x) := by
  rw [flagUpdate_flagStore_self hx, List.mem_filter, Bool.not_eq_true', ← Bool.not_eq_true, FlagWait.met_iff]

theorem flagUpdate_sheaf_other {n sl : Nat}
    (h : ∀ w ∈ (s.flagStore q).waits, w.flag = i → w.threshold ≤ x → ¬ (w.core = n ∧ w.sheaf = sl)) :
    (flagUpdate q i g s).sheaf n sl = s.sheaf n sl := by
  rw [flagUpdate_eq hx, flagDelivers_sheaf_other]
  · rfl
  · intro w hw
    obtain ⟨hmem, hmet⟩ := List.mem_filter.1 hw
    obtain ⟨hflag, hthreshold⟩ := FlagWait.met_iff.1 hmet
    exact h w hmem hflag hthreshold

theorem flagUpdate_outside : { flagUpdate q i g s with cores := s.cores, flags := s.flags } = s := by
  rw [flagUpdate_eq hx]
  exact congrArg (fun t : State => { t with flags := s.flags }) (flagDelivers_outside x _ _ s.cores)

theorem flagUpdate_sheaf_of_met {d : Nat} {w : FlagWait} (hw : w ∈ (s.flagStore q).waits) (hflag : w.flag = i) (hthreshold : w.threshold ≤ x)
    (hone : ((s.flagStore q).waits.map (fun (y : FlagWait) => (y.core, y.sheaf))).Nodup)
    (hd : (s.sheaf w.core w.sheaf).flagWait = some d) :
    (flagUpdate q i g s).sheaf w.core w.sheaf =
      { wr32 (s.sheaf w.core w.sheaf) d 0xFFFF_FFFF [(0, x.toNat)] with flagWait := none } := by
  rw [flagUpdate_eq hx]
  exact flagDelivers_sheaf_of_mem x _ _ (List.mem_filter.2 ⟨hw, FlagWait.met_iff.2 ⟨hflag, hthreshold⟩⟩)
    (hone.sublist (List.filter_sublist.map _)) hd
end

/-- Settles O59: the update is one change of its store followed by the deliveries, each of which touches the sheaf of its own wait alone. -/
theorem flagUpdates : Obligations.FlagUpdates := by
  refine ⟨?_, ?_⟩
  · rintro q i g s t x hx rfl
    refine ⟨?_, fun j hj => ?_, fun k hk => flagUpdate_flagStore_other hx hk, mem_flagUpdate_waits hx,
      fun n sl h => flagUpdate_sheaf_other hx h, flagUpdate_outside hx⟩
    · rw [flagUpdate_flagStore_self hx, tget_tset_self]
    · rw [flagUpdate_flagStore_self hx, tget_tset_other _ _ _ _ _ hj]
  · intro q i d g s x w hx hw hflag hthreshold hone hd
    exact flagUpdate_sheaf_of_met hx hw hflag hthreshold hone hd

end Sys2Proof.Machine
end

section
/-! SUPPORT. The links between the dies and the vertical buses, when their commands' conditions hold (R258 to R269, R282, R284). -/
namespace Sys2Proof.Machine

/-- Settles O25: the remaining hypotheses of each clause are the condition of its command, whose effect the clause states. That
FLIT_RECEIVE hands over the networks' offers and moves the flit in one step is the choice of log 24. -/
theorem linksMoveAndRepair : Obligations.LinksMoveAndRepair := by
  refine ⟨?_, ?_, ?_, ?_, ?_, ?_, ?_, ?_, ?_, ?_⟩
  · rintro l dir g offers wire s s1 r e rfl rfl rfl hmoves
    exact evt_of_true hmoves
  · rintro l dir g seq s x rfl hmoves hdiscarding rfl
    exact evt_of_true (by simp only [hmoves, hdiscarding, beq_self_eq_true, Bool.and_self])
  · rintro l dir g seq s x rfl hmoves hack
    exact evt_of_true (by simp only [hmoves, hack, beq_self_eq_true, Bool.and_self])
  · rintro l dir g margins s count s1 rfl rfl hmoves hup
    exact evt_of_true (by simp only [hmoves, hup, beq_self_eq_true, Bool.and_self])
  · rintro l dir g s x r s1 rfl rfl rfl hmoves hretiring hacked hsent
    exact evt_of_true (by simp only [hmoves, hretiring, hacked, hsent, beq_self_eq_true, Bool.and_self])
  · rintro l s k late rfl rfl hlink hheld hlost
    exact evt_of_true (by simp only [hlink, hheld, hlost, decide_true, Bool.not_false, Bool.and_self])
  · rintro l fwd rev s fresh rfl hlink hdown htrains hguest
    exact evt_of_true (by simp only [hlink, hdown, htrains, hguest, decide_true, beq_self_eq_true, Bool.and_self])
  · rintro a b s r old bad w s1 s2 rfl rfl rfl rfl rfl rfl ha hb hpair hnew hra hrb hclear
    exact evt_of_true (by simp only [ha, hb, bne_iff_ne.2 hpair, bne_iff_ne.2 hnew, hra, hrb, hclear, decide_true, Bool.and_self])
  · rintro q bus at_ s i s0 s1 rfl rfl rfl hwf hcore hway
    exact evt_of_true (by simp only [hwf, hcore, hway, Bool.and_self])
  · rintro q bus i n s key l total s1 s2 rfl rfl rfl rfl rfl hwf
    exact evt_of_true hwf

end Sys2Proof.Machine
end

section
/-! SUPPORT. The control network and the multicast engines, when their commands' conditions hold (R270 to R277, R463). -/
namespace Sys2Proof.Machine

/-- Settles O26: the bounce, the waiting message or the retry slot named stands where its command looks, and the remaining hypotheses are
the condition of the command. -/
theorem controlNetworkRuns : Obligations.ControlNetworkRuns := by
  refine ⟨?_, ?_, ?_, ?_, ?_, ?_, ?_⟩
  · rintro dest msg s x rfl hsends
    exact evt_of_true hsends
  · rintro sender s t b rest hret rfl
    change execBounce sender s = _
    simp only [execBounce, hret]
  · rintro sender dest role s ep s1 rfl rfl hbelow
    exact evt_of_true (decide_eq_true hbelow)
  · rintro i s x hnet haged
    change execInboxWaitTimeout i s = _
    simp only [execInboxWaitTimeout, hnet]
    exact evt_of_true haged
  · rintro q msg s sl y x e s1 s2 hslot rfl rfl rfl rfl rfl hquarter hreach hmcast hdest hpair hheadland
    change execMulticast q msg s = _
    simp only [execMulticast, hslot]
    exact evt_of_true (by
      simp only [hquarter, hreach, hmcast, hdest, hpair, bne_iff_ne.2 hheadland, decide_true, beq_self_eq_true, Bool.not_false, Bool.and_self])
  · rintro q slot c s hquarter hslot hcore
    exact evt_of_true (by simp only [hquarter, hslot, hcore, decide_true, Bool.and_self])
  · rintro q slot s x hfound hquarter hslot haged
    change execMcastBlockTimeout q slot s = _
    simp only [execMcastBlockTimeout, hfound]
    exact evt_of_true (by simp only [hquarter, hslot, haged, decide_true, Bool.and_self])

end Sys2Proof.Machine
end

section
/-! SUPPORT. The guest port, when its commands' conditions hold (R286 to R290, R342, R534). -/
namespace Sys2Proof.Machine

/-- Settles O27: the flit or the request named is the one that its command takes, and the remaining hypotheses are the condition of the
command. That an idle flit acknowledges in the same step whenever nothing else does is the choice of log 20. -/
theorem guestPortRuns : Obligations.GuestPortRuns := by
  refine ⟨?_, ?_, ?_, ?_, ?_, ?_, ?_, ?_⟩
  · rintro v s hup hversion
    exact evt_of_true (by simp only [hup, hversion, decide_true, Bool.and_self])
  · rintro flit s g ok seq idle count rfl rfl rfl rfl rfl hup hlength
    exact evt_of_true (by simp only [hup, hlength, decide_true, Bool.and_self])
  · rintro s hup hout haged
    exact evt_of_true (by simp only [hup, hout, haged, Bool.not_false, Bool.and_self])
  · rintro i s hup hmodule hfails
    exact evt_of_true (by simp only [hup, hmodule, hfails, decide_true, Bool.and_self])
  · rintro flit s g op len f t s1 rfl rfl rfl hrx rfl hup rfl hrequest
    change execGuestRequest f s = _
    simp only [execGuestRequest, hrx]
    exact evt_of_true (by simp only [hup, hrequest, beq_self_eq_true, Bool.not_false, Bool.and_self])
  · rintro flit s g op f t s1 rfl rfl hrx rfl hup rfl hanswer
    change execGuestResponse f s = _
    simp only [execGuestResponse, hrx]
    exact evt_of_true (by simp only [hup, hanswer, beq_self_eq_true, Bool.and_self])
  · rintro tag s o hfound haged
    change execGuestResponseTimeout tag s = _
    simp only [execGuestResponseTimeout, hfound]
    exact evt_of_true haged
  · rintro s hfitted hpowered
    exact evt_of_true (by simp only [hfitted, hpowered, Bool.not_false, Bool.and_self])

end Sys2Proof.Machine
end

section
/-! SUPPORT. The memory stacks, when their commands' conditions hold (R296 to R303, R307, R309, R310, R312, R314). -/
namespace Sys2Proof.Machine

/-- Settles O28: where a command names a request, the request stands in the pool, and the remaining hypotheses of each clause are the
condition of its command. That CHANNEL_SLOT carries the buffer levels from which it samples the urgency wires, and serves one refresh or
one request, are the readings of log 22; the error patterns of CRC_RETRY and LPDDR_READ_RETURN are the operands of log 19. -/
theorem memoryStacksServe : Obligations.MemoryStacksServe := by
  refine ⟨?_, ?_, ?_, ?_, ?_, ?_, ?_, ?_, ?_, ?_, ?_, ?_, ?_, ?_⟩
  · rintro m gen cmdOk eyes107 eyes96 s k g rfm fast failed cold k1 rfl rfl rfl rfl rfl rfl rfl hfitted huntrained hrate hstep
    exact evt_of_true (by simp only [hfitted, huntrained, hrate, hstep, beq_self_eq_true, Bool.and_self])
  · rintro m s k rfl hfitted huntrained hrate
    exact evt_of_true (by simp only [hfitted, huntrained, bne_iff_ne.2 hrate, beq_self_eq_true, Bool.and_self])
  · rintro m write master y slot data poison s k a r rfl rfl rfl hfitted hserves hmaster haddress hslot
    exact evt_of_true (by simp only [hfitted, hserves, hmaster, haddress, hslot, decide_true, Bool.and_self])
  · rintro m slot s ch s0 k0 s1 rfl rfl rfl rfl hup hchannel halive hsteady
    exact evt_of_true (by simp only [hup, hchannel, halive, hsteady, decide_true, Bool.not_false, Bool.and_self])
  · rintro m id err s r pa hfound rfl hissued hread hup
    change execLpddrReadReturn m id err s = _
    simp only [execLpddrReadReturn, hfound]
    exact evt_of_true (by simp only [hissued, hread, hup, Bool.not_false, Bool.and_self])
  · rintro m burst s k id r ch c l k1 c1 rfl rfl hfound rfl rfl rfl rfl rfl hissued hup hcrc
    change execCrcRetry m burst s = _
    simp only [execCrcRetry, hfound]
    exact evt_of_true (by simp only [hissued, hup, hcrc, Bool.and_self])
  · rintro m id s r s1 k ch hfound rfl rfl rfl hup haged
    change execLpddrRequestTimeout m id s = _
    simp only [execLpddrRequestTimeout, hfound]
    exact evt_of_true (by simp only [hup, haged, Bool.and_self])
  · rintro m ch s k c k1 rfl rfl rfl hup hchannel hdue hidle
    exact evt_of_true (by simp only [hup, hchannel, hdue, hidle, decide_true, Bool.not_false, Bool.and_self])
  · rintro m ch ok s k c s1 rfl rfl rfl hup hchannel hretraining
    exact evt_of_true (by simp only [hup, hchannel, hretraining, decide_true, Bool.and_self])
  · rintro m ch bank s k c busy r due s1 rfl rfl rfl rfl rfl rfl hup hchannel hbank hdue
    exact evt_of_true (Bool.and_eq_true_iff.2 ⟨by simp only [hup, hchannel, hbank, decide_true, Bool.and_self], hdue⟩)
  · rintro m die rate s k rfl hup hdie
    exact evt_of_true (by simp only [hup, hdie, decide_true, Bool.and_self])
  · rintro m die s hup hdie
    exact evt_of_true (by simp only [hup, hdie, decide_true, Bool.and_self])
  · rintro q master s i due rfl rfl hquarter hmaster hdue hcounts
    have hwire : (decide (q < 4) && (master == 4 || master == 5)) = true := by simp only [hquarter, hmaster, decide_true, Bool.and_self]
    exact evt_of_true (Bool.and_eq_true_iff.2 ⟨Bool.and_eq_true_iff.2 ⟨hwire, hdue⟩, hcounts⟩)
  · rintro m ch s k c due rfl rfl rfl hup hchannel hdue
    exact evt_of_true (Bool.and_eq_true_iff.2 ⟨by simp only [hup, hchannel, decide_true, Bool.and_self], hdue⟩)

end Sys2Proof.Machine
end

section
/-! SUPPORT. The storage walkers, the repairs, the checkers' self-tests and the loading of fuses, when their commands' conditions hold
(R324, R328, R329, R331, R332, R334, R441, R478). -/
namespace Sys2Proof.Machine

/-- Settles O29: the hypotheses of each clause are the condition of its command. The error pattern of a walker's read is the operand of
log 19, and the copies of a unit's fuses stand for their CRC and agreement (log 4). -/
theorem integrityWorkRuns : Obligations.IntegrityWorkRuns := by
  refine ⟨?_, ?_, ?_, ?_⟩
  · rintro kind unit err s hwalks hcopies
    exact evt_of_true (Bool.and_eq_true_iff.2 ⟨hwalks, hcopies⟩)
  · rintro kind unit err s hwalks hcopies
    exact evt_of_true (Bool.and_eq_true_iff.2 ⟨hwalks, hcopies⟩)
  · rintro kind unit pass s src rfl hruns
    exact evt_of_true hruns
  · rintro unit a b d s ok rfl hstep hunit hfitted
    exact evt_of_true (by simp only [hstep, hunit, hfitted, beq_self_eq_true, decide_true, Bool.and_self])

end Sys2Proof.Machine
end

section
/-! SUPPORT. Linear codes as exclusive-ors of columns, and the (72,64) code (R319): its columns have odd weight, so that the exclusive-or of
two of them is none of them. -/
namespace Sys2Proof.Machine

/-- The exclusive-or of the columns at the set bits of a word: the syndrome of a linear code of n bits. -/
def xorCols (f : Nat → Nat) (n v : Nat) : Nat := (setBits n v).foldl (fun a i => a ^^^ f i) 0

section
variable (f : Nat → Nat) (n : Nat)

@[simp] theorem xorCols_zero (v : Nat) : xorCols f 0 v = 0 := rfl

/-- The columns of one more bit. -/
theorem xorCols_succ (v : Nat) : xorCols f (n + 1) v = xorCols f n v ^^^ (if v.testBit n then f n else 0) := by
  cases h : v.testBit n <;> simp [xorCols, setBits, List.range_succ, h]

/-- A syndrome is linear in the word. -/
theorem xorCols_xor (a b : Nat) : xorCols f n (a ^^^ b) = xorCols f n a ^^^ xorCols f n b := by
  induction n with
  | zero => simp only [xorCols_zero, Nat.xor_self]
  | succ n ih =>
    have hbit : (if (a ^^^ b).testBit n then f n else 0) = (if a.testBit n then f n else 0) ^^^ (if b.testBit n then f n else 0) := by
      rw [Nat.testBit_xor]
      cases a.testBit n <;> cases b.testBit n <;> simp
    rw [xorCols_succ, xorCols_succ, xorCols_succ, ih, hbit]
    ac_rfl

/-- One bit alone has its own column as its syndrome. -/
theorem xorCols_two_pow (i : Nat) : xorCols f n (2 ^ i) = if i < n then f i else 0 := by
  induction n with
  | zero => rfl
  | succ n ih =>
    rw [xorCols_succ, ih, Nat.testBit_two_pow]
    rcases lt_trichotomy i n with h | rfl | h
    · simp [h, h.ne, Nat.lt_succ_of_lt h]
    · simp
    · simp [h.ne', h.le.not_gt, Nat.not_lt.2 (Nat.succ_le_of_lt h)]

end

/-! ## The columns -/

/-- The eight-bit vectors of weight 3. -/
def secdedWeight3 : List Nat := (List.range 256).filter (fun v => (setBits 8 v).length == 3)

theorem length_secdedWeight3 : secdedWeight3.length = 56 := by decide
theorem secdedCols_take : secdedCols.take 56 = secdedWeight3 := List.take_left' length_secdedWeight3
theorem length_secdedAll : secdedAll.length = 72 := by decide
theorem secdedAll_nodup : secdedAll.Nodup := by decide

/-- The weight of an eight-bit vector modulo 2, as the syndrome of a code whose every column is 1. -/
def oddWeight (v : Nat) : Nat := xorCols (fun _ => 1) 8 v

theorem oddWeight_secdedAll : ∀ v ∈ secdedAll, oddWeight v = 1 := by decide

/-- The column of a stored bit, as the syndrome reads it. -/
theorem secdedCol_mem {i : Nat} (hi : i < 72) : secdedAll.getD i 0 ∈ secdedAll := by
  rw [← length_secdedAll] at hi
  rw [List.getD_eq_getElem _ _ hi]
  exact List.getElem_mem hi

/-- A column is not zero, since its weight is odd. -/
theorem secdedCol_ne_zero {i : Nat} (hi : i < 72) : secdedAll.getD i 0 ≠ 0 := fun h =>
  absurd (oddWeight_secdedAll _ (secdedCol_mem hi)) (by rw [h]; decide)

theorem secdedCol_inj {i j : Nat} (hi : i < 72) (hj : j < 72) (h : secdedAll.getD i 0 = secdedAll.getD j 0) : i = j := by
  rw [← length_secdedAll] at hi hj
  rw [List.getD_eq_getElem _ _ hi, List.getD_eq_getElem _ _ hj] at h
  exact secdedAll_nodup.getElem_inj_iff.1 h

/-- The exclusive-or of two columns has even weight, so that it is not a column. -/
theorem secdedCol_xor_ne {i j k : Nat} (hi : i < 72) (hj : j < 72) (hk : k < 72) :
    secdedAll.getD i 0 ^^^ secdedAll.getD j 0 ≠ secdedAll.getD k 0 := by
  intro h
  have hodd : ∀ {l : Nat}, l < 72 → oddWeight (secdedAll.getD l 0) = 1 := fun hl => oddWeight_secdedAll _ (secdedCol_mem hl)
  have heven : oddWeight (secdedAll.getD i 0 ^^^ secdedAll.getD j 0) = 0 := by
    rw [oddWeight, xorCols_xor, ← oddWeight, ← oddWeight, hodd hi, hodd hj]
    rfl
  rw [h, hodd hk] at heven
  exact one_ne_zero heven

/-! ## The syndrome and the decoder -/

theorem secdedSyn_eq (v : Nat) : secdedSyn v = xorCols (fun i => secdedAll.getD i 0) 72 v := rfl

theorem secdedSyn_xor (a b : Nat) : secdedSyn (a ^^^ b) = secdedSyn a ^^^ secdedSyn b := xorCols_xor _ _ a b

theorem secdedSyn_two_pow {i : Nat} (hi : i < 72) : secdedSyn (2 ^ i) = secdedAll.getD i 0 := by
  rw [secdedSyn_eq, xorCols_two_pow, if_pos hi]

variable {rec i j : Nat}

/-- The zero syndrome corrects nothing. -/
theorem secdedDecode_of_syn_zero (h : secdedSyn rec = 0) : secdedDecode rec = .ok 0 (rec % 2 ^ 64) := by
  by_cases hrec : rec = 0
  · subst hrec; rfl
  · rw [secdedDecode, if_neg hrec, if_pos h]

/-- A syndrome that is a column corrects the bit of that column, the only bit that has it. -/
theorem secdedDecode_of_syn_col (hrec : rec ≠ 0) (hi : i < 72) (h : secdedSyn rec = secdedAll.getD i 0) :
    secdedDecode rec = .ok 1 ((rec ^^^ 2 ^ i) % 2 ^ 64) := by
  have hfind : secdedAll.findIdx? (fun v => v == secdedSyn rec) = some i := by
    have hlen : i < secdedAll.length := length_secdedAll ▸ hi
    have hcol : secdedSyn rec = secdedAll[i] := h.trans (List.getD_eq_getElem _ _ hlen)
    refine List.findIdx?_eq_some_iff_getElem.2 ⟨hlen, beq_iff_eq.2 hcol.symm, fun j hj heq => hj.ne ?_⟩
    exact secdedAll_nodup.getElem_inj_iff.1 ((beq_iff_eq.1 heq).trans hcol)
  rw [secdedDecode, if_neg hrec, if_neg (h ▸ secdedCol_ne_zero hi), hfind]

/-- A syndrome that is neither zero nor a column is uncorrectable. -/
theorem secdedDecode_of_syn_other (hsyn : secdedSyn rec ≠ 0) (h : ∀ i, i < 72 → secdedSyn rec ≠ secdedAll.getD i 0) :
    secdedDecode rec = .bad := by
  have hrec : rec ≠ 0 := fun h0 => hsyn (by rw [h0]; rfl)
  have hfind : secdedAll.findIdx? (fun v => v == secdedSyn rec) = none := by
    refine List.findIdx?_eq_none_iff.2 fun v hv => beq_false_of_ne ?_
    obtain ⟨i, hi, rfl⟩ := List.getElem_of_mem hv
    rw [← List.getD_eq_getElem _ 0 hi]
    exact (h i (length_secdedAll ▸ hi)).symm
  rw [secdedDecode, if_neg hrec, if_neg hsyn, hfind]

/-- Every single error is corrected. -/
theorem secdedDecode_single (hi : i < 72) : secdedDecode (2 ^ i) = .ok 1 0 := by
  rw [secdedDecode_of_syn_col (Nat.two_pow_pos i).ne' hi (secdedSyn_two_pow hi), Nat.xor_self, Nat.zero_mod]

/-- Every double error is found uncorrectable. -/
theorem secdedDecode_double (hi : i < 72) (hj : j < 72) (hne : i ≠ j) : secdedDecode (2 ^ i ^^^ 2 ^ j) = .bad := by
  have hsyn : secdedSyn (2 ^ i ^^^ 2 ^ j) = secdedAll.getD i 0 ^^^ secdedAll.getD j 0 := by
    rw [secdedSyn_xor, secdedSyn_two_pow hi, secdedSyn_two_pow hj]
  refine secdedDecode_of_syn_other ?_ fun k hk => hsyn ▸ secdedCol_xor_ne hi hj hk
  rw [hsyn]
  exact fun h => hne (secdedCol_inj hi hj (Nat.xor_eq_zero_iff.1 h))

/-- Settles O56: the columns by their definition, the linearity of every such code (`xorCols_xor`), the decoder by its three kinds of
syndrome, and the single and double errors from these, the latter since every column has odd weight. -/
theorem secdedCode : Obligations.SecdedCode := by
  refine ⟨⟨?_, ?_, ?_, ?_, rfl⟩, secdedSyn_xor, ?_, ?_, fun _ _ => secdedDecode_of_syn_zero, ?_⟩
  · rw [secdedCols_take]
    rfl
  · rw [secdedCols_take, length_secdedWeight3]
  · rw [secdedCols_take]
    exact List.pairwise_lt_range.filter _
  · intro x
    rw [secdedCols_take, secdedWeight3, List.mem_filter, List.mem_range, beq_iff_eq]
    rfl
  · intro err i hpos _ hi hcol
    exact secdedDecode_of_syn_col hpos.ne' hi hcol
  · intro err _ _ hsyn hother
    exact secdedDecode_of_syn_other hsyn hother
  · intro i j hi hj hne
    exact ⟨secdedDecode_single hi, secdedDecode_double hi hj hne⟩

end Sys2Proof.Machine
end

section
/-! SUPPORT. Admin commands on mailboxes' sessions and on groups, when their checks hold (R347 to R350, R353). -/
namespace Sys2Proof.Machine

/-- Settles O30: each command is its row's next one (`admin_row`), and the remaining hypotheses are the checks of its body (`checks_ok`). The bit
VALID picks between the two rows of GROUP_SET. -/
theorem adminSessionsAndGroups : Obligations.AdminSessionsAndGroups := by
  refine ⟨?_, ?_, ?_, ?_⟩
  · rintro qu s sa x d a hx rfl rfl rfl hd hversions halign harea hdetached
    change execHello qu s = _
    rw [execHello, admin_row hx rfl, helloBody]
    refine congrArg Host.Outcome.next (checks_ok ?_)
    simp only [List.all_cons, List.all_nil, hd, hversions, halign, harea, hdetached, decide_true, beq_self_eq_true, Bool.and_self]
  · rintro qu s sa x hx rfl hd
    change execGoodbye qu s = _
    rw [execGoodbye, admin_row hx rfl, checks_ok]
    simp only [List.all_cons, List.all_nil, hd, Bool.and_self]
  · rintro qu s sa x d g ks slot n hx hvalid rfl rfl rfl rfl rfl rfl hd hflags hslot hmin hmax hwake hversion hfree
    change execGroupSet qu s = _
    rw [execGroupSet, admin_row hx hvalid, groupSetBody, checks_ok]
    simp only [List.all_cons, List.all_nil, hd, hflags, hslot, hmin, hmax, hwake, hversion, hfree, decide_true, beq_self_eq_true, Bool.not_false,
      Bool.and_self]
  · rintro qu s sa x g plain hx hvalid rfl rfl rfl hplain hup hholds
    change execGroupSetDelete qu s = _
    rw [execGroupSetDelete, admin_row hx (congrArg not hvalid), checks_ok]
    simp only [List.all_cons, List.all_nil, hplain, hup, hholds, Bool.not_false, Bool.and_self]

end Sys2Proof.Machine
end

section
/-! SUPPORT. Admin commands on queues and mappings, when their checks hold (R354 to R356, R494). -/
namespace Sys2Proof.Machine

/-- QUEUE_STATE with fields in range acts on the queue that it names. -/
theorem queueStateBody_of_queue {f : Nat → Queue → Cmd → State → State} {x : Cmd} {s : State} {k : Queue} (hqueue : s.queue? (fld x.desc 8 4) = some k)
    (hd : onlyAt x.desc [(8, 5)] = true) (hmin : 0x20 ≤ fld x.desc 8 4) (hmax : fld x.desc 8 4 < 2 ^ 20) (haction : fld x.desc 0xC 1 ≤ 2) :
    queueStateBody f x s = f (fld x.desc 8 4) k x s := by
  simp only [queueStateBody, hqueue]
  exact checks_ok (by simp only [List.all_cons, List.all_nil, hd, hmin, hmax, haction, decide_true, Bool.and_self])

/-- Settles O31: each command is its row's next one (`admin_row`), and the remaining hypotheses are the checks of its body (`checks_ok`). ACTION
picks between the three rows of QUEUE_STATE, which share their checks (`queueStateBody_of_queue`). -/
theorem queuesAndMappings : Obligations.QueuesAndMappings := by
  refine ⟨?_, ?_, ?_, ?_, ?_, ?_⟩
  · rintro qu s sa x d w v g dl a fs n k hx rfl rfl rfl rfl rfl rfl rfl rfl rfl rfl hd hmin hmax hv hdepth hdepth' hboxes halign harea hversion hhub
      hgroup hfree
    change execQueueCreate qu s = _
    rw [execQueueCreate, admin_row hx rfl, queueCreateBody, checks_ok]
    simp only [List.all_cons, List.all_nil, hd, hmin, hmax, hv, hdepth, hdepth', hboxes, halign, harea, hversion, hhub, hgroup, hfree, ne_eq,
      not_false_eq_true, decide_true, beq_self_eq_true, Bool.not_false, Bool.and_self]
  · rintro qu s sa x w k hx hpause hdelete rfl rfl hqueue hkept hd hmin hmax haction
    change execQueueResume qu s = _
    rw [execQueueResume, admin_row hx (by simp only [bne_iff_ne.2 hpause, bne_iff_ne.2 hdelete, Bool.and_self]),
      queueStateBody_of_queue hqueue hd hmin hmax haction, if_neg hkept]
  · rintro qu s sa x w k hx hpause rfl rfl hqueue hd hmin hmax haction
    change execQueuePause qu s = _
    rw [execQueuePause, admin_row hx (by simp only [hpause, beq_self_eq_true]), queueStateBody_of_queue hqueue hd hmin hmax haction]
  · rintro qu s sa x w k hx hdelete rfl rfl hqueue hd hmin hmax haction
    change execQueueDelete qu s = _
    rw [execQueueDelete, admin_row hx (by simp only [hdelete, beq_self_eq_true]), queueStateBody_of_queue hqueue hd hmin hmax haction]
  · rintro qu s sa x d g w pg va pa n z m slot hx rfl rfl rfl rfl rfl rfl rfl rfl rfl rfl rfl hd hw haccess hclass hva hpa hn hpos hmax hend harea hhub
      hgroup hslot hover hroom
    change execMap qu s = _
    rw [execMap, admin_row hx rfl, mapBody, checks_ok]
    simp only [List.all_cons, List.all_nil, hd, hw, haccess, hclass, hva, hpa, hn, hpos, hmax, hend, harea, hhub, hgroup, hslot, hover, hroom, ne_eq,
      not_false_eq_true, decide_true, beq_self_eq_true, Bool.not_false, Bool.and_self]
  · rintro qu s sa x d g va n hx rfl rfl rfl rfl rfl hd hva hn hpos hmax hgroup
    change execUnmap qu s = _
    rw [execUnmap, admin_row hx rfl, checks_ok]
    simp only [List.all_cons, List.all_nil, hd, hva, hn, hpos, hmax, hgroup, decide_true, beq_self_eq_true, Bool.and_self]

end Sys2Proof.Machine
end

section
/-! SUPPORT. An OS core's writes to a mailbox pair (R340, R344, R397), and the commands on key slots and reports, when their checks hold (R489, R492). -/
namespace Sys2Proof.Machine

/-- An OS core's write to a mailbox pair is taken while the module is in service. -/
theorem mailboxWrite_condition {s : State} {mb : Nat} (hserv : inService s = true) (hmb : mb < 32) : (inService s && decide (mb < 32)) = true := by
  simp only [hserv, hmb, decide_true, Bool.and_self]

/-- Settles O34: an OS core's write has one condition (`mailboxWrite_condition`); each command is its row's next one (`admin_row`) and passes the
checks of its body (`checks_ok`). ACTION picks between the two rows of KEY_SLOT. -/
theorem mailboxesAndKeys : Obligations.MailboxesAndKeys := by
  refine ⟨?_, ?_, ?_, ?_, ?_, ?_⟩
  · intro mb v s hserv hmb
    exact evt_of_true (mailboxWrite_condition hserv hmb)
  · intro mb v s hserv hmb
    exact evt_of_true (mailboxWrite_condition hserv hmb)
  · intro mb v s hserv hmb
    exact evt_of_true (mailboxWrite_condition hserv hmb)
  · rintro qu s sa x hx haction rfl hok
    change execKeySlotLoad qu s = _
    rw [execKeySlotLoad, admin_row hx (by simp only [bne_iff_ne.2 haction])]
    refine congrArg Host.Outcome.next (checks_ok ?_)
    simp only [List.all_cons, List.all_nil, hok, Bool.and_self]
  · rintro qu s sa x hx haction rfl hok hused
    change execKeySlotClear qu s = _
    rw [execKeySlotClear, admin_row hx (by simp only [haction, beq_self_eq_true]), checks_ok]
    simp only [List.all_cons, List.all_nil, hok, hused, Bool.not_false, Bool.and_self]
  · rintro qu spoil flashFail s sa x d a cert hx rfl rfl rfl rfl hd hflags halign harea
    change execAttest qu spoil flashFail s = _
    rw [execAttest, admin_row hx rfl]
    refine congrArg Host.Outcome.next (checks_ok ?_)
    simp only [List.all_cons, List.all_nil, hd, hflags, halign, harea, decide_true, beq_self_eq_true, Bool.and_self]

end Sys2Proof.Machine
end

section
/-! SUPPORT. Every command answers a next state. Most are an event, whose condition decides whether it occurs; others first find the unit or the
request that they name, and leave the state as it is when there is none (log 1). -/
namespace Sys2Proof.Machine

/-- A row of the admin queues answers whether or not a command is its next one. -/
theorem adminRow_completes (qu op : Nat) (mine : Cmd → Bool) (body : Cmd → State → State) (s : State) : Completes (adminRow qu op mine body s) := by
  unfold adminRow
  split <;> exact ⟨_, rfl⟩

/-- A row of the work queues answers whether or not a command is its next one. -/
theorem workRow_completes (qu op : Nat) (body : Cmd → State → State) (s : State) : Completes (workRow qu op body s) := by
  unfold workRow
  split <;> exact ⟨_, rfl⟩

/-- Every command answers a next state: the rows that look something up are taken apart by what they find, those of a queue go by their queue's
row, and every other row is its event. -/
theorem exec_completes (i : Instr) (s : State) : Completes (exec i s) := by
  cases i
  -- Commands that look one thing up.
  case arrayQueueRoom | arrayCommandStart | arrayTileEnd | arrayCommandDone | ringSlotForward | ringTimeout | stookEnd | lockRepoll |
    loadDataReturn | pfrBind | bulkOpComplete | keyRequestTimeout | granaryRead | fillReturn | fillResume | reductionComplete | carveWalkSet |
    pinEngineRequest | bounce | inboxWaitTimeout | multicast | mcastBlockTimeout | guestRequest | guestResponse | guestResponseTimeout |
    lpddrReadReturn | crcRetry | lpddrRequestTimeout | commandTimeout | commandReadTimeout | commandDecide | runStart | redispatch |
    drillRetransmit | drillPendingTimeout | roceAckTimeout | tftpBlockTimeout | tftpBlockReceive | wakeGrant | wakeForced | retryLaterReissue |
    alarmClose =>
    dsimp only [exec, execArrayQueueRoom, execArrayCommandStart, execArrayTileEnd, execArrayCommandDone, execRingSlotForward, execRingTimeout,
      execStookEnd, execLockRepoll, execLoadDataReturn, execPfrBind, execBulkOpComplete, execKeyRequestTimeout, execGranaryRead, execFillReturn,
      execFillResume, execReductionComplete, execCarveWalkSet, execPinEngineRequest, execBounce, execInboxWaitTimeout, execMulticast,
      execMcastBlockTimeout, execGuestRequest, execGuestResponse, execGuestResponseTimeout, execLpddrReadReturn, execCrcRetry,
      execLpddrRequestTimeout, execCommandTimeout, execCommandReadTimeout, execCommandDecide, execRunStart, execRedispatch, execDrillRetransmit,
      execDrillPendingTimeout, execRoceAckTimeout, execTftpBlockTimeout, execTftpBlockReceive, execWakeGrant, execWakeForced,
      execRetryLaterReissue, execAlarmClose]
    split <;> exact ⟨_, rfl⟩
  -- Commands that look a second thing up with the first.
  case stookWatchdog | lockTimeout | bulkOpStart | granaryStore | reductionAdmit | pinComplete | launchFlagsFreed =>
    dsimp only [exec, execStookWatchdog, execLockTimeout, execBulkOpStart, execGranaryStore, execReductionAdmit, execPinComplete,
      execLaunchFlagsFreed]
    split
    · exact ⟨_, rfl⟩
    · split <;> exact ⟨_, rfl⟩
  -- And a third.
  case ringPanelAccept | stookStart | sampleService | rowTimeout | runEnded =>
    dsimp only [exec, execRingPanelAccept, execStookStart, execSampleService, execRowTimeout, execRunEnded]
    split
    · exact ⟨_, rfl⟩
    · split
      · exact ⟨_, rfl⟩
      · split <;> exact ⟨_, rfl⟩
  case faultResolve q c sl =>
    dsimp only [exec, execFaultResolve]
    split
    · split <;> exact ⟨_, rfl⟩
    · exact ⟨_, rfl⟩
  case keyDelivery q c launch =>
    dsimp only [exec, execKeyDelivery]
    split <;> split <;> exact ⟨_, rfl⟩
  case hello | goodbye | groupSet | groupSetDelete | queueCreate | queueResume | queuePause | queueDelete | map | unmap | contextCreate |
    contextDestroy | contextReseed | contextQuery | homingSet | granaryCarve | plotCreate | plotDelete | granaryPin | granaryUnpin | memQos |
    gleanerSet | selftestSet | coreRetest | hedgerowRule | guestRetrain | keySlotLoad | keySlotClear | attest =>
    dsimp only [exec, execHello, execGoodbye, execGroupSet, execGroupSetDelete, execQueueCreate, execQueueResume, execQueuePause, execQueueDelete,
      execMap, execUnmap, execContextCreate, execContextDestroy, execContextReseed, execContextQuery, execHomingSet, execGranaryCarve,
      execPlotCreate, execPlotDelete, execGranaryPin, execGranaryUnpin, execMemQos, execGleanerSet, execSelftestSet, execCoreRetest,
      execHedgerowRule, execGuestRetrain, execKeySlotLoad, execKeySlotClear, execAttest]
    exact adminRow_completes ..
  case launch | copy | mark =>
    dsimp only [exec, execLaunch, execCopy, execMark]
    exact workRow_completes ..
  all_goals exact ⟨_, rfl⟩

end Sys2Proof.Machine
end

section
/-! SUPPORT. What one step does: it takes the front command from the queue, or lets the clock count modulo 2^96, and what it leaves of fuses and time
(R457, R476, log 1). -/
namespace Sys2Proof.Machine

/-! ## The queue -/

/-- A step with a command waiting is that command on the queue's rest. -/
theorem step_of_front {s : State} {c : Instr} {rest : List Instr} (h : s.pending = c :: rest) : step s = exec c { s with pending := rest } := by
  simp only [step, h]

/-- A step answers a next state and takes the front command from the queue. -/
theorem step_takes_front (s : State) : ∃ t, step s = .next t ∧ t.pending = s.pending.tail := by
  cases hqueue : s.pending with
  | nil =>
    refine ⟨if s.clk.pllLocked then tick s else s, by simp only [step, hqueue], ?_⟩
    split
    · rw [tick_pending, hqueue, List.tail_nil]
    · rw [hqueue, List.tail_nil]
  | cons c rest =>
    obtain ⟨t, ht⟩ := exec_completes c { s with pending := rest }
    exact ⟨t, (step_of_front hqueue).trans ht, (exec_keeps c _ (keepsRefl _) t ht).pending⟩

/-- Settles O45: the front command on the queue's rest (`step_of_front`), and a table without bits decodes no word. -/
theorem stepRunsFront : Obligations.StepRunsFront :=
  ⟨fun _ _ _ => step_of_front, fun _ _ _ => ⟨rfl, rfl⟩⟩

/-- Settles O47: every command answers (`exec_completes`), and what it answers keeps the queue (`exec_keeps`). -/
theorem everyCommandCompletes : Obligations.EveryCommandCompletes := by
  refine ⟨fun i s => ?_, step_takes_front⟩
  obtain ⟨t, ht⟩ := exec_completes i s
  exact ⟨t, ht, (exec_keeps i s (keepsRefl s) t ht).pending⟩

/-! ## The clock -/

/-- A count of 64 and a fraction of 32 bits, as one number, advance modulo 2^96. -/
theorem count_add_inc (tb : W64) (frac : W32) (inc : Nat) :
    (tb + BitVec.ofNat 64 ((frac.toNat + inc) / 2 ^ 32)).toNat * 2 ^ 32 + (BitVec.ofNat 32 (frac.toNat + inc)).toNat =
      (tb.toNat * 2 ^ 32 + frac.toNat + inc) % 2 ^ 96 := by
  simp only [BitVec.toNat_add, BitVec.toNat_ofNat]
  omega

/-- Settles O46: a step with an empty queue is a tick once the PLL has locked, and a tick adds INC (`count_add_inc`). -/
theorem idleTick : Obligations.IdleTick := by
  refine ⟨fun s hempty hlocked => ⟨tick s, ?_, count_add_inc _ _ _, rfl⟩, fun s hempty hunlocked => ?_⟩
  · simp only [step, hempty, hlocked, if_true]
  · simp only [step, hempty, hunlocked, Bool.false_eq_true, if_false]

/-- Settles O50: each command keeps (`exec_keeps`), and the relation speaks of the time base. -/
theorem timeNeverFallsBack : Obligations.TimeNeverFallsBack :=
  fun i s t h => (exec_keeps i s (keepsRefl s) t h).time

/-! ## The fuses -/

/-- The tick moves no fuse, and neither does a command taken from the queue; each command only blows fuses (`exec_keeps`). -/
theorem step_fuses_le {s t : State} (h : step s = .next t) : s.fuse.Le t.fuse :=
  step_invariant (P := fun x => s.fuse.Le x.fuse) (fun _ _ hle => hle) (fun _ hle => hle) (fun _ _ k hle => hle.trans k.fuse) h (Fuses.Le.refl _)

/-- Settles O48, since a step only blows fuses (`step_fuses_le`). -/
theorem fusesOnlyBlown : Obligations.FusesOnlyBlown := fun _ _ => step_fuses_le

end Sys2Proof.Machine
end

section
/-! SUPPORT. The ports, their frames and host rings, and the time references, when their commands' conditions hold (R386 to R391, R395, R401,
R404, R408, R409). -/
namespace Sys2Proof.Machine

/-- Settles O36: the hypotheses of each clause are the condition of its command, and its next state is the one of its row. That FRAME_RECEIVE
carries the fill of the receive buffer and only classifies a frame for an engine, and that PTP locks at its second message, is log 29. -/
theorem portsServe : Obligations.PortsServe := by
  refine ⟨?_, ?_, ?_, ?_, ?_, ?_, ?_, ?_, ?_, ?_, ?_, ?_, ?_, ?_, ?_, ?_⟩
  · rintro p s hport htraining haged
    exact evt_of_true (by simp only [hport, htraining, haged, decide_true, Bool.and_self])
  · rintro s htraining haged
    exact evt_of_true (by simp only [htraining, haged, Bool.and_self])
  · rintro p s hport htraining
    exact evt_of_true (by simp only [hport, htraining, decide_true, Bool.and_self])
  · rintro p s x rfl hport htraining halarmed haged
    exact evt_of_true (by simp only [hport, htraining, halarmed, haged, decide_true, Bool.not_false, Bool.and_self])
  · rintro p uncorr s hport hup
    exact evt_of_true (by simp only [hport, hup, decide_true, Bool.and_self])
  · rintro p frame s hport hup hlength
    exact evt_of_true (by simp only [hport, hup, hlength, decide_true, Bool.and_self])
  · rintro p prio pause s x y rfl rfl hport hprio hup
    exact evt_of_true (by simp only [hport, hprio, hup, decide_true, Bool.and_self])
  · rintro p prio s x rfl hport hup hheld
    exact evt_of_true (by simp only [hport, hup, hheld, decide_true, Bool.and_self])
  · rintro p r v s hserv hport hring
    exact evt_of_true (by simp only [hserv, hport, hring, decide_true, Bool.and_self])
  · rintro p r s x a d len m frame prio rfl rfl rfl rfl rfl hframe hprio hserv hport hmin hmax hup hon hwaiting hpause
    -- A substitution evaluates the right side of its equation, here a read of memory: these two are turned around.
    obtain rfl := hframe.symm
    obtain rfl := hprio.symm
    exact evt_of_true (by simp only [hserv, hport, hmin, hmax, hup, hon, bne_iff_ne.2 hwaiting, hpause, decide_true, Bool.and_self])
  · rintro off v s hserv hoff halign
    exact evt_of_true (by simp only [hserv, hoff, halign, decide_true, beq_self_eq_true, Bool.and_self])
  · rintro off v s hserv hoff halign
    exact evt_of_true (by simp only [hserv, hoff, halign, decide_true, beq_self_eq_true, Bool.and_self])
  · rintro p ptp rate s f st far off rfl rfl rfl rfl hruns hsource rfl hup
    exact evt_of_true (by simp only [hruns, hsource, hup, beq_self_eq_true, Bool.and_self])
  · rintro s hsource hstate hheld
    exact evt_of_true (by simp only [hsource, hstate, hheld, Bool.and_self])
  · rintro s f s1 rfl rfl hruns
    exact evt_of_true hruns
  · rintro s hok hheld
    exact evt_of_true (by simp only [hok, hheld, Bool.and_self])

end Sys2Proof.Machine
end

section
/-! SUPPORT. Frames of a drill connection, CONNECT and the connections' timers, when their commands' conditions hold (R392 to R400, R496, R497). -/
namespace Sys2Proof.Machine

/-- An authentic frame of an open connection reaches the effect of its type. -/
theorem withFrame_of_conn {typ : Nat} {frame : List Byte} {f : Frame → Conn → State → State} {s : State} {x : Frame} {c : Conn}
    (hserv : inService s = true) (htype : fld frame 1 1 = typ) (hopen : frameOpen s frame = some x)
    (hconn : connOf (frameIn x s) x.conn = some c) : withFrame typ frame f s = .next (f x c (frameIn x s)) := by
  simp only [withFrame, hopen, hconn]
  exact evt_of_true (by simp only [hserv, htype, decide_true, Bool.and_self])

/-- Settles O37: a frame of a connection reaches its effect (`withFrame_of_conn`); CONNECT passes its checks one after the other; a timer acts
on the connection that it names. -/
theorem drillFramesAct : Obligations.DrillFramesAct := by
  refine ⟨?_, ?_, ?_, ?_, ?_, ?_, ?_, ?_, ?_⟩
  · rintro frame s t x c hserv htype hopen rfl hconn
    exact withFrame_of_conn hserv htype hopen hconn
  · rintro frame s t x c hserv htype hopen rfl hconn
    exact withFrame_of_conn hserv htype hopen hconn
  · rintro frame s t x c hserv htype hopen rfl hconn
    change execDrillAck frame s = _
    rw [execDrillAck, withFrame_of_conn hserv htype hopen hconn]
  · rintro frame s t x c hserv htype hopen rfl hconn
    change execDrillNak frame s = _
    rw [execDrillNak, withFrame_of_conn hserv htype hopen hconn]
  · rintro frame s t x c hserv htype hopen rfl hconn
    change execDrillSack frame s = _
    rw [execDrillSack, withFrame_of_conn hserv htype hopen hconn]
  · rintro frame s t x c hserv htype hopen rfl hconn
    change execClose frame s = _
    rw [execClose, withFrame_of_conn hserv htype hopen hconn]
  · rintro peer v4 msg s e ver pay hserv htype hbest rfl hform hroom hversion hkey hauth
    obtain ⟨⟨hbound, hlive⟩, hpending⟩ : (_ ∧ _) ∧ _ := by simpa only [Bool.or_eq_false_iff] using hroom
    change execConnect peer v4 msg s = _
    simp only [execConnect, hbest, hform, hbound, hlive, hpending, hversion, hkey, hauth, Bool.not_true, Bool.or_self, Bool.false_eq_true, if_false]
    exact evt_of_true (by simp only [hserv, htype, decide_true, Bool.and_self])
  · rintro conn flow s c f l f1 hconn rfl rfl rfl hunacked haged
    change execDrillRetransmit conn flow s = _
    simp only [execDrillRetransmit, hconn]
    exact evt_of_true (by simp only [hunacked, haged, Bool.not_false, Bool.and_self])
  · rintro conn s c hconn hheld
    change execDrillPendingTimeout conn s = _
    simp only [execDrillPendingTimeout, hconn]
    exact evt_of_true hheld

end Sys2Proof.Machine
end

section
/-! SUPPORT. RoCE messages, acknowledgments and timers, when their commands' conditions hold (R402, R403). -/
namespace Sys2Proof.Machine

/-- Settles O38: the hypotheses of each clause are the condition of its command. ROCE_ACK_TIMEOUT looks at the timer of a receiver that was
not ready first. That recovery gives back an eighth of the full rate, and that a PSN behind is a duplicate and one ahead an error, is log 25. -/
theorem roceMessagesAct : Obligations.RoceMessagesAct := by
  refine ⟨?_, ?_, ?_, ?_, ?_, ?_, ?_, ?_⟩
  · rintro qp psn rkey va data s hserv hready
    exact evt_of_true (by simp only [hserv, hready, Bool.and_self])
  · rintro qp psn rkey va len s hserv hready
    exact evt_of_true (by simp only [hserv, hready, Bool.and_self])
  · rintro p qp psn data s x d s1 rfl rfl rfl hserv hready hup hport
    exact evt_of_true (by simp only [hserv, hready, hup, hport, decide_true, Bool.and_self])
  · rintro qp s x rfl hready
    exact evt_of_true hready
  · rintro qp s x rfl hready hrate haged
    exact evt_of_true (by simp only [hready, hrate, haged, decide_true, Bool.and_self])
  · rintro qp kind psn s x p left y rfl rfl rfl rfl hready hsends
    have hwaits : (qpReady s qp && !(s.qp qp).sends.isEmpty) = true := by simp only [hready, hsends, Bool.not_false, Bool.and_self]
    refine (evt_of_true hwaits).trans (congrArg Host.Outcome.next ?_)
    match kind with
    | 0 => rfl
    | 1 => rfl
    | _ + 2 => rfl
  · rintro qp s x rfl hready hrnr
    change execRoceAckTimeout qp s = _
    rw [execRoceAckTimeout, if_pos hrnr]
    exact evt_of_true hready
  · rintro qp s x rfl hready hrnr htimer
    change execRoceAckTimeout qp s = _
    rw [execRoceAckTimeout, if_neg (Bool.eq_false_iff.1 hrnr)]
    exact evt_of_true (by simp only [hready, htimer, Bool.and_self])

end Sys2Proof.Machine
end

section
/-! SUPPORT. The log, alarms, telemetry, traces and counter snapshots, when their commands' conditions hold (R407, R501 to R513). -/
namespace Sys2Proof.Machine

/-- Settles O39: the hypotheses of each clause are the condition of its command, and ALARM_CLOSE finds the alarm that it names. That
ALARM_RESEND and COUNTER_SNAPSHOT act once a whole second is log 23. -/
theorem logsAlarmsAndTelemetryRun : Obligations.LogsAlarmsAndTelemetryRun := by
  refine ⟨?_, ?_, ?_, ?_, ?_, ?_, ?_, ?_, ?_, ?_⟩
  · rintro sev src code payload s hcode
    exact evt_of_true hcode
  · rintro s hruns hwaiting
    exact evt_of_true (by simp only [hruns, hwaiting, Bool.and_self])
  · rintro code src detail s hmin hmax
    exact evt_of_true (by simp only [hmin, hmax, decide_true, Bool.and_self])
  · rintro s hsecond
    exact evt_of_true hsecond
  · rintro i s a hfound hopen haged
    change execAlarmClose i s = _
    simp only [execAlarmClose, hfound]
    exact evt_of_true (by simp only [hopen, haged, Bool.not_false, Bool.and_self])
  · rintro s hup
    exact evt_of_true (beq_iff_eq.2 hup)
  · rintro kind s hruns hcollector
    exact evt_of_true (by simp only [hruns, hcollector, Bool.and_self])
  · rintro coll typ src data s key n s1 rfl rfl rfl hcoll hmin hmax henabled hstopped
    exact evt_of_true (by simp only [hcoll, hmin, hmax, henabled, hstopped, decide_true, Bool.not_false, Bool.and_self])
  · rintro v s hstep hlost
    exact evt_of_true (by simp only [hstep, hlost, beq_self_eq_true, Bool.not_false, Bool.and_self])
  · rintro s hsecond
    exact evt_of_true hsecond

end Sys2Proof.Machine
end

section
/-! SUPPORT. Input power, domains, the power manager, fallow and wakes, when their commands' conditions hold (R412 to R433). -/
namespace Sys2Proof.Machine

/-- Settles O41: the hypotheses of each clause are the condition of its command, and a wake is the one that its command finds. That domain 67
names the quarter bus, and that a forced wake's segment cap holds for 2 µs, is log 26. -/
theorem powerIsManaged : Obligations.PowerIsManaged := by
  refine ⟨?_, ?_, ?_, ?_, ?_, ?_, ?_, ?_, ?_, ?_, ?_, ?_, ?_, ?_, ?_, ?_, ?_, ?_⟩
  · rintro reports current s
    rfl
  · rintro s haux hband hinput
    exact evt_of_true (by simp only [haux, hband, hinput, beq_self_eq_true, Bool.and_self])
  · rintro buses s t rfl hprecharge hlength hbuses
    exact evt_of_true (by simp only [hprecharge, hlength, hbuses, beq_self_eq_true, Bool.and_self])
  · rintro mv s up rfl hchange
    exact evt_of_true (bne_iff_ne.2 hchange)
  · rintro sc s hsc hlost hworks
    exact evt_of_true (by simp only [hsc, hlost, hworks, decide_true, Bool.not_false, Bool.and_self])
  · rintro q d ma s x down up rfl rfl rfl hquarter hdue
    exact evt_of_true (Bool.and_eq_true_iff.2 ⟨decide_eq_true hquarter, hdue⟩)
  · rintro q d sensor mv s x m lower rfl rfl rfl hquarter hdomain hsensor hmv hvset hlower
    have hreading : (decide (q < 4) && decide (d < 67) && decide (sensor < domainSensors d) && decide (mv < 1024) &&
        decide ((s.domain q d).vset ≠ 0)) = true := by
      simp only [hquarter, hdomain, hsensor, hmv, hvset, ne_eq, not_false_eq_true, decide_true, Bool.and_self]
    exact evt_of_true (Bool.and_eq_true_iff.2 ⟨hreading, hlower⟩)
  · rintro q d s x rfl hquarter hdomain
    exact evt_of_true (by simp only [hquarter, hdomain, decide_true, Bool.and_self])
  · rintro power demand s hlost hlocked
    exact evt_of_true (by simp only [hlost, hlocked, Bool.not_false, Bool.and_self])
  · rintro avg s o rfl hruns
    exact evt_of_true hruns
  · rintro asserted s haux hchange
    exact evt_of_true (by simp only [haux, bne_iff_ne.2 hchange, Bool.and_self])
  · rintro s hlost hheld halarmed
    exact evt_of_true (by simp only [hlost, hheld, halarmed, Bool.not_false, Bool.and_self])
  · rintro q c fs s n k rfl rfl hcore hfitted hruns hstate hfallow rfl hdrained hwaiting hwaking htesting
    exact evt_of_true (by simp only [hcore, hfitted, hruns, hstate, hfallow, hdrained, hwaiting, hwaking, htesting, decide_true, beq_self_eq_true,
      Bool.not_false, Bool.and_self])
  · rintro q c s hcore hserv
    exact evt_of_true (by simp only [hcore, hserv, beq_self_eq_true, Bool.and_self])
  · rintro q ma s w hfound hquarter hcurrent
    change execWakeGrant q ma s = _
    simp only [execWakeGrant, hfound]
    exact evt_of_true (by simp only [hquarter, hcurrent, decide_true, Bool.and_self])
  · rintro q c cap s n w a s1 rfl hfound rfl rfl hcore hmin hmax haged
    change execWakeForced q c cap s = _
    simp only [execWakeForced, hfound]
    exact evt_of_true (by simp only [hcore, hmin, hmax, haged, decide_true, Bool.and_self])
  · rintro q c rows other s n rfl hcore hfitted hheld
    exact evt_of_true (by simp only [hcore, hfitted, hheld, Bool.and_self])
  · rintro q t s d x y s1 rfl rfl rfl rfl hquarter htine hlost hworks hdark
    exact evt_of_true (by simp only [hquarter, htine, hlost, hworks, hdark, decide_true, Bool.not_false, Bool.and_self])

end Sys2Proof.Machine
end

section
/-! SUPPORT. Housekeeping rounds, the pace sensors, limits and trips, when their commands' conditions hold (R436 to R450). -/
namespace Sys2Proof.Machine

/-- Settles O42: the hypotheses of each clause are the condition of its command. That a round ends once a whole millisecond, the first one of a
new second with the second of R446, and which missing rounds count, is log 30. -/
theorem heatIsManaged : Obligations.HeatIsManaged := by
  refine ⟨?_, ?_, ?_, ?_, ?_, ?_⟩
  · rintro s t rfl hruns hdue
    exact evt_of_true (by simp only [hruns, hdue, decide_true, Bool.and_self])
  · rintro q temps minv volts amps tines s hunit hruns harrived hintime
    exact evt_of_true (by simp only [hunit, hruns, harrived, hintime, decide_true, Bool.not_false, Bool.and_self])
  · rintro q s t n s1 s2 rfl rfl rfl rfl hquarter hruns harrived hlate hreset hfenced
    exact evt_of_true (by simp only [hquarter, hruns, harrived, hlate, bne_iff_ne.2 hreset, bne_iff_ne.2 hfenced, decide_true, Bool.not_false,
      Bool.and_self])
  · rintro q c s n k rfl rfl hcore hfitted hruns hlevel hlimit haged
    exact evt_of_true (by simp only [hcore, hfitted, hruns, hlevel, hlimit, haged, decide_true, Bool.and_self])
  · rintro q s k hot rfl rfl hquarter hruns htripped hheld hhot hrails
    have htrip : (decide (q < 4) && pelsesoRuns s && (s.quarter q).tripHold.isSome && heldFor s (s.quarter q).trips.getLast? (100 * ms)) = true := by
      simp only [hquarter, hruns, htripped, hheld, decide_true, Bool.and_self]
    exact evt_of_true (Bool.and_eq_true_iff.2 ⟨Bool.and_eq_true_iff.2 ⟨htrip, hhot⟩, by rw [hrails]; rfl⟩)
  · rintro q c count mv s n t rfl rfl hcore hfitted hruns hawake hring
    exact evt_of_true (by simp only [hcore, hfitted, hruns, hawake, hring, decide_true, Bool.not_false, Bool.and_self])

end Sys2Proof.Machine
end

section
/-! SUPPORT. The reference and the loops, and the resets of cores, clusters, quarters and the module, when their commands' conditions hold
(R454 to R471). -/
namespace Sys2Proof.Machine

/-- Settles O43: the hypotheses of each clause are the condition of its command, and RETRY_LATER_REISSUE finds the request that it names. The
two phases of HARROW_WAVE, the stacks that sleep at HEADLAND_END, the trip that holds a base die's reset and MOD_RESET_N in boot are log 30. -/
theorem resetsRun : Obligations.ResetsRun := by
  refine ⟨?_, ?_, ?_, ?_, ?_, ?_, ?_, ?_, ?_, ?_, ?_, ?_, ?_, ?_, ?_, ?_⟩
  · rintro dev missed s c ppm due bad good c1 rfl rfl rfl rfl rfl rfl hlocked hdue
    exact evt_of_true (by simp only [hlocked, hdue, Bool.and_self])
  · rintro q cd s hquarter hmin hmax hruns hlocked
    exact evt_of_true (by simp only [hquarter, hmin, hmax, hruns, hlocked, decide_true, Bool.not_false, Bool.and_self])
  · rintro q s lag next rfl rfl hquarter hlocked hstate hwhole
    exact evt_of_true (by simp only [hquarter, hlocked, hstate, hwhole, decide_true, beq_self_eq_true, Bool.and_self])
  · rintro q c s n rfl hcore hfitted hruns haway hawake
    exact evt_of_true (by simp only [hcore, hfitted, hruns, haway, hawake, decide_true, Bool.not_false, Bool.and_self])
  · rintro q k s hquarter hcluster hruns hstate
    exact evt_of_true (by simp only [hquarter, hcluster, hruns, hstate, decide_true, Bool.and_self])
  · rintro q c s n rfl hcore hfitted hserv
    exact evt_of_true (by simp only [hcore, hfitted, hserv, Bool.and_self])
  · rintro q stay s hquarter hruns
    exact evt_of_true (by simp only [hquarter, hruns, decide_true, Bool.and_self])
  · rintro q s k s2 rfl rfl hquarter hstate hended haged
    exact evt_of_true (by simp only [hquarter, hstate, hended, haged, decide_true, beq_self_eq_true, Bool.not_false, Bool.and_self])
  · rintro q rise s k cool rfl rfl hquarter hstate hended hasleep hrise hcool hrails
    exact evt_of_true (by simp only [hquarter, hstate, hended, hasleep, hrise, hcool, hrails, decide_true, beq_self_eq_true, Bool.not_false,
      Bool.and_self])
  · rintro q ok s k late rfl rfl hquarter hruns hstate hstep
    exact evt_of_true (by simp only [hquarter, hruns, hstate, hstep, decide_true, Bool.and_self])
  · rintro i s r hfound hheld
    change execRetryLaterReissue i s = _
    simp only [execRetryLaterReissue, hfound]
    exact evt_of_true hheld
  · rintro q wv fails settled s k rfl hquarter hmax hruns hstate hstep rfl
    exact evt_of_true (by simp only [hquarter, hmax, hruns, hstate, hstep, decide_true, beq_self_eq_true, Bool.and_self])
  · rintro s s1 rfl hruns
    exact evt_of_true hruns
  · rintro s hruns hheld
    exact evt_of_true (by simp only [hruns, hheld, Bool.and_self])
  · rintro asserted s b s1 rfl rfl haux hchange
    exact evt_of_true (by simp only [haux, bne_iff_ne.2 hchange, Bool.and_self])
  · rintro s hruns hdraining hheld
    exact evt_of_true (by simp only [hruns, hdraining, hheld, Bool.and_self])

end Sys2Proof.Machine
end

section
/-! SUPPORT. The steps of the boot, recovery, fuses and entropy, when their commands' conditions hold (R405 to R407, R457, R473 to R491). -/
namespace Sys2Proof.Machine

/-- Settles O44: the hypotheses of each clause are the condition of its command, and the transfer of an image is the one under way. The
sampling of the recovery pin, fuses blown once a boot and the form of DHCP and TFTP frames are log 29; the boot key's value is free (log 2). -/
theorem bootRuns : Obligations.BootRuns := by
  refine ⟨?_, ?_, ?_, ?_, ?_, ?_, ?_, ?_, ?_, ?_, ?_, ?_, ?_, ?_⟩
  · rintro ok s c c1 s1 rfl rfl rfl hstep hreset hlost
    exact evt_of_true (by simp only [hstep, hreset, hlost, beq_self_eq_true, Bool.not_false, Bool.and_self])
  · rintro asserted s win rfl haux hchange
    exact evt_of_true (by simp only [haux, bne_iff_ne.2 hchange, Bool.and_self])
  · rintro s hstep
    exact evt_of_true (beq_iff_eq.2 hstep)
  · rintro s m due rfl rfl hstep hup hendpoint hidle hdue
    have hready : (s.boot.step == 8 && portUp s 8 && s.mgmt.recovery.isSome && s.mgmt.fetch.isNone) = true := by
      simp only [hstep, hup, hendpoint, hidle, beq_self_eq_true, Bool.and_self]
    exact evt_of_true (Bool.and_eq_true_iff.2 ⟨hready, hdue⟩)
  · rintro block data wrong s m n tries since rfl hfetch hstep rfl hlength
    change execTftpBlockReceive (n % 65536) data wrong s = _
    simp only [execTftpBlockReceive, hfetch]
    exact evt_of_true (by simp only [hstep, hlength, decide_true, beq_self_eq_true, Bool.and_self])
  · rintro s m n k t rfl hfetch hstep haged
    change execTftpBlockTimeout s = _
    simp only [execTftpBlockTimeout, hfetch]
    exact evt_of_true (by simp only [hstep, haged, beq_self_eq_true, Bool.and_self])
  · rintro s m last rfl rfl hruns hdue
    exact evt_of_true (by simp only [hruns, hdue, decide_true, Bool.and_self])
  · rintro addr opt43 s hruns
    exact evt_of_true hruns
  · rintro src port bytes s from_ rfl hserv hup hfrom
    exact evt_of_true (Bool.and_eq_true_iff.2 ⟨by simp only [hserv, hup, Bool.and_self], hfrom⟩)
  · rintro partly s fl rv bad floor' rev' s1 rfl rfl rfl rfl rfl rfl hruns hblown
    exact evt_of_true (by simp only [hruns, hblown, Bool.not_false, Bool.and_self])
  · rintro s d rfl hruns hkey hentropy
    exact evt_of_true (by simp only [hruns, hkey, hentropy, Bool.and_self])
  · rintro s hruns
    exact evt_of_true hruns
  · rintro s hruns
    exact evt_of_true hruns
  · rintro s ready rfl hstep hlost hready
    exact evt_of_true (Bool.and_eq_true_iff.2 ⟨by simp only [hstep, hlost, beq_self_eq_true, Bool.not_false, Bool.and_self], hready⟩)

end Sys2Proof.Machine
end
